-- ==== Sys2Proof/Word.lean ====
section
/-! DEFINITION. The word types and their plainest arithmetic. -/

namespace Sys2Proof

/-- A byte. -/
abbrev Byte := BitVec 8

/-- A 64-bit register value (R13). -/
abbrev Word := BitVec 64

/-- A vector register: 16,384 bytes, the most one register holds (16 lane groups at D = 1, R132). -/
abbrev VReg := BitVec 131072

/-- One row of a tile: 16,384 FP32 values (R172). -/
abbrev TileRow := BitVec 524288

/-- Integer to word, modulo 2^64. -/
def Word.ofInt (z : Int) : Word := BitVec.ofInt 64 z

/-- 1 or 0. -/
def Word.ofBool (b : Bool) : Word := if b then 1 else 0

end Sys2Proof
end

