-- ==== Sys2Proof/Syntax.lean ====
section
/-! DEFINITION. The instructions of Grihild: one constructor for each row of the opcode table. A word with an encoding carries the
raw values of its fields (R34, R35); which values are legal is said in WellFormed. The constructors with fields stand first, then the
words without fields, then the 56 machine events, whose inputs stand in the state (`Machine.Input`). -/

namespace Sys2Proof

/-- A register number, 0 to 31 (R34). -/
abbrev Reg := Fin 32

/-- Fields: destination only. -/
structure OpD where
  d : Reg
  deriving DecidableEq, Repr

/-- Fields: destination and one source. -/
structure OpDS where
  d : Reg
  s1 : Reg
  deriving DecidableEq, Repr

/-- Fields: R format: destination and two sources (R35). -/
structure OpDSS where
  d : Reg
  s1 : Reg
  s2 : Reg
  deriving DecidableEq, Repr

/-- Fields: one source. -/
structure OpS where
  s1 : Reg
  deriving DecidableEq, Repr

/-- Fields: two sources. -/
structure OpSS where
  s1 : Reg
  s2 : Reg
  deriving DecidableEq, Repr

/-- Fields: scalar floating point, two sources (R38). -/
structure OpFp3 where
  d : Reg
  s1 : Reg
  s2 : Reg
  fmt : Fin 4
  rm : Fin 8
  deriving DecidableEq, Repr

/-- Fields: scalar floating point, one source (R38). -/
structure OpFp2 where
  d : Reg
  s1 : Reg
  fmt : Fin 4
  rm : Fin 8
  deriving DecidableEq, Repr

/-- Fields: FMIN and FMAX (R38). -/
structure OpFpMin where
  d : Reg
  s1 : Reg
  s2 : Reg
  fmt : Fin 4
  deriving DecidableEq, Repr

/-- Fields: FCMP: the condition stands in rm (R38). -/
structure OpFpCmp where
  d : Reg
  s1 : Reg
  s2 : Reg
  fmt : Fin 4
  cond : Fin 8
  deriving DecidableEq, Repr

/-- Fields: scalar conversions: ty is the target format or the integer type (R38). -/
structure OpFpCvt where
  d : Reg
  s1 : Reg
  ty : Fin 4
  fmt : Fin 4
  rm : Fin 8
  deriving DecidableEq, Repr

/-- Fields: FMA (R37). -/
structure OpFp4 where
  d : Reg
  s1 : Reg
  s2 : Reg
  s3 : Reg
  fmt : Fin 4
  rm : Fin 8
  deriving DecidableEq, Repr

/-- Fields: I format (R36). -/
structure OpI where
  d : Reg
  s1 : Reg
  imm : Fin 32768
  deriving DecidableEq, Repr

/-- Fields: shift by immediate (R39). -/
structure OpSh where
  d : Reg
  s1 : Reg
  sh : Fin 64
  deriving DecidableEq, Repr

/-- Fields: B format: off in words (R36). -/
structure OpB where
  s1 : Reg
  s2 : Reg
  off : Fin 32768
  deriving DecidableEq, Repr

/-- Fields: J format: off in words (R36). -/
structure OpJ where
  d : Reg
  off : Fin 1048576
  deriving DecidableEq, Repr

/-- Fields: U format (R36). -/
structure OpU where
  d : Reg
  imm : Fin 1048576
  deriving DecidableEq, Repr

/-- Fields: scalar load (R36, R40). -/
structure OpLd where
  d : Reg
  s1 : Reg
  off : Fin 256
  width : Fin 4
  ord : Fin 4
  scope : Fin 8
  deriving DecidableEq, Repr

/-- Fields: scalar store (R36, R40). -/
structure OpSt where
  s1 : Reg
  s2 : Reg
  off : Fin 256
  width : Fin 4
  ord : Fin 4
  scope : Fin 8
  deriving DecidableEq, Repr

/-- Fields: AMO (R40). -/
structure OpAmo where
  d : Reg
  s1 : Reg
  s2 : Reg
  width : Fin 4
  ord : Fin 4
  scope : Fin 8
  aop : Fin 8
  deriving DecidableEq, Repr

/-- Fields: CAS (R40). -/
structure OpCas where
  d : Reg
  s1 : Reg
  s2 : Reg
  width : Fin 4
  ord : Fin 4
  scope : Fin 8
  deriving DecidableEq, Repr

/-- Fields: CSR access (R121). -/
structure OpCsr where
  d : Reg
  s1 : Reg
  csr : Fin 4096
  deriving DecidableEq, Repr

/-- Fields: hint word (R47). -/
structure OpHint where
  bits : Fin 33554432
  deriving DecidableEq, Repr

/-- Fields: LEND (R48). -/
structure OpLend where
  pmask : Fin 16
  pol : Fin 2
  dc : Reg
  dce : Fin 2
  deriving DecidableEq, Repr

/-- Fields: SETVL (R130). -/
structure OpSetvl where
  d : Reg
  s1 : Reg
  s2 : Reg
  sew : Fin 4
  group : Fin 4
  depth : Fin 4
  deriving DecidableEq, Repr

/-- Fields: SETVLI: count is the lane-group count minus one (R130). -/
structure OpSetvli where
  d : Reg
  s1 : Reg
  count : Fin 32
  sew : Fin 4
  group : Fin 4
  depth : Fin 4
  deriving DecidableEq, Repr

/-- Fields: V format, two sources; also the element-wise VM words, whose sew field is ew (R35). -/
structure OpV where
  d : Reg
  s1 : Reg
  s2 : Reg
  pm : Fin 8
  sew : Fin 4
  deriving DecidableEq, Repr

/-- Fields: V format, one source. -/
structure OpV1 where
  d : Reg
  s1 : Reg
  pm : Fin 8
  sew : Fin 4
  deriving DecidableEq, Repr

/-- Fields: V format, no source. -/
structure OpV0 where
  d : Reg
  pm : Fin 8
  sew : Fin 4
  deriving DecidableEq, Repr

/-- Fields: the moves (R170). -/
structure OpVMv where
  d : Reg
  s1 : Reg
  sew : Fin 4
  deriving DecidableEq, Repr

/-- Fields: VFCVT (R164). -/
structure OpVCvt where
  d : Reg
  s1 : Reg
  other : Fin 8
  dir : Fin 2
  pm : Fin 8
  sew : Fin 4
  deriving DecidableEq, Repr

/-- Fields: VFCVTI and VFCVTF (R164). -/
structure OpVCvtI where
  d : Reg
  s1 : Reg
  iw : Fin 4
  signed : Fin 2
  pm : Fin 8
  sew : Fin 4
  deriving DecidableEq, Repr

/-- Fields: segment load and store (R235). -/
structure OpVSeg where
  d : Reg
  s1 : Reg
  pm : Fin 8
  ew : Fin 4
  nf : Fin 8
  kind : Fin 4
  deriving DecidableEq, Repr

/-- Fields: VAMO (R237). -/
structure OpVAmo where
  d : Reg
  s1 : Reg
  s2 : Reg
  pm : Fin 8
  ew : Fin 4
  aop : Fin 8
  deriving DecidableEq, Repr

/-- Fields: VBIND (R242). -/
structure OpVBind where
  d : Reg
  s1 : Reg
  s2 : Reg
  view : Fin 8
  ew : Fin 4
  deriving DecidableEq, Repr

/-- Fields: MMA (R43). -/
structure OpMma where
  td : Fin 8
  g : Fin 4
  vA : Reg
  vB : Reg
  vS : Reg
  type : Fin 16
  acc : Fin 2
  deriving DecidableEq, Repr

/-- Fields: MZERO (R179). -/
structure OpMZero where
  td : Fin 8
  deriving DecidableEq, Repr

/-- Fields: MTOV (R181). -/
structure OpMtov where
  d : Reg
  s1 : Reg
  ts : Fin 8
  cv : Fin 4
  deriving DecidableEq, Repr

/-- Fields: MVTOT and MLOAD (R182, R183). -/
structure OpMvtot where
  td : Fin 8
  s1 : Reg
  s2 : Reg
  cv : Fin 4
  deriving DecidableEq, Repr

/-- Fields: MSTORE (R183). -/
structure OpMstore where
  s1 : Reg
  s2 : Reg
  ts : Fin 8
  cv : Fin 4
  deriving DecidableEq, Repr

/-- Fields: MMOVT (R179). -/
structure OpMmovt where
  td : Fin 8
  ts : Fin 8
  deriving DecidableEq, Repr

/-- Fields: G format (R35, R43). -/
structure OpG where
  d : Reg
  vp : Reg
  vs : Reg
  nf : Fin 2
  tb : Fin 2
  pf : Fin 2
  pm : Fin 8
  deriving DecidableEq, Repr

/-- Fields: GSTAT (R43). -/
structure OpGstat where
  d : Reg
  stage : Fin 4
  clear : Fin 2
  deriving DecidableEq, Repr

/-- Fields: FENCE (R252). -/
structure OpFence where
  fetch : Fin 2
  ord : Fin 4
  scope : Fin 8
  deriving DecidableEq, Repr

/-- Fields: QDRAIN (R254). -/
structure OpQdrain where
  set : Fin 128
  deriving DecidableEq, Repr

/-- Fields: BARRIVE and MWATCHLD (R256, R258). -/
structure OpBar where
  d : Reg
  s1 : Reg
  ord : Fin 4
  scope : Fin 8
  deriving DecidableEq, Repr

/-- Fields: BARWAIT (R256). -/
structure OpBarwait where
  d : Reg
  s1 : Reg
  s2 : Reg
  ord : Fin 4
  scope : Fin 8
  deriving DecidableEq, Repr

/-- Fields: POTINIT: policy stands in the d field (R248). -/
structure OpPotinit where
  policy : Fin 32
  s1 : Reg
  s2 : Reg
  scope : Fin 8
  deriving DecidableEq, Repr

/-- Fields: RWB, RINV and RWBINV (R263). -/
structure OpRange where
  s1 : Reg
  s2 : Reg
  scope : Fin 8
  deriving DecidableEq, Repr


/-- Every row of the opcode table. The last 56 constructors are machine events, which have no word. -/
inductive Instr where
  /-- ADD (R101): Writes xs1 + xs2 modulo 2^64 to xd. -/
  | add (o : OpDSS)
  /-- SUB (R101): Writes xs1 − xs2 modulo 2^64 to xd. -/
  | sub (o : OpDSS)
  /-- AND (R101): Writes the bitwise AND of xs1 and xs2 to xd. -/
  | and (o : OpDSS)
  /-- OR (R101): Writes the bitwise OR of xs1 and xs2 to xd. -/
  | or (o : OpDSS)
  /-- XOR (R101): Writes the bitwise XOR of xs1 and xs2 to xd. -/
  | xor (o : OpDSS)
  /-- SHL (R101): Shifts xs1 left by xs2[5:0] and writes the result to xd. -/
  | shl (o : OpDSS)
  /-- SHR (R101): Shifts xs1 right logically by xs2[5:0] and writes the result to xd. -/
  | shr (o : OpDSS)
  /-- SAR (R101): Shifts xs1 right arithmetically by xs2[5:0] and writes the result to xd. -/
  | sar (o : OpDSS)
  /-- SLT (R101): Writes 1 to xd when xs1 < xs2 as signed values, and 0 otherwise. -/
  | slt (o : OpDSS)
  /-- SLTU (R101): Writes 1 to xd when xs1 < xs2 as unsigned values, and 0 otherwise. -/
  | sltu (o : OpDSS)
  /-- MIN (R101): Writes the signed minimum of xs1 and xs2 to xd. -/
  | min (o : OpDSS)
  /-- MAX (R101): Writes the signed maximum of xs1 and xs2 to xd. -/
  | max (o : OpDSS)
  /-- MINU (R101): Writes the unsigned minimum of xs1 and xs2 to xd. -/
  | minu (o : OpDSS)
  /-- MAXU (R101): Writes the unsigned maximum of xs1 and xs2 to xd. -/
  | maxu (o : OpDSS)
  /-- MUL (R103): Writes the low 64 bits of xs1 × xs2 to xd. -/
  | mul (o : OpDSS)
  /-- MULH (R103): Writes the high 64 bits of the signed product of xs1 and xs2 to xd. -/
  | mulh (o : OpDSS)
  /-- MULHU (R103): Writes the high 64 bits of the unsigned product of xs1 and xs2 to xd. -/
  | mulhu (o : OpDSS)
  /-- DIV (R103): Writes the signed quotient of xs1 and xs2, truncated toward zero, to xd, with the fixed results for a zero divisor and for overflow. -/
  | div (o : OpDSS)
  /-- DIVU (R103): Writes the unsigned quotient of xs1 and xs2 to xd; a zero divisor gives all ones. -/
  | divu (o : OpDSS)
  /-- REM (R103): Writes the signed remainder of xs1 by xs2, with the sign of the dividend, to xd. -/
  | rem (o : OpDSS)
  /-- REMU (R103): Writes the unsigned remainder of xs1 by xs2 to xd. -/
  | remu (o : OpDSS)
  /-- CLZ (R104): Writes to xd the number of leading zero bits of xs1. -/
  | clz (o : OpDS)
  /-- CTZ (R104): Writes to xd the number of trailing zero bits of xs1. -/
  | ctz (o : OpDS)
  /-- POPC (R104): Writes to xd the number of set bits of xs1. -/
  | popc (o : OpDS)
  /-- BREV (R104): Writes to xd the bits of xs1 in reversed order. -/
  | brev (o : OpDS)
  /-- FADD (R109): Adds two scalar floating-point values with one rounding. -/
  | fadd (o : OpFp3)
  /-- FSUB (R109): Subtracts two scalar floating-point values with one rounding. -/
  | fsub (o : OpFp3)
  /-- FMUL (R109): Multiplies two scalar floating-point values with one rounding. -/
  | fmul (o : OpFp3)
  /-- FDIV (R109): Divides two scalar floating-point values with one rounding. -/
  | fdiv (o : OpFp3)
  /-- FSQRT (R109): Takes the square root of a scalar floating-point value with one rounding. -/
  | fsqrt (o : OpFp2)
  /-- FMIN (R110): Returns the smaller of two floating-point values, without rounding. -/
  | fmin (o : OpFpMin)
  /-- FMAX (R110): Returns the larger of two floating-point values, without rounding. -/
  | fmax (o : OpFpMin)
  /-- FCMP (R111): Compares two floating-point values under the condition held in rm and writes 1 or 0 to xd. -/
  | fcmp (o : OpFpCmp)
  /-- FCVT (R112): Converts a scalar floating-point value from fmt to the target format. -/
  | fcvt (o : OpFpCvt)
  /-- FCVTI (R113): Converts a scalar floating-point value to a 32-bit or 64-bit integer, signed or unsigned. -/
  | fcvti (o : OpFpCvt)
  /-- FCVTF (R113): Converts an integer to a scalar floating-point value in fmt. -/
  | fcvtf (o : OpFpCvt)
  /-- FMA (R114): Computes xs1 × xs2 + xs3 with a single rounding. -/
  | fma (o : OpFp4)
  /-- ADDI (R102): Adds the sign-extended immediate to xs1. -/
  | addi (o : OpI)
  /-- ANDI (R102): ANDs xs1 with the sign-extended immediate. -/
  | andi (o : OpI)
  /-- ORI (R102): ORs xs1 with the sign-extended immediate. -/
  | ori (o : OpI)
  /-- XORI (R102): XORs xs1 with the sign-extended immediate. -/
  | xori (o : OpI)
  /-- SHLI (R102): Shifts xs1 left by the immediate amount. -/
  | shli (o : OpSh)
  /-- SHRI (R102): Shifts xs1 right logically by the immediate amount. -/
  | shri (o : OpSh)
  /-- SARI (R102): Shifts xs1 right arithmetically by the immediate amount. -/
  | sari (o : OpSh)
  /-- SLTI (R102): Writes 1 when xs1 is below the immediate as signed values, and 0 otherwise. -/
  | slti (o : OpI)
  /-- SLTIU (R102): Writes 1 when xs1 is below the sign-extended immediate as unsigned values, and 0 otherwise. -/
  | sltiu (o : OpI)
  /-- BEQ (R106): Branches when xs1 equals xs2. -/
  | beq (o : OpB)
  /-- BNE (R106): Branches when xs1 differs from xs2. -/
  | bne (o : OpB)
  /-- BLT (R106): Branches when xs1 < xs2 as signed values. -/
  | blt (o : OpB)
  /-- BGE (R106): Branches when xs1 ≥ xs2 as signed values. -/
  | bge (o : OpB)
  /-- BLTU (R106): Branches when xs1 < xs2 as unsigned values. -/
  | bltu (o : OpB)
  /-- BGEU (R106): Branches when xs1 ≥ xs2 as unsigned values. -/
  | bgeu (o : OpB)
  /-- JAL (R107): Jumps to a PC-relative target and links PC + 4 into xd. -/
  | jal (o : OpJ)
  /-- JALR (R107): Jumps to xs1 + imm and links PC + 4 into xd, after the alignment and range checks. -/
  | jalr (o : OpI)
  /-- LUI (R105): Writes SignExtend(imm20) × 2^15 to xd. -/
  | lui (o : OpU)
  /-- AUIPC (R105): Writes PC + SignExtend(imm20) × 2^15 to xd. -/
  | auipc (o : OpU)
  /-- LD (R116): Loads 1, 2, 4 or 8 bytes, sign-extended, with an optional acquire. -/
  | ld (o : OpLd)
  /-- LDU (R116): Loads 1, 2 or 4 bytes, zero-extended, with an optional acquire. -/
  | ldu (o : OpLd)
  /-- ST (R117): Stores the low bytes of xs2, with an optional release. -/
  | st (o : OpSt)
  /-- AMO (R118): Performs an indivisible read-modify-write chosen by aop and returns the old value. -/
  | amo (o : OpAmo)
  /-- CAS (R119): Performs an indivisible compare-and-swap and returns the old value. -/
  | cas (o : OpCas)
  /-- CSRRW (R121): Reads a CSR and writes xs1 to it. -/
  | csrrw (o : OpCsr)
  /-- CSRRS (R121): Reads a CSR and sets the bits given by xs1. -/
  | csrrs (o : OpCsr)
  /-- CSRRC (R121): Reads a CSR and clears the bits given by xs1. -/
  | csrrc (o : OpCsr)
  /-- HINT (R47): A hint-space word retires as a no-op. -/
  | hint (o : OpHint)
  /-- LEND (R49): Lends a predicate, a destination copy or both to the next word executed. -/
  | lend (o : OpLend)
  /-- SETVL (R131): Waits for the EP, renegotiates lane groups and depth from xs2, and sets VL. -/
  | setvl (o : OpSetvl)
  /-- SETVLI (R131): Renegotiates to an immediate lane-group count and depth, and sets VL. -/
  | setvli (o : OpSetvli)
  /-- SETVLC (R131): Sets VL and AVLREM from AVL without renegotiating. -/
  | setvlc (o : OpDS)
  /-- VADD_VV (R160): Vector-vector integer add. -/
  | vaddVV (o : OpV)
  /-- VSUB_VV (R160): Vector-vector integer subtract. -/
  | vsubVV (o : OpV)
  /-- VADC_VV (R161): Vector-vector add with carry-in from a mask. -/
  | vadcVV (o : OpV)
  /-- VMADC_VV (R161): Vector-vector carry-out into a mask. -/
  | vmadcVV (o : OpV)
  /-- VSBC_VV (R161): Vector-vector subtract with borrow-in. -/
  | vsbcVV (o : OpV)
  /-- VMSBC_VV (R161): Vector-vector borrow-out into a mask. -/
  | vmsbcVV (o : OpV)
  /-- VMUL_VV (R160): Vector-vector multiply, low bits. -/
  | vmulVV (o : OpV)
  /-- VMULH_VV (R160): Vector-vector signed multiply, high bits. -/
  | vmulhVV (o : OpV)
  /-- VMULHU_VV (R160): Vector-vector unsigned multiply, high bits. -/
  | vmulhuVV (o : OpV)
  /-- VDIV_VV (R160): Vector-vector signed divide. -/
  | vdivVV (o : OpV)
  /-- VDIVU_VV (R160): Vector-vector unsigned divide. -/
  | vdivuVV (o : OpV)
  /-- VREM_VV (R160): Vector-vector signed remainder. -/
  | vremVV (o : OpV)
  /-- VAND_VV (R160): Vector-vector bitwise AND. -/
  | vandVV (o : OpV)
  /-- VOR_VV (R160): Vector-vector bitwise OR. -/
  | vorVV (o : OpV)
  /-- VXOR_VV (R160): Vector-vector bitwise XOR. -/
  | vxorVV (o : OpV)
  /-- VSHL_VV (R160): Vector-vector shift left. -/
  | vshlVV (o : OpV)
  /-- VSHR_VV (R160): Vector-vector logical shift right. -/
  | vshrVV (o : OpV)
  /-- VSAR_VV (R160): Vector-vector arithmetic shift right. -/
  | vsarVV (o : OpV)
  /-- VMIN_VV (R160): Vector-vector signed minimum. -/
  | vminVV (o : OpV)
  /-- VMAX_VV (R160): Vector-vector signed maximum. -/
  | vmaxVV (o : OpV)
  /-- VSADD_VV (R160): Vector-vector saturating signed add. -/
  | vsaddVV (o : OpV)
  /-- VWADD_VV (R160): Vector-vector widening signed add. -/
  | vwaddVV (o : OpV)
  /-- VNCLIP_VV (R162): Narrows a wide value by a vector shift with rounding and clamping. -/
  | vnclipVV (o : OpV)
  /-- VADD_VS (R160): Vector-scalar integer add. -/
  | vaddVS (o : OpV)
  /-- VSUB_VS (R160): Vector-scalar integer subtract. -/
  | vsubVS (o : OpV)
  /-- VADC_VS (R161): Vector-scalar add with carry-in. -/
  | vadcVS (o : OpV)
  /-- VMADC_VS (R161): Vector-scalar carry-out into a mask. -/
  | vmadcVS (o : OpV)
  /-- VSBC_VS (R161): Vector-scalar subtract with borrow-in. -/
  | vsbcVS (o : OpV)
  /-- VMSBC_VS (R161): Vector-scalar borrow-out into a mask. -/
  | vmsbcVS (o : OpV)
  /-- VMUL_VS (R160): Vector-scalar multiply, low bits. -/
  | vmulVS (o : OpV)
  /-- VMULH_VS (R160): Vector-scalar signed multiply, high bits. -/
  | vmulhVS (o : OpV)
  /-- VMULHU_VS (R160): Vector-scalar unsigned multiply, high bits. -/
  | vmulhuVS (o : OpV)
  /-- VDIV_VS (R160): Vector-scalar signed divide. -/
  | vdivVS (o : OpV)
  /-- VDIVU_VS (R160): Vector-scalar unsigned divide. -/
  | vdivuVS (o : OpV)
  /-- VREM_VS (R160): Vector-scalar signed remainder. -/
  | vremVS (o : OpV)
  /-- VAND_VS (R160): Vector-scalar bitwise AND. -/
  | vandVS (o : OpV)
  /-- VOR_VS (R160): Vector-scalar bitwise OR. -/
  | vorVS (o : OpV)
  /-- VXOR_VS (R160): Vector-scalar bitwise XOR. -/
  | vxorVS (o : OpV)
  /-- VSHL_VS (R160): Vector-scalar shift left. -/
  | vshlVS (o : OpV)
  /-- VSHR_VS (R160): Vector-scalar logical shift right. -/
  | vshrVS (o : OpV)
  /-- VSAR_VS (R160): Vector-scalar arithmetic shift right. -/
  | vsarVS (o : OpV)
  /-- VMIN_VS (R160): Vector-scalar signed minimum. -/
  | vminVS (o : OpV)
  /-- VMAX_VS (R160): Vector-scalar signed maximum. -/
  | vmaxVS (o : OpV)
  /-- VSADD_VS (R160): Vector-scalar saturating add. -/
  | vsaddVS (o : OpV)
  /-- VWADD_VS (R160): Vector-scalar widening add. -/
  | vwaddVS (o : OpV)
  /-- VNCLIP_VS (R162): Narrows a wide value by a scalar shift with rounding and clamping. -/
  | vnclipVS (o : OpV)
  /-- VFADD_VV (R163): Vector-vector floating-point add. -/
  | vfaddVV (o : OpV)
  /-- VFSUB_VV (R163): Vector-vector floating-point subtract. -/
  | vfsubVV (o : OpV)
  /-- VFMUL_VV (R163): Vector-vector floating-point multiply. -/
  | vfmulVV (o : OpV)
  /-- VFDIV_VV (R163): Vector-vector floating-point divide. -/
  | vfdivVV (o : OpV)
  /-- VFSQRT (R163): Vector floating-point square root. -/
  | vfsqrt (o : OpV1)
  /-- VFMA_VV (R163): Vector-vector fused multiply-add into vd. -/
  | vfmaVV (o : OpV)
  /-- VFMIN_VV (R163): Vector-vector floating-point minimum. -/
  | vfminVV (o : OpV)
  /-- VFMAX_VV (R163): Vector-vector floating-point maximum. -/
  | vfmaxVV (o : OpV)
  /-- VFCVT (R164): Converts vector elements between floating-point formats. -/
  | vfcvt (o : OpVCvt)
  /-- VFCVTI (R164): Converts vector floating-point elements to integers. -/
  | vfcvti (o : OpVCvtI)
  /-- VFCVTF (R164): Converts vector integer elements to floating point. -/
  | vfcvtf (o : OpVCvtI)
  /-- VFEXP2 (R99): Computes 2^x for FP32 elements, bit-exact. -/
  | vfexp2 (o : OpV1)
  /-- VFADD_VS (R163): Vector-scalar floating-point add. -/
  | vfaddVS (o : OpV)
  /-- VFSUB_VS (R163): Vector-scalar floating-point subtract. -/
  | vfsubVS (o : OpV)
  /-- VFMUL_VS (R163): Vector-scalar floating-point multiply. -/
  | vfmulVS (o : OpV)
  /-- VFDIV_VS (R163): Vector-scalar floating-point divide. -/
  | vfdivVS (o : OpV)
  /-- VFMA_VS (R163): Vector-scalar fused multiply-add into vd. -/
  | vfmaVS (o : OpV)
  /-- VFMIN_VS (R163): Vector-scalar floating-point minimum. -/
  | vfminVS (o : OpV)
  /-- VFMAX_VS (R163): Vector-scalar floating-point maximum. -/
  | vfmaxVS (o : OpV)
  /-- MAND (R166): Bitwise AND of two masks. -/
  | mand (o : OpDSS)
  /-- MOR (R166): Bitwise OR of two masks. -/
  | mor (o : OpDSS)
  /-- MXOR (R166): Bitwise XOR of two masks. -/
  | mxor (o : OpDSS)
  /-- MANDN (R166): ms1 AND NOT ms2. -/
  | mandn (o : OpDSS)
  /-- MNOT (R166): Inverts a mask. -/
  | mnot (o : OpDS)
  /-- MSHL (R166): Shifts a mask up by one bit. -/
  | mshl (o : OpDS)
  /-- MANY (R166): Returns 1 through BRQ when any mask bit below VL is set. -/
  | many (o : OpDS)
  /-- MPOPC (R166): Returns through BRQ the count of set mask bits below VL. -/
  | mpopc (o : OpDS)
  /-- MFIRST (R166): Returns through BRQ the lowest set mask bit below VL, or −1. -/
  | mfirst (o : OpDS)
  /-- MSET (R166): Sets every mask bit below VL. -/
  | mset (o : OpD)
  /-- VCOMPRESS (R167): Packs the active elements of vs1 to the low elements of vd. -/
  | vcompress (o : OpV1)
  /-- VEXPAND (R167): Spreads the elements of vs1 onto the active elements of vd. -/
  | vexpand (o : OpV1)
  /-- VIOTA (R167): Writes each active element's index into it. -/
  | viota (o : OpV0)
  /-- VCONFLICT (R168): Reports equal values within aligned blocks of W elements. -/
  | vconflict (o : OpV1)
  /-- VGATHER (R167): Gathers elements of vs1 by the indices in vs2. -/
  | vgather (o : OpV)
  /-- VSLIDEUP (R167): Slides the elements of vs1 up by xs2. -/
  | vslideup (o : OpV)
  /-- VSLIDEDN (R167): Slides the elements of vs1 down by xs2. -/
  | vslidedn (o : OpV)
  /-- VBCAST (R167): Broadcasts xs1 into every active element. -/
  | vbcast (o : OpV1)
  /-- VREDSUM (R169): Integer sum reduction by the fixed tree. -/
  | vredsum (o : OpV)
  /-- VREDMAX (R169): Signed maximum reduction. -/
  | vredmax (o : OpV)
  /-- VREDMIN (R169): Signed minimum reduction. -/
  | vredmin (o : OpV)
  /-- VREDFSUM (R169): Floating-point sum reduction, rounded at each tree node. -/
  | vredfsum (o : OpV)
  /-- VREDFMAX (R169): Floating-point maximum reduction. -/
  | vredfmax (o : OpV)
  /-- VMVXS (R170): Moves element 0 of a vector to an x register through BRQ. -/
  | vmvxs (o : OpVMv)
  /-- VMVSX (R170): Moves xs1 into element 0 of a vector. -/
  | vmvsx (o : OpVMv)
  /-- VCMPEQ_VV (R165): Vector-vector compare for equality into a mask. -/
  | vcmpeqVV (o : OpV)
  /-- VCMPNE_VV (R165): Vector-vector compare for inequality. -/
  | vcmpneVV (o : OpV)
  /-- VCMPLT_VV (R165): Vector-vector signed less-than. -/
  | vcmpltVV (o : OpV)
  /-- VCMPLE_VV (R165): Vector-vector signed less-or-equal. -/
  | vcmpleVV (o : OpV)
  /-- VCMPLTU_VV (R165): Vector-vector unsigned less-than. -/
  | vcmpltuVV (o : OpV)
  /-- VCMPLEU_VV (R165): Vector-vector unsigned less-or-equal. -/
  | vcmpleuVV (o : OpV)
  /-- VCMPGT_VV (R165): Vector-vector signed greater-than. -/
  | vcmpgtVV (o : OpV)
  /-- VCMPGTU_VV (R165): Vector-vector unsigned greater-than. -/
  | vcmpgtuVV (o : OpV)
  /-- VCMPFEQ_VV (R165): Vector-vector floating-point equality. -/
  | vcmpfeqVV (o : OpV)
  /-- VCMPFLT_VV (R165): Vector-vector floating-point less-than. -/
  | vcmpfltVV (o : OpV)
  /-- VCMPFLE_VV (R165): Vector-vector floating-point less-or-equal. -/
  | vcmpfleVV (o : OpV)
  /-- VCMPFUNORD_VV (R165): Vector-vector floating-point unordered test. -/
  | vcmpfunordVV (o : OpV)
  /-- VCMPEQ_VS (R165): Vector-scalar compare for equality. -/
  | vcmpeqVS (o : OpV)
  /-- VCMPNE_VS (R165): Vector-scalar compare for inequality. -/
  | vcmpneVS (o : OpV)
  /-- VCMPLT_VS (R165): Vector-scalar signed less-than. -/
  | vcmpltVS (o : OpV)
  /-- VCMPLE_VS (R165): Vector-scalar signed less-or-equal. -/
  | vcmpleVS (o : OpV)
  /-- VCMPLTU_VS (R165): Vector-scalar unsigned less-than. -/
  | vcmpltuVS (o : OpV)
  /-- VCMPLEU_VS (R165): Vector-scalar unsigned less-or-equal. -/
  | vcmpleuVS (o : OpV)
  /-- VCMPGT_VS (R165): Vector-scalar signed greater-than. -/
  | vcmpgtVS (o : OpV)
  /-- VCMPGTU_VS (R165): Vector-scalar unsigned greater-than. -/
  | vcmpgtuVS (o : OpV)
  /-- VCMPFEQ_VS (R165): Vector-scalar floating-point equality. -/
  | vcmpfeqVS (o : OpV)
  /-- VCMPFLT_VS (R165): Vector-scalar floating-point less-than. -/
  | vcmpfltVS (o : OpV)
  /-- VCMPFLE_VS (R165): Vector-scalar floating-point less-or-equal. -/
  | vcmpfleVS (o : OpV)
  /-- VCMPFUNORD_VS (R165): Vector-scalar floating-point unordered test. -/
  | vcmpfunordVS (o : OpV)
  /-- VLD (R234): Unit-stride vector load, fault-only-first. -/
  | vld (o : OpV1)
  /-- VLDS (R234): Strided vector load, fault-only-first. -/
  | vlds (o : OpV)
  /-- VLDX (R234): Indexed vector load, fault-only-first. -/
  | vldx (o : OpV)
  /-- VLSEG (R235): Segment load of plain fields, MX blocks or QN4 blocks. -/
  | vlseg (o : OpVSeg)
  /-- VST (R234): Unit-stride vector store. -/
  | vst (o : OpV1)
  /-- VSTS (R234): Strided vector store. -/
  | vsts (o : OpV)
  /-- VSTX (R234): Indexed vector store (scatter). -/
  | vstx (o : OpV)
  /-- VSSEG (R235): Segment store. -/
  | vsseg (o : OpVSeg)
  /-- VAMO (R237): Indexed vector atomic returning old values. -/
  | vamo (o : OpVAmo)
  /-- VBIND (R242): Binds a register group to a tensor view at a start position. -/
  | vbind (o : OpVBind)
  /-- VUNBIND (R245): Ends the binding whose first register is vd. -/
  | vunbind (o : OpD)
  /-- MMA (R176): Multiplies A by B, optionally scaled, and accumulates into tile rows. -/
  | mma (o : OpMma)
  /-- MSHAPE (R180): Sets TILESHAPE ROWBASE and ROWS at the AP. -/
  | mshape (o : OpDSS)
  /-- MZERO (R179): Zeroes every element of a tile. -/
  | mzero (o : OpMZero)
  /-- MTOV (R181): Copies a tile row into a vector group with conversion. -/
  | mtov (o : OpMtov)
  /-- MVTOT (R182): Copies a vector group into a tile row. -/
  | mvtot (o : OpMvtot)
  /-- MSTORE (R183): Writes tile rows to memory with conversion. -/
  | mstore (o : OpMstore)
  /-- MLOAD (R183): Fills tile rows from memory. -/
  | mload (o : OpMvtot)
  /-- MMOVT (R179): Copies one tile to another. -/
  | mmovt (o : OpMmovt)
  /-- GORI2 (R189): Exact 2-D orientation predicate per element. -/
  | gori2 (o : OpG)
  /-- GINC (R189): Exact in-circle predicate per element. -/
  | ginc (o : OpG)
  /-- GSEG (R190): Exact classification of two closed segments. -/
  | gseg (o : OpG)
  /-- GORI3 (R189): Exact 3-D orientation predicate per element. -/
  | gori3 (o : OpG)
  /-- GINS (R189): Exact in-sphere predicate per element. -/
  | gins (o : OpG)
  /-- GSTAT (R201): Reads, and optionally clears, one predicate stage counter. -/
  | gstat (o : OpGstat)
  /-- FENCE (R252): Orders scalar accesses with release and acquire parts, and optionally for fetch. -/
  | fence (o : OpFence)
  /-- QDRAIN (R254): Waits until every named queue is drained. -/
  | qdrain (o : OpQdrain)
  /-- BARRIVE (R256): Arrives at a barrier, with an optional release. -/
  | barrive (o : OpBar)
  /-- BARWAIT (R256): Waits until the barrier's PHASE changes, then acquires. -/
  | barwait (o : OpBarwait)
  /-- BAREXP (R256): Adds to a barrier's PENDING byte count. -/
  | barexp (o : OpSS)
  /-- MWATCHLD (R258): Loads 8 bytes and arms the hart's monitor on the line. -/
  | mwatchld (o : OpBar)
  /-- MWAIT (R259): Waits for the monitor to fire or for a number of rounds. -/
  | mwait (o : OpDS)
  /-- POTTAKE (R249): Takes n from a pot, refilling or calling in as needed. -/
  | pottake (o : OpDSS)
  /-- POTTAKEQ (R249): Takes n from a pot without calling in. -/
  | pottakeq (o : OpDSS)
  /-- POTGIVE (R250): Gives n to a pot, to the core's stack or to its home. -/
  | potgive (o : OpDSS)
  /-- POTREADX (R250): Calls in a pot and returns its exact value, with a release and an acquire. -/
  | potreadx (o : OpDS)
  /-- POTREAD (R250): Returns the pot's home residual. -/
  | potread (o : OpDS)
  /-- POTINIT (R250): Initialises a pot's value, policy and scope. -/
  | potinit (o : OpPotinit)
  /-- SETTLE (R262): Writes back the range and advances the settle counts of touched SREG frames. -/
  | settle (o : OpSS)
  /-- RENEW (R262): Writes back and drops the range's lines in the hart's and the core's caches. -/
  | renew (o : OpSS)
  /-- SCOUNT (R262): Reads the settle count of the page's frame. -/
  | scount (o : OpDS)
  /-- RWB (R263): Writes back the range's dirty bytes at a scope. -/
  | rwb (o : OpRange)
  /-- RINV (R263): Drops the range's lines at a scope. -/
  | rinv (o : OpRange)
  /-- RWBINV (R263): RWB, then RINV, over the range. -/
  | rwbinv (o : OpRange)
  /-- DISCARD (R264): Marks whole pages discarded, dropping their cached lines without write-back. -/
  | discard (o : OpSS)
  /-- RTOUCH (R265): Range hint; changes no visible state. -/
  | rtouch (o : OpSS)
  /-- CPY (R298): Issues a copy-engine command and returns its tag. -/
  | cpy (o : OpDSS)
  /-- CPYWAIT (R299): Waits for copy commands up to a tag. -/
  | cpywait (o : OpS)
  /-- BKOP (R314): Issues an elementwise Strelvis command. -/
  | bkop (o : OpDS)
  /-- BGEMV (R316): Issues a Strelvis matrix-vector command. -/
  | bgemv (o : OpDS)
  /-- BATTN (R317): Issues a Strelvis attention command. -/
  | battn (o : OpDS)
  /-- CPYQ (R300): Reports the state of a copy command. -/
  | cpyq (o : OpDS)
  /-- BKWAIT (R299): Waits for Strelvis commands up to a tag. -/
  | bkwait (o : OpS)
  /-- FARM (R138): Launches a strip farm from a descriptor. -/
  | farm (o : OpDS)
  /-- STRIP (R140): Claims the next strip index from the farm's pot. -/
  | strip (o : OpD)
  /-- FQUERY (R144): Reports a farm's state. -/
  | fquery (o : OpDS)
  /-- TRET_RESUME (R340): Resumes the party parked on a fault-queue slot: a hart, a copy, a Strelvis command or a farm completion. -/
  | tretResume (o : OpDS)
  /-- TLBINV (R346): Invalidates translations package-wide with write-backs and waits. -/
  | tlbinv (o : OpSS)
  /-- CTXHALT (R353): Starts a halt, the hard pre-emption of one hart, or a kill of a context. -/
  | ctxhalt (o : OpDSS)
  /-- CTXRESUME (R366): Resumes a context from its image, or a pre-empted hart. -/
  | ctxresume (o : OpDSS)
  /-- ECALL (R122): Raises the environment-call trap. -/
  | ecall
  /-- EBREAK (R122): Raises the breakpoint trap. -/
  | ebreak
  /-- SVFENCE (R253): Orders earlier scalar accesses before later vector and tile accesses. -/
  | svfence
  /-- VSFENCE (R253): Waits for earlier vector and tile accesses, then acquires at scope C. -/
  | vsfence
  /-- HEARTBEAT (R260): Counts as a progress event for the watchdog. -/
  | heartbeat
  /-- BKFENCE (R318): Orders earlier Strelvis commands before later ones across units. -/
  | bkfence
  /-- FEND (R142): Drains the hart's queues and commands, releases at P and retires the hart. -/
  | fend
  /-- YIELD (R143): Offers lane groups beyond the reservation to a hold. -/
  | yield
  /-- UIRET (R309): Returns from a user-level handler. -/
  | uiret
  /-- TRET (R340): Control core returns from its own trap to TPC. -/
  | tret
  /-- STREAM_DELIVERY (R243): Delivers the next strip of a bound tensor into its group for a reader, then advances the position. -/
  | streamDelivery
  /-- MWAIT_TIMEOUT (R259): The round limit of an MWAIT expires, and it writes 0 and disarms the monitor. -/
  | mwaitTimeout
  /-- POT_HOME_REQUEST (R249): The pot's home serves a queued refill, fail or holder request in first-in, first-out order. -/
  | potHomeRequest
  /-- MASK_CLEAR (R303): Clears the mask bits that a copy will hold, before the command enters the engine. -/
  | maskClear
  /-- TRAP_DELIVERY (R328): Delivers a trap once earlier vector words are complete, to a user handler or by parking. -/
  | trapDelivery
  /-- FAULT_RECORD_APPEND (R338): Appends a waiting fault record to its die's queue when room appears. -/
  | faultRecordAppend
  /-- UI_EVENT_DELIVERY (R308): Delivers pending completion events to the user handler. -/
  | uiEventDelivery
  /-- HART_ADMISSION (R139): The farm dispatcher admits the farm's next hart onto a core. -/
  | hartAdmission
  /-- ROUND_BOUNDARY (R393): A round starts; budget counts reset, and aging and the watchdog count are updated. -/
  | roundBoundary
  /-- WATCHDOG_EXPIRY (R357): The watchdog count reaches WDOG and the context is halted. -/
  | watchdogExpiry
  /-- WRITE_BACK_MERGE (R210): A write-back of dirty bytes is merged at the home L2. -/
  | writeBackMerge
  /-- PAGE_REVIVAL (R226): The first write to reach a discarded page zero-fills its frame and clears DSC. -/
  | pageRevival
  /-- WRITE_RANGE_APPEND (R216): Appends a collector entry to the write-range ring, at the latest 1,200 clk after its first bit. -/
  | writeRangeAppend
  /-- COLLAPSE (R221): A write to a REPL page collapses the page to its primary frame. -/
  | collapse
  /-- MIGCMD (R223): A write to MIGCMD starts a migration command, or refuses it. -/
  | migcmd
  /-- MIGRATION_COMPLETE (R223): The copied page's entry is written, replays are released and RESULT is set. -/
  | migrationComplete
  /-- HINT_ROW_CLOSE (R224): A hinted row that no demand access used closes after 120 clk. -/
  | hintRowClose
  /-- EXTENT_ADDED (R381): A dynamic-capacity extent is accepted and an added-extent record is queued. -/
  | extentAdded
  /-- EXTENT_RELEASE_REQUEST (R227): The fabric manager asks for an extent back, and a release-request record is queued. -/
  | extentReleaseRequest
  /-- EXTACK (R227): A write of a release tag writes back the extent and acknowledges the release to the fabric manager. -/
  | extack
  /-- FORCED_EXTENT_RELEASE (R228): Drops the extent's dirty lines and enters it in the revoked table. -/
  | forcedExtentRelease
  /-- REVCLR (R228): A write removes a revoked-extent table entry. -/
  | revclr
  /-- EXTENT_RECORD_APPEND (R382): Appends a buffered extent record when the queue has room. -/
  | extentRecordAppend
  /-- COPY_CHUNK (R304): The copy engine checks, reads, writes and marks one chunk. -/
  | copyChunk
  /-- REMOTE_CHUNK_WRITE (R377): A remote device receives a copy chunk and merges it at its home. -/
  | remoteChunkWrite
  /-- REMOTE_CHUNK_ACK (R377): The remote acknowledgement completes a remote chunk. -/
  | remoteChunkAck
  /-- STRELVIS_PART (R311): A Strelvis part runs on its unit once its gate is met and the parts ahead of it are done. -/
  | strelvisPart
  /-- HBM_REFRESH (R319): A refresh owed every 4,680 clk occupies the channel between row steps. -/
  | hbmRefresh
  /-- CHANNEL_POWER_DOWN_REQUEST (R320): Puts a channel into self-refresh or power-down once no part holds live accumulator state. -/
  | channelPowerDownRequest
  /-- CONTEXT_IMAGE_WRITE (R354): After the stop phase, the image is written, or STATE 5 is reported when IMGSIZE is too small. -/
  | contextImageWrite
  /-- HART_RECORD_WRITE (R356): Writes a pre-empted hart's record to its save area. -/
  | hartRecordWrite
  /-- PREEMPTED_HART_PLACEMENT (R356): Places a resumed pre-empted hart when its core has room. -/
  | preemptedHartPlacement
  /-- RESUMED_HART_PLACEMENT (R367): Places the harts of a core record of a resumed context. -/
  | resumedHartPlacement
  /-- POWER_ON (R383): The boot ROM trains tier 1, sets the feature mask and starts fetching an image. -/
  | powerOn
  /-- BOOT_TRY_TIMEOUT (R383): A 10 s boot fetch try expires and the next try or source starts. -/
  | bootTryTimeout
  /-- BOOT_IMAGE_ARRIVAL (R384): A fetched image is verified and either started or refused. -/
  | bootImageArrival
  /-- BOOTDB (R383): A host write to BOOTDB names an image written through HDM. -/
  | bootdb
  /-- FDLAUNCH (R373): A write launches a farm in the context named by FDASID. -/
  | fdlaunch
  /-- MEASSEL (R386): A write extends a measurement register with MEASEXT. -/
  | meassel
  /-- ATTREQ (R386): A write starts an attestation report. -/
  | attreq
  /-- ATTEST_REPORT_COMPLETE (R386): The signed report is written and RESULT is set. -/
  | attestReportComplete
  /-- TELCOMMIT (R399): A write starts a commit of the telemetry mirror. -/
  | telcommit
  /-- TELEMETRY_COMMIT_COMPLETE (R398): A telemetry commit completes indivisibly. -/
  | telemetryCommitComplete
  /-- TELEMETRY_PERIODIC_COMMIT (R398): Commits the counters every 2^24 rounds. -/
  | telemetryPeriodicCommit
  /-- POWER_DOWN (R398): An orderly power-down commits the counters. -/
  | powerDown
  /-- DEVICE_REGISTER_WRITE (R372): A control-core write to a device register with no behaviour of its own. -/
  | deviceRegisterWrite
  /-- LINK_RETRAIN (R374): A link retrains; traffic waits and the retrain is counted. -/
  | linkRetrain
  /-- FLIT_RETRANSMIT (R374): A flit that fails its CRC is sent again. -/
  | flitRetransmit
  /-- THERMAL_EXCURSION_START (R392): The junction sensor passes 105 °C and the die lowers its clock. -/
  | thermalExcursionStart
  /-- THERMAL_EXCURSION_END (R392): The clock returns to 1.2 GHz and the excursion ends. -/
  | thermalExcursionEnd
  /-- HOST_WRITE (R380): A host write through HDM merges at its home as a scope-Y party. -/
  | hostWrite
  /-- HOST_READ (R380): A host read through HDM returns the home's bytes. -/
  | hostRead
  /-- SOFT_ERROR_CORRECTION (R397): A corrected soft error is counted in the lifetime records. -/
  | softErrorCorrection
  /-- EP_INSTRUCTION_COMPLETE (R133): The execute processor performs a dispatched V, VM, X or G word, advancing its progress index until the word is complete, publishing masks and accruing VSTAT flags. -/
  | epInstructionComplete
  /-- LINK_RETRAIN_END (R374): A retraining die link or device port comes back, and the traffic that waited on it resumes. -/
  | linkRetrainEnd
  /-- POWER_LOSS (R398): An abrupt loss of supply leaves the telemetry at its last completed commit and the identity counter at its committed value. -/
  | powerLoss
  deriving DecidableEq, Repr

end Sys2Proof
end

