-- ==== Sys2Proof/WellFormed.lean ====
section
/-! DEFINITION. Which field values a word may hold: R46 items 1 to 4, with the limits of R37 to R44 and of the chapters that add to them.
Checks on machine state (R46 item 8), on who executes (items 5, 6) and on a pending lend (item 7) are made when the word executes. -/

namespace Sys2Proof

/-- rm codes 5 and 6 are reserved (R38). -/
def rmOk (rm : Fin 8) : Bool := rm.val ≠ 5 && rm.val ≠ 6

/-- Scope codes 5 to 7 are reserved (R34). -/
def scopeOk (s : Fin 8) : Bool := s.val ≤ 4

/-- With ord 0 the scope field must be 0 (R40, R252, R256, R258). -/
def noScope (ord : Fin 4) (s : Fin 8) : Bool := ord.val ≠ 0 || s.val == 0

/-- A field that names a mask (R34). -/
def maskOk (r : Reg) : Bool := r.val ≤ 7

/-- A load: ord 0 or 1 (R40). -/
def OpLd.ok (o : OpLd) : Bool := o.ord.val ≤ 1 && scopeOk o.scope && noScope o.ord o.scope

/-- A store: ord 0 or 2 (R40). -/
def OpSt.ok (o : OpSt) : Bool := (o.ord.val == 0 || o.ord.val == 2) && scopeOk o.scope && noScope o.ord o.scope

/-- LEND (R48). -/
def OpLend.ok (o : OpLend) : Bool :=
  o.pmask.val ≤ 8 && (o.dce.val == 1 || o.dc.val == 0) && (o.pmask.val ≠ 0 || o.pol.val == 0)
    && (o.pmask.val ≠ 0 || o.dce.val == 1)

/-- MMA (R43): G code 3 and types 10 to 15 are reserved, unscaled types name no scale, and vB to vB + 7 exist. -/
def OpMma.ok (o : OpMma) : Bool :=
  o.g.val ≠ 3 && o.type.val ≤ 9 && (6 ≤ o.type.val || o.vS.val == 0) && o.vB.val ≤ 24

/-- Segments (R235): kind 3 is reserved, a block kind has ew 0 and its own nf codes, and the fields' registers exist. -/
def OpVSeg.ok (o : OpVSeg) : Bool :=
  match o.kind.val with
  | 0 => o.d.val + o.nf.val ≤ 31
  | 1 => o.nf.val ≤ 2 && o.ew.val == 0
  | 2 => o.nf.val == 0 && o.ew.val == 0
  | _ => false

/-- A G word with a point group of `np` registers and an id group of `ns` (R43, R188). -/
def OpG.ok (o : OpG) (np ns : Nat) : Bool :=
  o.vp.val + np ≤ 32 && (if o.tb.val = 1 then o.vs.val + ns ≤ 32 else o.vs.val == 0)

/-- Every field holds a value the row allows (R46 items 1 to 4). -/
def Instr.wellFormed : Instr → Bool
  | .fadd o | .fsub o | .fmul o | .fdiv o => rmOk o.rm
  | .fsqrt o => rmOk o.rm
  | .fcmp o => o.cond.val ≤ 3
  | .fcvt o | .fcvti o | .fcvtf o => rmOk o.rm
  | .fma o => rmOk o.rm
  | .ld o => o.ok
  | .ldu o => o.ok && o.width.val ≠ 3
  | .st o => o.ok
  | .amo o => o.aop.val ≠ 7 && 2 ≤ o.width.val && scopeOk o.scope
  | .cas o => 2 ≤ o.width.val && scopeOk o.scope
  | .lend o => o.ok
  | .setvli o => o.count.val ≤ 15
  | .vmadcVV o | .vmadcVS o | .vmsbcVV o | .vmsbcVS o => maskOk o.d
  | .vfcvt o => o.other.val ≤ 5
  | .vfexp2 o => o.sew.val == 1
  | .mand o | .mor o | .mxor o | .mandn o => maskOk o.d && maskOk o.s1 && maskOk o.s2
  | .mnot o | .mshl o => maskOk o.d && maskOk o.s1
  | .many o | .mpopc o | .mfirst o => maskOk o.s1
  | .mset o => maskOk o.d
  | .vcmpeqVV o | .vcmpneVV o | .vcmpltVV o | .vcmpleVV o | .vcmpltuVV o | .vcmpleuVV o | .vcmpgtVV o | .vcmpgtuVV o
  | .vcmpfeqVV o | .vcmpfltVV o | .vcmpfleVV o | .vcmpfunordVV o
  | .vcmpeqVS o | .vcmpneVS o | .vcmpltVS o | .vcmpleVS o | .vcmpltuVS o | .vcmpleuVS o | .vcmpgtVS o | .vcmpgtuVS o
  | .vcmpfeqVS o | .vcmpfltVS o | .vcmpfleVS o | .vcmpfunordVS o => maskOk o.d
  | .vlseg o | .vsseg o => o.ok
  | .vamo o => o.aop.val ≠ 7 && 2 ≤ o.ew.val
  | .vbind o => o.view.val ≤ 2
  | .mma o => o.ok
  | .gori2 o => o.ok 6 3
  | .ginc o => o.ok 8 4
  | .gseg o => o.ok 8 4
  | .gori3 o => o.ok 12 4
  | .gins o => o.ok 15 5
  | .gstat o => o.stage.val ≠ 3
  | .fence o => scopeOk o.scope && noScope o.ord o.scope && (o.ord.val ≠ 0 || o.fetch.val == 1)
  | .qdrain o => o.set.val ≠ 0
  | .barrive o => (o.ord.val == 0 || o.ord.val == 2) && scopeOk o.scope && noScope o.ord o.scope
  | .barwait o => o.ord.val ≤ 1 && scopeOk o.scope && noScope o.ord o.scope
  | .mwatchld o => o.ord.val ≤ 1 && scopeOk o.scope && noScope o.ord o.scope
  | .potinit o => o.policy.val ≤ 1 && 1 ≤ o.scope.val && scopeOk o.scope
  | .rwb o | .rinv o | .rwbinv o => 1 ≤ o.scope.val && scopeOk o.scope
  | .tretResume o => o.s1.val ≠ 0 || o.d.val ≠ 0
  | .add _ | .sub _ | .and _ | .or _ | .xor _ | .shl _ | .shr _ | .sar _ | .slt _ | .sltu _ | .min _ | .max _ | .minu _ | .maxu _
  | .mul _ | .mulh _ | .mulhu _ | .div _ | .divu _ | .rem _ | .remu _ | .clz _ | .ctz _ | .popc _ | .brev _ | .fmin _ | .fmax _
  | .addi _ | .andi _ | .ori _ | .xori _ | .shli _ | .shri _ | .sari _ | .slti _ | .sltiu _ | .beq _ | .bne _ | .blt _ | .bge _
  | .bltu _ | .bgeu _ | .jal _ | .jalr _ | .lui _ | .auipc _ | .csrrw _ | .csrrs _ | .csrrc _ | .hint _ | .setvl _ | .setvlc _
  | .vaddVV _ | .vsubVV _ | .vadcVV _ | .vsbcVV _ | .vmulVV _ | .vmulhVV _ | .vmulhuVV _ | .vdivVV _ | .vdivuVV _ | .vremVV _
  | .vandVV _ | .vorVV _ | .vxorVV _ | .vshlVV _ | .vshrVV _ | .vsarVV _ | .vminVV _ | .vmaxVV _ | .vsaddVV _ | .vwaddVV _
  | .vnclipVV _ | .vaddVS _ | .vsubVS _ | .vadcVS _ | .vsbcVS _ | .vmulVS _ | .vmulhVS _ | .vmulhuVS _ | .vdivVS _ | .vdivuVS _
  | .vremVS _ | .vandVS _ | .vorVS _ | .vxorVS _ | .vshlVS _ | .vshrVS _ | .vsarVS _ | .vminVS _ | .vmaxVS _ | .vsaddVS _
  | .vwaddVS _ | .vnclipVS _ | .vfaddVV _ | .vfsubVV _ | .vfmulVV _ | .vfdivVV _ | .vfsqrt _ | .vfmaVV _ | .vfminVV _ | .vfmaxVV _
  | .vfcvti _ | .vfcvtf _ | .vfaddVS _ | .vfsubVS _ | .vfmulVS _ | .vfdivVS _ | .vfmaVS _ | .vfminVS _ | .vfmaxVS _ | .vcompress _
  | .vexpand _ | .viota _ | .vconflict _ | .vgather _ | .vslideup _ | .vslidedn _ | .vbcast _ | .vredsum _ | .vredmax _
  | .vredmin _ | .vredfsum _ | .vredfmax _ | .vmvxs _ | .vmvsx _ | .vld _ | .vlds _ | .vldx _ | .vst _ | .vsts _ | .vstx _
  | .vunbind _ | .mshape _ | .mzero _ | .mtov _ | .mvtot _ | .mstore _ | .mload _ | .mmovt _ | .barexp _ | .mwait _ | .pottake _
  | .pottakeq _ | .potgive _ | .potreadx _ | .potread _ | .settle _ | .renew _ | .scount _ | .discard _ | .rtouch _ | .cpy _
  | .cpywait _ | .bkop _ | .bgemv _ | .battn _ | .cpyq _ | .bkwait _ | .farm _ | .strip _ | .fquery _ | .tlbinv _ | .ctxhalt _
  | .ctxresume _ | .ecall | .ebreak | .svfence | .vsfence | .heartbeat | .bkfence | .fend | .yield | .uiret | .tret
  | .streamDelivery | .mwaitTimeout | .potHomeRequest | .maskClear | .trapDelivery | .faultRecordAppend | .uiEventDelivery
  | .hartAdmission | .roundBoundary | .watchdogExpiry | .writeBackMerge | .pageRevival | .writeRangeAppend | .collapse | .migcmd
  | .migrationComplete | .hintRowClose | .extentAdded | .extentReleaseRequest | .extack | .forcedExtentRelease | .revclr
  | .extentRecordAppend | .copyChunk | .remoteChunkWrite | .remoteChunkAck | .strelvisPart | .hbmRefresh
  | .channelPowerDownRequest | .contextImageWrite | .hartRecordWrite | .preemptedHartPlacement | .resumedHartPlacement | .powerOn
  | .bootTryTimeout | .bootImageArrival | .bootdb | .fdlaunch | .meassel | .attreq | .attestReportComplete | .telcommit
  | .telemetryCommitComplete | .telemetryPeriodicCommit | .powerDown | .deviceRegisterWrite | .linkRetrain | .flitRetransmit
  | .thermalExcursionStart | .thermalExcursionEnd | .hostWrite | .hostRead | .softErrorCorrection | .epInstructionComplete
  | .linkRetrainEnd | .powerLoss => true

/-- A well-formed instruction. -/
abbrev WellFormed (i : Instr) : Prop := i.wellFormed = true

end Sys2Proof
end

