-- ==== Sys2Proof/Decode.lean ====
section
/-! DEFINITION. From bytes to instructions and back. A word is read in two steps: op7 and its function field select the row and the
fields are taken out (R33 to R44), then the values of the fields are checked (R46 items 1 to 4, `Instr.wellFormed`). Every word that
names no instruction is refused by name. The encoder is written from the same tables. -/

namespace Sys2Proof

/-- Why a word is no instruction (R46 items 1 to 4). -/
inductive DecodeError where
  /-- fewer than four bytes were given -/
  | short
  /-- item 1: op7, or op7 with its function field, is unassigned -/
  | unassigned
  /-- item 2: a field that must be 0 is not -/
  | mustBeZero
  /-- items 2, 3 and 4: a reserved value, a mask or tile number above 7, or a group past v31 -/
  | illFormed
  deriving DecidableEq, Repr

/-- The `n` bits of `w` from bit `lo` up. -/
def bits (w lo n : Nat) : Nat := w / 2 ^ lo % 2 ^ n

theorem bits_lt (w lo n : Nat) : bits w lo n < 2 ^ n := Nat.mod_lt _ (Nat.two_pow_pos n)

/-- A field of one piece. -/
def fld (w lo n : Nat) : Fin (2 ^ n) := ⟨bits w lo n, bits_lt w lo n⟩

theorem fld2_lt (w lh nh ll nl : Nat) : bits w lh nh * 2 ^ nl + bits w ll nl < 2 ^ (nh + nl) := by
  have h1 := bits_lt w lh nh
  have h2 := bits_lt w ll nl
  rw [Nat.pow_add]
  calc bits w lh nh * 2 ^ nl + bits w ll nl < bits w lh nh * 2 ^ nl + 2 ^ nl := by omega
    _ = (bits w lh nh + 1) * 2 ^ nl := by rw [Nat.succ_mul]
    _ ≤ 2 ^ nh * 2 ^ nl := Nat.mul_le_mul_right _ h1

/-- A field of two pieces, the high piece first. -/
def fld2 (w lh nh ll nl : Nat) : Fin (2 ^ (nh + nl)) := ⟨bits w lh nh * 2 ^ nl + bits w ll nl, fld2_lt w lh nh ll nl⟩

/-- `r`, where the `n` bits from `lo` up are 0. -/
def zero (w lo n : Nat) (r : Except DecodeError Instr) : Except DecodeError Instr :=
  if bits w lo n = 0 then r else .error .mustBeZero

def OpD.ofWord (w : Nat) : OpD :=
  ⟨fld w 7 5⟩
def OpD.toNat (o : OpD) : Nat :=
  o.d.val * 0x80

def OpDS.ofWord (w : Nat) : OpDS :=
  ⟨fld w 7 5, fld w 12 5⟩
def OpDS.toNat (o : OpDS) : Nat :=
  o.d.val * 0x80 + o.s1.val * 0x1000

def OpDSS.ofWord (w : Nat) : OpDSS :=
  ⟨fld w 7 5, fld w 12 5, fld w 17 5⟩
def OpDSS.toNat (o : OpDSS) : Nat :=
  o.d.val * 0x80 + o.s1.val * 0x1000 + o.s2.val * 0x20000

def OpS.ofWord (w : Nat) : OpS :=
  ⟨fld w 12 5⟩
def OpS.toNat (o : OpS) : Nat :=
  o.s1.val * 0x1000

def OpSS.ofWord (w : Nat) : OpSS :=
  ⟨fld w 12 5, fld w 17 5⟩
def OpSS.toNat (o : OpSS) : Nat :=
  o.s1.val * 0x1000 + o.s2.val * 0x20000

def OpFp3.ofWord (w : Nat) : OpFp3 :=
  ⟨fld w 7 5, fld w 12 5, fld w 17 5, fld w 27 2, fld w 29 3⟩
def OpFp3.toNat (o : OpFp3) : Nat :=
  o.d.val * 0x80 + o.s1.val * 0x1000 + o.s2.val * 0x20000 + o.fmt.val * 0x8000000 + o.rm.val * 0x20000000

def OpFp2.ofWord (w : Nat) : OpFp2 :=
  ⟨fld w 7 5, fld w 12 5, fld w 27 2, fld w 29 3⟩
def OpFp2.toNat (o : OpFp2) : Nat :=
  o.d.val * 0x80 + o.s1.val * 0x1000 + o.fmt.val * 0x8000000 + o.rm.val * 0x20000000

def OpFpMin.ofWord (w : Nat) : OpFpMin :=
  ⟨fld w 7 5, fld w 12 5, fld w 17 5, fld w 27 2⟩
def OpFpMin.toNat (o : OpFpMin) : Nat :=
  o.d.val * 0x80 + o.s1.val * 0x1000 + o.s2.val * 0x20000 + o.fmt.val * 0x8000000

def OpFpCmp.ofWord (w : Nat) : OpFpCmp :=
  ⟨fld w 7 5, fld w 12 5, fld w 17 5, fld w 27 2, fld w 29 3⟩
def OpFpCmp.toNat (o : OpFpCmp) : Nat :=
  o.d.val * 0x80 + o.s1.val * 0x1000 + o.s2.val * 0x20000 + o.fmt.val * 0x8000000 + o.cond.val * 0x20000000

def OpFpCvt.ofWord (w : Nat) : OpFpCvt :=
  ⟨fld w 7 5, fld w 12 5, fld w 17 2, fld w 27 2, fld w 29 3⟩
def OpFpCvt.toNat (o : OpFpCvt) : Nat :=
  o.d.val * 0x80 + o.s1.val * 0x1000 + o.ty.val * 0x20000 + o.fmt.val * 0x8000000 + o.rm.val * 0x20000000

def OpFp4.ofWord (w : Nat) : OpFp4 :=
  ⟨fld w 7 5, fld w 12 5, fld w 17 5, fld w 22 5, fld w 27 2, fld w 29 3⟩
def OpFp4.toNat (o : OpFp4) : Nat :=
  o.d.val * 0x80 + o.s1.val * 0x1000 + o.s2.val * 0x20000 + o.s3.val * 0x400000 + o.fmt.val * 0x8000000 + o.rm.val * 0x20000000

def OpI.ofWord (w : Nat) : OpI :=
  ⟨fld w 7 5, fld w 12 5, fld w 17 15⟩
def OpI.toNat (o : OpI) : Nat :=
  o.d.val * 0x80 + o.s1.val * 0x1000 + o.imm.val * 0x20000

def OpSh.ofWord (w : Nat) : OpSh :=
  ⟨fld w 7 5, fld w 12 5, fld w 17 6⟩
def OpSh.toNat (o : OpSh) : Nat :=
  o.d.val * 0x80 + o.s1.val * 0x1000 + o.sh.val * 0x20000

def OpB.ofWord (w : Nat) : OpB :=
  ⟨fld w 12 5, fld w 17 5, fld2 w 22 10 7 5⟩
def OpB.toNat (o : OpB) : Nat :=
  o.s1.val * 0x1000 + o.s2.val * 0x20000 + o.off.val / 32 * 0x400000 + o.off.val % 32 * 0x80

def OpJ.ofWord (w : Nat) : OpJ :=
  ⟨fld w 7 5, fld w 12 20⟩
def OpJ.toNat (o : OpJ) : Nat :=
  o.d.val * 0x80 + o.off.val * 0x1000

def OpU.ofWord (w : Nat) : OpU :=
  ⟨fld w 7 5, fld w 12 20⟩
def OpU.toNat (o : OpU) : Nat :=
  o.d.val * 0x80 + o.imm.val * 0x1000

def OpLd.ofWord (w : Nat) : OpLd :=
  ⟨fld w 7 5, fld w 12 5, fld2 w 29 3 17 5, fld w 22 2, fld w 24 2, fld w 26 3⟩
def OpLd.toNat (o : OpLd) : Nat :=
  o.d.val * 0x80 + o.s1.val * 0x1000 + o.off.val / 32 * 0x20000000 + o.off.val % 32 * 0x20000 + o.width.val * 0x400000 + o.ord.val * 0x1000000 + o.scope.val * 0x4000000

def OpSt.ofWord (w : Nat) : OpSt :=
  ⟨fld w 12 5, fld w 17 5, fld2 w 29 3 7 5, fld w 22 2, fld w 24 2, fld w 26 3⟩
def OpSt.toNat (o : OpSt) : Nat :=
  o.s1.val * 0x1000 + o.s2.val * 0x20000 + o.off.val / 32 * 0x20000000 + o.off.val % 32 * 0x80 + o.width.val * 0x400000 + o.ord.val * 0x1000000 + o.scope.val * 0x4000000

def OpAmo.ofWord (w : Nat) : OpAmo :=
  ⟨fld w 7 5, fld w 12 5, fld w 17 5, fld w 22 2, fld w 24 2, fld w 26 3, fld w 29 3⟩
def OpAmo.toNat (o : OpAmo) : Nat :=
  o.d.val * 0x80 + o.s1.val * 0x1000 + o.s2.val * 0x20000 + o.width.val * 0x400000 + o.ord.val * 0x1000000 + o.scope.val * 0x4000000 + o.aop.val * 0x20000000

def OpCas.ofWord (w : Nat) : OpCas :=
  ⟨fld w 7 5, fld w 12 5, fld w 17 5, fld w 22 2, fld w 24 2, fld w 26 3⟩
def OpCas.toNat (o : OpCas) : Nat :=
  o.d.val * 0x80 + o.s1.val * 0x1000 + o.s2.val * 0x20000 + o.width.val * 0x400000 + o.ord.val * 0x1000000 + o.scope.val * 0x4000000

def OpCsr.ofWord (w : Nat) : OpCsr :=
  ⟨fld w 7 5, fld w 12 5, fld w 17 12⟩
def OpCsr.toNat (o : OpCsr) : Nat :=
  o.d.val * 0x80 + o.s1.val * 0x1000 + o.csr.val * 0x20000

def OpHint.ofWord (w : Nat) : OpHint :=
  ⟨fld w 7 25⟩
def OpHint.toNat (o : OpHint) : Nat :=
  o.bits.val * 0x80

def OpLend.ofWord (w : Nat) : OpLend :=
  ⟨fld w 7 4, fld w 11 1, fld w 12 5, fld w 17 1⟩
def OpLend.toNat (o : OpLend) : Nat :=
  o.pmask.val * 0x80 + o.pol.val * 0x800 + o.dc.val * 0x1000 + o.dce.val * 0x20000

def OpSetvl.ofWord (w : Nat) : OpSetvl :=
  ⟨fld w 7 5, fld w 12 5, fld w 17 5, fld w 25 2, fld w 28 2, fld w 30 2⟩
def OpSetvl.toNat (o : OpSetvl) : Nat :=
  o.d.val * 0x80 + o.s1.val * 0x1000 + o.s2.val * 0x20000 + o.sew.val * 0x2000000 + o.group.val * 0x10000000 + o.depth.val * 0x40000000

def OpSetvli.ofWord (w : Nat) : OpSetvli :=
  ⟨fld w 7 5, fld w 12 5, fld w 17 5, fld w 25 2, fld w 28 2, fld w 30 2⟩
def OpSetvli.toNat (o : OpSetvli) : Nat :=
  o.d.val * 0x80 + o.s1.val * 0x1000 + o.count.val * 0x20000 + o.sew.val * 0x2000000 + o.group.val * 0x10000000 + o.depth.val * 0x40000000

def OpV.ofWord (w : Nat) : OpV :=
  ⟨fld w 7 5, fld w 12 5, fld w 17 5, fld w 22 3, fld w 25 2⟩
def OpV.toNat (o : OpV) : Nat :=
  o.d.val * 0x80 + o.s1.val * 0x1000 + o.s2.val * 0x20000 + o.pm.val * 0x400000 + o.sew.val * 0x2000000

def OpV1.ofWord (w : Nat) : OpV1 :=
  ⟨fld w 7 5, fld w 12 5, fld w 22 3, fld w 25 2⟩
def OpV1.toNat (o : OpV1) : Nat :=
  o.d.val * 0x80 + o.s1.val * 0x1000 + o.pm.val * 0x400000 + o.sew.val * 0x2000000

def OpV0.ofWord (w : Nat) : OpV0 :=
  ⟨fld w 7 5, fld w 22 3, fld w 25 2⟩
def OpV0.toNat (o : OpV0) : Nat :=
  o.d.val * 0x80 + o.pm.val * 0x400000 + o.sew.val * 0x2000000

def OpVMv.ofWord (w : Nat) : OpVMv :=
  ⟨fld w 7 5, fld w 12 5, fld w 25 2⟩
def OpVMv.toNat (o : OpVMv) : Nat :=
  o.d.val * 0x80 + o.s1.val * 0x1000 + o.sew.val * 0x2000000

def OpVCvt.ofWord (w : Nat) : OpVCvt :=
  ⟨fld w 7 5, fld w 12 5, fld w 17 3, fld w 21 1, fld w 22 3, fld w 25 2⟩
def OpVCvt.toNat (o : OpVCvt) : Nat :=
  o.d.val * 0x80 + o.s1.val * 0x1000 + o.other.val * 0x20000 + o.dir.val * 0x200000 + o.pm.val * 0x400000 + o.sew.val * 0x2000000

def OpVCvtI.ofWord (w : Nat) : OpVCvtI :=
  ⟨fld w 7 5, fld w 12 5, fld w 19 2, fld w 21 1, fld w 22 3, fld w 25 2⟩
def OpVCvtI.toNat (o : OpVCvtI) : Nat :=
  o.d.val * 0x80 + o.s1.val * 0x1000 + o.iw.val * 0x80000 + o.signed.val * 0x200000 + o.pm.val * 0x400000 + o.sew.val * 0x2000000

def OpVSeg.ofWord (w : Nat) : OpVSeg :=
  ⟨fld w 7 5, fld w 12 5, fld w 22 3, fld w 25 2, fld w 27 3, fld w 30 2⟩
def OpVSeg.toNat (o : OpVSeg) : Nat :=
  o.d.val * 0x80 + o.s1.val * 0x1000 + o.pm.val * 0x400000 + o.ew.val * 0x2000000 + o.nf.val * 0x8000000 + o.kind.val * 0x40000000

def OpVAmo.ofWord (w : Nat) : OpVAmo :=
  ⟨fld w 7 5, fld w 12 5, fld w 17 5, fld w 22 3, fld w 25 2, fld w 27 3⟩
def OpVAmo.toNat (o : OpVAmo) : Nat :=
  o.d.val * 0x80 + o.s1.val * 0x1000 + o.s2.val * 0x20000 + o.pm.val * 0x400000 + o.ew.val * 0x2000000 + o.aop.val * 0x8000000

def OpVBind.ofWord (w : Nat) : OpVBind :=
  ⟨fld w 7 5, fld w 12 5, fld w 17 5, fld w 22 3, fld w 25 2⟩
def OpVBind.toNat (o : OpVBind) : Nat :=
  o.d.val * 0x80 + o.s1.val * 0x1000 + o.s2.val * 0x20000 + o.view.val * 0x400000 + o.ew.val * 0x2000000

def OpMma.ofWord (w : Nat) : OpMma :=
  ⟨fld w 7 3, fld w 10 2, fld w 12 5, fld w 17 5, fld w 22 5, fld w 27 4, fld w 31 1⟩
def OpMma.toNat (o : OpMma) : Nat :=
  o.td.val * 0x80 + o.g.val * 0x400 + o.vA.val * 0x1000 + o.vB.val * 0x20000 + o.vS.val * 0x400000 + o.type.val * 0x8000000 + o.acc.val * 0x80000000

def OpMZero.ofWord (w : Nat) : OpMZero :=
  ⟨fld w 7 3⟩
def OpMZero.toNat (o : OpMZero) : Nat :=
  o.td.val * 0x80

def OpMtov.ofWord (w : Nat) : OpMtov :=
  ⟨fld w 7 5, fld w 12 5, fld w 22 3, fld w 25 2⟩
def OpMtov.toNat (o : OpMtov) : Nat :=
  o.d.val * 0x80 + o.s1.val * 0x1000 + o.ts.val * 0x400000 + o.cv.val * 0x2000000

def OpMvtot.ofWord (w : Nat) : OpMvtot :=
  ⟨fld w 7 3, fld w 12 5, fld w 17 5, fld w 25 2⟩
def OpMvtot.toNat (o : OpMvtot) : Nat :=
  o.td.val * 0x80 + o.s1.val * 0x1000 + o.s2.val * 0x20000 + o.cv.val * 0x2000000

def OpMstore.ofWord (w : Nat) : OpMstore :=
  ⟨fld w 12 5, fld w 17 5, fld w 22 3, fld w 25 2⟩
def OpMstore.toNat (o : OpMstore) : Nat :=
  o.s1.val * 0x1000 + o.s2.val * 0x20000 + o.ts.val * 0x400000 + o.cv.val * 0x2000000

def OpMmovt.ofWord (w : Nat) : OpMmovt :=
  ⟨fld w 7 3, fld w 22 3⟩
def OpMmovt.toNat (o : OpMmovt) : Nat :=
  o.td.val * 0x80 + o.ts.val * 0x400000

def OpG.ofWord (w : Nat) : OpG :=
  ⟨fld w 7 5, fld w 12 5, fld w 17 5, fld w 22 1, fld w 23 1, fld w 24 1, fld w 27 3⟩
def OpG.toNat (o : OpG) : Nat :=
  o.d.val * 0x80 + o.vp.val * 0x1000 + o.vs.val * 0x20000 + o.nf.val * 0x400000 + o.tb.val * 0x800000 + o.pf.val * 0x1000000 + o.pm.val * 0x8000000

def OpGstat.ofWord (w : Nat) : OpGstat :=
  ⟨fld w 7 5, fld w 12 2, fld w 22 1⟩
def OpGstat.toNat (o : OpGstat) : Nat :=
  o.d.val * 0x80 + o.stage.val * 0x1000 + o.clear.val * 0x400000

def OpFence.ofWord (w : Nat) : OpFence :=
  ⟨fld w 17 1, fld w 22 2, fld w 24 3⟩
def OpFence.toNat (o : OpFence) : Nat :=
  o.fetch.val * 0x20000 + o.ord.val * 0x400000 + o.scope.val * 0x1000000

def OpQdrain.ofWord (w : Nat) : OpQdrain :=
  ⟨fld w 12 7⟩
def OpQdrain.toNat (o : OpQdrain) : Nat :=
  o.set.val * 0x1000

def OpBar.ofWord (w : Nat) : OpBar :=
  ⟨fld w 7 5, fld w 12 5, fld w 22 2, fld w 24 3⟩
def OpBar.toNat (o : OpBar) : Nat :=
  o.d.val * 0x80 + o.s1.val * 0x1000 + o.ord.val * 0x400000 + o.scope.val * 0x1000000

def OpBarwait.ofWord (w : Nat) : OpBarwait :=
  ⟨fld w 7 5, fld w 12 5, fld w 17 5, fld w 22 2, fld w 24 3⟩
def OpBarwait.toNat (o : OpBarwait) : Nat :=
  o.d.val * 0x80 + o.s1.val * 0x1000 + o.s2.val * 0x20000 + o.ord.val * 0x400000 + o.scope.val * 0x1000000

def OpPotinit.ofWord (w : Nat) : OpPotinit :=
  ⟨fld w 7 5, fld w 12 5, fld w 17 5, fld w 24 3⟩
def OpPotinit.toNat (o : OpPotinit) : Nat :=
  o.policy.val * 0x80 + o.s1.val * 0x1000 + o.s2.val * 0x20000 + o.scope.val * 0x1000000

def OpRange.ofWord (w : Nat) : OpRange :=
  ⟨fld w 12 5, fld w 17 5, fld w 24 3⟩
def OpRange.toNat (o : OpRange) : Nat :=
  o.s1.val * 0x1000 + o.s2.val * 0x20000 + o.scope.val * 0x1000000

/-- The words of op7 0x01. -/
def decode01 (w : Nat) : Except DecodeError Instr :=
  match bits w 22 10 with
  | 0 => .ok (.add (OpDSS.ofWord w))
  | 1 => .ok (.sub (OpDSS.ofWord w))
  | 2 => .ok (.and (OpDSS.ofWord w))
  | 3 => .ok (.or (OpDSS.ofWord w))
  | 4 => .ok (.xor (OpDSS.ofWord w))
  | 5 => .ok (.shl (OpDSS.ofWord w))
  | 6 => .ok (.shr (OpDSS.ofWord w))
  | 7 => .ok (.sar (OpDSS.ofWord w))
  | 8 => .ok (.slt (OpDSS.ofWord w))
  | 9 => .ok (.sltu (OpDSS.ofWord w))
  | 10 => .ok (.min (OpDSS.ofWord w))
  | 11 => .ok (.max (OpDSS.ofWord w))
  | 12 => .ok (.minu (OpDSS.ofWord w))
  | 13 => .ok (.maxu (OpDSS.ofWord w))
  | _ => .error .unassigned

/-- The words of op7 0x02. -/
def decode02 (w : Nat) : Except DecodeError Instr :=
  match bits w 22 10 with
  | 0 => .ok (.mul (OpDSS.ofWord w))
  | 1 => .ok (.mulh (OpDSS.ofWord w))
  | 2 => .ok (.mulhu (OpDSS.ofWord w))
  | 3 => .ok (.div (OpDSS.ofWord w))
  | 4 => .ok (.divu (OpDSS.ofWord w))
  | 5 => .ok (.rem (OpDSS.ofWord w))
  | 6 => .ok (.remu (OpDSS.ofWord w))
  | _ => .error .unassigned

/-- The words of op7 0x03. -/
def decode03 (w : Nat) : Except DecodeError Instr :=
  match bits w 22 10 with
  | 0 => zero w 17 5 (.ok (.clz (OpDS.ofWord w)))
  | 1 => zero w 17 5 (.ok (.ctz (OpDS.ofWord w)))
  | 2 => zero w 17 5 (.ok (.popc (OpDS.ofWord w)))
  | 3 => zero w 17 5 (.ok (.brev (OpDS.ofWord w)))
  | _ => .error .unassigned

/-- The words of op7 0x04. -/
def decode04 (w : Nat) : Except DecodeError Instr :=
  match bits w 22 5 with
  | 0 => .ok (.fadd (OpFp3.ofWord w))
  | 1 => .ok (.fsub (OpFp3.ofWord w))
  | 2 => .ok (.fmul (OpFp3.ofWord w))
  | 3 => .ok (.fdiv (OpFp3.ofWord w))
  | 4 => zero w 17 5 (.ok (.fsqrt (OpFp2.ofWord w)))
  | 5 => zero w 29 3 (.ok (.fmin (OpFpMin.ofWord w)))
  | 6 => zero w 29 3 (.ok (.fmax (OpFpMin.ofWord w)))
  | 7 => .ok (.fcmp (OpFpCmp.ofWord w))
  | 8 => zero w 19 3 (.ok (.fcvt (OpFpCvt.ofWord w)))
  | 9 => zero w 19 3 (.ok (.fcvti (OpFpCvt.ofWord w)))
  | 10 => zero w 19 3 (.ok (.fcvtf (OpFpCvt.ofWord w)))
  | _ => .error .unassigned

/-- The words of op7 0x05. -/
def decode05 (w : Nat) : Except DecodeError Instr :=
  .ok (.fma (OpFp4.ofWord w))

/-- The words of op7 0x10. -/
def decode10 (w : Nat) : Except DecodeError Instr :=
  .ok (.addi (OpI.ofWord w))

/-- The words of op7 0x11. -/
def decode11 (w : Nat) : Except DecodeError Instr :=
  .ok (.andi (OpI.ofWord w))

/-- The words of op7 0x12. -/
def decode12 (w : Nat) : Except DecodeError Instr :=
  .ok (.ori (OpI.ofWord w))

/-- The words of op7 0x13. -/
def decode13 (w : Nat) : Except DecodeError Instr :=
  .ok (.xori (OpI.ofWord w))

/-- The words of op7 0x14. -/
def decode14 (w : Nat) : Except DecodeError Instr :=
  zero w 23 9 (.ok (.shli (OpSh.ofWord w)))

/-- The words of op7 0x15. -/
def decode15 (w : Nat) : Except DecodeError Instr :=
  zero w 23 9 (.ok (.shri (OpSh.ofWord w)))

/-- The words of op7 0x16. -/
def decode16 (w : Nat) : Except DecodeError Instr :=
  zero w 23 9 (.ok (.sari (OpSh.ofWord w)))

/-- The words of op7 0x17. -/
def decode17 (w : Nat) : Except DecodeError Instr :=
  .ok (.slti (OpI.ofWord w))

/-- The words of op7 0x18. -/
def decode18 (w : Nat) : Except DecodeError Instr :=
  .ok (.sltiu (OpI.ofWord w))

/-- The words of op7 0x20. -/
def decode20 (w : Nat) : Except DecodeError Instr :=
  .ok (.beq (OpB.ofWord w))

/-- The words of op7 0x21. -/
def decode21 (w : Nat) : Except DecodeError Instr :=
  .ok (.bne (OpB.ofWord w))

/-- The words of op7 0x22. -/
def decode22 (w : Nat) : Except DecodeError Instr :=
  .ok (.blt (OpB.ofWord w))

/-- The words of op7 0x23. -/
def decode23 (w : Nat) : Except DecodeError Instr :=
  .ok (.bge (OpB.ofWord w))

/-- The words of op7 0x24. -/
def decode24 (w : Nat) : Except DecodeError Instr :=
  .ok (.bltu (OpB.ofWord w))

/-- The words of op7 0x25. -/
def decode25 (w : Nat) : Except DecodeError Instr :=
  .ok (.bgeu (OpB.ofWord w))

/-- The words of op7 0x28. -/
def decode28 (w : Nat) : Except DecodeError Instr :=
  .ok (.jal (OpJ.ofWord w))

/-- The words of op7 0x29. -/
def decode29 (w : Nat) : Except DecodeError Instr :=
  .ok (.jalr (OpI.ofWord w))

/-- The words of op7 0x2C. -/
def decode2C (w : Nat) : Except DecodeError Instr :=
  .ok (.lui (OpU.ofWord w))

/-- The words of op7 0x2D. -/
def decode2D (w : Nat) : Except DecodeError Instr :=
  .ok (.auipc (OpU.ofWord w))

/-- The words of op7 0x30. -/
def decode30 (w : Nat) : Except DecodeError Instr :=
  .ok (.ld (OpLd.ofWord w))

/-- The words of op7 0x31. -/
def decode31 (w : Nat) : Except DecodeError Instr :=
  .ok (.ldu (OpLd.ofWord w))

/-- The words of op7 0x32. -/
def decode32 (w : Nat) : Except DecodeError Instr :=
  .ok (.st (OpSt.ofWord w))

/-- The words of op7 0x33. -/
def decode33 (w : Nat) : Except DecodeError Instr :=
  .ok (.amo (OpAmo.ofWord w))

/-- The words of op7 0x34. -/
def decode34 (w : Nat) : Except DecodeError Instr :=
  zero w 29 3 (.ok (.cas (OpCas.ofWord w)))

/-- The words of op7 0x40. -/
def decode40 (w : Nat) : Except DecodeError Instr :=
  match bits w 27 5 with
  | 0 => .ok (.vaddVV (OpV.ofWord w))
  | 1 => .ok (.vsubVV (OpV.ofWord w))
  | 2 => .ok (.vadcVV (OpV.ofWord w))
  | 3 => .ok (.vmadcVV (OpV.ofWord w))
  | 4 => .ok (.vsbcVV (OpV.ofWord w))
  | 5 => .ok (.vmsbcVV (OpV.ofWord w))
  | 6 => .ok (.vmulVV (OpV.ofWord w))
  | 7 => .ok (.vmulhVV (OpV.ofWord w))
  | 8 => .ok (.vmulhuVV (OpV.ofWord w))
  | 9 => .ok (.vdivVV (OpV.ofWord w))
  | 10 => .ok (.vdivuVV (OpV.ofWord w))
  | 11 => .ok (.vremVV (OpV.ofWord w))
  | 12 => .ok (.vandVV (OpV.ofWord w))
  | 13 => .ok (.vorVV (OpV.ofWord w))
  | 14 => .ok (.vxorVV (OpV.ofWord w))
  | 15 => .ok (.vshlVV (OpV.ofWord w))
  | 16 => .ok (.vshrVV (OpV.ofWord w))
  | 17 => .ok (.vsarVV (OpV.ofWord w))
  | 18 => .ok (.vminVV (OpV.ofWord w))
  | 19 => .ok (.vmaxVV (OpV.ofWord w))
  | 20 => .ok (.vsaddVV (OpV.ofWord w))
  | 21 => .ok (.vwaddVV (OpV.ofWord w))
  | 22 => .ok (.vnclipVV (OpV.ofWord w))
  | _ => .error .unassigned

/-- The words of op7 0x41. -/
def decode41 (w : Nat) : Except DecodeError Instr :=
  match bits w 27 5 with
  | 0 => .ok (.vaddVS (OpV.ofWord w))
  | 1 => .ok (.vsubVS (OpV.ofWord w))
  | 2 => .ok (.vadcVS (OpV.ofWord w))
  | 3 => .ok (.vmadcVS (OpV.ofWord w))
  | 4 => .ok (.vsbcVS (OpV.ofWord w))
  | 5 => .ok (.vmsbcVS (OpV.ofWord w))
  | 6 => .ok (.vmulVS (OpV.ofWord w))
  | 7 => .ok (.vmulhVS (OpV.ofWord w))
  | 8 => .ok (.vmulhuVS (OpV.ofWord w))
  | 9 => .ok (.vdivVS (OpV.ofWord w))
  | 10 => .ok (.vdivuVS (OpV.ofWord w))
  | 11 => .ok (.vremVS (OpV.ofWord w))
  | 12 => .ok (.vandVS (OpV.ofWord w))
  | 13 => .ok (.vorVS (OpV.ofWord w))
  | 14 => .ok (.vxorVS (OpV.ofWord w))
  | 15 => .ok (.vshlVS (OpV.ofWord w))
  | 16 => .ok (.vshrVS (OpV.ofWord w))
  | 17 => .ok (.vsarVS (OpV.ofWord w))
  | 18 => .ok (.vminVS (OpV.ofWord w))
  | 19 => .ok (.vmaxVS (OpV.ofWord w))
  | 20 => .ok (.vsaddVS (OpV.ofWord w))
  | 21 => .ok (.vwaddVS (OpV.ofWord w))
  | 22 => .ok (.vnclipVS (OpV.ofWord w))
  | _ => .error .unassigned

/-- The words of op7 0x42. -/
def decode42 (w : Nat) : Except DecodeError Instr :=
  match bits w 27 5 with
  | 0 => .ok (.vfaddVV (OpV.ofWord w))
  | 1 => .ok (.vfsubVV (OpV.ofWord w))
  | 2 => .ok (.vfmulVV (OpV.ofWord w))
  | 3 => .ok (.vfdivVV (OpV.ofWord w))
  | 4 => zero w 17 5 (.ok (.vfsqrt (OpV1.ofWord w)))
  | 5 => .ok (.vfmaVV (OpV.ofWord w))
  | 6 => .ok (.vfminVV (OpV.ofWord w))
  | 7 => .ok (.vfmaxVV (OpV.ofWord w))
  | 8 => zero w 20 1 (.ok (.vfcvt (OpVCvt.ofWord w)))
  | 9 => zero w 17 2 (.ok (.vfcvti (OpVCvtI.ofWord w)))
  | 10 => zero w 17 2 (.ok (.vfcvtf (OpVCvtI.ofWord w)))
  | 11 => zero w 17 5 (.ok (.vfexp2 (OpV1.ofWord w)))
  | _ => .error .unassigned

/-- The words of op7 0x43. -/
def decode43 (w : Nat) : Except DecodeError Instr :=
  match bits w 27 5 with
  | 0 => .ok (.vfaddVS (OpV.ofWord w))
  | 1 => .ok (.vfsubVS (OpV.ofWord w))
  | 2 => .ok (.vfmulVS (OpV.ofWord w))
  | 3 => .ok (.vfdivVS (OpV.ofWord w))
  | 5 => .ok (.vfmaVS (OpV.ofWord w))
  | 6 => .ok (.vfminVS (OpV.ofWord w))
  | 7 => .ok (.vfmaxVS (OpV.ofWord w))
  | _ => .error .unassigned

/-- The words of op7 0x44. -/
def decode44 (w : Nat) : Except DecodeError Instr :=
  match bits w 27 5 with
  | 0 => zero w 22 5 (.ok (.mand (OpDSS.ofWord w)))
  | 1 => zero w 22 5 (.ok (.mor (OpDSS.ofWord w)))
  | 2 => zero w 22 5 (.ok (.mxor (OpDSS.ofWord w)))
  | 3 => zero w 22 5 (.ok (.mandn (OpDSS.ofWord w)))
  | 4 => zero w 17 10 (.ok (.mnot (OpDS.ofWord w)))
  | 5 => zero w 17 10 (.ok (.mshl (OpDS.ofWord w)))
  | 6 => zero w 17 10 (.ok (.many (OpDS.ofWord w)))
  | 7 => zero w 17 10 (.ok (.mpopc (OpDS.ofWord w)))
  | 8 => zero w 17 10 (.ok (.mfirst (OpDS.ofWord w)))
  | 9 => zero w 12 15 (.ok (.mset (OpD.ofWord w)))
  | _ => .error .unassigned

/-- The words of op7 0x45. -/
def decode45 (w : Nat) : Except DecodeError Instr :=
  match bits w 27 5 with
  | 0 => zero w 17 5 (.ok (.vcompress (OpV1.ofWord w)))
  | 1 => zero w 17 5 (.ok (.vexpand (OpV1.ofWord w)))
  | 2 => zero w 12 10 (.ok (.viota (OpV0.ofWord w)))
  | 3 => zero w 17 5 (.ok (.vconflict (OpV1.ofWord w)))
  | 4 => .ok (.vgather (OpV.ofWord w))
  | 5 => .ok (.vslideup (OpV.ofWord w))
  | 6 => .ok (.vslidedn (OpV.ofWord w))
  | 7 => zero w 17 5 (.ok (.vbcast (OpV1.ofWord w)))
  | _ => .error .unassigned

/-- The words of op7 0x46. -/
def decode46 (w : Nat) : Except DecodeError Instr :=
  match bits w 27 5 with
  | 0 => .ok (.vredsum (OpV.ofWord w))
  | 1 => .ok (.vredmax (OpV.ofWord w))
  | 2 => .ok (.vredmin (OpV.ofWord w))
  | 3 => .ok (.vredfsum (OpV.ofWord w))
  | 4 => .ok (.vredfmax (OpV.ofWord w))
  | _ => .error .unassigned

/-- The words of op7 0x47. -/
def decode47 (w : Nat) : Except DecodeError Instr :=
  match bits w 27 5 with
  | 0 => zero w 17 8 (.ok (.vmvxs (OpVMv.ofWord w)))
  | 1 => zero w 17 8 (.ok (.vmvsx (OpVMv.ofWord w)))
  | _ => .error .unassigned

/-- The words of op7 0x48. -/
def decode48 (w : Nat) : Except DecodeError Instr :=
  match bits w 22 3 with
  | 0 => zero w 27 1 (.ok (.setvl (OpSetvl.ofWord w)))
  | 1 => zero w 27 1 (.ok (.setvli (OpSetvli.ofWord w)))
  | 2 => zero w 17 5 (zero w 25 7 (.ok (.setvlc (OpDS.ofWord w))))
  | _ => .error .unassigned

/-- The words of op7 0x49. -/
def decode49 (w : Nat) : Except DecodeError Instr :=
  match bits w 27 5 with
  | 0 => .ok (.vcmpeqVV (OpV.ofWord w))
  | 1 => .ok (.vcmpneVV (OpV.ofWord w))
  | 2 => .ok (.vcmpltVV (OpV.ofWord w))
  | 3 => .ok (.vcmpleVV (OpV.ofWord w))
  | 4 => .ok (.vcmpltuVV (OpV.ofWord w))
  | 5 => .ok (.vcmpleuVV (OpV.ofWord w))
  | 6 => .ok (.vcmpgtVV (OpV.ofWord w))
  | 7 => .ok (.vcmpgtuVV (OpV.ofWord w))
  | 8 => .ok (.vcmpfeqVV (OpV.ofWord w))
  | 9 => .ok (.vcmpfltVV (OpV.ofWord w))
  | 10 => .ok (.vcmpfleVV (OpV.ofWord w))
  | 11 => .ok (.vcmpfunordVV (OpV.ofWord w))
  | _ => .error .unassigned

/-- The words of op7 0x4A. -/
def decode4A (w : Nat) : Except DecodeError Instr :=
  match bits w 27 5 with
  | 0 => .ok (.vcmpeqVS (OpV.ofWord w))
  | 1 => .ok (.vcmpneVS (OpV.ofWord w))
  | 2 => .ok (.vcmpltVS (OpV.ofWord w))
  | 3 => .ok (.vcmpleVS (OpV.ofWord w))
  | 4 => .ok (.vcmpltuVS (OpV.ofWord w))
  | 5 => .ok (.vcmpleuVS (OpV.ofWord w))
  | 6 => .ok (.vcmpgtVS (OpV.ofWord w))
  | 7 => .ok (.vcmpgtuVS (OpV.ofWord w))
  | 8 => .ok (.vcmpfeqVS (OpV.ofWord w))
  | 9 => .ok (.vcmpfltVS (OpV.ofWord w))
  | 10 => .ok (.vcmpfleVS (OpV.ofWord w))
  | 11 => .ok (.vcmpfunordVS (OpV.ofWord w))
  | _ => .error .unassigned

/-- The words of op7 0x50. -/
def decode50 (w : Nat) : Except DecodeError Instr :=
  zero w 17 5 (zero w 27 5 (.ok (.vld (OpV1.ofWord w))))

/-- The words of op7 0x51. -/
def decode51 (w : Nat) : Except DecodeError Instr :=
  zero w 27 5 (.ok (.vlds (OpV.ofWord w)))

/-- The words of op7 0x52. -/
def decode52 (w : Nat) : Except DecodeError Instr :=
  zero w 27 5 (.ok (.vldx (OpV.ofWord w)))

/-- The words of op7 0x53. -/
def decode53 (w : Nat) : Except DecodeError Instr :=
  zero w 17 5 (.ok (.vlseg (OpVSeg.ofWord w)))

/-- The words of op7 0x54. -/
def decode54 (w : Nat) : Except DecodeError Instr :=
  zero w 17 5 (zero w 27 5 (.ok (.vst (OpV1.ofWord w))))

/-- The words of op7 0x55. -/
def decode55 (w : Nat) : Except DecodeError Instr :=
  zero w 27 5 (.ok (.vsts (OpV.ofWord w)))

/-- The words of op7 0x56. -/
def decode56 (w : Nat) : Except DecodeError Instr :=
  zero w 27 5 (.ok (.vstx (OpV.ofWord w)))

/-- The words of op7 0x57. -/
def decode57 (w : Nat) : Except DecodeError Instr :=
  zero w 17 5 (.ok (.vsseg (OpVSeg.ofWord w)))

/-- The words of op7 0x58. -/
def decode58 (w : Nat) : Except DecodeError Instr :=
  zero w 30 2 (.ok (.vamo (OpVAmo.ofWord w)))

/-- The words of op7 0x59. -/
def decode59 (w : Nat) : Except DecodeError Instr :=
  zero w 27 5 (.ok (.vbind (OpVBind.ofWord w)))

/-- The words of op7 0x5A. -/
def decode5A (w : Nat) : Except DecodeError Instr :=
  zero w 12 20 (.ok (.vunbind (OpD.ofWord w)))

/-- The words of op7 0x60. -/
def decode60 (w : Nat) : Except DecodeError Instr :=
  .ok (.mma (OpMma.ofWord w))

/-- The words of op7 0x61. -/
def decode61 (w : Nat) : Except DecodeError Instr :=
  match bits w 27 5 with
  | 0 => zero w 22 5 (.ok (.mshape (OpDSS.ofWord w)))
  | 1 => zero w 10 17 (.ok (.mzero (OpMZero.ofWord w)))
  | 2 => zero w 17 5 (.ok (.mtov (OpMtov.ofWord w)))
  | 3 => zero w 10 2 (zero w 22 3 (.ok (.mvtot (OpMvtot.ofWord w))))
  | 4 => zero w 7 5 (.ok (.mstore (OpMstore.ofWord w)))
  | 5 => zero w 10 2 (zero w 22 3 (.ok (.mload (OpMvtot.ofWord w))))
  | 6 => zero w 10 12 (zero w 25 2 (.ok (.mmovt (OpMmovt.ofWord w))))
  | _ => .error .unassigned

/-- The words of op7 0x62. -/
def decode62 (w : Nat) : Except DecodeError Instr :=
  match bits w 25 2 with
  | 0 => zero w 30 2 (.ok (.gori2 (OpG.ofWord w)))
  | 1 => zero w 30 2 (.ok (.ginc (OpG.ofWord w)))
  | 2 => zero w 30 2 (.ok (.gseg (OpG.ofWord w)))
  | _ => .error .unassigned

/-- The words of op7 0x63. -/
def decode63 (w : Nat) : Except DecodeError Instr :=
  match bits w 25 2 with
  | 0 => zero w 30 2 (.ok (.gori3 (OpG.ofWord w)))
  | 1 => zero w 30 2 (.ok (.gins (OpG.ofWord w)))
  | 3 => zero w 14 8 (zero w 23 2 (zero w 27 5 (.ok (.gstat (OpGstat.ofWord w)))))
  | _ => .error .unassigned

/-- The words of op7 0x70. -/
def decode70 (w : Nat) : Except DecodeError Instr :=
  .ok (.hint (OpHint.ofWord w))

/-- The words of op7 0x71. -/
def decode71 (w : Nat) : Except DecodeError Instr :=
  match bits w 27 5 with
  | 0 => zero w 7 10 (zero w 18 4 (.ok (.fence (OpFence.ofWord w))))
  | 4 => zero w 7 5 (zero w 19 8 (.ok (.qdrain (OpQdrain.ofWord w))))
  | 5 => zero w 17 5 (.ok (.barrive (OpBar.ofWord w)))
  | 6 => .ok (.barwait (OpBarwait.ofWord w))
  | 7 => zero w 7 5 (zero w 22 5 (.ok (.barexp (OpSS.ofWord w))))
  | 8 => zero w 17 5 (.ok (.mwatchld (OpBar.ofWord w)))
  | 9 => zero w 17 10 (.ok (.mwait (OpDS.ofWord w)))
  | 2 => zero w 7 20 (.ok .svfence)
  | 3 => zero w 7 20 (.ok .vsfence)
  | 10 => zero w 7 20 (.ok .heartbeat)
  | _ => .error .unassigned

/-- The words of op7 0x72. -/
def decode72 (w : Nat) : Except DecodeError Instr :=
  match bits w 27 5 with
  | 0 => zero w 22 5 (.ok (.pottake (OpDSS.ofWord w)))
  | 1 => zero w 22 5 (.ok (.pottakeq (OpDSS.ofWord w)))
  | 2 => zero w 22 5 (.ok (.potgive (OpDSS.ofWord w)))
  | 3 => zero w 17 10 (.ok (.potreadx (OpDS.ofWord w)))
  | 4 => zero w 17 10 (.ok (.potread (OpDS.ofWord w)))
  | 5 => zero w 22 2 (.ok (.potinit (OpPotinit.ofWord w)))
  | _ => .error .unassigned

/-- The words of op7 0x73. -/
def decode73 (w : Nat) : Except DecodeError Instr :=
  match bits w 27 5 with
  | 0 => zero w 7 5 (zero w 22 5 (.ok (.settle (OpSS.ofWord w))))
  | 1 => zero w 7 5 (zero w 22 5 (.ok (.renew (OpSS.ofWord w))))
  | 2 => zero w 17 10 (.ok (.scount (OpDS.ofWord w)))
  | 3 => zero w 7 5 (zero w 22 2 (.ok (.rwb (OpRange.ofWord w))))
  | 4 => zero w 7 5 (zero w 22 2 (.ok (.rinv (OpRange.ofWord w))))
  | 5 => zero w 7 5 (zero w 22 2 (.ok (.rwbinv (OpRange.ofWord w))))
  | 6 => zero w 7 5 (zero w 22 5 (.ok (.discard (OpSS.ofWord w))))
  | 7 => zero w 7 5 (zero w 22 5 (.ok (.rtouch (OpSS.ofWord w))))
  | _ => .error .unassigned

/-- The words of op7 0x74. -/
def decode74 (w : Nat) : Except DecodeError Instr :=
  match bits w 27 5 with
  | 0 => zero w 22 5 (.ok (.cpy (OpDSS.ofWord w)))
  | 1 => zero w 7 5 (zero w 17 10 (.ok (.cpywait (OpS.ofWord w))))
  | 2 => zero w 17 10 (.ok (.bkop (OpDS.ofWord w)))
  | 3 => zero w 17 10 (.ok (.bgemv (OpDS.ofWord w)))
  | 4 => zero w 17 10 (.ok (.battn (OpDS.ofWord w)))
  | 6 => zero w 17 10 (.ok (.cpyq (OpDS.ofWord w)))
  | 7 => zero w 7 5 (zero w 17 10 (.ok (.bkwait (OpS.ofWord w))))
  | 5 => zero w 7 20 (.ok .bkfence)
  | _ => .error .unassigned

/-- The words of op7 0x75. -/
def decode75 (w : Nat) : Except DecodeError Instr :=
  match bits w 27 5 with
  | 0 => zero w 17 10 (.ok (.farm (OpDS.ofWord w)))
  | 1 => zero w 12 15 (.ok (.strip (OpD.ofWord w)))
  | 4 => zero w 17 10 (.ok (.fquery (OpDS.ofWord w)))
  | 2 => zero w 7 20 (.ok .fend)
  | 3 => zero w 7 20 (.ok .yield)
  | _ => .error .unassigned

/-- The words of op7 0x76. -/
def decode76 (w : Nat) : Except DecodeError Instr :=
  match bits w 29 3 with
  | 0 => .ok (.csrrw (OpCsr.ofWord w))
  | 1 => .ok (.csrrs (OpCsr.ofWord w))
  | 2 => .ok (.csrrc (OpCsr.ofWord w))
  | _ => .error .unassigned

/-- The words of op7 0x77. -/
def decode77 (w : Nat) : Except DecodeError Instr :=
  match bits w 27 5 with
  | 4 => zero w 7 5 (zero w 22 5 (.ok (.tlbinv (OpSS.ofWord w))))
  | 5 => zero w 22 5 (.ok (.ctxhalt (OpDSS.ofWord w)))
  | 6 => zero w 22 5 (.ok (.ctxresume (OpDSS.ofWord w)))
  | 0 => zero w 7 20 (.ok .ecall)
  | 1 => zero w 7 20 (.ok .ebreak)
  | 3 => zero w 7 20 (.ok .uiret)
  | 2 => zero w 17 10 (if w / 0x80 % 1024 = 0 then .ok .tret else .ok (.tretResume (OpDS.ofWord w)))
  | _ => .error .unassigned

/-- The words of op7 0x7F. -/
def decode7F (w : Nat) : Except DecodeError Instr :=
  zero w 18 14 (.ok (.lend (OpLend.ofWord w)))

/-- The word's fields, before the checks on their values: op7 selects (R33, R37 to R44). -/
def decodeFields (w : Nat) : Except DecodeError Instr :=
  match w % 128 with
  | 0x01 => decode01 w
  | 0x02 => decode02 w
  | 0x03 => decode03 w
  | 0x04 => decode04 w
  | 0x05 => decode05 w
  | 0x10 => decode10 w
  | 0x11 => decode11 w
  | 0x12 => decode12 w
  | 0x13 => decode13 w
  | 0x14 => decode14 w
  | 0x15 => decode15 w
  | 0x16 => decode16 w
  | 0x17 => decode17 w
  | 0x18 => decode18 w
  | 0x20 => decode20 w
  | 0x21 => decode21 w
  | 0x22 => decode22 w
  | 0x23 => decode23 w
  | 0x24 => decode24 w
  | 0x25 => decode25 w
  | 0x28 => decode28 w
  | 0x29 => decode29 w
  | 0x2C => decode2C w
  | 0x2D => decode2D w
  | 0x30 => decode30 w
  | 0x31 => decode31 w
  | 0x32 => decode32 w
  | 0x33 => decode33 w
  | 0x34 => decode34 w
  | 0x40 => decode40 w
  | 0x41 => decode41 w
  | 0x42 => decode42 w
  | 0x43 => decode43 w
  | 0x44 => decode44 w
  | 0x45 => decode45 w
  | 0x46 => decode46 w
  | 0x47 => decode47 w
  | 0x48 => decode48 w
  | 0x49 => decode49 w
  | 0x4A => decode4A w
  | 0x50 => decode50 w
  | 0x51 => decode51 w
  | 0x52 => decode52 w
  | 0x53 => decode53 w
  | 0x54 => decode54 w
  | 0x55 => decode55 w
  | 0x56 => decode56 w
  | 0x57 => decode57 w
  | 0x58 => decode58 w
  | 0x59 => decode59 w
  | 0x5A => decode5A w
  | 0x60 => decode60 w
  | 0x61 => decode61 w
  | 0x62 => decode62 w
  | 0x63 => decode63 w
  | 0x70 => decode70 w
  | 0x71 => decode71 w
  | 0x72 => decode72 w
  | 0x73 => decode73 w
  | 0x74 => decode74 w
  | 0x75 => decode75 w
  | 0x76 => decode76 w
  | 0x77 => decode77 w
  | 0x7F => decode7F w
  | _ => .error .unassigned

/-- A whole word: its fields, then the checks on their values (R46 items 1 to 4). -/
def decodeWord (w : Nat) : Except DecodeError Instr :=
  match decodeFields w with
  | .ok i => if i.wellFormed then .ok i else .error .illFormed
  | .error e => .error e

/-- The little-endian value of bytes, the lowest address first (R9, R33). -/
def leValue : List Byte → Nat
  | [] => 0
  | b :: bs => b.toNat + 256 * leValue bs

/-- The low `n` bytes of `w`, the lowest address first. -/
def leBytes : Nat → Nat → List Byte
  | 0, _ => []
  | n + 1, w => BitVec.ofNat 8 w :: leBytes n (w / 256)

/-- Decoding from bytes: one word of four bytes, and the rest of the bytes. -/
def decode : List Byte → Except DecodeError (Instr × List Byte)
  | b0 :: b1 :: b2 :: b3 :: rest =>
    match decodeWord (leValue [b0, b1, b2, b3]) with
    | .ok i => .ok (i, rest)
    | .error e => .error e
  | _ => .error .short

/-- The word of an instruction (R35 to R44); a machine event has no word and gets the illegal word 0 (R45). -/
def encode : Instr → Nat
  | .add o => 0x00000001 + o.toNat
  | .sub o => 0x00400001 + o.toNat
  | .and o => 0x00800001 + o.toNat
  | .or o => 0x00C00001 + o.toNat
  | .xor o => 0x01000001 + o.toNat
  | .shl o => 0x01400001 + o.toNat
  | .shr o => 0x01800001 + o.toNat
  | .sar o => 0x01C00001 + o.toNat
  | .slt o => 0x02000001 + o.toNat
  | .sltu o => 0x02400001 + o.toNat
  | .min o => 0x02800001 + o.toNat
  | .max o => 0x02C00001 + o.toNat
  | .minu o => 0x03000001 + o.toNat
  | .maxu o => 0x03400001 + o.toNat
  | .mul o => 0x00000002 + o.toNat
  | .mulh o => 0x00400002 + o.toNat
  | .mulhu o => 0x00800002 + o.toNat
  | .div o => 0x00C00002 + o.toNat
  | .divu o => 0x01000002 + o.toNat
  | .rem o => 0x01400002 + o.toNat
  | .remu o => 0x01800002 + o.toNat
  | .clz o => 0x00000003 + o.toNat
  | .ctz o => 0x00400003 + o.toNat
  | .popc o => 0x00800003 + o.toNat
  | .brev o => 0x00C00003 + o.toNat
  | .fadd o => 0x00000004 + o.toNat
  | .fsub o => 0x00400004 + o.toNat
  | .fmul o => 0x00800004 + o.toNat
  | .fdiv o => 0x00C00004 + o.toNat
  | .fsqrt o => 0x01000004 + o.toNat
  | .fmin o => 0x01400004 + o.toNat
  | .fmax o => 0x01800004 + o.toNat
  | .fcmp o => 0x01C00004 + o.toNat
  | .fcvt o => 0x02000004 + o.toNat
  | .fcvti o => 0x02400004 + o.toNat
  | .fcvtf o => 0x02800004 + o.toNat
  | .fma o => 0x00000005 + o.toNat
  | .addi o => 0x00000010 + o.toNat
  | .andi o => 0x00000011 + o.toNat
  | .ori o => 0x00000012 + o.toNat
  | .xori o => 0x00000013 + o.toNat
  | .shli o => 0x00000014 + o.toNat
  | .shri o => 0x00000015 + o.toNat
  | .sari o => 0x00000016 + o.toNat
  | .slti o => 0x00000017 + o.toNat
  | .sltiu o => 0x00000018 + o.toNat
  | .beq o => 0x00000020 + o.toNat
  | .bne o => 0x00000021 + o.toNat
  | .blt o => 0x00000022 + o.toNat
  | .bge o => 0x00000023 + o.toNat
  | .bltu o => 0x00000024 + o.toNat
  | .bgeu o => 0x00000025 + o.toNat
  | .jal o => 0x00000028 + o.toNat
  | .jalr o => 0x00000029 + o.toNat
  | .lui o => 0x0000002C + o.toNat
  | .auipc o => 0x0000002D + o.toNat
  | .ld o => 0x00000030 + o.toNat
  | .ldu o => 0x00000031 + o.toNat
  | .st o => 0x00000032 + o.toNat
  | .amo o => 0x00000033 + o.toNat
  | .cas o => 0x00000034 + o.toNat
  | .csrrw o => 0x00000076 + o.toNat
  | .csrrs o => 0x20000076 + o.toNat
  | .csrrc o => 0x40000076 + o.toNat
  | .hint o => 0x00000070 + o.toNat
  | .lend o => 0x0000007F + o.toNat
  | .setvl o => 0x00000048 + o.toNat
  | .setvli o => 0x00400048 + o.toNat
  | .setvlc o => 0x00800048 + o.toNat
  | .vaddVV o => 0x00000040 + o.toNat
  | .vsubVV o => 0x08000040 + o.toNat
  | .vadcVV o => 0x10000040 + o.toNat
  | .vmadcVV o => 0x18000040 + o.toNat
  | .vsbcVV o => 0x20000040 + o.toNat
  | .vmsbcVV o => 0x28000040 + o.toNat
  | .vmulVV o => 0x30000040 + o.toNat
  | .vmulhVV o => 0x38000040 + o.toNat
  | .vmulhuVV o => 0x40000040 + o.toNat
  | .vdivVV o => 0x48000040 + o.toNat
  | .vdivuVV o => 0x50000040 + o.toNat
  | .vremVV o => 0x58000040 + o.toNat
  | .vandVV o => 0x60000040 + o.toNat
  | .vorVV o => 0x68000040 + o.toNat
  | .vxorVV o => 0x70000040 + o.toNat
  | .vshlVV o => 0x78000040 + o.toNat
  | .vshrVV o => 0x80000040 + o.toNat
  | .vsarVV o => 0x88000040 + o.toNat
  | .vminVV o => 0x90000040 + o.toNat
  | .vmaxVV o => 0x98000040 + o.toNat
  | .vsaddVV o => 0xA0000040 + o.toNat
  | .vwaddVV o => 0xA8000040 + o.toNat
  | .vnclipVV o => 0xB0000040 + o.toNat
  | .vaddVS o => 0x00000041 + o.toNat
  | .vsubVS o => 0x08000041 + o.toNat
  | .vadcVS o => 0x10000041 + o.toNat
  | .vmadcVS o => 0x18000041 + o.toNat
  | .vsbcVS o => 0x20000041 + o.toNat
  | .vmsbcVS o => 0x28000041 + o.toNat
  | .vmulVS o => 0x30000041 + o.toNat
  | .vmulhVS o => 0x38000041 + o.toNat
  | .vmulhuVS o => 0x40000041 + o.toNat
  | .vdivVS o => 0x48000041 + o.toNat
  | .vdivuVS o => 0x50000041 + o.toNat
  | .vremVS o => 0x58000041 + o.toNat
  | .vandVS o => 0x60000041 + o.toNat
  | .vorVS o => 0x68000041 + o.toNat
  | .vxorVS o => 0x70000041 + o.toNat
  | .vshlVS o => 0x78000041 + o.toNat
  | .vshrVS o => 0x80000041 + o.toNat
  | .vsarVS o => 0x88000041 + o.toNat
  | .vminVS o => 0x90000041 + o.toNat
  | .vmaxVS o => 0x98000041 + o.toNat
  | .vsaddVS o => 0xA0000041 + o.toNat
  | .vwaddVS o => 0xA8000041 + o.toNat
  | .vnclipVS o => 0xB0000041 + o.toNat
  | .vfaddVV o => 0x00000042 + o.toNat
  | .vfsubVV o => 0x08000042 + o.toNat
  | .vfmulVV o => 0x10000042 + o.toNat
  | .vfdivVV o => 0x18000042 + o.toNat
  | .vfsqrt o => 0x20000042 + o.toNat
  | .vfmaVV o => 0x28000042 + o.toNat
  | .vfminVV o => 0x30000042 + o.toNat
  | .vfmaxVV o => 0x38000042 + o.toNat
  | .vfcvt o => 0x40000042 + o.toNat
  | .vfcvti o => 0x48000042 + o.toNat
  | .vfcvtf o => 0x50000042 + o.toNat
  | .vfexp2 o => 0x58000042 + o.toNat
  | .vfaddVS o => 0x00000043 + o.toNat
  | .vfsubVS o => 0x08000043 + o.toNat
  | .vfmulVS o => 0x10000043 + o.toNat
  | .vfdivVS o => 0x18000043 + o.toNat
  | .vfmaVS o => 0x28000043 + o.toNat
  | .vfminVS o => 0x30000043 + o.toNat
  | .vfmaxVS o => 0x38000043 + o.toNat
  | .mand o => 0x00000044 + o.toNat
  | .mor o => 0x08000044 + o.toNat
  | .mxor o => 0x10000044 + o.toNat
  | .mandn o => 0x18000044 + o.toNat
  | .mnot o => 0x20000044 + o.toNat
  | .mshl o => 0x28000044 + o.toNat
  | .many o => 0x30000044 + o.toNat
  | .mpopc o => 0x38000044 + o.toNat
  | .mfirst o => 0x40000044 + o.toNat
  | .mset o => 0x48000044 + o.toNat
  | .vcompress o => 0x00000045 + o.toNat
  | .vexpand o => 0x08000045 + o.toNat
  | .viota o => 0x10000045 + o.toNat
  | .vconflict o => 0x18000045 + o.toNat
  | .vgather o => 0x20000045 + o.toNat
  | .vslideup o => 0x28000045 + o.toNat
  | .vslidedn o => 0x30000045 + o.toNat
  | .vbcast o => 0x38000045 + o.toNat
  | .vredsum o => 0x00000046 + o.toNat
  | .vredmax o => 0x08000046 + o.toNat
  | .vredmin o => 0x10000046 + o.toNat
  | .vredfsum o => 0x18000046 + o.toNat
  | .vredfmax o => 0x20000046 + o.toNat
  | .vmvxs o => 0x00000047 + o.toNat
  | .vmvsx o => 0x08000047 + o.toNat
  | .vcmpeqVV o => 0x00000049 + o.toNat
  | .vcmpneVV o => 0x08000049 + o.toNat
  | .vcmpltVV o => 0x10000049 + o.toNat
  | .vcmpleVV o => 0x18000049 + o.toNat
  | .vcmpltuVV o => 0x20000049 + o.toNat
  | .vcmpleuVV o => 0x28000049 + o.toNat
  | .vcmpgtVV o => 0x30000049 + o.toNat
  | .vcmpgtuVV o => 0x38000049 + o.toNat
  | .vcmpfeqVV o => 0x40000049 + o.toNat
  | .vcmpfltVV o => 0x48000049 + o.toNat
  | .vcmpfleVV o => 0x50000049 + o.toNat
  | .vcmpfunordVV o => 0x58000049 + o.toNat
  | .vcmpeqVS o => 0x0000004A + o.toNat
  | .vcmpneVS o => 0x0800004A + o.toNat
  | .vcmpltVS o => 0x1000004A + o.toNat
  | .vcmpleVS o => 0x1800004A + o.toNat
  | .vcmpltuVS o => 0x2000004A + o.toNat
  | .vcmpleuVS o => 0x2800004A + o.toNat
  | .vcmpgtVS o => 0x3000004A + o.toNat
  | .vcmpgtuVS o => 0x3800004A + o.toNat
  | .vcmpfeqVS o => 0x4000004A + o.toNat
  | .vcmpfltVS o => 0x4800004A + o.toNat
  | .vcmpfleVS o => 0x5000004A + o.toNat
  | .vcmpfunordVS o => 0x5800004A + o.toNat
  | .vld o => 0x00000050 + o.toNat
  | .vlds o => 0x00000051 + o.toNat
  | .vldx o => 0x00000052 + o.toNat
  | .vlseg o => 0x00000053 + o.toNat
  | .vst o => 0x00000054 + o.toNat
  | .vsts o => 0x00000055 + o.toNat
  | .vstx o => 0x00000056 + o.toNat
  | .vsseg o => 0x00000057 + o.toNat
  | .vamo o => 0x00000058 + o.toNat
  | .vbind o => 0x00000059 + o.toNat
  | .vunbind o => 0x0000005A + o.toNat
  | .mma o => 0x00000060 + o.toNat
  | .mshape o => 0x00000061 + o.toNat
  | .mzero o => 0x08000061 + o.toNat
  | .mtov o => 0x10000061 + o.toNat
  | .mvtot o => 0x18000061 + o.toNat
  | .mstore o => 0x20000061 + o.toNat
  | .mload o => 0x28000061 + o.toNat
  | .mmovt o => 0x30000061 + o.toNat
  | .gori2 o => 0x00000062 + o.toNat
  | .ginc o => 0x02000062 + o.toNat
  | .gseg o => 0x04000062 + o.toNat
  | .gori3 o => 0x00000063 + o.toNat
  | .gins o => 0x02000063 + o.toNat
  | .gstat o => 0x06000063 + o.toNat
  | .fence o => 0x00000071 + o.toNat
  | .qdrain o => 0x20000071 + o.toNat
  | .barrive o => 0x28000071 + o.toNat
  | .barwait o => 0x30000071 + o.toNat
  | .barexp o => 0x38000071 + o.toNat
  | .mwatchld o => 0x40000071 + o.toNat
  | .mwait o => 0x48000071 + o.toNat
  | .pottake o => 0x00000072 + o.toNat
  | .pottakeq o => 0x08000072 + o.toNat
  | .potgive o => 0x10000072 + o.toNat
  | .potreadx o => 0x18000072 + o.toNat
  | .potread o => 0x20000072 + o.toNat
  | .potinit o => 0x28000072 + o.toNat
  | .settle o => 0x00000073 + o.toNat
  | .renew o => 0x08000073 + o.toNat
  | .scount o => 0x10000073 + o.toNat
  | .rwb o => 0x18000073 + o.toNat
  | .rinv o => 0x20000073 + o.toNat
  | .rwbinv o => 0x28000073 + o.toNat
  | .discard o => 0x30000073 + o.toNat
  | .rtouch o => 0x38000073 + o.toNat
  | .cpy o => 0x00000074 + o.toNat
  | .cpywait o => 0x08000074 + o.toNat
  | .bkop o => 0x10000074 + o.toNat
  | .bgemv o => 0x18000074 + o.toNat
  | .battn o => 0x20000074 + o.toNat
  | .cpyq o => 0x30000074 + o.toNat
  | .bkwait o => 0x38000074 + o.toNat
  | .farm o => 0x00000075 + o.toNat
  | .strip o => 0x08000075 + o.toNat
  | .fquery o => 0x20000075 + o.toNat
  | .tretResume o => 0x10000077 + o.toNat
  | .tlbinv o => 0x20000077 + o.toNat
  | .ctxhalt o => 0x28000077 + o.toNat
  | .ctxresume o => 0x30000077 + o.toNat
  | .ecall => 0x00000077
  | .ebreak => 0x08000077
  | .svfence => 0x10000071
  | .vsfence => 0x18000071
  | .heartbeat => 0x50000071
  | .bkfence => 0x28000074
  | .fend => 0x10000075
  | .yield => 0x18000075
  | .uiret => 0x18000077
  | .tret => 0x10000077
  | .streamDelivery => 0
  | .mwaitTimeout => 0
  | .potHomeRequest => 0
  | .maskClear => 0
  | .trapDelivery => 0
  | .faultRecordAppend => 0
  | .uiEventDelivery => 0
  | .hartAdmission => 0
  | .roundBoundary => 0
  | .watchdogExpiry => 0
  | .writeBackMerge => 0
  | .pageRevival => 0
  | .writeRangeAppend => 0
  | .collapse => 0
  | .migcmd => 0
  | .migrationComplete => 0
  | .hintRowClose => 0
  | .extentAdded => 0
  | .extentReleaseRequest => 0
  | .extack => 0
  | .forcedExtentRelease => 0
  | .revclr => 0
  | .extentRecordAppend => 0
  | .copyChunk => 0
  | .remoteChunkWrite => 0
  | .remoteChunkAck => 0
  | .strelvisPart => 0
  | .hbmRefresh => 0
  | .channelPowerDownRequest => 0
  | .contextImageWrite => 0
  | .hartRecordWrite => 0
  | .preemptedHartPlacement => 0
  | .resumedHartPlacement => 0
  | .powerOn => 0
  | .bootTryTimeout => 0
  | .bootImageArrival => 0
  | .bootdb => 0
  | .fdlaunch => 0
  | .meassel => 0
  | .attreq => 0
  | .attestReportComplete => 0
  | .telcommit => 0
  | .telemetryCommitComplete => 0
  | .telemetryPeriodicCommit => 0
  | .powerDown => 0
  | .deviceRegisterWrite => 0
  | .linkRetrain => 0
  | .flitRetransmit => 0
  | .thermalExcursionStart => 0
  | .thermalExcursionEnd => 0
  | .hostWrite => 0
  | .hostRead => 0
  | .softErrorCorrection => 0
  | .epInstructionComplete => 0
  | .linkRetrainEnd => 0
  | .powerLoss => 0

/-- The bytes of an instruction as memory holds them. -/
def encodeBytes (i : Instr) : List Byte := leBytes 4 (encode i)

/-- The instruction the decoder reads from the bits `w`, numbered as the opcode table numbers them: every instruction is one word of
32 bits, so whatever `nbits` is the four bytes of `w` are laid out little-endian and decoded. -/
def decodeTableWord (nbits w : Nat) : Option Instr :=
  match decode (leBytes 4 (w % 2 ^ nbits)) with
  | .ok (i, _) => some i
  | .error _ => none

end Sys2Proof
end

