-- ==== Sys2Proof/Config.lean ====
section
/-! DEFINITION. What the part fixes, and the free values: constants without a body, so that no proof can rest on what they are. -/

namespace Sys2Proof.Config

/-- HARDWARE FREEDOMS: the choice the hardware makes where a rule leaves one (a victim way, the core that admits a hart); a user of it
reduces it to the number of choices. Its argument is the counter `State.free` (log 8). -/
opaque choice : Nat → Nat

/-- The clocks that pass between two reads of CYCLE (R19); its argument is the counter `State.free`. -/
opaque clocks : Nat → Nat

/-- What HARTID reads on a control core, by its number: the spec states none (log 15). -/
opaque controlId : Nat → BitVec 64

/-- The identity key that the fuses hold (R385): its identifier, and the start of chain `i` of leaf `q` (log 34). -/
opaque identityId : BitVec 128

/-- See `identityId`. -/
opaque identitySecret : Nat → Nat → BitVec 256

/-- The randomiser of the one signature that leaf `q` makes (R385, log 34). -/
opaque identityRandom : Nat → BitVec 256

/-- The hash of the boot key and the least security version that the fuses hold (R384). -/
opaque keyHash : BitVec 256

/-- See `keyHash`. -/
opaque minSvn : Nat

end Sys2Proof.Config
end

