-- ==== Sys2Proof/Machine/State.lean ====
section
/-! DEFINITION. Everything the spec gives the machine, as plain data, and the machine at power-on. The machine is a whole package: up to
four dies of 16 cores with their harts, control cores, caches, engines and memory. `State.hart` is the hart or control core that executes
the next instruction; the others wait in `State.others`. -/

namespace Sys2Proof.Machine

/-- What a trap reports (R24, R326, R336): its cause, TVAL, the ACCESS byte, the restart element (R333) and the vector fields. -/
structure Trap where
  cause : Nat
  tval : Nat
  access : Nat := 0
  elem : Nat := 0
  base : Nat := 0
  stride : Nat := 0
  remain : Nat := 0
  deriving DecidableEq, Repr

/-- Where a hart or control core stands. -/
inductive HartStatus where
  /-- it fetches and executes -/
  | running
  /-- it has met a trap, which waits for the vector words before it (R329) -/
  | trapping (t : Trap)
  /-- parked on a trap (R335) -/
  | parked
  /-- its pot request is at the pot's home (R249) -/
  | pot
  /-- its context is halting or halted with no image written (R353, R354) -/
  | stopped
  /-- a control core that waits in the boot ROM (R383) -/
  | rom
  /-- no hart: it has retired by FEND (R142), or none was admitted yet -/
  | retired
  deriving DecidableEq, Repr

/-- The issuer of engine commands: a hart named by its place in a farm of a context (R361 OWNER, R341). -/
structure Owner where
  asid : Nat
  farm : Nat
  index : Nat
  deriving DecidableEq, Repr

/-- An address space and a virtual line by which a cached line was reached. -/
abbrev Tag := Nat × Nat

/-- A line of a scalar cache (R204, R323): physical line number, the virtual lines it was reached by, data, dirty bytes, KIND SWM. -/
structure SLine where
  line : Nat
  tags : List Tag
  data : BitVec 512
  dirty : BitVec 64
  swm : Bool
  deriving DecidableEq, Repr

/-- A line of a core's vector data cache (R204). Its writer set is kept by halves: `vec` names the harts whose execute halves have dirtied it,
`scal` those whose scalar dirty bytes were put into it (R211, R253). `carry` names the harts of the core that have acquired at scope C while the
line was dirty, and `seen` those of which a half has read dirty bytes that are not its own: their later releases carry its bytes home, as the
writers' own do (R276, R277; log 64), and bytes that another half has read are not discarded (R290; log 86). -/
structure VLine where
  core : Nat
  line : Nat
  tags : List Tag
  data : BitVec 512
  dirty : BitVec 64
  scal : BitVec 4
  vec : BitVec 4
  carry : BitVec 4
  seen : BitVec 4
  swm : Bool
  deriving DecidableEq, Repr

/-- The writer set of a line (R204, R209). -/
def VLine.writers (l : VLine) : BitVec 4 := l.scal ||| l.vec

/-- The line with no dirty byte. -/
def VLine.clean (l : VLine) : VLine := { l with dirty := 0, scal := 0, vec := 0, carry := 0, seen := 0 }

/-- A line of a core's instruction cache (R31, R252). -/
structure ILine where
  core : Nat
  line : Nat
  tags : List Tag
  data : BitVec 512
  deriving DecidableEq, Repr

/-- A translation held by a TLB of a core (R342): the page's entry, its address, and whether it maps 512 MiB. `unit` is the TLB: 0 to 3 that
of a hart slot, 4 to 19 the slice of lane group `unit` − 4, 20 the second level. -/
structure TlbEntry where
  core : Nat
  unit : Nat
  asid : Nat
  vpn : Nat
  big : Bool
  pteAddr : Nat
  pte : BitVec 64
  deriving DecidableEq, Repr

/-- An entry of a core's write-range collector (R216). -/
structure CollEntry where
  core : Nat
  asid : Nat
  vpn : Nat
  mask : BitVec 64
  deriving DecidableEq, Repr

/-- A stack of a pot in a core's pot table (R247): an amount, or for an index-valued pot the range lo to hi - 1 (R141). -/
structure Stack where
  core : Nat
  asid : Nat
  va : Nat
  pa : Nat
  amount : Nat
  lo : Nat
  hi : Nat
  deriving DecidableEq, Repr

/-- The address by which a context's pot line was made one (R246). -/
structure PotMap where
  asid : Nat
  va : Nat
  pa : Nat
  deriving DecidableEq, Repr

/-- The indices at home of an index-valued pot (R141): disjoint ranges lo to hi - 1. -/
structure RangeSet where
  pa : Nat
  ranges : List (Nat × Nat)
  deriving DecidableEq, Repr

/-- What a hart asks of a pot's home (R249, R250, R140). -/
inductive PotOp where
  | take
  | takeq
  | give
  | readx
  | read
  | init (policy scope : Nat)
  | strip
  deriving DecidableEq, Repr

/-- A request waiting at a pot's home, first in, first out (R249). -/
structure PotReq where
  who : Nat
  op : PotOp
  va : Nat
  pa : Nat
  n : Nat
  d : Reg
  deriving DecidableEq, Repr

/-- The hart's single monitor (R258): the line's address at home and its virtual address. -/
structure Monitor where
  line : Nat
  va : Nat
  fired : Bool
  deriving DecidableEq, Repr

/-- A waiting MWAIT (R259): its limit, the round boundaries it has seen, and the register it will write. -/
structure MwaitState where
  limit : Nat
  rounds : Nat
  d : Reg
  deriving DecidableEq, Repr

/-- A stream binding (R242, R362): `n` registers from `reg`; the position is p or c0, with `g` for the K-group; the tensor table entry as
VBIND read it, empty where it is to be read again (after a resume, R362 holding only its index). `given` names, by its PC, a reader that a halt
has stopped after the delivery of this strip (R245). -/
structure Binding where
  tensor : Nat
  view : Nat
  ew : Nat
  reg : Nat
  n : Nat
  pos : Nat
  g : Nat
  entry : List Byte
  given : Option Word := none
  deriving DecidableEq, Repr

/-- A page that the access processor has translated for a dispatched word (R126): virtual and physical address and entry. -/
structure PageRef where
  va : Nat
  pa : Nat
  pte : Nat
  deriving DecidableEq, Repr

/-- What the execute processor is given (R125, R126): a word, the delivery of a bound group (R243), or the mask clear of a CPY (R303). -/
inductive QWord where
  | word (i : Instr)
  | delivery (b : Binding)
  | maskClear (m lo n tag : Nat)
  deriving DecidableEq, Repr

/-- A dispatched and incomplete word, with what the access processor read at dispatch (R126, R362). `start` is its restart element, and
its group index P once it has started (R133), which `begun` says. Elements at or above `limit` are not performed: a trimmed load (R230) or a
store that traps there (R232). `pages` are the translations of its element addresses. `pred` is its predicate mask once it has been read
(R282), and `done` are elements at or above `start` that have already been performed (R133). -/
structure QEntry where
  word : QWord
  start : Nat
  vl : Nat
  limit : Nat
  lend : BitVec 32
  vcfg : BitVec 8
  rowBase : Nat
  rows : Nat
  xs1 : Word
  xs2 : Word
  pages : List PageRef
  pred : Option VReg := none
  done : List Nat := []
  begun : Bool := false
  deriving DecidableEq, Repr

/-- The scalar half of a hart, and the whole of a control core (R13 to R23, R51, R91, R307, R308, R330 to R332, R339). -/
structure Scalar where
  x : Vector Word 32
  shadow : Vector Word 8
  pc : Word
  /-- CYCLE as last read or restored; each read adds the clocks since (R19) -/
  cycle : Word
  instret : Word
  fcsr : BitVec 8
  tcause : BitVec 8
  tpc : Word
  tval : Word
  rndseed : BitVec 32
  gens : Vector (BitVec 32) 257
  lend : BitVec 32
  tdeleg : BitVec 9
  vstartArmed : Bool
  vstart : BitVec 18
  uiEn : Bool
  uiPend : Bool
  uiActive : Bool
  uiRstrt : Bool
  uivec : Word
  uiepc : Word
  uiEvents : BitVec 16
  uiCauseTag : BitVec 32
  uilend : BitVec 32
  uiCount : Nat
  uiTag : BitVec 32
  splitr : BitVec 9
  bkshuf : BitVec 48
  copyTag : Nat
  bkTag : Nat
  bkEpoch : Nat
  monitor : Option Monitor
  ctvec : Word
  deriving DecidableEq, Repr

/-- A vector register that an instruction has left incomplete when it trapped or was stopped: its progress index (R133, R198, R199), and whether
a handler of the hart was at work. -/
structure StoppedPi where
  reg : Nat
  pi : Nat
  inner : Bool
  deriving DecidableEq, Repr

/-- The execute half of a hart (R128 to R135, R149 to R152, R157, R172, R173, R200, R231, R242). Lane groups are one bit each. -/
structure Exec where
  lg : BitVec 16
  depth : Fin 4
  group : Fin 4
  sew : Fin 4
  vl : Nat
  avlrem : Word
  vcfg : BitVec 8
  vstat : BitVec 8
  rowBase : Nat
  rows : Nat
  gstat : Word
  vltrim : Nat
  v : Vector VReg 32
  m : Vector VReg 8
  /-- row r of tile t is entry 32 t + r -/
  tiles : Vector TileRow 256
  queue : List QEntry
  bindings : List Binding
  /-- the trap-mode G word that the execute processor performs and that has not retired (R127, R198) -/
  geom : Option QEntry
  /-- the registers that stopped instructions have left incomplete (R133, R198, R199) -/
  gpi : List StoppedPi
  deriving DecidableEq, Repr

/-- A hart or a control core. -/
structure Hart where
  /-- a control core (R370) -/
  ctl : Bool
  die : Nat
  core : Nat
  slot : Nat
  status : HartStatus
  /-- it is in an architected wait (R147) -/
  waiting : Bool
  /-- a waiting MWAIT (R259) -/
  mwait : Option MwaitState
  asid : Nat
  farm : Nat
  index : Nat
  reserve : Nat
  prio : Nat
  sc : Scalar
  ep : Exec
  scache : List SLine
  /-- how often the other parties of its core have issued since it did (R145) -/
  skipped : Nat := 0
  /-- lines that its execute processor and its Strelvis commands have written, and that its scalar cache may hold older (R254, R272) -/
  newer : List Nat := []
  /-- the queued words of a resumed hart that it has still to dispatch again (R367) -/
  redo : List QEntry := []
  /-- it is to be pre-empted, and its record written at this physical address (R356) -/
  leaving : Option Nat := none
  deriving DecidableEq, Repr

/-- A context the hardware knows (R349): its copy of the descriptor, its per-context CSRs and the scratch image the loader gave. -/
structure Context where
  asid : Nat
  /-- physical address of the descriptor -/
  desc : Nat
  /-- STATE and CAUSE as the hardware last wrote them -/
  state : Nat
  cause : Nat
  wdog : Nat
  ptroot : Nat
  dirty : Nat
  features : Word
  /-- the loader's scratch image, where the context has one (R203, R72) -/
  scratch : Option (List Byte)
  swmring : Word
  tenstab : Word
  tenscnt : Nat
  farmNext : Nat
  /-- the watchdog's count (R147) -/
  count : Nat
  /-- a progress event has occurred in this round (R147) -/
  progress : Bool
  /-- its pre-empted harts: their numbers and save areas (R356) -/
  preempted : List (Nat × Nat)
  /-- its units have stopped (R353) -/
  stopped : Bool := false
  deriving DecidableEq, Repr

/-- A farm (R136 to R145, R361). -/
structure Farm where
  asid : Nat
  handle : Nat
  entry : Word
  params : Word
  pot : Nat
  potPa : Nat
  done : Nat
  harts : Nat
  reserve : Nat
  prio0 : Nat
  dieMask : Nat
  flags : Nat
  strips : Nat
  /-- effective priority (R145) -/
  prio : Nat
  /-- 1 queued, 2 running, 3 completion parked -/
  state : Nat
  admitted : Nat
  retired : Nat
  waited : Nat
  /-- the dies on which it holds a farm slot -/
  dies : List Nat
  /-- its last hart to retire, and that hart's FEND (R142, R336) -/
  lastLoc : Nat
  lastPc : Word
  deriving DecidableEq, Repr

/-- A copy command (R298 to R306, R361). `state`: 1 queued or running, 2 parked. -/
structure CopyCmd where
  owner : Owner
  hartid : Nat
  tag : Nat
  pc : Word
  xs2 : Word
  desc : List Byte
  next : Nat
  state : Nat
  /-- its mask clear is complete (R303) -/
  entered : Bool
  /-- a remote chunk has been sent and is not acknowledged (R377) -/
  sent : Bool
  /-- completion events that wait for its hart, which is pre-empted (R356) -/
  owed : Nat
  deriving DecidableEq, Repr

/-- A chunk on its way to another device (R377): the die and the ports it leaves by, the node it goes to, the address space and address it is
written at there, and its bytes; the command that it is a chunk of. -/
structure OutChunk where
  owner : Owner
  tag : Nat
  die : Nat
  ports : Nat
  node : Nat
  asid : Nat
  addr : Nat
  data : List Byte
  deriving DecidableEq, Repr

/-- The answer to a chunk that another device sent (R377): its address space and address here, and 0 or the cause that it met, with TVAL and
whether the failing page is of class D (R336). -/
structure InAnswer where
  asid : Nat
  addr : Nat
  cause : Nat
  tval : Nat
  dev : Bool
  deriving DecidableEq, Repr

/-- A part of a Strelvis command (R311, R361): unit 128 x die + stack and channel; `state` 0 queued, 1 running. -/
structure Part where
  unit : Nat
  uva : Nat
  state : Nat
  gated : Bool
  prog : Nat
  m : BitVec 32
  l : BitVec 32
  o : List (BitVec 32)
  deriving DecidableEq, Repr

/-- A Strelvis command (R310 to R321). `state`: 0 checks to be made, 1 its parts may run, 2 parked at its checks, 3 parked at its arrival on a
barrier, 4 complete while its hart is away. `flags` and `shuf` are what its hart is still owed. -/
structure BkCmd where
  owner : Owner
  hartid : Nat
  tag : Nat
  pc : Word
  kind : Nat
  desc : List Byte
  /-- SPLITR at issue, of which the banks' share of a BGEMV follows (R316); none until the hart of a resumed command has its place, where the
  record does not hold it -/
  bank : Option Nat
  epoch : Nat
  state : Nat
  parts : List Part
  flags : BitVec 8
  shuf : Nat
  /-- its pages as its checks translated them (R311, R342), and its gate's frame (R312) -/
  pages : List PageRef := []
  gate : Option Nat := none
  deriving DecidableEq, Repr

/-- A parked party (R335, R340). -/
inductive Party where
  | hart (who : Nat)
  | copy (owner : Owner) (tag : Nat)
  | strelvis (owner : Owner) (tag : Nat)
  | farm (asid handle : Nat)
  /-- one whose context was halted or killed while its record waited (R338) -/
  | gone
  deriving DecidableEq, Repr

/-- A fault record of a die with its party: in the queue at `slot`, or waiting in the die's fault buffer (R338). -/
structure FaultRec where
  die : Nat
  party : Party
  record : List Byte
  slot : Option Nat
  deriving DecidableEq, Repr

/-- An extent of a die's tier 3 port (R381), and whether its release is asked for under a tag (R227) and acknowledged. -/
structure Extent where
  base : Nat
  size : Nat
  releaseTag : Option Nat
  acked : Bool
  deriving DecidableEq, Repr

/-- The registers and units of one die (R372, R337, R223, R382, R397 to R399). -/
structure Die where
  fqdesc : Word
  fdasid : Word
  fdlaunch : Word
  /-- a launch is in progress, for the context that FDASID named at its write (R373) -/
  fdBusy : Bool
  fdCtx : Nat
  fdresult : Word
  rtbase : Word
  telidx : Word
  /-- the volatile mirror and the committed copy of the lifetime records: index and value, where not 0 -/
  tel : List (Nat × Nat)
  telStored : List (Nat × Nat)
  telBusy : Bool
  migDesc : Nat
  migBusy : Bool
  migResult : Nat
  extq : Word
  /-- the extent records that wait on the die, at most 16, and those that the fabric manager holds back (R382) -/
  extBuf : List (List Byte)
  extHeld : List (List Byte)
  extTag : Nat
  extents : List Extent
  revoked : List (Nat × Nat)
  thermal : Bool
  /-- links that retrain (R374), by their number in the telemetry index -/
  links : List Nat
  deriving DecidableEq, Repr

/-- A resumed or pre-empted group of harts that waits for a core (R356, R367). -/
structure Placement where
  asid : Nat
  /-- 16 x die + core of the core they were saved on -/
  saved : Nat
  /-- a pre-empted hart returns to that core only (R356) -/
  fixed : Bool
  scratch : Option (List Byte)
  harts : List Hart
  /-- the fault record of each hart that is parked, else nothing (R367) -/
  records : List (List Byte)
  deriving DecidableEq, Repr

/-- A hold on a core for a farm that cannot place its next hart (R145). -/
structure Hold where
  core : Nat
  asid : Nat
  farm : Nat
  deriving DecidableEq, Repr

/-- A write stalled on a replicated page, for its die's collapse engine (R221). -/
structure CollapseReq where
  asid : Nat
  va : Nat
  die : Nat
  deriving DecidableEq, Repr

/-- A dirty memory-side-cache line of tier 3 or host memory (R204, R211): who wrote it, and the bytes its device holds. -/
structure MscLine where
  line : Nat
  who : List Nat
  old : List Byte
  deriving DecidableEq, Repr

/-- Where the package stands in its boot (R383). -/
inductive BootPhase where
  | off
  /-- the ROM waits for an image from source `src` (0 the port of die 0, then the dies' ports, then the host), at try `n` -/
  | rom (src n : Nat)
  | started
  deriving DecidableEq, Repr

/-- The part: its dies, its feature fuses and its installed memory (R1, R2, R205, R371, R372). -/
structure PartCfg where
  dies : Nat
  features : Word
  t2dies : Nat
  tier1 : Nat
  tier2 : Nat
  host : Nat
  /-- dies whose tier 3 port is brought out (R381) -/
  t3dies : Nat
  deriving DecidableEq, Repr

/-- What comes with a machine event from outside: which unit, an address, a number, bytes. Each event's meaning says what it reads. -/
structure Input where
  unit : Nat
  addr : Nat
  value : Nat
  data : List Byte
  deriving DecidableEq, Repr

/-- A turn of the agenda: an event with its input, the next instruction of a given hart, a freedom of the hardware that no event row names (a
VDC, instruction-cache or memory-side-cache line or a translation is dropped), or an act of the loader before a context's first fetch: its scratch image (R72),
a line of a `.pot` section (R246) or its tensor table (R238). -/
inductive Turn where
  | event (i : Instr) (inp : Input)
  | run (who : Nat)
  | evictVdc (core line : Nat)
  | evictIcache (core line : Nat)
  | evictMsc (line : Nat)
  | dropTlb (core vpn : Nat)
  | loadScratch (asid : Nat) (image : List Byte)
  | loadPot (asid va pa : Nat)
  | loadTensors (asid base count : Nat)
  deriving DecidableEq, Repr

/-- The machine. -/
structure State where
  part : PartCfg
  boot : BootPhase
  /-- SVN of the booted image (R386) -/
  svn : Nat
  meas : Vector (BitVec 256) 8
  measExt : BitVec 256
  attNonce : BitVec 256
  attBuf : Nat
  attBusy : Bool
  attResult : Nat
  idcount : Nat
  /-- the bytes of physical memory at home, sorted, none 0; scratchpad byte s of core k stands at 2^52 + 2^19 k + s -/
  mem : List Host.Cell
  settle : List (Nat × Nat)
  /-- tier 1 and other frames whose page is discarded, with the address of the entry (R226) -/
  discarded : List (Nat × Nat)
  potLines : List Nat
  potMaps : List PotMap
  ranges : List RangeSet
  potQueue : List PotReq
  msc : List MscLine
  hart : Hart
  others : List Hart
  vdc : List VLine
  icache : List ILine
  tlb : List TlbEntry
  /-- the 512 MiB pages through which each context has reached memory since their translation was last invalidated (R346): address space and
  page number -/
  bigPages : List (Nat × Nat)
  collector : List CollEntry
  potStacks : List Stack
  /-- the context that holds each core's scratchpad (R203) -/
  holders : List (Nat × Nat)
  /-- cores whose scratchpad's last holding has ended: it is zeroed before a hart is placed there (R203) -/
  usedPads : List Nat
  holds : List Hold
  contexts : List Context
  farms : List Farm
  copies : List CopyCmd
  /-- chunks sent to other devices, and the answers to those that other devices sent (R377) -/
  outbox : List OutChunk
  answers : List InAnswer
  /-- the Strelvis commands; their parts arrive at their units in list order -/
  bks : List BkCmd
  placements : List Placement
  collapses : List CollapseReq
  faults : List FaultRec
  dies : Vector Die 4
  /-- rows opened by activate hints (R224) and channels powered down (R320) -/
  hints : List Nat
  sleeping : List Nat
  rounds : Nat
  hostData : List Byte
  input : Input
  agenda : List Turn
  /-- the model's own: dispatched words and pot requests are performed within the step that sends them -/
  prompt : Bool
  /-- the model's own: how many free values have been used -/
  free : Nat
  deriving DecidableEq, Repr

/-- Why a step can stop with a fault: the model has none. The type is kept closed with one reason that the interface of a machine needs. -/
inductive Fault where
  /-- Raised by no meaning: every trap of the spec is taken (R25, R328, R339) and is a next state. Safe. -/
  | none
  deriving DecidableEq, Repr

/-- Why a step can be refused. -/
inductive Refusal where
  /-- Raised by the dispatcher for an instruction that has no meaning yet. Safe. -/
  | notModelled (mnemonic : String)
  deriving DecidableEq, Repr

/-- A context of which nothing but its address space is known. -/
def Context.new (asid : Nat) : Context where
  asid := asid
  desc := 0
  state := 0
  cause := 0
  wdog := 0
  ptroot := 0
  dirty := 0
  features := 0
  scratch := none
  swmring := 0
  tenstab := 0
  tenscnt := 0
  farmNext := 1
  count := 0
  progress := false
  preempted := []

/-- The state of generator `g` seeded from the RNDSEED of a start, 0 (R90, R91). -/
def startSeed (g : Nat) : BitVec 32 :=
  let s : BitVec 32 := BitVec.ofNat 32 ((g + 1) * 0x9E3779B9)
  if s = 0 then 1 else s

/-- A scalar half at admission, but for the registers that admission sets (R27, R139, R298, R307, R316). -/
def Scalar.zero : Scalar where
  x := Vector.replicate 32 0
  shadow := Vector.replicate 8 0
  pc := 0
  cycle := 0
  instret := 0
  fcsr := 0
  tcause := 0
  tpc := 0
  tval := 0
  rndseed := 0
  gens := Vector.ofFn (fun g => startSeed g.val)
  lend := 0
  tdeleg := 0
  vstartArmed := false
  vstart := 0
  uiEn := false
  uiPend := false
  uiActive := false
  uiRstrt := false
  uivec := 0
  uiepc := 0
  uiEvents := 0
  uiCauseTag := 0
  uilend := 0
  uiCount := 0
  uiTag := 0
  splitr := 128
  bkshuf := 0
  copyTag := 1
  bkTag := 1
  bkEpoch := 0
  monitor := none
  ctvec := 0

/-- An execute half at admission, but for its lane groups (R139, R151, R173). -/
def Exec.zero : Exec where
  lg := 0
  depth := 0
  group := 0
  sew := 0
  vl := 0
  avlrem := 0
  vcfg := 0
  vstat := 0
  rowBase := 0
  rows := 8
  gstat := 0
  vltrim := 0
  v := Vector.replicate 32 0
  m := Vector.replicate 8 0
  tiles := Vector.replicate 256 0
  queue := []
  bindings := []
  geom := none
  gpi := []

/-- A control core at power-on (R370, R383). -/
def Hart.controlCore (die k : Nat) : Hart where
  ctl := true
  die := die
  core := 0
  slot := k
  status := .rom
  waiting := false
  mwait := none
  asid := 0
  farm := 0
  index := 0
  reserve := 0
  prio := 0
  sc := Scalar.zero
  ep := Exec.zero
  scache := []

/-- A die's registers at reset (R337, R372, R223, R382, R399). -/
def Die.reset : Die where
  fqdesc := 0
  fdasid := 0
  fdlaunch := 0
  fdBusy := false
  fdCtx := 0
  fdresult := 0
  rtbase := 0
  telidx := 0
  tel := []
  telStored := []
  telBusy := false
  migDesc := 0
  migBusy := false
  migResult := 0
  extq := 0
  extBuf := []
  extHeld := []
  extTag := 0
  extents := []
  revoked := []
  thermal := false
  links := []

/-- A part of a grade by its number of dies (R1 to R3): `t2dies` are the dies whose tier 2 interface is populated, `t3dies` those whose tier 3
port is brought out, and `features` its fuses. -/
def PartCfg.grade (dies t2dies t3dies : Nat) (features : Word) : PartCfg where
  dies := dies
  features := features
  t2dies := t2dies
  tier1 := 96 * 2 ^ 30
  tier2 := 480 * 2 ^ 30
  host := 2 ^ 46
  t3dies := t3dies

/-- Grihild 16, a known-good die without a tier 3 port (R381 leaves the port to the partner package). DESIGN CHOICE (log 2): neither the host port
nor the Vaval device ports are brought out, which R371 leaves to the part. -/
def PartCfg.grihild16 : PartCfg := PartCfg.grade 1 0 0 0x01

/-- Grihild 32: tier 2 empty, and the tier 3 port of die 1 (R1, R381). DESIGN CHOICE (log 2): neither the host port nor the Vaval device ports are
brought out, which R371 leaves to the part. -/
def PartCfg.grihild32 : PartCfg := PartCfg.grade 2 0 0x2 0x05

/-- The bare Grihild 64 package: tier 2 empty, the tier 3 ports of dies 2 and 3, the host port and the Vaval device ports (R1, R5, R381). -/
def PartCfg.grihild64 : PartCfg := PartCfg.grade 4 0 0xC 0x1D

/-- DESIGN CHOICE (log 2): the part of `State.reset` is a Grihild 64 on its module, every feature present (R1, R369, R371, R381). -/
def PartCfg.module64 : PartCfg := PartCfg.grade 4 0xF 0xC 0x1F

/-- The control cores of a part: two on each die (R1, R2, R370). -/
def controlCores (dies : Nat) : List Hart := (List.range dies).flatMap (fun d => [Hart.controlCore d 0, Hart.controlCore d 1])

/-- The package of a part at power-on (R383): every control core in the boot ROM, no hart, memory with nothing listed. -/
def State.resetOf (part : PartCfg) : State where
  part := part
  boot := .off
  svn := 0
  meas := Vector.replicate 8 0
  measExt := 0
  attNonce := 0
  attBuf := 0
  attBusy := false
  attResult := 0
  idcount := 0
  mem := []
  settle := []
  discarded := []
  potLines := []
  potMaps := []
  ranges := []
  potQueue := []
  msc := []
  hart := Hart.controlCore 0 0
  others := (controlCores part.dies).drop 1
  vdc := []
  icache := []
  tlb := []
  bigPages := []
  collector := []
  potStacks := []
  holders := []
  usedPads := []
  holds := []
  contexts := []
  farms := []
  copies := []
  outbox := []
  answers := []
  bks := []
  placements := []
  collapses := []
  faults := []
  dies := Vector.replicate 4 Die.reset
  hints := []
  sleeping := []
  rounds := 0
  hostData := []
  input := ⟨0, 0, 0, []⟩
  agenda := []
  prompt := true
  free := 0

/-- The package at power-on. -/
def State.reset : State := State.resetOf PartCfg.module64

end Sys2Proof.Machine
end

