-- ==== Sys2Proof/Machine/Ops.lean ====
section
/-! DEFINITION. The named operations over registers, home memory, harts and turns, and the one way a trap is taken (R25, R328 to R336). -/

namespace Sys2Proof.Machine

/-- The outcome of a step. -/
abbrev Out := Host.Outcome State Fault Refusal

/-! ### Bits -/

/-- Bit `i` of a number. -/
def nbit (w i : Nat) : Bool := w / 2 ^ i % 2 == 1

/-- The `n` bits of a 64-bit value from `lo`, as a number. -/
def wbits (w : Word) (lo n : Nat) : Nat := bits w.toNat lo n

/-- The value with the `n` bits from `lo` replaced. -/
def setBits (w : Word) (lo n v : Nat) : Word :=
  BitVec.ofNat 64 (w.toNat - bits w.toNat lo n * 2 ^ lo + v % 2 ^ n * 2 ^ lo)

/-- A signed field of `n` bits. -/
def signed (n v : Nat) : Int := if v < 2 ^ (n - 1) then (v : Int) else (v : Int) - (2 ^ n : Nat)

/-- The word whose value is the signed field. -/
def sext (n v : Nat) : Word := Word.ofInt (signed n (v % 2 ^ n))

/-- The first failing or successful element of a list of naturals. -/
def range (lo n : Nat) : List Nat := (List.range n).map (lo + ·)

/-! ### Home memory: a sorted list of the bytes that are not 0 -/

/-- What an address that is not listed reads as. DESIGN CHOICE (log 4): 0. -/
def Memory.absent : Byte := 0

/-- The byte at an address. -/
def Memory.read : List Host.Cell → Nat → Byte
  | [], _ => Memory.absent
  | (k, b) :: r, a => if a < k then Memory.absent else if a = k then b else Memory.read r a

/-- The list in which address `a` holds `b`; the canonical form is kept. -/
def Memory.write : List Host.Cell → Nat → Byte → List Host.Cell
  | [], a, b => if b = Memory.absent then [] else [(a, b)]
  | (k, c) :: r, a, b =>
    if a < k then (if b = Memory.absent then (k, c) :: r else (a, b) :: (k, c) :: r)
    else if a = k then (if b = Memory.absent then r else (a, b) :: r)
    else (k, c) :: Memory.write r a b

/-- The canonical form: addresses strictly rising, above `lo` where one is given, and no byte equal to what an unlisted address reads as. -/
def Memory.wfFrom : Option Nat → List Host.Cell → Bool
  | _, [] => true
  | lo, (k, b) :: r => (match lo with | none => true | some l => decide (l < k)) && b != Memory.absent && Memory.wfFrom (some k) r

/-- The canonical form of memory. -/
def Memory.wf (m : List Host.Cell) : Bool := Memory.wfFrom none m

/-- `n` bytes from address `a` up. -/
def Memory.readN (m : List Host.Cell) (a : Nat) : Nat → List Byte
  | 0 => []
  | n + 1 => Memory.read m a :: Memory.readN m (a + 1) n

/-- The bytes `bs` written from address `a` up. -/
def Memory.writeN (m : List Host.Cell) (a : Nat) : List Byte → List Host.Cell
  | [] => m
  | b :: bs => Memory.writeN (Memory.write m a b) (a + 1) bs

/-- The bytes of `bs` whose bit in the mask is set (bit `i` for the first), written from address `a` up. -/
def Memory.writeMasked (m : List Host.Cell) (a : Nat) (mask i : Nat) : List Byte → List Host.Cell
  | [] => m
  | b :: bs => Memory.writeMasked (if nbit mask i then Memory.write m a b else m) (a + 1) mask (i + 1) bs

/-- The cells outside addresses lo to hi - 1. -/
def Memory.clear (m : List Host.Cell) (lo hi : Nat) : List Host.Cell := m.filter (fun c => c.1 < lo || hi ≤ c.1)

/-- The little-endian value of `n` bytes (R9). -/
def Memory.readNat (m : List Host.Cell) (a n : Nat) : Nat := leValue (Memory.readN m a n)

/-! ### Bytes within a wide value -/

/-- `n` bytes of a value from byte `k`, as a number. -/
def getBytes {w : Nat} (v : BitVec w) (k n : Nat) : Nat := (v >>> (8 * k)).toNat % 256 ^ n

/-- The value with `n` bytes from byte `k` replaced. -/
def setBytes {w : Nat} (v : BitVec w) (k n x : Nat) : BitVec w :=
  (v &&& ~~~(BitVec.ofNat w (256 ^ n - 1) <<< (8 * k))) ||| (BitVec.ofNat w (x % 256 ^ n) <<< (8 * k))

/-- Bits `lo` to `lo + n - 1` of a line's byte mask. -/
def byteMask (lo n : Nat) : BitVec 64 := BitVec.ofNat 64 ((2 ^ n - 1) * 2 ^ lo)

/-- The line's bytes, lowest first. -/
def lineBytes (d : BitVec 512) : List Byte := leBytes 64 d.toNat

/-- The bytes of `new` where the mask is set, else those of `old`. -/
def overlay (old new : BitVec 512) (mask : BitVec 64) : BitVec 512 :=
  BitVec.ofNat 512 (leValue ((List.range 64).map
    (fun i => if mask.getLsbD i then BitVec.ofNat 8 (getBytes new i 1) else BitVec.ofNat 8 (getBytes old i 1))))

/-! ### Harts -/

/-- The number of a hart (HARTID, R21) or of a control core, which stands above every HARTID. -/
def Hart.loc (h : Hart) : Nat := if h.ctl then 256 + 2 * h.die + h.slot else 64 * h.die + 4 * h.core + h.slot

/-- The core of a hart within the package (R246); a control core has a number above every core's. -/
def Hart.coreId (h : Hart) : Nat := if h.ctl then 64 + 2 * h.die + h.slot else 16 * h.die + h.core

/-- The issuer's name on engine commands. -/
def Hart.owner (h : Hart) : Owner := ⟨h.asid, h.farm, h.index⟩

/-- The hart or control core can execute. -/
def Hart.runnable (h : Hart) : Bool := h.status == .running

/-- The hart exists: it holds a hart slot. -/
def Hart.admitted (h : Hart) : Bool := !h.ctl && h.status != .retired

/-- Every hart and control core. -/
def State.allHarts (s : State) : List Hart := s.hart :: s.others

/-- A change made to every hart. -/
def State.mapHarts (s : State) (f : Hart → Hart) : State := { s with hart := f s.hart, others := s.others.map f }

/-- A change made to the hart at a location. -/
def State.updHart (s : State) (loc : Nat) (f : Hart → Hart) : State := s.mapHarts (fun h => if h.loc = loc then f h else h)

/-- The hart at a location. -/
def State.hartAt (s : State) (loc : Nat) : Option Hart := s.allHarts.find? (fun h => h.loc == loc && h.status != .retired)

/-- A change to the scalar half of the hart that executes. -/
def State.sc (s : State) (f : Scalar → Scalar) : State := { s with hart := { s.hart with sc := f s.hart.sc } }

/-- A change to the execute half of the hart that executes. -/
def State.ep (s : State) (f : Exec → Exec) : State := { s with hart := { s.hart with ep := f s.hart.ep } }

/-- x0 reads as zero (R13). -/
def Scalar.read (c : Scalar) (r : Reg) : Word := if r.val = 0 then 0 else c.x[r.val]

/-- A write to x0 is discarded (R13). -/
def Scalar.write (c : Scalar) (r : Reg) (w : Word) : Scalar := if r.val = 0 then c else { c with x := c.x.set r.val w }

/-- The x register of the hart that executes. -/
def State.xr (s : State) (r : Reg) : Word := s.hart.sc.read r

/-- The x register as an unsigned number. -/
def State.xn (s : State) (r : Reg) : Nat := (s.xr r).toNat

/-- A write of an x register of the hart that executes. -/
def State.xw (s : State) (r : Reg) (w : Word) : State := s.sc (fun c => c.write r w)

/-- The context of an address space. -/
def State.ctxOf (s : State) (asid : Nat) : Option Context := s.contexts.find? (fun c => c.asid == asid)

/-- The units of a context are at work: it runs, or its halt has begun and has not stopped them yet (R353). -/
def Context.live (c : Context) : Bool := c.state == 1 || (c.state == 2 && !c.stopped)

/-- The context is at work. -/
def State.ctxRuns (s : State) (asid : Nat) : Bool := (s.ctxOf asid).any Context.live

/-- A change to a context. -/
def State.updCtx (s : State) (asid : Nat) (f : Context → Context) : State :=
  { s with contexts := s.contexts.map (fun c => if c.asid = asid then f c else c) }

/-- The registers of a die. -/
def State.die (s : State) (k : Nat) : Die := if h : k < 4 then s.dies[k] else Die.reset

/-- A change to a die's registers. -/
def State.updDie (s : State) (k : Nat) (f : Die → Die) : State :=
  if h : k < 4 then { s with dies := s.dies.set k (f s.dies[k]) } else s

/-- One of `n` choices that the hardware is free to make; where there is only one, no free value is used. -/
def State.choose (s : State) (n : Nat) : Nat × State :=
  if n ≤ 1 then (0, s) else (Config.choice s.free % n, { s with free := s.free + 1 })

/-- A telemetry record's value (R397). -/
def telGet (t : List (Nat × Nat)) (i : Nat) : Nat := ((t.find? (fun e => e.1 == i)).map (·.2)).getD 0

/-- A record raised by `n`, saturating (R397). -/
def telAdd (t : List (Nat × Nat)) (i n : Nat) : List (Nat × Nat) :=
  (i, min (telGet t i + n) (2 ^ 64 - 1)) :: t.filter (fun e => e.1 != i)

/-- A lifetime record of a die raised by `n` (R397). -/
def State.count (s : State) (die i n : Nat) : State := s.updDie die (fun d => { d with tel := telAdd d.tel i n })

/-- A write stalls for the collapse of its page, which it invokes (R221). -/
def State.stall (s : State) (r : CollapseReq) : State :=
  if s.collapses.contains r then s else { s with collapses := s.collapses ++ [r] }

/-- A progress event of a context (R147). -/
def State.progress (s : State) (asid : Nat) : State := s.updCtx asid (fun c => { c with progress := true })

/-- A progress event of the hart that executes; a control core has no context. -/
def State.note (s : State) : State := if s.hart.ctl then s else s.progress s.hart.asid

/-! ### Turns -/

/-- How a ready party ranks in issue on its core: by its effective priority, after those that wait (R145). -/
def Hart.rank (h : Hart) : Nat := if h.waiting then 0 else h.prio + 1

/-- How often a party can be passed before it issues next: up to three more parties of its core can be due at the same time, and each still
issues within 64 turns of the core (R145). -/
def passLimit : Nat := 60

/-- The party that issues among the ready ones of a core: of those that the others have passed often enough the one passed most, else the first
of the highest rank, so that parties of equal rank follow each other (R145). -/
def issuer (h : Hart) (hs : List Hart) : Hart :=
  match hs.filter (fun g => passLimit ≤ g.skipped) with
  | g :: gs => gs.foldl (fun best k => if best.skipped < k.skipped then k else best) g
  | [] => hs.foldl (fun best g => if best.rank < g.rank then g else best) h

/-- The issue turn of the hart that executes is passed to the next ready hart of its core, which is then the first to issue (R143). -/
def State.offerTurn (s : State) : State :=
  match s.others.find? (fun g => g.runnable && !g.waiting && g.coreId == s.hart.coreId) with
  | none => s
  | some g => s.updHart g.loc (fun h => { h with skipped := max h.skipped passLimit })

/-- The next core with a party that can execute takes the turn, round-robin, and of its ready parties the one that issues (R145); where none
can, nothing changes. A hart that has retired keeps its place until its slot is taken. -/
def State.passTurn (s : State) : State :=
  match s.others.find? Hart.runnable with
  | none => s
  | some h =>
    let all := s.others ++ [s.hart]
    let ready := fun (g : Hart) => g.runnable && g.coreId == h.coreId
    let g := issuer h (all.filter ready)
    let rest := all.filter (fun k => !(k.loc == g.loc && k.runnable))
    { s with
      hart := { g with skipped := 0 }
      others := rest.filter (fun k => !ready k) ++ (rest.filter ready).map (fun k => { k with skipped := k.skipped + 1 }) }

/-- The turn given to one party by its number, where it exists. -/
def State.giveTurn (s : State) (who : Nat) : State :=
  match s.others.find? (fun h => h.loc == who && h.status != .retired) with
  | none => s
  | some h => { s with hart := h, others := s.others.filter (fun g => !(g.loc == who && g.status != .retired)) ++ [s.hart] }

/-- An operation done by one hart, whichever executes: the hart that executed before takes its place again. -/
def State.asHart (s : State) (loc : Nat) (f : State → State) : State :=
  if s.hart.loc = loc && s.hart.status != .retired then f s
  else match s.others.find? (fun h => h.loc == loc && h.status != .retired) with
    | none => s
    | some h =>
      let me := s.hart
      let t := f { s with hart := h, others := me :: s.others.filter (fun g => !(g.loc == loc && g.status != .retired)) }
      match t.others.find? (fun g => g.loc == me.loc) with
      | none => t
      | some g => { t with hart := g, others := t.others.filter (fun k => k.loc != me.loc) ++ [t.hart] }

/-! ### Retiring -/

/-- The instruction retires and the next one is at `pc` (R28): INSTRET counts it, a pending lend is used up (R49), and VSTART is no longer
armed (R332). -/
def State.retireTo (s : State) (pc : Word) : State :=
  { s with hart := { s.hart with
    waiting := false
    mwait := none
    sc := { s.hart.sc with
      pc := pc
      instret := s.hart.sc.instret + 1
      lend := s.hart.sc.lend &&& 0x7FFFFFFF#32
      vstartArmed := false } } }

/-- The instruction retires and the next word follows (R28). -/
def State.retire (s : State) : State := s.retireTo (s.hart.sc.pc + 4)

/-- Retire after writing an x register. -/
def retireX (s : State) (d : Reg) (w : Word) : Out := .next ((s.xw d w).retire)

/-- The instruction has not been performed; it executes again when the turn returns (an architected wait where `arch`, R147). -/
def waitHere (s : State) (arch : Bool) : Out := .next { s with hart := { s.hart with waiting := arch } }

/-- An event whose condition does not hold does not occur, and the machine is as it was. DESIGN CHOICE (log 6): nothing says that it stops. -/
def noEvent (s : State) : Out := .next s

/-! ### Traps -/

/-- The cause can be delegated and its bit in TDELEG is 1 (R328, R330). -/
def delegated (h : Hart) (cause : Nat) : Bool :=
  (cause == 1 || cause == 7 || cause == 8) && h.sc.tdeleg.getLsbD cause && !h.sc.uiActive

/-- x24 to x31 exchanged with their shadow copies (R308). -/
def Scalar.swapShadow (c : Scalar) : Scalar :=
  { c with
    x := Vector.ofFn (fun i : Fin 32 => if h : 24 ≤ i.val then c.shadow[i.val - 24]'(by omega) else c.x[i.val])
    shadow := Vector.ofFn (fun i : Fin 8 => c.x[i.val + 24]'(by omega)) }

/-- The 64 bytes of a fault record (R336). -/
def faultRecord (cause source access asid hartid : Nat) (pc : Word) (tval elem lend base stride remain tag : Nat) : List Byte :=
  leBytes 1 cause ++ leBytes 1 source ++ leBytes 1 access ++ leBytes 1 0 ++ leBytes 4 (asid * 65536 + hartid) ++ leBytes 8 pc.toNat
    ++ leBytes 8 tval ++ leBytes 4 elem ++ leBytes 4 lend ++ leBytes 8 base ++ leBytes 8 stride ++ leBytes 8 remain ++ leBytes 4 tag
    ++ leBytes 4 0

/-- TCAUSE, TPC and TVAL (R25); the armed start is used up by the trap (R332). DEDUCED (log 37). -/
def Scalar.trapCsrs (c : Scalar) (t : Trap) : Scalar :=
  { c with tcause := BitVec.ofNat 8 t.cause, tpc := c.pc, tval := BitVec.ofNat 64 t.tval, vstartArmed := false }

/-- Entry of a delegated trap's handler (R331), after the trap CSRs are written. -/
def Scalar.enterHandler (c : Scalar) (t : Trap) : Scalar :=
  { c.swapShadow with
    uiepc := c.tpc
    uiEvents := 0
    uiCauseTag := BitVec.ofNat 32 t.elem
    uilend := c.lend
    lend := 0
    uiActive := true
    uiRstrt := true
    pc := c.uivec }

/-- Parking: the hart fetches nothing and its record waits for the fault queue of its die (R335, R338). -/
def State.park (s : State) (t : Trap) : State :=
  let h := s.hart
  { s with
    hart := { h with status := .parked, waiting := true }
    faults := s.faults ++ [⟨h.die, .hart h.loc,
      faultRecord t.cause 0 t.access h.asid h.loc h.sc.tpc t.tval t.elem h.sc.lend.toNat t.base t.stride t.remain 0, none⟩] }

/-- Entry of a control core's own handler (R339), which begins with no lend pending (R52). DEDUCED (log 63): what LENDSTATE held is saved where a
hart has its UILEND, which no CSR of a control core names. -/
def Scalar.enterOwn (c : Scalar) : Scalar := { c with pc := c.ctvec, uilend := c.lend, lend := c.lend &&& 0x7FFFFFFF#32 }

/-- DELIVERY OF A TRAP (R25, R52, R328, R331, R335, R339): the hart that executes stops at its instruction, which does not retire. A control core
goes to its own handler; a delegated trap enters the hart's handler; every other trap parks the hart. -/
def State.deliver (s : State) (t : Trap) : State :=
  let s := { s with hart := { s.hart with status := .running, waiting := false, mwait := none, sc := s.hart.sc.trapCsrs t } }
  if s.hart.ctl then s.sc Scalar.enterOwn
  else if delegated s.hart t.cause then s.sc (fun c => c.enterHandler t)
  else s.park t

/-- TAKING A TRAP: it is delivered once every vector word before it is complete (R329); until then the hart waits (TRAP_DELIVERY). -/
def State.trap (s : State) (t : Trap) : State :=
  if s.hart.ep.queue.isEmpty then s.deliver t else { s with hart := { s.hart with status := .trapping t } }

/-- A trap that an access of a word meets after the word has retired: the hart takes it at the boundary at which it stands, so that its restart
element is the one that is armed there. DEDUCED (log 44). -/
def State.late (s : State) (t : Trap) : Trap := { t with elem := if s.hart.sc.vstartArmed then s.hart.sc.vstart.toNat else 0 }

/-- A trap as the outcome of an instruction. -/
def raise (s : State) (t : Trap) : Out := .next (s.trap t)

/-- The illegal-instruction trap: TVAL is the word (R24). -/
def illegal (s : State) (i : Instr) : Out := raise s { cause := 1, tval := encode i }

/-- The own return of a control core (R340, R52): PC := TPC, and LENDSTATE as the trap saved it. -/
def State.ownReturn (s : State) : State := (s.retireTo s.hart.sc.tpc).sc (fun c => { c with lend := c.uilend })

end Sys2Proof.Machine
end

