-- ==== Sys2Proof/Machine/Xlate.lean ====
section
/-! DEFINITION. Address spaces, page-table walks, TLBs, accessed and dirty bits, the dirty ring and the checks on an access (R202, R205, R207,
R208, R228, R341 to R350, R364). -/

namespace Sys2Proof.Machine

/-- What an access does (R343). -/
inductive Kind where
  | fetch
  | read
  | write
  | rmw
  deriving DecidableEq, Repr

/-- The type code of ACCESS (R336). -/
def Kind.code : Kind → Nat
  | .fetch => 0
  | .read => 1
  | .write => 2
  | .rmw => 3

/-- The access writes. -/
def Kind.writes : Kind → Bool
  | .write | .rmw => true
  | .fetch | .read => false

/-- The first address of the scratchpad window (R202). -/
def windowBase : Nat := 0xFFFFFFFFA0000

/-- The address lies in the scratchpad window (below 2^52 the window reaches the top). -/
def inWindow (va : Nat) : Bool := windowBase ≤ va

/-- Where byte `s` of a core's scratchpad stands in `State.mem`. -/
def padAddr (core s : Nat) : Nat := 2 ^ 52 + core * 2 ^ 19 + s

/-- REGION, DIE and OFFSET of a physical address (R205). -/
def region (pa : Nat) : Nat := pa / 2 ^ 48 % 16
def homeDie (pa : Nat) : Nat := pa / 2 ^ 46 % 4
def offsetOf (pa : Nat) : Nat := pa % 2 ^ 46

/-- An extent or revoked range of the die's port holds the address (R381, R228). -/
def extentHolds (d : Die) (pa : Nat) : Bool :=
  d.extents.any (fun e => e.base ≤ pa && pa < e.base + e.size)

/-- The address lies in a revoked range (R228). -/
def revokedAt (s : State) (pa : Nat) : Bool :=
  region pa == 2 && (s.die (homeDie pa)).revoked.any (fun r => r.1 ≤ pa && pa < r.2)

/-- The physical address is installed (R205). -/
def installed (s : State) (pa : Nat) : Bool :=
  let k := homeDie pa
  k < s.part.dies &&
  match region pa with
  | 0 => offsetOf pa < s.part.tier1
  | 1 => nbit s.part.t2dies k && offsetOf pa < s.part.tier2
  | 2 => extentHolds (s.die k) pa || revokedAt s pa
  | 3 => s.part.features.getLsbD 3 && k == 0 && offsetOf pa < s.part.host
  | 4 => offsetOf pa < 0x10000
  | _ => false

/-! ### Reads at home -/

/-- The byte at home as a read finds it: a discarded page reads as zeros (R226). -/
def State.homeByte (s : State) (pa : Nat) : Byte :=
  if s.discarded.any (fun e => e.1 == pa / 65536 * 65536) then 0 else Memory.read s.mem pa

/-- `n` bytes at home as a read finds them. -/
def State.homeBytes (s : State) (pa n : Nat) : List Byte := (range pa n).map s.homeByte

/-- The little-endian value of bytes at home. -/
def State.homeNat (s : State) (pa n : Nat) : Nat := leValue (s.homeBytes pa n)

/-- Eight bytes at the home of a physical address (R343). -/
def readPte (s : State) (pa : Nat) : Nat := s.homeNat pa 8

/-! ### Entries -/

abbrev Pte := Nat

def Pte.v (e : Nat) : Bool := nbit e 0
def Pte.r (e : Nat) : Bool := nbit e 2
def Pte.w (e : Nat) : Bool := nbit e 3
def Pte.x (e : Nat) : Bool := nbit e 4
def Pte.u (e : Nat) : Bool := nbit e 5
def Pte.a (e : Nat) : Bool := nbit e 6
def Pte.d (e : Nat) : Bool := nbit e 7
def Pte.cls (e : Nat) : Bool := nbit e 56
def Pte.kind (e : Nat) : Nat := bits e 57 2
def Pte.dsc (e : Nat) : Bool := nbit e 59
def Pte.mig (e : Nat) : Bool := nbit e 60
/-- The frame's physical address. -/
def Pte.frame (e : Nat) : Nat := bits e 16 36 * 65536

/-- The entry with a bit set. -/
def Pte.setBit (e i : Nat) : Nat := if nbit e i then e else e + 2 ^ i

/-- The entry with a bit clear. -/
def Pte.clearBit (e i : Nat) : Nat := if nbit e i then e - 2 ^ i else e

/-- A frame in which a table can stand: in region 0 or 1, and installed (R205, R343). -/
def tableFrame (s : State) (f : Nat) : Bool := region f ≤ 1 && installed s f

/-- An entry that names a table (R343); a frame that R205 refuses makes the same fault. -/
def isTable (s : State) (e : Nat) : Bool :=
  !Pte.r e && !Pte.w e && !Pte.x e && bits e 52 12 == 0 && bits e 5 3 == 0 && tableFrame s (Pte.frame e)

/-- The feature a region needs (R350). -/
def featureOk (features : Word) (reg : Nat) : Bool :=
  match reg with
  | 1 => features.getLsbD 1
  | 2 => features.getLsbD 2
  | 3 => features.getLsbD 3
  | _ => true

/-- A malformed entry (R207, R208, R205, R350). -/
def malformed (s : State) (features : Word) (e : Nat) (big : Bool) : Bool :=
  let f := Pte.frame e
  nbit e 63 || bits e 52 4 != 0 || bits e 8 8 != 0 || nbit e 1
    || (Pte.w e && !Pte.r e)
    || (2 ≤ Pte.kind e && region f != 0)
    || (Pte.dsc e && (Pte.cls e || Pte.kind e == 3 || big))
    || (!Pte.cls e && region f == 4)
    || (Pte.mig e && Pte.v e)
    || (big && bits e 16 13 != 0)
    || !installed s f || (big && !installed s (f + 0x1FFF0000))
    || !featureOk features (region f)

/-- The entry permits the access (R343, R372): `hart` adds the clause for region 4. -/
def permits (e : Nat) (k : Kind) (hart : Bool) : Bool :=
  Pte.u e && !(hart && region (Pte.frame e) == 4) &&
  match k with
  | .fetch => Pte.x e
  | .read => Pte.r e
  | .write => Pte.w e
  | .rmw => Pte.r e && Pte.w e

/-- The cause for an entry that is not valid (R343). -/
def notValidCause : Kind → Nat
  | .fetch => 0x10
  | .read => 0x11
  | .write | .rmw => 0x12

/-- What a walk finds (R343). -/
inductive Walk where
  | found (pteAddr pte : Nat) (big : Bool)
  /-- a fault, and whether the failing page is of class D (R336) -/
  | fault (cause : Nat) (dev : Bool)
  | replay
  deriving DecidableEq, Repr

/-- The checks on the last entry of a walk. -/
def walkEnd (s : State) (features : Word) (k : Kind) (hart : Bool) (pteAddr e : Nat) (big : Bool) : Walk :=
  if malformed s features e big then .fault 0x14 (Pte.cls e)
  else if permits e k hart then .found pteAddr e big else .fault 0x13 (Pte.cls e)

/-- The entry that maps a page, valid or not, with its address; else the level above it that is not valid (R343). -/
inductive Leaf where
  | entry (pteAddr pte : Nat) (big : Bool)
  | notValid
  | badTable
  deriving DecidableEq, Repr

/-- The entry for an address, through the two upper levels (R343). DEDUCED (log 65): a root table on a frame that R205 refuses raises 0x14 as any
other table there does. -/
def leafOf (s : State) (ptroot va : Nat) : Leaf :=
  let p := readPte s (ptroot + 8 * bits va 42 10)
  if !tableFrame s ptroot then .badTable
  else if !Pte.v p then .notValid
  else if !isTable s p then .badTable
  else
    let qa := Pte.frame p + 8 * bits va 29 13
    let q := readPte s qa
    if !Pte.v q then .notValid
    else if Pte.r q || Pte.w q || Pte.x q then .entry qa q true
    else if !isTable s q then .badTable
    else
      let ea := Pte.frame q + 8 * bits va 16 13
      .entry ea (readPte s ea) false

/-- The walk of R343. -/
def walk (s : State) (ptroot : Nat) (features : Word) (va : Nat) (k : Kind) (hart : Bool) : Walk :=
  match leafOf s ptroot va with
  | .notValid => .fault (notValidCause k) false
  | .badTable => .fault 0x14 false
  | .entry ea e big =>
    if !Pte.v e && Pte.mig e then .replay
    else if !Pte.v e then .fault (notValidCause k) false
    else if !(Pte.r e || Pte.w e || Pte.x e) then .fault 0x14 (Pte.cls e)
    else walkEnd s features k hart ea e big

/-! ### Writes at home -/

/-- The monitors of a home line fire (R258). -/
def State.fire (s : State) (line : Nat) : State :=
  s.mapHarts (fun h => match h.sc.monitor with
    | some m => if m.line = line then { h with sc := { h.sc with monitor := some { m with fired := true } } } else h
    | none => h)

/-- Bytes written at home by one indivisible step, with the monitors of their lines (R258). -/
def State.homeStore (s : State) (pa : Nat) (bs : List Byte) : State :=
  let s := { s with mem := Memory.writeN s.mem pa bs }
  if bs.isEmpty then s
  else (range (pa / 64) ((pa + bs.length - 1) / 64 - pa / 64 + 1)).foldl State.fire s

/-- A little-endian value stored at home. -/
def State.homeStoreNat (s : State) (pa n v : Nat) : State := s.homeStore pa (leBytes n v)

/-- A page with DSC = 1 is revived: its frame is zero-filled and DSC cleared in its entry (R226). -/
def State.revive (s : State) (pa : Nat) : State :=
  let f := pa / 65536 * 65536
  match s.discarded.find? (fun e => e.1 == f) with
  | none => s
  | some (_, ea) =>
    let s := { s with mem := Memory.clear s.mem f (f + 65536), discarded := s.discarded.filter (fun e => e.1 != f) }
    s.homeStoreNat ea 8 (Pte.clearBit (readPte s ea) 59)

/-- The line is a pot line (R246). DESIGN CHOICE (log 42): a line into which software copies the bytes of a pot is none until POTINIT, FARM or a turn
of the loader makes it one. -/
def State.isPot (s : State) (pa : Nat) : Bool := s.potLines.contains (pa / 64 * 64)

/-- The dirty lines that a die's L2 holds as a memory-side cache: 96 MiB of them (R6, R204). -/
def mscLines : Nat := 1572864

/-- A line of tier 3 or host memory becomes dirty in its memory-side cache, written by `who` (R204, R211). A full cache writes its oldest line to
the device first; the agenda can write any other before that. A clean line holds what its device holds, and the state does not name it. -/
def State.noteMsc (s : State) (pa : Nat) (who : List Nat) : State :=
  if (region pa == 2 || region pa == 3) && pa < 2 ^ 52 then
    if s.msc.any (fun m => m.line == pa / 64) then
      { s with msc := s.msc.map (fun m =>
          if m.line = pa / 64 then { m with who := who.filter (fun w => !m.who.contains w) ++ m.who } else m) }
    else
      let mine := s.msc.filter (fun m => homeDie (m.line * 64) == homeDie pa)
      let kept := match mine.getLast? with
        | some m => if mscLines ≤ mine.length then s.msc.filter (· != m) else s.msc
        | none => s.msc
      { s with msc := { line := pa / 64, who := who, old := Memory.readN s.mem (pa / 64 * 64) 64 } :: kept }
  else s

/-- A write-back merges at home (R210): only the masked bytes of the line change; bytes of a pot line and of a revoked extent are dropped (R246,
R228); a discarded page is revived first (R226); monitors fire (R258). -/
def State.merge (s : State) (line : Nat) (data : BitVec 512) (mask : BitVec 64) (who : List Nat) : State :=
  if mask = 0 || s.isPot (line * 64) || revokedAt s (line * 64) then s
  else
    let s := (s.revive (line * 64)).noteMsc (line * 64) who
    ({ s with mem := Memory.writeMasked s.mem (line * 64) mask.toNat 0 (lineBytes data) }).fire line

/-- Bytes of an engine merge at home in the same way, whatever lines they span (R304, R210). -/
def State.mergeBytes (s : State) (pa : Nat) : List Byte → Nat → State
  | [], _ => s
  | b :: bs, who =>
    let s := if s.isPot pa || revokedAt s pa then s else
      let s := (s.revive pa).noteMsc pa [who]
      ({ s with mem := Memory.write s.mem pa b }).fire (pa / 64)
    State.mergeBytes s (pa + 1) bs who

/-! ### Rings in memory (R215, R364) -/

/-- HEAD and TAIL of a ring leave room (R215). -/
def ringRoom (head tail size : Nat) : Bool := (head + 2 ^ 64 - tail) % 2 ^ 64 != size

/-- SIZE of a ring is a power of two from 16 to 2^24. -/
def ringSizeOk (size : Nat) : Bool := (range 4 21).any (fun k => size == 2 ^ k)

/-- An entry of `n` bytes appended to the ring whose descriptor lies at a physical address; a full ring sets OVF; an invalid descriptor
records nothing. -/
def State.ringAppend (s : State) (desc n : Nat) (baseOk : Nat → Bool) (place : Nat → Option Nat) (e : List Byte) : State :=
  let base := s.homeNat desc 8
  let size := s.homeNat (desc + 8) 4
  let flags := s.homeNat (desc + 12) 4
  let head := s.homeNat (desc + 16) 8
  let tail := s.homeNat (desc + 24) 8
  if !baseOk base || !ringSizeOk size || 2 ≤ flags || !((s.homeBytes (desc + 32) 32).all (· == 0)) then s
  else if !ringRoom head tail size then (s.revive desc).homeStoreNat (desc + 12) 4 1
  else match place (base + n * (head % size)) with
    | none => s
    | some pa => (((s.revive pa).homeStore pa e).revive desc).homeStoreNat (desc + 16) 8 (head + 1)

/-- A write that sets D is recorded in the context's dirty ring with its page's address (R364). -/
def State.dirtyAppend (s : State) (c : Context) (va : Nat) (big : Bool) : State :=
  if c.dirty = 0 then s
  else s.ringAppend c.dirty 8 (fun b => b % 8 == 0) some
    (leBytes 8 (if big then bits va 29 23 * 2 ^ 29 + 1 else bits va 16 36 * 65536))

/-! ### Translation -/

/-- What translating one access gives. -/
inductive Xlat where
  | ok (s : State) (pa pte : Nat)
  | fault (cause : Nat) (dev : Bool)
  /-- the page is migrating: the access waits (R222) -/
  | replay
  /-- a write to a replicated page with W = 1 waits for the collapse (R221) -/
  | collapse

/-- The page number of an entry: of 64 KiB pages, or of 512 MiB pages. -/
def vpnOf (va : Nat) (big : Bool) : Nat := if big then va / 2 ^ 29 else va / 65536

/-- The TLB slice that serves an element: that of the lane group which address bits [11:8] name (R342). -/
def sliceUnit (va : Nat) : Nat := 4 + va / 256 % 16

/-- The second-level TLB of a core (R342). -/
def secondLevel : Nat := 20

/-- The entries that a TLB holds (R342). -/
def tlbSize (unit : Nat) : Nat := if unit < 4 then 64 else if unit < secondLevel then 256 else 8192

/-- An entry of some TLB of the core for the page. -/
def State.tlbFind (s : State) (core asid va : Nat) : Option TlbEntry :=
  s.tlb.find? (fun t => t.core == core && t.asid == asid && t.vpn == vpnOf va t.big)

/-- What a lookup through a TLB finds: its own entry, else that of the second level (R342). -/
def State.tlbHit (s : State) (core unit asid va : Nat) : Option TlbEntry :=
  let of := fun (u : Nat) => s.tlb.find? (fun t => t.core == core && t.unit == u && t.asid == asid && t.vpn == vpnOf va t.big)
  (of unit).or (of secondLevel)

/-- The entry placed in its TLB; a full one gives up its oldest entry, and the agenda can drop any other before that (R342). -/
def tlbPut (l : List TlbEntry) (t : TlbEntry) : List TlbEntry :=
  let l := l.filter (fun u => !(u.core == t.core && u.unit == t.unit && u.asid == t.asid && u.vpn == t.vpn && u.big == t.big))
  let mine := l.filter (fun u => u.core == t.core && u.unit == t.unit)
  t :: (match mine.getLast? with
    | some o => if tlbSize t.unit ≤ mine.length then l.filter (· != o) else l
    | none => l)

/-- The physical address of the byte, for an entry (R207, R220): a replica is read on the reader's die. -/
def physOf (e va : Nat) (big : Bool) (die : Nat) (k : Kind) : Nat :=
  let pa := if big then Pte.frame e + va % 2 ^ 29 else Pte.frame e + va % 65536
  if Pte.kind e == 3 && !k.writes then pa - homeDie pa * 2 ^ 46 + die * 2 ^ 46 else pa

/-- The updates of A and D (R344), with the dirty ring (R364), and the entry as it then stands. -/
def State.markPte (s : State) (c : Context) (va pteAddr e : Nat) (big : Bool) (k : Kind) : State × Nat :=
  let e' := Pte.setBit (if k.writes then Pte.setBit e 7 else e) 6
  if e' = e then (s, e)
  else
    let s := if k.writes && !Pte.d e then s.dirtyAppend c va big else s
    (s.homeStoreNat pteAddr 8 e', e')

/-- The home's record of discarded frames follows DSC in the entry (R226). DEDUCED (log 49): it does so at a translation. -/
def State.noteDsc (s : State) (pteAddr e : Nat) : State :=
  let f := Pte.frame e
  if Pte.dsc (readPte s pteAddr) then
    (if s.discarded.any (fun x => x.1 == f) then s else { s with discarded := (f, pteAddr) :: s.discarded })
  else if s.discarded.any (fun x => x.1 == f && x.2 == pteAddr) then
    { s with discarded := s.discarded.filter (fun x => x.1 != f) }
  else s

/-- A 512 MiB page through which a context reaches memory is kept until its translation is invalidated (R346). -/
def State.noteBig (s : State) (asid va : Nat) (big : Bool) : State :=
  if big && !s.bigPages.contains (asid, va / 2 ^ 29) then { s with bigPages := (asid, va / 2 ^ 29) :: s.bigPages } else s

/-- The checks that follow a successful walk or a TLB hit, and the access's frame, which within a page of 512 MiB can lie between the installed
ones (R205, R381); the translation is then held by the TLB that asked and by the second level. -/
def State.finish (s : State) (c : Context) (core unit va pteAddr e : Nat) (big : Bool) (k : Kind) : Xlat :=
  let pa := physOf e va big (core / 16) k
  if !installed s pa then .fault 0x14 (Pte.cls e)
  else if Pte.kind e == 3 && k.writes then .collapse
  else if revokedAt s pa then .fault 0x15 (Pte.cls e)
  else
    let r := ((s.noteBig c.asid va big).noteDsc pteAddr e).markPte c va pteAddr e big k
    let t : TlbEntry := ⟨core, secondLevel, c.asid, vpnOf va big, big, pteAddr, BitVec.ofNat 64 r.2⟩
    let l := tlbPut r.1.tlb t
    .ok { r.1 with tlb := if unit = secondLevel then l else tlbPut l { t with unit := unit } } pa r.2

/-- Translation of a global address in a context through a TLB of the core (R342 to R345): a held entry is used while its access and dirty bits
need no update or the entry at home is still the same; else the walk is made. DEDUCED (log 59): when a held entry serves an access that was
changed at home. -/
def State.xlate (s : State) (c : Context) (core unit va : Nat) (k : Kind) (hart : Bool) : Xlat :=
  let viaWalk (_ : Unit) : Xlat :=
    match walk s c.ptroot c.features va k hart with
    | .fault cause dev => .fault cause dev
    | .replay => .replay
    | .found pteAddr e big => s.finish c core unit va pteAddr e big k
  match s.tlbHit core unit c.asid va with
  | none => viaWalk ()
  | some t =>
    let e := t.pte.toNat
    let same := readPte s t.pteAddr == e
    if (!Pte.a e || (k.writes && !Pte.d e)) && !same then viaWalk ()
    else if !permits e k hart then (if same then .fault 0x13 (Pte.cls e) else viaWalk ())
    else s.finish c core unit va t.pteAddr e t.big k

end Sys2Proof.Machine
end

