-- ==== Sys2Proof/Machine/Cache.lean ====
section
/-! DEFINITION. The caches: lines, write-backs, releases, acquires and shootdowns (R203, R204, R209 to R213, R216, R323). Scalar accesses go
through the hart's scalar cache, vector accesses through the core's VDC, engines and indivisible operations to the home. -/

namespace Sys2Proof.Machine

/-- The lane group whose VDC slice serves a line: address bits [11:8] (R204). -/
def sliceOf (line : Nat) : Nat := line / 4 % 16

/-- A line reached also by another address (R18, R203). -/
def addTag (t : Tag) (ts : List Tag) : List Tag := if ts.contains t then ts else ts ++ [t]

/-- A page of the address space that `p` names reaches the line. -/
def reaches (asid : Nat) (p : Nat → Bool) (ts : List Tag) : Bool := ts.any (fun t => t.1 == asid && p t.2)

/-- The bytes of a VDC line's own copy that go home from elsewhere in its core replace those it holds, dirty ones included, so that no older
byte of the line follows them home (R16, R277). -/
def State.patchVdc (s : State) (core line : Nat) (data : BitVec 512) (mask : BitVec 64) : State :=
  { s with vdc := s.vdc.map (fun l =>
      if l.core = core && l.line = line then
        let d := l.dirty &&& ~~~mask
        { (if d = 0 then l.clean else l) with data := overlay l.data data mask, dirty := d }
      else l) }

/-- A scalar line's dirty bytes go home (R210). -/
def State.wbLine (s : State) (core who : Nat) (l : SLine) : State :=
  if l.dirty = 0 then s else (s.patchVdc core l.line l.data l.dirty).merge l.line l.data l.dirty [who]

/-- The scalar lines of a hart that `p` names are written back; they stay, clean, or are dropped. -/
def State.flushScalar (s : State) (h : Hart) (p : SLine → Bool) (drop : Bool) : State :=
  let s := (h.scache.filter p).foldl (fun s l => s.wbLine h.coreId h.loc l) s
  s.updHart h.loc (fun g =>
    let kept := if drop then g.scache.filter (fun l => !p l) else g.scache.map (fun l => if p l then { l with dirty := 0 } else l)
    { g with scache := kept })

/-- The harts of a core that a set of four names. -/
def slotLocs (core : Nat) (b : BitVec 4) : List Nat := ((List.range 4).filter (fun i => b.getLsbD i)).map (4 * core + ·)

/-- The harts that answer for the line's dirty bytes at their releases: its writers, and those that have acquired or read them (R211, R277). -/
def VLine.bearers (l : VLine) : BitVec 4 := l.writers ||| l.carry ||| l.seen

/-- A VDC line's dirty bytes go home, as bytes of every hart that answers for them (R210, R211). -/
def State.wbVline (s : State) (l : VLine) : State := s.merge l.line l.data l.dirty (slotLocs l.core l.bearers)

/-- The VDC lines that `p` names are written back; they stay, clean, or are dropped. -/
def State.flushVdc (s : State) (p : VLine → Bool) (drop : Bool) : State :=
  let s := (s.vdc.filter p).foldl State.wbVline s
  { s with vdc := if drop then s.vdc.filter (fun l => !p l) else s.vdc.map (fun l => if p l then l.clean else l) }

/-- The writer set of hart `slot`. -/
def writerBit (slot : Nat) : BitVec 4 := BitVec.ofNat 4 (2 ^ slot)

/-- The line's writer set names the hart. -/
def VLine.hasWriter (l : VLine) (slot : Nat) : Bool := l.writers &&& writerBit slot != 0

/-- The hart answers for the line's dirty bytes at its releases (R211, R277). -/
def VLine.answers (l : VLine) (slot : Nat) : Bool := l.bearers &&& writerBit slot != 0

/-- Dirty bytes of the line are not those of the half that reads it, the scalar half of hart `slot` or its execute half. -/
def VLine.foreign (l : VLine) (slot : Nat) (scalar : Bool) : Bool :=
  l.dirty != 0 && (l.writers &&& ~~~writerBit slot != 0 || (if scalar then l.vec else l.scal) &&& writerBit slot != 0)

/-- A half of hart `slot` reads the bytes of a core's line that the mask names (R290). -/
def State.seeVdc (s : State) (core line slot : Nat) (scalar : Bool) (mask : BitVec 64) : State :=
  { s with vdc := s.vdc.map (fun l =>
      if l.core = core && l.line = line && l.foreign slot scalar && l.dirty &&& mask != 0 then { l with seen := l.seen ||| writerBit slot } else l) }

/-- The hart that executes knows of newer bytes in a line than its scalar cache may hold (R254). -/
def State.noteNewer (s : State) (line : Nat) : State :=
  if s.hart.newer.contains line then s else { s with hart := { s.hart with newer := line :: s.hart.newer } }

/-- A line's 64 bytes at home. -/
def State.homeLine (s : State) (line : Nat) : BitVec 512 := BitVec.ofNat 512 (leValue (s.homeBytes (line * 64) 64))

/-- The lines that a VDC slice holds: 32 KiB, less the 4 KiB banks that the depth of its lane group's owner borrows (R129, R204). -/
def State.sliceLines (s : State) (core j : Nat) : Nat :=
  match s.allHarts.find? (fun h => h.admitted && h.coreId == core && h.ep.lg.getLsbD j) with
  | some h => 512 - 64 * (2 ^ h.ep.depth.val - 1)
  | none => 512

/-- A VDC slice is cut to its `n` newest lines; the others are written back and dropped (R129, R210). -/
def State.fitSlice (s : State) (core j n : Nat) : State :=
  let mine := s.vdc.filter (fun l => l.core == core && sliceOf l.line == j)
  if mine.length ≤ n then s else s.flushVdc (fun l => (mine.drop n).contains l) true

/-- The VDC line of a core, filled from home where it is absent (R204). A full slice gives up its oldest line; the agenda can evict any other
before that. DEDUCED (log 66): a line keeps the KIND of the page that filled it. -/
def State.fillVdc (s : State) (core line va asid : Nat) (swm : Bool) : State :=
  let t : Tag := (asid, va / 64 * 64)
  if s.vdc.any (fun l => l.core == core && l.line == line) then
    { s with vdc := s.vdc.map (fun l => if l.core = core && l.line = line then { l with tags := addTag t l.tags } else l) }
  else
    let s := s.fitSlice core (sliceOf line) (s.sliceLines core (sliceOf line) - 1)
    { s with vdc := ⟨core, line, [t], s.homeLine line, 0, 0, 0, 0, 0, swm⟩ :: s.vdc }

/-- The bytes of a VDC line written by a half of a hart of the core, with the dirty mask and the writer set (R209). -/
def State.writeVdc (s : State) (core line slot : Nat) (scalar : Bool) (data : BitVec 512) (mask : BitVec 64) : State :=
  let f := fun (l : VLine) =>
    if l.core = core && l.line = line then
      let l := { l with data := overlay l.data data mask, dirty := l.dirty ||| mask }
      if scalar then { l with scal := l.scal ||| writerBit slot } else { l with vec := l.vec ||| writerBit slot }
    else l
  { s with vdc := s.vdc.map f }

/-- A scalar line's dirty bytes go into the core's VDC slice that serves them (R211 scope C). -/
def State.pushLine (s : State) (h : Hart) (l : SLine) : State :=
  if l.dirty = 0 then s
  else
    let s := l.tags.foldl (fun s t => s.fillVdc h.coreId l.line t.2 t.1 l.swm) s
    s.writeVdc h.coreId l.line h.slot true l.data l.dirty

/-- The scalar dirty bytes that `p` names go into the VDC; the lines stay, clean. -/
def State.pushScalar (s : State) (h : Hart) (p : SLine → Bool) : State :=
  let s := (h.scache.filter p).foldl (fun s l => s.pushLine h l) s
  s.updHart h.loc (fun g => { g with scache := g.scache.map (fun l => if p l then { l with dirty := 0 } else l) })

/-- The memory-side-cache lines of tier 3 and host memory that `p` names reach their devices (R211 scope Y). -/
def State.flushMsc (s : State) (p : MscLine → Bool) : State := { s with msc := s.msc.filter (fun m => !p m) }

/-- A release by the hart that executes at a scope (R211); lines of pages of KIND SWM are passed over (R254). A control core has no VDC, and
its scope C reaches its die (R370): DEDUCED (log 39). The VDC lines that go home are those the hart has dirtied and those whose bytes it has read
or had acquired at scope C: DEDUCED (log 64). -/
def State.release (s : State) (scope : Nat) : State :=
  let h := s.hart
  if scope = 0 then s
  else if scope = 1 && !h.ctl then s.pushScalar h (fun l => !l.swm)
  else
    let s := s.flushScalar h (fun l => !l.swm) false
    let s := s.flushVdc (fun l => l.core == h.coreId && l.answers h.slot && !l.swm) false
    if scope = 4 then s.flushMsc (fun m => m.who.contains h.loc) else s

/-- The hart that executes has acquired its core's dirty VDC lines (R277). DEDUCED (log 64). -/
def State.carryVdc (s : State) : State :=
  let h := s.hart
  if h.ctl then s
  else { s with vdc := s.vdc.map (fun l =>
      if l.core = h.coreId && l.dirty != 0 then { l with carry := l.carry ||| writerBit h.slot } else l) }

/-- An acquire of the hart that executes (R211). -/
def State.acquire (s : State) (scope : Nat) : State :=
  let h := s.hart
  if scope = 0 then s
  else
    let s := s.flushScalar h (fun l => !l.swm) true
    if scope = 1 then s.carryVdc
    else
      let s := s.flushVdc (fun l => l.core == h.coreId && !l.swm) true
      if scope = 4 then s.flushMsc (fun _ => true) else s

/-! ### The scalar cache -/

/-- The scalar cache is 8-way with 128 sets (R323). -/
def setOf (line : Nat) : Nat := line % 128

/-- A line is about to be filled: a full set gives up one line, written back first (R323, R210). Which one is a freedom of the hardware. -/
def State.makeRoom (s : State) (line : Nat) : State :=
  let ways := s.hart.scache.filter (fun l => setOf l.line == setOf line)
  if ways.length < 8 then s
  else
    let r := s.choose 8
    match ways[r.1]? with
    | none => r.2
    | some v => r.2.flushScalar r.2.hart (fun l => l.line == v.line) true

/-- The scalar line of the hart that executes, filled where it is absent: from the core's VDC where that holds it, else from home (R217).
DEDUCED (log 66): a line keeps the KIND of the page that filled it. -/
def State.fillScalar (s : State) (line va asid : Nat) (swm : Bool) : State :=
  let t : Tag := (asid, va / 64 * 64)
  if s.hart.scache.any (fun l => l.line == line) then
    { s with hart := { s.hart with scache := s.hart.scache.map (fun l => if l.line = line then { l with tags := addTag t l.tags } else l) } }
  else
    let s := s.makeRoom line
    let data := match s.vdc.find? (fun l => l.core == s.hart.coreId && l.line == line) with
      | some l => l.data
      | none => s.homeLine line
    let s := s.seeVdc s.hart.coreId line s.hart.slot true (byteMask 0 64)
    { s with hart := { s.hart with scache := ⟨line, [t], data, 0, swm⟩ :: s.hart.scache } }

/-- The data of the scalar line. -/
def State.scalarData (s : State) (line : Nat) : BitVec 512 :=
  ((s.hart.scache.find? (fun l => l.line == line)).map (·.data)).getD 0

/-- Bytes written into the scalar line, with its dirty mask (R209); those that stand at home now are not dirty. -/
def State.writeScalar (s : State) (line k n v : Nat) (dirty : Bool) : State :=
  let f := fun (l : SLine) =>
    if l.line = line then
      { l with data := setBytes l.data k n v, dirty := if dirty then l.dirty ||| byteMask k n else l.dirty &&& ~~~byteMask k n }
    else l
  { s with hart := { s.hart with scache := s.hart.scache.map f } }

/-- The clean bytes of a line in the core's VDC and in the scalar cache of the hart that executes become those at home, or of the VDC: the line
stays (R323), and later accesses find what the drained ones have written (R254, R272). -/
def State.refresh (s : State) (line : Nat) : State :=
  let core := s.hart.coreId
  let s := if s.hart.scache.any (fun l => l.line == line) then s.seeVdc core line s.hart.slot true (byteMask 0 64) else s
  let home := s.homeLine line
  let vdc := s.vdc.map (fun (l : VLine) => if l.core = core && l.line = line then { l with data := overlay l.data home (~~~l.dirty) } else l)
  let now := match vdc.find? (fun (l : VLine) => l.core == core && l.line == line) with
    | some l => l.data
    | none => home
  { s with
    vdc := vdc
    hart := { s.hart with
      scache := s.hart.scache.map (fun (l : SLine) => if l.line = line then { l with data := overlay l.data now (~~~l.dirty) } else l) } }

/-- The scalar half of the hart that executes catches up with the lines that its drained accesses have written. -/
def State.catchUp (s : State) : State :=
  let s := s.hart.newer.foldl State.refresh s
  { s with hart := { s.hart with newer := [] } }

/-! ### The write-range collector (R216) -/

/-- The ring's descriptor and entries are named by virtual addresses of the context: translated with no fault and no marking. -/
def State.peek (s : State) (c : Context) (va : Nat) (k : Kind) : Option Nat :=
  if inWindow va || 2 ^ 52 ≤ va then none
  else match walk s c.ptroot c.features va k true with
    | .found _ e big => if installed s (physOf e va big 0 .write) then some (physOf e va big 0 .write) else none
    | _ => none

/-- A collector entry is appended to its context's ring (R216); where EN is 0 or the descriptor is not valid, nothing is recorded. -/
def State.appendRange (s : State) (e : CollEntry) : State :=
  let s := { s with collector := s.collector.filter (· != e) }
  match s.ctxOf e.asid with
  | none => s
  | some c =>
    if !c.swmring.getLsbD 0 then s
    else match s.peek c (wbits c.swmring 6 46 * 64) .write with
      | none => s
      | some desc =>
        if region desc != 0 then s
        else s.ringAppend desc 16 (fun b => b % 16 == 0) (fun va => s.peek c va .write) (leBytes 8 e.vpn ++ leBytes 8 e.mask.toNat)

/-- The collector entries that `p` names are appended. -/
def State.appendRanges (s : State) (p : CollEntry → Bool) : State := (s.collector.filter p).foldl State.appendRange s

/-- A store of a context to an SWM page sets its 1 KiB block's bit; a seventeenth entry of a core evicts the oldest (R216). -/
def State.collect (s : State) (core asid va : Nat) : State :=
  match s.ctxOf asid with
  | none => s
  | some c =>
    if !c.swmring.getLsbD 0 then s
    else
      let vpn := va / 65536
      let bit : BitVec 64 := BitVec.ofNat 64 (2 ^ (va / 1024 % 64))
      if s.collector.any (fun e => e.core == core && e.asid == asid && e.vpn == vpn) then
        let f := fun (e : CollEntry) => if e.core = core && e.asid = asid && e.vpn = vpn then { e with mask := e.mask ||| bit } else e
        { s with collector := s.collector.map f }
      else
        let mine := s.collector.filter (fun e => e.core == core)
        let s := match mine with
          | e :: _ => if 16 ≤ mine.length then s.appendRange e else s
          | [] => s
        { s with collector := s.collector ++ [⟨core, asid, vpn, bit⟩] }

/-! ### Shootdowns (R210, R222, R346) -/

/-- Every dirty byte of the lines that a context reaches by an address that `p` names goes home, and the lines are dropped (R210). -/
def State.dropLines (s : State) (asid : Nat) (p : Nat → Bool) : State :=
  let s := s.allHarts.foldl (fun s h => if h.ctl then s else s.flushScalar h (fun l => reaches asid p l.tags) true)
    (s.flushVdc (fun l => reaches asid p l.tags) true)
  { s with icache := s.icache.filter (fun l => !reaches asid p l.tags) }

/-- The lines are dropped and their dirty bytes with them (R264, R355), but for a line that another context has reached too, which is written back
whole: only the context's own writes may be lost (R285). At a discard, a line that a half other than its writers' has read is written back first
(R290; log 86). -/
def State.loseLines (s : State) (asid : Nat) (p : Nat → Bool) (killed : Bool) : State :=
  let s := if killed then s else s.flushVdc (fun l => reaches asid p l.tags && l.seen != 0) false
  let sole := fun (ts : List Tag) => reaches asid p ts && ts.all (fun t => t.1 == asid)
  let s := s.mapHarts (fun h => if h.ctl then h else { h with scache := h.scache.filter (fun l => !sole l.tags) })
  ({ s with vdc := s.vdc.filter (fun l => !sole l.tags) }).dropLines asid p

/-- The translations of a context that `p` names by address are dropped from every TLB; the monitors on their pages fire (R258), but for those on
the scratchpad window, which no page maps (R202). -/
def State.dropTlb (s : State) (asid : Nat) (p : Nat → Bool) : State :=
  let s := { s with
    tlb := s.tlb.filter (fun t => !(t.asid == asid && p (if t.big then t.vpn * 2 ^ 29 else t.vpn * 65536)))
    bigPages := s.bigPages.filter (fun b => !(b.1 == asid && p (b.2 * 2 ^ 29))) }
  s.mapHarts (fun h => match h.sc.monitor with
    | some m => if !h.ctl && h.asid = asid && p m.va && !inWindow m.va then { h with sc := { h.sc with monitor := some { m with fired := true } } } else h
    | none => h)

/-! ### Instruction fetch (R31, R252) -/

/-- The lines of a core's instruction cache: 128 KiB (R6). -/
def icacheLines : Nat := 2048

/-- The word at a physical address as the core fetches it: through its instruction cache, where a full one gives up its oldest line; the agenda
can drop any other before that. DEDUCED (log 60): the old or the new word (R31). -/
def State.fetchWord (s : State) (core va pa asid : Nat) : State × Nat :=
  let line := pa / 64
  let t : Tag := (asid, va / 64 * 64)
  match s.icache.find? (fun l => l.core == core && l.line == line) with
  | some l => ({ s with icache := s.icache.map (fun k => if k.core = core && k.line = line then { k with tags := addTag t k.tags } else k) },
      getBytes l.data (pa % 64) 4)
  | none =>
    let d := s.homeLine line
    let mine := s.icache.filter (fun l => l.core == core)
    let kept := match mine.getLast? with
      | some o => if icacheLines ≤ mine.length then s.icache.filter (fun l => !(l.core == o.core && l.line == o.line)) else s.icache
      | none => s.icache
    ({ s with icache := ⟨core, line, [t], d⟩ :: kept }, getBytes d (pa % 64) 4)

/-- The core's instruction cache is emptied (R252). -/
def State.dropIcache (s : State) (core : Nat) : State := { s with icache := s.icache.filter (fun l => l.core != core) }

end Sys2Proof.Machine
end

