-- ==== Sys2Proof/Machine/Loc.lean ====
section
/-! DEFINITION. Where an access of the hart that executes goes: its checks in the order of R26 and R327, then its physical address. -/

namespace Sys2Proof.Machine

/-- The ACCESS byte of a scalar-like access (R336). -/
def accessByte (k : Kind) (width : Nat) (dev : Bool) : Nat := k.code + 4 * width + (if dev then 128 else 0)

/-- What locating an access gives. -/
inductive Loc where
  | ok (s : State) (pa pte : Nat)
  | trap (t : Trap)
  /-- the access waits: the page migrates (R222) or collapses (R221) -/
  | wait (s : State)

/-- The context of the hart that executes; a hart whose context is gone translates nothing. -/
def State.ctx (s : State) : Context :=
  (s.ctxOf s.hart.asid).getD (Context.new s.hart.asid)

/-- An access of a hart to a page, translated in its context through one of its core's TLBs (R342, R343). -/
def State.page (s : State) (unit va : Nat) (k : Kind) (t : Nat → Bool → Trap) : Loc :=
  match s.xlate s.ctx s.hart.coreId unit va k true with
  | .ok s' pa pte => .ok s' pa pte
  | .fault cause dev => .trap (t cause dev)
  | .replay => .wait s
  | .collapse => .wait (s.stall ⟨s.hart.asid, va, s.hart.die⟩)

/-- A control core's address is physical (R370). DEDUCED (log 9): an address that R205 refuses raises 0x14, and one in a revoked extent 0x15
(R228). -/
def State.physical (s : State) (va : Nat) (t : Nat → Bool → Trap) : Loc :=
  if !installed s va then .trap (t 0x14 false) else if revokedAt s va then .trap (t 0x15 false) else .ok s va 0

/-- The location of an aligned access of `n` bytes at `va` through a TLB; `width` is its code in ACCESS. Window addresses are not translated
(R202). -/
def State.locateVia (s : State) (unit va n : Nat) (k : Kind) (width : Nat) : Loc :=
  let t := fun cause dev => ({ cause := cause, tval := va, access := accessByte k width dev } : Trap)
  if 2 ^ 52 ≤ va then .trap (t 4 false)
  else if va % n ≠ 0 then .trap (t 3 false)
  else if s.hart.ctl then s.physical va t
  else if inWindow va then .ok s (padAddr s.hart.coreId (va - windowBase)) 0
  else s.page unit va k t

/-- The location of a fetch or a scalar access, through the hart's own TLB (R342). -/
def State.locate (s : State) (va n : Nat) (k : Kind) (width : Nat) : Loc := s.locateVia s.hart.slot va n k width

/-- The location of a vector or matrix element, through the slice of its lane group (R342). -/
def State.locateSlice (s : State) (va n : Nat) (k : Kind) (width : Nat) : Loc := s.locateVia (sliceUnit va) va n k width

/-- The address stands for a scratchpad byte. -/
def isPad (pa : Nat) : Bool := 2 ^ 52 ≤ pa

/-- The scope an access takes: a scratchpad access is performed at scope C at most (R286). -/
def clipScope (va scope : Nat) : Nat := if inWindow va && 1 < scope then 1 else scope

end Sys2Proof.Machine
end

