-- ==== Sys2Proof/Machine/Pots.lean ====
section
/-! DEFINITION. Pots: the line at home, the stacks of the cores, call-ins, takes and gives, counters and index-valued pots (R141, R246 to
R251). The operations here are those of the home and of the issuing core's table; the instructions are in Sync. -/

namespace Sys2Proof.Machine

/-- Bytes changed at home by the home itself, which revives a discarded page first (R226): no monitor watches pot operations (R258). -/
def State.poke (s : State) (pa n v : Nat) : State :=
  let s := s.revive pa
  { s with mem := Memory.writeN s.mem pa (leBytes n v) }

/-- The fields of a pot line (R246). -/
def State.potResid (s : State) (pa : Nat) : Nat := s.homeNat pa 8
def State.potHolders (s : State) (pa : Nat) : Nat := s.homeNat (pa + 8) 8
def State.potPolicy (s : State) (pa : Nat) : Nat := s.homeNat (pa + 16) 1
def State.potScope (s : State) (pa : Nat) : Nat := s.homeNat (pa + 17) 1
def State.potKind (s : State) (pa : Nat) : Nat := s.homeNat (pa + 18) 1
def State.potFlags (s : State) (pa : Nat) : Nat := s.homeNat (pa + 19) 1

/-- The greatest RESID. -/
def potMax : Nat := 2 ^ 64 - 1

/-- An amount added to RESID, which saturates; a cut amount sets SAT. The flag says that all of it was added (R250). DEDUCED (log 38): also where a
stack returns. -/
def State.potAdd (s : State) (pa n : Nat) : State × Bool :=
  let r := s.potResid pa + n
  if r ≤ potMax then (s.poke pa 8 r, true)
  else ((s.poke pa 8 potMax).poke (pa + 19) 1 (s.potFlags pa / 2 * 2 + 1), false)

/-- A range of indices joins a rising list of disjoint ranges; adjacent ranges merge (R141). -/
def addRange : List (Nat × Nat) → Nat → Nat → List (Nat × Nat)
  | [], lo, hi => if hi ≤ lo then [] else [(lo, hi)]
  | (a, b) :: r, lo, hi =>
    if hi ≤ lo then (a, b) :: r
    else if hi < a then (lo, hi) :: (a, b) :: r
    else if b < lo then (a, b) :: addRange r lo hi
    else addRange r (min a lo) (max b hi)

/-- The number of indices in ranges. -/
def rangeCount (rs : List (Nat × Nat)) : Nat := rs.foldl (fun n r => n + (r.2 - r.1)) 0

/-- The home ranges of a pot. -/
def State.rangesOf (s : State) (pa : Nat) : List (Nat × Nat) :=
  ((s.ranges.find? (fun r => r.pa == pa)).map (·.ranges)).getD []

/-- The home ranges of a pot replaced; RESID holds their count (R141). -/
def State.setRanges (s : State) (pa : Nat) (rs : List (Nat × Nat)) : State :=
  let others := s.ranges.filter (fun r => r.pa != pa)
  ({ s with ranges := if rs.isEmpty then others else ⟨pa, rs⟩ :: others }).poke pa 8 (rangeCount rs)

/-- A stack returns to its home (R247, R141). -/
def State.returnStack (s : State) (k : Stack) : State :=
  let s := { s with potStacks := s.potStacks.filter (· != k) }
  if s.potKind k.pa = 1 then s.setRanges k.pa (addRange (s.rangesOf k.pa) k.lo k.hi)
  else (s.potAdd k.pa k.amount).1

/-- A CALL-IN: every stack of the pot goes home and HOLDERS is cleared (R247). -/
def State.callIn (s : State) (pa : Nat) : State :=
  ((s.potStacks.filter (fun k => k.pa == pa)).foldl State.returnStack s).poke (pa + 8) 8 0

/-- The core's stack of a pot (R247). -/
def State.stackOf (s : State) (core asid pa : Nat) : Option Stack :=
  s.potStacks.find? (fun k => k.core == core && k.asid == asid && k.pa == pa)

/-- The core's stack replaced and moved to the front of the table, the most recently used; where all 32 entries hold other stacks, the least
recently used one returns to its home first (R247). An empty stack frees its entry. -/
def State.putStack (s : State) (k : Stack) : State :=
  let s := { s with potStacks := s.potStacks.filter (fun t => !(t.core == k.core && t.asid == k.asid && t.pa == k.pa)) }
  if k.amount = 0 && k.hi ≤ k.lo then s
  else
    let mine := s.potStacks.filter (fun t => t.core == k.core)
    let s := match mine.getLast? with
      | some old => if 32 ≤ mine.length then s.returnStack old else s
      | none => s
    { s with potStacks := k :: s.potStacks }

/-- The core may hold a stack (R246 HOLDERS). -/
def State.setHolder (s : State) (pa core : Nat) : State :=
  let h := s.potHolders pa
  if nbit h core || 64 ≤ core then s else s.poke (pa + 8) 8 (h + 2 ^ core)

/-- A take from the core's own stack, where that covers it (R249). -/
def State.takeLocal (s : State) (core asid pa n : Nat) : Option State :=
  match s.stackOf core asid pa with
  | some k => if n ≤ k.amount then some (s.putStack { k with amount := k.amount - n }) else none
  | none => none

/-- The home's service of a take of n (R249): a refill, a failure, or a call-in and then a take. DEDUCED (log 18): a control core, which has no
pot table and no bit in HOLDERS, is granted what it takes and no more, and gives at home. -/
def State.takeHome (s : State) (core asid va pa n : Nat) (quick : Bool) : State × Bool :=
  let h := s.potResid pa
  if n ≤ h then
    let g := if 64 ≤ core then n else min (max n (h / 8)) h
    let have_ := ((s.stackOf core asid pa).map (·.amount)).getD 0
    (((s.poke pa 8 (h - g)).setHolder pa core).putStack ⟨core, asid, va, pa, have_ + g - n, 0, 0⟩, true)
  else if quick then (s, false)
  else
    let s := s.callIn pa
    let h := s.potResid pa
    if n ≤ h then (s.poke pa 8 (h - n), true) else (s, false)

/-- The highest index at home is taken away (R141). -/
def State.takeTop (s : State) (pa g : Nat) : State × Option (Nat × Nat) :=
  let rs := s.rangesOf pa
  match rs.getLast? with
  | none => (s, none)
  | some (lo, hi) =>
    let g := min g (hi - lo)
    (s.setRanges pa (rs.dropLast ++ (if hi - g = lo then [] else [(lo, hi - g)])), some (hi - g, hi))

/-- A strip taken from the core's own stack: its highest index (R141). -/
def State.stripLocal (s : State) (core asid pa : Nat) : Option (State × Nat) :=
  match s.stackOf core asid pa with
  | some k => if k.lo < k.hi then some (s.putStack { k with hi := k.hi - 1 }, k.hi - 1) else none
  | none => none

/-- The home's service of a STRIP (R140, R141, R249); none where no index remains. -/
def State.stripHome (s : State) (core asid va pa : Nat) : State × Option Nat :=
  let h := s.potResid pa
  let r := if h = 0 then ((s.callIn pa).takeTop pa 1) else ((s.setHolder pa core).takeTop pa (max 1 (h / 8)))
  match r with
  | (s, none) => (s, none)
  | (s, some (lo, hi)) => if h = 0 then (s, some lo) else (s.putStack ⟨core, asid, va, pa, 0, lo, hi - 1⟩, some (hi - 1))

/-- A give under the local policy, once the home knows the core as a holder (R250). -/
def State.giveLocal (s : State) (core asid va pa n : Nat) : State :=
  match s.stackOf core asid pa with
  | some k =>
    if potMax < k.amount + n then ((s.returnStack k).setHolder pa core).putStack ⟨core, asid, va, pa, n, 0, 0⟩
    else s.putStack { k with amount := k.amount + n }
  | none => s.putStack ⟨core, asid, va, pa, n, 0, 0⟩

/-- A farm of the pot has not completed (R250). -/
def State.farmPot (s : State) (pa : Nat) : Bool := s.farms.any (fun f => f.pot != 0 && f.potPa == pa)

/-- The line becomes a pot line, of a context whose page maps it (R246). -/
def State.markPot (s : State) (m : PotMap) : State :=
  { s with
    potLines := if s.isPot m.pa then s.potLines else m.pa :: s.potLines
    potMaps := if s.potMaps.contains m then s.potMaps else m :: s.potMaps }

/-- A context uses a pot by a page of its own, which maps the line (R246, R247). -/
def State.usePot (s : State) (m : PotMap) : State :=
  if s.isPot m.pa && !s.potMaps.contains m then { s with potMaps := m :: s.potMaps } else s

/-- A pot line is written whole by the home (R250, R138). -/
def State.writePot (s : State) (pa resid policy scope kind : Nat) : State :=
  let s := s.revive pa
  { s with
    potLines := if s.isPot pa then s.potLines else pa :: s.potLines
    mem := Memory.writeN s.mem pa (leBytes 8 resid ++ leBytes 8 0 ++ leBytes 1 policy ++ leBytes 1 scope ++ leBytes 1 kind ++ leBytes 45 0) }

/-- POTINIT at the home (R250): the stacks are called in, then the object is written. -/
def State.potInit (s : State) (pa n policy scope : Nat) : State :=
  let s := s.callIn pa
  ({ s with ranges := s.ranges.filter (fun r => r.pa != pa) }).writePot pa n policy scope 0

/-- The pot of a farm as FARM initialises it (R138): index-valued, one range, whatever the object held before. -/
def State.farmPotInit (s : State) (m : PotMap) (strips : Nat) : State :=
  let s := { s with potStacks := s.potStacks.filter (fun k => k.pa != m.pa), ranges := s.ranges.filter (fun r => r.pa != m.pa) }
  ((s.writePot m.pa strips 0 3 1).setRanges m.pa (if strips = 0 then [] else [(0, strips)])).markPot m

/-- A pot request as the issuing core serves it without the home, where it can (R249 to R251). -/
def State.potQuick (s : State) (op : PotOp) (core asid va pa n : Nat) : Option (State × Word) :=
  match op with
  | .take | .takeq =>
    if s.potKind pa = 1 then some (s, 0)
    else if n = 0 then some (s, 1)
    else (s.takeLocal core asid pa n).map (fun s => (s, 1))
  | .give =>
    if s.potKind pa = 1 then some (s, 0)
    else if s.potPolicy pa = 0 && nbit (s.potHolders pa) core then some (s.giveLocal core asid va pa n, 1)
    else none
  | .strip => (s.stripLocal core asid pa).map (fun r => (r.1, BitVec.ofNat 64 r.2))
  | .readx | .read | .init _ _ => none

/-- How a pot instruction's page is translated (R248). -/
def PotOp.kind : PotOp → Kind
  | .read => .read
  | .take | .takeq | .give | .readx | .init _ _ | .strip => .rmw

/-- The pot fault with which a pot's home answers a request (R248, R250): the line is no pot line, or a POTINIT finds the pot of a farm that has
not completed. -/
def State.potFault (s : State) (q : PotReq) : Option Trap :=
  if (match q.op with | .init _ _ => s.farmPot q.pa | _ => !s.isPot q.pa) then
    some { cause := 0x17, tval := q.va, access := accessByte q.op.kind 3 false }
  else none

/-- A take or a give finds an index-valued pot: it writes 0 and changes nothing (R249). -/
def State.potIdle (s : State) (q : PotReq) : Bool :=
  (match q.op with | .take | .takeq | .give => true | _ => false) && s.potKind q.pa == 1

/-- The home's service of one request of the hart that executes (R249, R250). -/
def State.potServe (s : State) (q : PotReq) : State × Word :=
  let core := s.hart.coreId
  let asid := s.hart.asid
  if s.potIdle q then (s, 0)
  else match q.op with
  | .take => let r := s.takeHome core asid q.va q.pa q.n false; (r.1, Word.ofBool r.2)
  | .takeq => let r := s.takeHome core asid q.va q.pa q.n true; (r.1, Word.ofBool r.2)
  | .give =>
    if s.potPolicy q.pa = 0 && core < 64 then ((s.setHolder q.pa core).giveLocal core asid q.va q.pa q.n, 1)
    else let r := s.potAdd q.pa q.n; (r.1, Word.ofBool r.2)
  | .readx =>
    let scope := s.potScope q.pa
    let s := (s.release scope).callIn q.pa
    let w := BitVec.ofNat 64 (s.potResid q.pa)
    (s.acquire scope, w)
  | .read => (s, BitVec.ofNat 64 (s.potResid q.pa))
  | .init policy scope =>
    let s := s.potInit q.pa q.n policy scope
    (if s.hart.ctl then s else s.markPot ⟨asid, q.va, q.pa⟩, 0)
  | .strip =>
    let r := s.stripHome core asid q.va q.pa
    (r.1, match r.2 with | some i => BitVec.ofNat 64 i | none => -1)

/-- A request is answered: the hart's instruction retires with its value (R250: POTINIT writes no register), or takes the pot fault that the home
finds (R248). -/
def State.potAnswer (s : State) (q : PotReq) : State :=
  match s.potFault q with
  | some t => s.trap t
  | none =>
    let r := s.potServe q
    let s := match q.op with
      | .init _ _ => r.1
      | _ => r.1.xw q.d r.2
    s.note.retire

/-- The hart waits for a take or a strip in an architected wait (R147). -/
def PotOp.waits : PotOp → Bool
  | .take | .strip => true
  | .takeq | .give | .readx | .read | .init _ _ => false

/-- A pot request of the hart that executes: served by its core where that suffices; else it goes to the pot's home, and while the model is
prompt and no request waits there it is served within the step; else the hart waits (R249). -/
def State.potRequest (s : State) (q : PotReq) : State :=
  match s.potQuick q.op s.hart.coreId s.hart.asid q.va q.pa q.n with
  | some (s, w) => (s.xw q.d w).note.retire
  | none =>
    if s.prompt && !(s.potQueue.any (fun r => r.pa == q.pa)) then s.potAnswer q
    else { s with potQueue := s.potQueue ++ [q], hart := { s.hart with status := .pot, waiting := q.op.waits } }

end Sys2Proof.Machine
end

