-- ==== Sys2Proof/Machine/Farm.lean ====
section
/-! DEFINITION. Generators, lane allocation, barriers at home, and farms: their descriptors, launch, admission, completion and holds (R90, R128,
R136 to R145, R203, R255, R257). -/

namespace Sys2Proof.Machine

/-! ### Generators (R90) -/

/-- One draw: the new state. -/
def xorshift (s : BitVec 32) : BitVec 32 :=
  let s := s ^^^ (s <<< 13)
  let s := s ^^^ (s >>> 17)
  s ^^^ (s <<< 5)

/-- The seed of generator `g`. -/
def seedOf (seed : BitVec 32) (g : Nat) : BitVec 32 :=
  let s := seed + BitVec.ofNat 32 ((g + 1) * 0x9E3779B9)
  if s = 0 then 1 else s

/-- Every generator seeded. -/
def seedAll (seed : BitVec 32) : Vector (BitVec 32) 257 := Vector.ofFn (fun g => seedOf seed g.val)

/-- The lane generators seeded, the scalar generator left alone. -/
def Scalar.seedLanes (c : Scalar) : Scalar :=
  { c with gens := Vector.ofFn (fun g => if g.val = 0 then c.gens[g.val] else seedOf c.rndseed g.val) }

/-- A generator draws. -/
def Scalar.draw (c : Scalar) (g : Nat) : Scalar × BitVec 32 :=
  if h : g < 257 then
    let n := xorshift c.gens[g]
    ({ c with gens := c.gens.set g n }, n)
  else (c, 0)

/-! ### Lane groups (R128) -/

/-- The number of set bits among the low 16. -/
def popc16 (b : BitVec 16) : Nat := ((List.range 16).filter (fun i => b.getLsbD i)).length

/-- The lane groups a hart owns. -/
def Exec.lgn (e : Exec) : Nat := popc16 e.lg

/-- The `n` lowest set bits. -/
def lowest (n : Nat) (b : BitVec 16) : BitVec 16 :=
  ((List.range 16).foldl (fun (a : Nat × BitVec 16) i =>
    if b.getLsbD i && 0 < a.1 then (a.1 - 1, a.2 ||| BitVec.ofNat 16 (2 ^ i)) else a) (n, 0)).2

/-- The harts that hold a slot of a core. -/
def State.coreHarts (s : State) (core : Nat) : List Hart := s.allHarts.filter (fun h => h.admitted && h.coreId == core)

/-- The lane groups of a core that no hart owns. -/
def State.freeLgs (s : State) (core : Nat) : BitVec 16 := ~~~((s.coreHarts core).foldl (fun a h => a ||| h.ep.lg) 0)

/-- The hold on a core, with its farm (R145). -/
def State.holdOn (s : State) (core : Nat) : Option (Hold × Farm) :=
  match s.holds.find? (fun h => h.core == core) with
  | none => none
  | some h => (s.farms.find? (fun f => f.asid == h.asid && f.handle == h.farm)).map (fun f => (h, f))

/-- The free lane groups that the admission of a farm's hart may take: those set aside for another farm are not free for it (R139, R145). -/
def State.freeFor (s : State) (core asid farm : Nat) : Nat :=
  let free := popc16 (s.freeLgs core)
  match s.holdOn core with
  | none => free
  | some (h, f) => if h.asid = asid && h.farm = farm then free else free - min free f.reserve

/-- The free lane groups of a core that are not set aside for the farm of its hold: what a SETVL can be granted beyond what its hart holds (R131
FreeNotHeld, R145). DEDUCED (log 35): set-aside groups wait for the farm's next hart and go to none of its admitted ones. -/
def State.freeNotHeld (s : State) (core : Nat) : Nat :=
  let free := popc16 (s.freeLgs core)
  match s.holdOn core with
  | none => free
  | some (_, f) => free - min free f.reserve

/-- The core of each hart on which a farm of higher priority holds (R131, R143). -/
def State.higherHold (s : State) (h : Hart) : Bool :=
  match s.holdOn h.coreId with
  | none => false
  | some (_, f) => h.prio < f.prio

/-- The free hart slots of a core. -/
def State.freeSlot (s : State) (core : Nat) : Option Nat :=
  (List.range 4).find? (fun k => !((s.coreHarts core).any (fun h => h.slot == k)))

/-! ### Objects in a context: pots and barriers -/

/-- Where an object is, as the dispatcher or an engine finds it (R142, R304). -/
inductive ObjLoc where
  | ok (s : State) (pa : Nat)
  /-- the cause, which may be the object's own, whether its page is of class D (R336), and the state with that page marked (R344) -/
  | fault (s : State) (cause : Nat) (dev : Bool)
  /-- the page migrates (R222) or is to collapse (R221) -/
  | wait (s : State)

/-- An object of a context in a tier 1 page of class N, translated as a read-modify-write (R142, R304, R343); an update of a replicated page
invokes its collapse (R221). -/
def State.object (s : State) (c : Context) (core va cause : Nat) : ObjLoc :=
  if 2 ^ 52 ≤ va then .fault s 4 false
  else if inWindow va then .fault s cause false
  else match s.xlate c core secondLevel va .rmw false with
    | .ok s pa pte => if region pa != 0 || Pte.cls pte then .fault s cause (Pte.cls pte) else .ok s pa
    | .fault k dev => .fault s k dev
    | .replay => .wait s
    | .collapse => .wait (s.stall ⟨c.asid, va, core / 16⟩)

/-- The fields of a barrier (R255). -/
def State.barCount (s : State) (pa : Nat) : Nat := s.homeNat pa 4
def State.barArrived (s : State) (pa : Nat) : Nat := s.homeNat (pa + 4) 4
def State.barPending (s : State) (pa : Nat) : Nat := s.homeNat (pa + 8) 4
def State.barPhase (s : State) (pa : Nat) : Nat := s.homeNat (pa + 12) 4

/-- The object's own conditions (R257). -/
def State.barOk (s : State) (pa : Nat) : Bool := s.barCount pa != 0 && (s.homeBytes (pa + 16) 48).all (· == 0)

/-- The object with new ARRIVED and PENDING; a phase completes where R255 says. One indivisible step at home. -/
def State.barSet (s : State) (pa arrived pending : Nat) : State :=
  let s := s.revive pa
  if arrived = s.barCount pa && pending = 0 then
    s.homeStore (pa + 4) (leBytes 4 0 ++ leBytes 4 0 ++ leBytes 4 (s.barPhase pa + 1))
  else s.homeStore (pa + 4) (leBytes 4 arrived ++ leBytes 4 pending)

/-- A phase whose condition an ordinary store has made true completes. DESIGN CHOICE (log 90): it does so where the next barrier operation, arrival or
chunk finds the object, before this acts. -/
def State.barNorm (s : State) (pa : Nat) : State :=
  if s.barOk pa && s.barArrived pa == s.barCount pa && s.barPending pa == 0 then s.barSet pa (s.barArrived pa) 0 else s

/-- One arrival (R256, R142); none where the object breaks R257. -/
def State.barArrive (s : State) (pa : Nat) : Option State :=
  if s.barOk pa && s.barArrived pa + 1 ≤ s.barCount pa then some (s.barSet pa (s.barArrived pa + 1) (s.barPending pa)) else none

/-! ### Descriptors (R136, R137) -/

/-- `n` bytes of a descriptor at an offset, little-endian. -/
def fieldAt (bs : List Byte) (off n : Nat) : Nat := leValue ((bs.drop off).take n)

/-- The dies a DIEMASK allows: 0 allows every die of the package. -/
def allowedDies (s : State) (mask : Nat) : List Nat := (List.range s.part.dies).filter (fun k => mask == 0 || nbit mask k)

/-- The farm a descriptor names, before it has a handle. -/
def farmOf (asid : Nat) (d : List Byte) : Farm where
  asid := asid
  handle := 0
  entry := BitVec.ofNat 64 (fieldAt d 0 8)
  params := BitVec.ofNat 64 (fieldAt d 8 8)
  pot := fieldAt d 16 8
  potPa := 0
  done := fieldAt d 24 8
  harts := fieldAt d 32 4
  reserve := fieldAt d 36 1
  prio0 := fieldAt d 37 1
  dieMask := fieldAt d 38 1
  flags := fieldAt d 39 1
  strips := fieldAt d 40 8
  prio := fieldAt d 37 1
  state := 1
  admitted := 0
  retired := 0
  waited := 0
  dies := []
  lastLoc := 0
  lastPc := 0

/-- The cases of R137 that need no translation. -/
def farmFieldsBad (s : State) (f : Farm) (d : List Byte) : Bool :=
  f.entry.toNat % 4 != 0 || 2 ^ 52 ≤ f.entry.toNat || f.harts == 0 || 65535 < f.harts || f.reserve == 0 || 16 < f.reserve || 3 < f.prio0
    || (range s.part.dies 8).any (fun k => nbit f.dieMask k) || 2 ≤ f.flags || fieldAt d 48 16 != 0 || 2 ^ 62 < f.strips
    || f.pot % 64 != 0 || f.done % 64 != 0 || (f.pot == 0 && f.strips != 0)

/-- What a launch gives: −1, −2 or a handle, or a wait for a migrating or replicated page. -/
inductive Launch where
  | result (s : State) (w : Word)
  | wait (s : State)

/-- The allowed dies with a free farm slot; each die has 64 (R124, R138). -/
def slotDies (s : State) (mask : Nat) : List Nat :=
  (allowedDies s mask).filter (fun k => (s.farms.filter (fun f => f.dies.contains k)).length < 64)

/-- The farm queued with its slots and the context's next handle (R138). -/
def State.queueFarm (s : State) (c : Context) (f : Farm) : Launch :=
  let dies := slotDies s f.dieMask
  if dies.isEmpty then .result s (-2)
  else
    let s := if f.pot = 0 then s else s.farmPotInit ⟨c.asid, f.pot, f.potPa⟩ f.strips
    let s := { s with farms := s.farms ++ [{ f with handle := c.farmNext, dies := dies }] }
    .result (s.updCtx c.asid (fun c => { c with farmNext := if c.farmNext + 1 = 2 ^ 32 then 1 else c.farmNext + 1 })) (BitVec.ofNat 64 c.farmNext)

/-- FARM's work on a descriptor that has been read, in a context, for the core that asks (R138, R373). -/
def State.launch (s : State) (c : Context) (core : Nat) (d : List Byte) : Launch :=
  let f := farmOf c.asid d
  if farmFieldsBad s f d then .result s (-1)
  else if f.pot = 0 then s.queueFarm c f
  else match s.object c core f.pot 0x17 with
    | .wait s => .wait s
    | .fault s _ _ => .result s (-1)
    | .ok s pa =>
      if s.farms.any (fun g => g.asid == c.asid && g.pot != 0 && g.potPa == pa) then .result s (-1) else s.queueFarm c { f with potPa := pa }

/-! ### Admission (R139, R145, R203) -/

/-- The farm's place in the order in which dies serve: higher effective priority first, and earlier farms first (R145). -/
def serveOrder (fs : List Farm) : List Farm :=
  fs.filter (fun f => 3 ≤ f.prio) ++ fs.filter (fun f => f.prio == 2) ++ fs.filter (fun f => f.prio == 1) ++ fs.filter (fun f => f.prio == 0)

/-- The farm still has harts that wait for admission. -/
def Farm.pending (f : Farm) : Bool := f.admitted < f.harts && f.state != 3

/-- The core's scratchpad is free for a context (R203). -/
def State.padFree (s : State) (core asid : Nat) : Bool := s.holders.all (fun h => h.1 != core || h.2 == asid)

/-- The farm's next hart can be placed on the core (R139, R145, R203). -/
def State.canPlace (s : State) (f : Farm) (core : Nat) : Bool :=
  core / 16 < s.part.dies && f.dies.contains (core / 16) && (s.freeSlot core).isSome && f.reserve ≤ s.freeFor core f.asid f.handle
    && s.padFree core f.asid
    && (match s.holdOn core with
        | none => true
        | some (h, g) => (h.asid == f.asid && h.farm == f.handle) || g.prio < f.prio)

/-- Every core of the package. -/
def State.cores (s : State) : List Nat := List.range (16 * s.part.dies)

/-- A core's scratchpad is zeroed before a hart is placed on it, where its last holding has ended (R203). -/
def State.cleanPad (s : State) (core : Nat) : State :=
  if s.usedPads.contains core then
    { s with usedPads := s.usedPads.filter (· != core), mem := Memory.clear s.mem (padAddr core 0) (padAddr core 0 + 393216) }
  else s

/-- A context with a scratch image begins to hold a core's scratchpad: the image is copied in (R203). -/
def State.holdPad (s : State) (core asid : Nat) : State :=
  match (s.ctxOf asid).bind (·.scratch) with
  | none => s
  | some img =>
    if s.holders.any (fun h => h.1 == core && h.2 == asid) then s
    else { s with holders := (core, asid) :: s.holders, mem := Memory.writeN s.mem (padAddr core 0) img }

/-- A holding ends where its context has no hart on the core and no farm (R203). DEDUCED (log 62): its bytes stand until a hart is placed on the
core; where another context has a hart there, they are zeroed at once. -/
def State.endHolds (s : State) (asid : Nat) : State :=
  if s.farms.any (fun f => f.asid == asid) || s.placements.any (fun p => p.asid == asid) then s
  else
    let gone := (s.holders.filter (fun h => h.2 == asid && !((s.coreHarts h.1).any (fun g => g.asid == asid)))).map (·.1)
    let s := { s with holders := s.holders.filter (fun h => !(h.2 == asid && gone.contains h.1)), usedPads := gone ++ s.usedPads }
    (gone.filter (fun c => !(s.coreHarts c).isEmpty)).foldl State.cleanPad s

/-- The state of an admitted hart (R27, R139). -/
def freshHart (f : Farm) (core slot : Nat) (lg : BitVec 16) : Hart where
  ctl := false
  die := core / 16
  core := core % 16
  slot := slot
  status := .running
  waiting := false
  mwait := none
  asid := f.asid
  farm := f.handle
  index := f.admitted
  reserve := f.reserve
  prio := f.prio0
  sc := { Scalar.zero with
    pc := f.entry
    x := (((Scalar.zero.x.set 1 f.params).set 2 (BitVec.ofNat 64 f.admitted)).set 3 (BitVec.ofNat 64 f.harts))
    gens := seedAll 0 }
  ep := { Exec.zero with lg := lg }
  scache := []

/-- A change to a farm. -/
def State.updFarm (s : State) (asid handle : Nat) (g : Farm → Farm) : State :=
  { s with farms := s.farms.map (fun f => if f.asid = asid && f.handle = handle then g f else f) }

/-- The farm's effective priority changes, and with it that of its harts (R145, R362). -/
def State.setPrio (s : State) (asid handle p : Nat) : State :=
  (s.updFarm asid handle (fun f => { f with prio := p })).mapHarts
    (fun h => if !h.ctl && h.asid = asid && h.farm = handle then { h with prio := p } else h)

/-- A hart takes its slot: one that had retired there leaves the state, its scalar lines written back (R139, R210). -/
def State.seatHart (s : State) (h : Hart) : State :=
  let gone := fun (g : Hart) => g.loc == h.loc && g.status == .retired
  let s := (s.allHarts.filter gone).foldl (fun s g => g.scache.foldl (fun s l => s.wbLine g.coreId g.loc l) s) s
  if gone s.hart then { s with hart := h, others := s.others.filter (fun g => !gone g) }
  else { s with others := s.others.filter (fun g => !gone g) ++ [h] }

/-- The farm's next hart is admitted on a core (R139): it takes the lowest-numbered free lane groups, a hold for it is lifted, and its farm's
priority and count start again (R145). The acquire at scope P drops the core's VDC lines of the context's pages. -/
def State.admitHart (s : State) (f : Farm) (core : Nat) : State :=
  match s.freeSlot core with
  | none => s
  | some slot =>
    let s := (s.cleanPad core).holdPad core f.asid
    let h := freshHart f core slot (lowest f.reserve (s.freeLgs core))
    let s := s.flushVdc (fun l => l.core == core && !l.swm) true
    let s := s.seatHart h
    let s := { s with holds := s.holds.filter (fun o => !(o.asid == f.asid && o.farm == f.handle)) }
    (s.updFarm f.asid f.handle (fun f => { f with admitted := f.admitted + 1, state := 2, waited := 0 })).setPrio f.asid f.handle f.prio0

/-- The farm waits to place a hart: it has one to admit, and its context runs (R145). -/
def State.waits (s : State) (f : Farm) : Bool := f.pending && (s.ctxOf f.asid).any (·.state == 1)

/-- The first farm in the serving order that has a next hart and cores for it. -/
def State.nextAdmission (s : State) : Option (Farm × List Nat) :=
  (serveOrder s.farms).findSome? (fun f =>
    if s.waits f then
      (match s.cores.filter (s.canPlace f) with
       | [] => none
       | cs => some (f, cs))
    else none)

/-- The core has lane groups beyond its harts' reservations for one more hart of the farm (R146). -/
def State.hasRoom (s : State) (f : Farm) (core : Nat) : Bool :=
  ((s.coreHarts core).map Hart.reserve).foldl (· + ·) 0 + f.reserve ≤ 16

/-- An allowed core with a free hart slot on which the farm can hold: no hold lies there but one of a farm of lower priority, which this one
replaces (R145; log 83). -/
def State.canHold (s : State) (f : Farm) (core : Nat) : Bool :=
  f.dies.contains (core / 16) && (s.freeSlot core).isSome && s.padFree core f.asid
    && (s.holdOn core).all (fun h => h.2.prio < f.prio)

/-- The cores for a hold of a farm: those on which the harts' reservations leave its RESERVE, so that its hart can come, where there are any
(R146; log 83). A hold that the farm has is moved where its core has no room for it and another has. -/
def State.holdCores (s : State) (f : Farm) : List Nat :=
  let cs := s.cores.filter (s.canHold f)
  let roomy := cs.filter (s.hasRoom f)
  match s.holds.find? (fun h => h.asid == f.asid && h.farm == f.handle) with
  | some h => if (s.freeSlot h.core).isSome && s.hasRoom f h.core then [] else roomy
  | none => if roomy.isEmpty then cs else roomy

/-- A hold that is to be put, before any farm behind is served: the first waiting farm in a die's order that cannot place its next hart, and the
cores that it can hold (R145, R146). -/
def State.nextHold (s : State) : Option (Farm × List Nat) :=
  (List.range s.part.dies).findSome? (fun k =>
    match (serveOrder s.farms).find? (fun f => f.dies.contains k && s.waits f) with
    | none => none
    | some f =>
      if s.cores.any (s.canPlace f) then none
      else match s.holdCores f with
        | [] => none
        | cs => some (f, cs))

/-- The farm holds on the core: what it held before, and what lay on the core, is lifted (R145). -/
def State.hold (s : State) (f : Farm) (core : Nat) : State :=
  { s with holds := s.holds.filter (fun h => h.core != core && !(h.asid == f.asid && h.farm == f.handle)) ++ [⟨core, f.asid, f.handle⟩] }

/-! ### Completion (R142) -/

/-- The farm's completion object is served by the dispatcher of the die of its last hart; a completion that fails parks with a record of
SOURCE 3 (R142); a completion on a migrating or replicated page stays due (R221, R222). DEDUCED (log 67): a DONE at or above 2^52 is the object's
own fault, since R326 gives a completion no address-range cause. -/
def State.completeFarm (s : State) (f : Farm) : State :=
  let die := f.lastLoc / 64
  let finish := fun (s : State) => ({ s with farms := s.farms.filter (fun g => !(g.asid == f.asid && g.handle == f.handle)) }).endHolds f.asid
  let isPotDone := nbit f.flags 0
  let own := if isPotDone then 0x17 else 0x18
  let parkIt := fun (s : State) (cause : Nat) (dev : Bool) =>
    let s := s.updFarm f.asid f.handle (fun g => { g with state := 3 })
    { s with faults := s.faults ++ [⟨die, .farm f.asid f.handle,
        faultRecord cause 3 (accessByte .rmw (if isPotDone then 3 else 2) dev) f.asid f.lastLoc f.lastPc f.done 0 0 0 0 0 f.handle, none⟩] }
  if f.done = 0 then finish s
  else match s.ctxOf f.asid with
    | none => finish s
    | some c =>
      if 2 ^ 52 ≤ f.done then parkIt s own false
      else match s.object c (16 * die) f.done own with
      | .wait s => s
      | .fault s cause dev => parkIt s cause dev
      | .ok s pa =>
        if isPotDone then
          (if s.isPot pa && s.potKind pa = 0 then finish ((s.potAdd pa 1).1.progress f.asid) else parkIt s own false)
        else match (s.barNorm pa).barArrive pa with
          | some s => finish (s.progress f.asid)
          | none => parkIt (s.barNorm pa) own false

/-- The completions that are due are made again: of the farms of contexts that run and whose harts have all retired (R142, R221, R222). -/
def State.retryFarms (s : State) : State :=
  (s.farms.filter (fun (f : Farm) => f.state == 2 && f.retired == f.harts && s.ctxRuns f.asid)).foldl State.completeFarm s

end Sys2Proof.Machine
end

