-- ==== Sys2Proof/Machine/Sha.lean ====
section
/-! DEFINITION. SHA-256 (FIPS 180-4), which boot images, measurements and state images use (R358, R383, R384, R386). -/

namespace Sys2Proof.Machine

abbrev W32 := BitVec 32

/-- The round constants: the first 32 bits of the fractions of the cube roots of the first 64 primes. -/
def shaK : List W32 :=
  [0x428A2F98, 0x71374491, 0xB5C0FBCF, 0xE9B5DBA5, 0x3956C25B, 0x59F111F1,
   0x923F82A4, 0xAB1C5ED5, 0xD807AA98, 0x12835B01, 0x243185BE, 0x550C7DC3,
   0x72BE5D74, 0x80DEB1FE, 0x9BDC06A7, 0xC19BF174, 0xE49B69C1, 0xEFBE4786,
   0x0FC19DC6, 0x240CA1CC, 0x2DE92C6F, 0x4A7484AA, 0x5CB0A9DC, 0x76F988DA,
   0x983E5152, 0xA831C66D, 0xB00327C8, 0xBF597FC7, 0xC6E00BF3, 0xD5A79147,
   0x06CA6351, 0x14292967] ++
  [0x27B70A85, 0x2E1B2138, 0x4D2C6DFC, 0x53380D13, 0x650A7354, 0x766A0ABB,
   0x81C2C92E, 0x92722C85, 0xA2BFE8A1, 0xA81A664B, 0xC24B8B70, 0xC76C51A3,
   0xD192E819, 0xD6990624, 0xF40E3585, 0x106AA070, 0x19A4C116, 0x1E376C08,
   0x2748774C, 0x34B0BCB5, 0x391C0CB3, 0x4ED8AA4A, 0x5B9CCA4F, 0x682E6FF3,
   0x748F82EE, 0x78A5636F, 0x84C87814, 0x8CC70208, 0x90BEFFFA, 0xA4506CEB,
   0xBEF9A3F7, 0xC67178F2]

/-- The initial state: the first 32 bits of the fractions of the square roots of the first 8 primes. -/
def shaH : List W32 :=
  [0x6A09E667, 0xBB67AE85, 0x3C6EF372, 0xA54FF53A, 0x510E527F, 0x9B05688C,
   0x1F83D9AB, 0x5BE0CD19]

def shaRotr (x : W32) (n : Nat) : W32 := x.rotateRight n
def shaS0 (x : W32) : W32 := shaRotr x 7 ^^^ shaRotr x 18 ^^^ (x >>> 3)
def shaS1 (x : W32) : W32 := shaRotr x 17 ^^^ shaRotr x 19 ^^^ (x >>> 10)
def shaB0 (x : W32) : W32 := shaRotr x 2 ^^^ shaRotr x 13 ^^^ shaRotr x 22
def shaB1 (x : W32) : W32 := shaRotr x 6 ^^^ shaRotr x 11 ^^^ shaRotr x 25
def shaCh (x y z : W32) : W32 := (x &&& y) ^^^ (~~~x &&& z)
def shaMaj (x y z : W32) : W32 := (x &&& y) ^^^ (x &&& z) ^^^ (y &&& z)

/-- The big-endian words of a list of bytes. -/
def beWords : List Byte → List W32
  | a :: b :: c :: d :: r => (a ++ b ++ c ++ d) :: beWords r
  | _ => []

/-- The message schedule from word 16 on: the window holds the 16 latest words, oldest first. -/
def shaSchedule : Nat → List W32 → List W32
  | 0, _ => []
  | n + 1, w =>
    let x := shaS1 (w.getD 14 0) + w.getD 9 0 + shaS0 (w.getD 1 0) + w.getD 0 0
    x :: shaSchedule n (w.drop 1 ++ [x])

/-- The eight working variables. -/
structure ShaVars where
  a : W32
  b : W32
  c : W32
  d : W32
  e : W32
  f : W32
  g : W32
  h : W32

/-- One round. -/
def shaRound (v : ShaVars) (kw : W32 × W32) : ShaVars :=
  let t1 := v.h + shaB1 v.e + shaCh v.e v.f v.g + kw.1 + kw.2
  let t2 := shaB0 v.a + shaMaj v.a v.b v.c
  ⟨t1 + t2, v.a, v.b, v.c, v.d + t1, v.e, v.f, v.g⟩

/-- One block of 64 bytes. -/
def shaBlock (h : List W32) (block : List Byte) : List W32 :=
  let w := beWords block
  let ws := w ++ shaSchedule 48 w
  let v : ShaVars := ⟨h.getD 0 0, h.getD 1 0, h.getD 2 0, h.getD 3 0, h.getD 4 0, h.getD 5 0, h.getD 6 0, h.getD 7 0⟩
  let r := (shaK.zip ws).foldl shaRound v
  List.zipWith (· + ·) h [r.a, r.b, r.c, r.d, r.e, r.f, r.g, r.h]

/-- The blocks of a padded message. -/
def shaBlocks : Nat → List W32 → List Byte → List W32
  | 0, h, _ => h
  | n + 1, h, m => shaBlocks n (shaBlock h (m.take 64)) (m.drop 64)

/-- The big-endian bytes of a value. -/
def beBytes (n v : Nat) : List Byte := (leBytes n v).reverse

/-- The digest of a message. -/
def sha256 (m : List Byte) : List Byte :=
  let pad := (119 - m.length % 64) % 64
  let p := m ++ [0x80] ++ List.replicate pad 0 ++ beBytes 8 (8 * m.length)
  (shaBlocks (p.length / 64) shaH p).flatMap (fun w => beBytes 4 w.toNat)

end Sys2Proof.Machine
end

