-- ==== Sys2Proof/Machine/Device.lean ====
section
/-! DEFINITION. The device registers of each die and what a write of one starts (R223, R227, R228, R337, R372, R373, R382, R385, R386, R397 to
R399), migration commands, and the appending of records to a queue in memory (R338, R382). -/

namespace Sys2Proof.Machine

/-- Word `j` of a 256-bit register. -/
def word4 (v : BitVec 256) (j : Nat) : Word := BitVec.ofNat 64 (getBytes v (8 * j) 8)

/-- The register with word `j` replaced. -/
def setWord4 (v : BitVec 256) (j : Nat) (w : Word) : BitVec 256 := setBytes v (8 * j) 8 w.toNat

/-- The bytes of a 256-bit register. -/
def bytes32 (v : BitVec 256) : List Byte := leBytes 32 v.toNat

/-- A 256-bit register from bytes. -/
def ofBytes32 (bs : List Byte) : BitVec 256 := BitVec.ofNat 256 (leValue bs)

/-! ### Launches (R373) -/

/-- The launch of a die's FDLAUNCH, made or made again when a migrating page is back, in the context that FDASID named at the write (R373).
DEDUCED (log 68): a context that no longer runs by then gives −3. -/
def State.runLaunch (s : State) (k : Nat) : State :=
  let d := s.die k
  let v := d.fdlaunch.toNat
  let answer := fun (s : State) (w : Word) => s.updDie k (fun d => { d with fdresult := w, fdBusy := false })
  match s.contexts.find? (fun c => c.state == 1 && c.asid == d.fdCtx) with
  | none => answer s (-3)
  | some c =>
    if v % 64 ≠ 0 || 2 ^ 52 ≤ v || inWindow v then answer s (-1)
    else match s.xlate c (16 * k) secondLevel v .read false with
      | .fault _ _ => answer s (-1)
      | .replay => s
      | .collapse => answer s (-1)
      | .ok s pa _ =>
        match s.launch c (16 * k) (s.homeBytes pa 64) with
        | .wait s => s
        | .result s w => answer s w

/-- A write of FDLAUNCH (R373): its release at scope P is made even where a launch is in progress and the write is ignored. -/
def State.fdLaunch (s : State) (k : Nat) (v : Word) : State :=
  let s := s.release 3
  if (s.die k).fdBusy then s
  else (s.updDie k (fun d =>
    { d with fdlaunch := setBits 0 0 52 v.toNat, fdBusy := true, fdCtx := d.fdasid.toNat, fdresult := 0 })).runLaunch k

/-- What waited for a page goes on: completions that are due and launches in progress (R142, R373). -/
def State.retryDue (s : State) : State :=
  (List.range 4).foldl (fun s k => if (s.die k).fdBusy then s.runLaunch k else s) s.retryFarms

/-! ### Migration (R223) -/

/-- A descriptor is refused (R223). DESIGN CHOICE (log 87): so is one that lies outside regions 0 and 1; and a SRC or DST in a revoked range counts
as installed, as it does for an access (R228). -/
def State.migRefused (s : State) (desc : Nat) : Bool :=
  let d := s.homeBytes desc 64
  let src := fieldAt d 0 8
  let dst := fieldAt d 8 8
  let pte := readPte s (fieldAt d 16 8)
  let new := fieldAt d 24 8
  let inReach := fun (a : Nat) => a % 65536 == 0 && region a ≤ 2 && a < 2 ^ 52 && installed s a
  1 < region desc || fieldAt d 43 21 != 0 || 2 ≤ fieldAt d 42 1
    || !inReach src || !inReach dst || src == dst
    || Pte.v pte || !Pte.mig pte
    || !Pte.v new || Pte.mig new || Pte.frame new != dst || malformed s (BitVec.allOnes 64) new false
    || (nbit (fieldAt d 42 1) 0 && (region src != 0 || region dst != 0))

/-- A write of MIGCMD starts a command or refuses it (R223). -/
def State.migCmd (s : State) (k : Nat) (v : Word) : State :=
  let desc := wbits v 6 46 * 64
  if desc = 0 || (s.die k).migBusy then s
  else if s.migRefused desc then s.updDie k (fun d => { d with migResult := 2 })
  else s.updDie k (fun d => { d with migBusy := true, migDesc := desc, migResult := 0 })

/-- A tier 1 frame's settle count (R219). -/
def State.settleOf (s : State) (frame : Nat) : Nat := ((s.settle.find? (fun e => e.1 == frame)).map (·.2)).getD 0

/-- A tier 1 frame's settle count set. -/
def State.setSettle (s : State) (frame n : Nat) : State :=
  let rest := s.settle.filter (fun e => e.1 != frame)
  { s with settle := if n % 2 ^ 32 = 0 then rest else (frame, n % 2 ^ 32) :: rest }

/-- Addresses of one frame moved to another. -/
def moved (src dst a : Nat) : Nat := if src ≤ a && a < src + 65536 then a - src + dst else a

/-- The end of a running command: the page and its pots' home state move, the settle count where asked, the new entry is written at home, and
waiting accesses walk again by themselves (R223). DESIGN CHOICE (log 87): the descriptor is read again, and is not judged again. -/
def State.migComplete (s : State) (k : Nat) : State :=
  let d := s.homeBytes (s.die k).migDesc 64
  let src := fieldAt d 0 8
  let dst := fieldAt d 8 8
  let page := s.homeBytes src 65536
  let s := { s with
    mem := Memory.writeN (Memory.clear s.mem dst (dst + 65536)) dst page
    discarded := s.discarded.filter (fun e => e.1 != dst)
    potLines := (s.potLines.filter (fun p => !(dst ≤ p && p < dst + 65536))).map (moved src dst)
    potMaps := s.potMaps.map (fun (m : PotMap) => { m with pa := moved src dst m.pa })
    ranges := s.ranges.map (fun (r : RangeSet) => { r with pa := moved src dst r.pa })
    potStacks := s.potStacks.map (fun (t : Stack) => { t with pa := moved src dst t.pa })
    farms := s.farms.map (fun (f : Farm) => { f with potPa := if f.pot = 0 then 0 else moved src dst f.potPa }) }
  let s := if nbit (fieldAt d 42 1) 0 then
      let t := s.setSettle dst (s.settleOf src)
      { t with bks := t.bks.map (fun (c : BkCmd) => { c with gate := c.gate.map (moved src dst) }) }
    else s
  let s := s.homeStoreNat (fieldAt d 16 8) 8 (fieldAt d 24 8)
  (s.updDie k (fun d => { d with migBusy := false, migResult := 1 })).retryDue

/-! ### Tier 3 (R227, R228, R382) -/

/-- The die's tier 3 port is brought out (R381). -/
def State.hasT3 (s : State) (k : Nat) : Bool := nbit s.part.t3dies k

/-- EXTACK (R227): the extent's dirty lines reach the device, and the release is acknowledged. -/
def State.extAck (s : State) (k : Nat) (v : Word) : State :=
  let tag := wbits v 0 32
  match (s.die k).extents.find? (fun e => e.releaseTag == some tag) with
  | none => s
  | some e =>
    (s.flushMsc (fun m => e.base ≤ m.line * 64 && m.line * 64 < e.base + e.size)).updDie k
      (fun d => { d with extents := d.extents.filter (· != e) })

/-- REVCLR (R228, R382): the entry that holds the address is removed. -/
def State.revClr (s : State) (k : Nat) (v : Word) : State :=
  let a := wbits v 16 36 * 65536
  s.updDie k (fun d => { d with revoked := d.revoked.filter (fun r => !(r.1 ≤ a && a < r.2)) })

/-! ### Measurement and telemetry (R386, R399) -/

/-- A measurement register extended by a value (R386). -/
def State.extend (s : State) (n : Nat) (v : List Byte) : State :=
  if h : n < 8 then { s with meas := s.meas.set n (ofBytes32 (sha256 (bytes32 s.meas[n] ++ v))) } else s

/-- MEASSEL (R386): 0 is ignored. -/
def State.measSel (s : State) (v : Word) : State :=
  let n := wbits v 0 3
  if n = 0 then s else s.extend n (bytes32 s.measExt)

/-- ATTREQ (R386). DESIGN CHOICE (log 94): RESULT is 0 while the report is made. -/
def State.attReq (s : State) (v : Word) : State :=
  let b := wbits v 6 46 * 64
  if b = 0 || s.attBusy then s else { s with attBusy := true, attBuf := b, attResult := 0 }

/-- TELCOMMIT (R399). -/
def State.telCommit (s : State) (k : Nat) (v : Word) : State :=
  if v.getLsbD 0 then s.updDie k (fun d => { d with telBusy := true }) else s

/-! ### The register block (R372) -/

/-- The registers of offsets 0x100 to 0x277 exist in die 0's block only. -/
def dieZeroOnly (off : Nat) : Bool := 0x100 ≤ off && off ≤ 0x277

/-- The registers of the tier 3 port (R382). -/
def tier3Reg (off : Nat) : Bool := 0x420 ≤ off && off ≤ 0x438

/-- The value of the register at an offset of a die's block; 0 where there is none. -/
def State.devRead (s : State) (k off : Nat) : Word :=
  let d := s.die k
  if off % 8 ≠ 0 || (dieZeroOnly off && k ≠ 0) || (tier3Reg off && !s.hasT3 k) then 0
  else if off = 0x000 then d.fdasid
  else if off = 0x008 then d.fdlaunch
  else if off = 0x010 then d.fdresult
  else if off = 0x018 then s.part.features
  else if off = 0x020 then d.rtbase
  else if off = 0x028 then BitVec.ofNat 64 s.part.t2dies
  else if h : 0x100 ≤ off ∧ off < 0x200 then word4 (s.meas[(off - 0x100) / 32]'(by omega)) ((off - 0x100) / 8 % 4)
  else if 0x200 ≤ off ∧ off < 0x220 then word4 s.measExt ((off - 0x200) / 8)
  else if 0x240 ≤ off ∧ off < 0x260 then word4 s.attNonce ((off - 0x240) / 8)
  else if off = 0x268 then BitVec.ofNat 64 ((if s.attBusy then 2 ^ 63 else 0) + s.attResult)
  else if off = 0x270 then BitVec.ofNat 64 s.idcount
  else if off = 0x300 then d.telidx
  else if off = 0x308 then BitVec.ofNat 64 (telGet d.tel d.telidx.toNat)
  else if off = 0x408 then BitVec.ofNat 64 ((if d.migBusy then 2 ^ 63 else 0) + d.migResult)
  else if off = 0x420 then d.extq
  else if off = 0x438 then BitVec.ofNat 64 d.revoked.length
  else 0

/-- A register without a behaviour of its own takes a value (R372): DEVICE_REGISTER_WRITE. -/
def State.devPlain (s : State) (k off : Nat) (v : Word) : State :=
  if off = 0x000 then s.updDie k (fun d => { d with fdasid := v &&& 0xFFFF })
  else if off = 0x020 then s.updDie k (fun d => { d with rtbase := v &&& 0xFFFFFFFFF0001 })
  else if 0x200 ≤ off ∧ off < 0x220 then { s with measExt := setWord4 s.measExt ((off - 0x200) / 8) v }
  else if 0x240 ≤ off ∧ off < 0x260 then { s with attNonce := setWord4 s.attNonce ((off - 0x240) / 8) v }
  else if off = 0x300 then s.updDie k (fun d => { d with telidx := v &&& 0xFFFF })
  else if off = 0x420 then s.updDie k (fun d => { d with extq := v &&& 0xFFFFFFFFFFFC1 })
  else s

/-- A control core's write of 8 bytes to an offset of a die's block (R372). -/
def State.devWrite (s : State) (k off : Nat) (v : Word) : State :=
  if off % 8 ≠ 0 || (dieZeroOnly off && k ≠ 0) || (tier3Reg off && !s.hasT3 k) then s
  else if off = 0x008 then s.fdLaunch k v
  else if off = 0x220 then s.measSel v
  else if off = 0x260 then s.attReq v
  else if off = 0x310 then s.telCommit k v
  else if off = 0x400 then s.migCmd k v
  else if off = 0x428 then s.extAck k v
  else if off = 0x430 then s.revClr k v
  else s.devPlain k off v

/-! ### Queues in memory (R337, R338, R382) -/

/-- SIZE of a queue: a power of two from 16 to 2^20. -/
def queueSizeOk (size : Nat) : Bool := (range 4 17).any (fun k => size == 2 ^ k)

/-- The slot the next record of a queue takes, where there is room: the register's EN is 1 and HEAD − TAIL is not SIZE. DEDUCED (log 10): a
descriptor that breaks R337 takes no record. -/
def State.queueSlot (s : State) (reg : Word) : Option Nat :=
  let desc := wbits reg 6 46 * 64
  let base := s.homeNat desc 8
  let size := s.homeNat (desc + 8) 4
  let head := s.homeNat (desc + 16) 8
  let tail := s.homeNat (desc + 24) 8
  if reg.getLsbD 0 && base % 64 == 0 && queueSizeOk size && ringRoom head tail size then some (base + 64 * (head % size)) else none

/-- A record written into its slot, and then HEAD, at home (R338). -/
def State.queueAppend (s : State) (reg : Word) (slot : Nat) (r : List Byte) : State :=
  let desc := wbits reg 6 46 * 64
  (s.homeStore slot r).homeStoreNat (desc + 16) 8 (s.homeNat (desc + 16) 8 + 1)

/-- The oldest fault record of a die that waits in its buffer, and the slot it can take: a slot whose party is still parked is never written
(R338). -/
def State.nextFault (s : State) (k : Nat) : Option (FaultRec × Nat) :=
  match s.faults.find? (fun f => f.die == k && f.slot == none) with
  | none => none
  | some f =>
    match s.queueSlot (s.die k).fqdesc with
    | none => none
    | some slot => if s.faults.any (fun g => g.slot == some slot) then none else some (f, slot)

/-- The record appended (R338): its slot is held while its party is parked. -/
def State.appendFault (s : State) (f : FaultRec) (slot : Nat) : State :=
  let s := s.queueAppend (s.die f.die).fqdesc slot f.record
  { s with faults :=
      if f.party = .gone then s.faults.erase f else s.faults.map (fun g => if g = f then { g with slot := some slot } else g) }

/-- The oldest waiting extent record of a die, and its slot (R382). -/
def State.nextExtent (s : State) (k : Nat) : Option (List Byte × Nat) :=
  match (s.die k).extBuf with
  | [] => none
  | r :: _ => (s.queueSlot (s.die k).extq).map (fun slot => (r, slot))

/-- An extent record of the die joins those that wait: in the die's buffer of 16, else at the fabric manager (R382). -/
def State.addExtRecord (s : State) (k kind base size : Nat) : State :=
  let tag := (s.die k).extTag + 1
  let r := leBytes 1 kind ++ leBytes 3 0 ++ leBytes 4 tag ++ leBytes 8 base ++ leBytes 8 size ++ leBytes 40 0
  s.updDie k (fun d =>
    if d.extBuf.length < 16 then { d with extTag := tag, extBuf := d.extBuf ++ [r] } else { d with extTag := tag, extHeld := d.extHeld ++ [r] })

/-- The die's oldest extent record is appended to its queue, and an extent that it adds is accepted; the next record held back takes its place
(R382). -/
def State.appendExtent (s : State) (k : Nat) (r : List Byte) (slot : Nat) : State :=
  let s := s.queueAppend (s.die k).extq slot r
  s.updDie k (fun d =>
    { d with
      extBuf := d.extBuf.drop 1 ++ d.extHeld.take 1
      extHeld := d.extHeld.drop 1
      extents := if fieldAt r 0 1 = 1 then d.extents ++ [⟨fieldAt r 8 8, fieldAt r 16 8, none, false⟩] else d.extents })

end Sys2Proof.Machine
end

