-- ==== Sys2Proof/Machine/Access.lean ====
section
/-! DEFINITION. Scalar accesses of the hart that executes: loads, stores and indivisible updates (R115 to R120, R203, R204, R208, R209, R370). -/

namespace Sys2Proof.Machine

/-- What a scalar access gives. -/
inductive Acc where
  | ok (s : State) (v : Nat)
  | trap (t : Trap)
  | wait (s : State)

/-- The access is a control core's on the register block (R370, R372). -/
def State.isDev (s : State) (pa : Nat) : Bool := s.hart.ctl && region pa == 4 && !isPad pa

/-- The access bypasses the scalar cache: the scratchpad, whose bytes the scalar cache never holds apart from its bank, and pages of class D,
whose accesses are made exactly once (R203, R208). DESIGN CHOICE (log 51): no scratchpad line is held. -/
def uncached (pa pte : Nat) : Bool := isPad pa || Pte.cls pte

/-- `n` bytes read at a located address. -/
def State.readLoc (s : State) (va pa pte n : Nat) : State × Nat :=
  if s.isDev pa then (s, if n = 8 then (s.devRead (homeDie pa) (offsetOf pa)).toNat else 0)
  else if uncached pa pte then (s, leValue (s.homeBytes pa n))
  else
    let s := s.fillScalar (pa / 64) va s.hart.asid (Pte.kind pte == 1)
    (s, getBytes (s.scalarData (pa / 64)) (pa % 64) n)

/-- `n` bytes written at a located address. -/
def State.writeLoc (s : State) (va pa pte n v : Nat) : State :=
  if s.isDev pa then (if n = 8 then s.devWrite (homeDie pa) (offsetOf pa) (BitVec.ofNat 64 v) else s)
  else if isPad pa then s.homeStoreNat pa n v
  else if Pte.cls pte then s.mergeBytes pa (leBytes n v) s.hart.loc
  else
    let swm := Pte.kind pte == 1
    let s := s.fillScalar (pa / 64) va s.hart.asid swm
    let s := s.writeScalar (pa / 64) (pa % 64) n v true
    if swm then s.collect s.hart.coreId s.hart.asid va else s

/-- The VDC line whose dirty bytes the hart answers for leaves the cache, as any VDC line may (R210, R213): they go home before an indivisible
update, which follows them in coherence order (R277; log 64). -/
def State.evictOwn (s : State) (line : Nat) : State :=
  s.flushVdc (fun l => l.core == s.hart.coreId && l.line == line && l.dirty != 0 && l.answers s.hart.slot) true

/-- The dirty bytes of a line that the hart answers for go home: those of its scalar cache, and the VDC line that it has written, read or acquired
at scope C (R258, R277; log 64). -/
def State.ownHome (s : State) (line : Nat) : State :=
  let s := s.flushScalar s.hart (fun l => l.line == line) false
  s.flushVdc (fun l => l.core == s.hart.coreId && l.line == line && l.answers s.hart.slot) false

/-- The clean bytes of a VDC line follow an update at home; those that another hart of the core has left dirty stay, and go home after it (R118,
R210). -/
def State.patchClean (s : State) (core line : Nat) (data : BitVec 512) (mask : BitVec 64) : State :=
  { s with vdc := s.vdc.map (fun l =>
      if l.core = core && l.line = line then { l with data := overlay l.data data (mask &&& ~~~l.dirty) } else l) }

/-- The core's own copies of bytes that an indivisible update has left at home: in the scalar cache of the hart that executes they take the place
of its own dirty bytes. -/
def State.patchOwn (s : State) (pa n : Nat) : State :=
  let v := leValue (s.homeBytes pa n)
  let s := s.writeScalar (pa / 64) (pa % 64) n v false
  s.patchClean s.hart.coreId (pa / 64) (setBytes (0 : BitVec 512) (pa % 64) n v) (byteMask (pa % 64) n)

/-- The bytes of a run within a line with those that the scalar cache of the hart that executes holds dirty; a pot line has none (R246). -/
def State.overOwn (s : State) (pa : Nat) (bs : List Byte) : List Byte :=
  match s.hart.scache.find? (fun l => l.line == pa / 64) with
  | none => bs
  | some l =>
    if s.isPot pa then bs
    else bs.zipIdx.map (fun b => if l.dirty.getLsbD (pa % 64 + b.2) then BitVec.ofNat 8 (getBytes l.data (pa % 64 + b.2) 1) else b.1)

/-- `n` bytes at the home of an address, or at its bank, as an indivisible operation of the hart reads them: its own earlier stores that its scalar
cache still holds are among them, and reach home with the operation or not at all (R118, R119, R213, R277). -/
def State.homeRead (s : State) (pa n : Nat) : State × Nat :=
  if s.isDev pa then (s, if n = 8 then (s.devRead (homeDie pa) (offsetOf pa)).toNat else 0)
  else if isPad pa then (s, leValue (s.homeBytes pa n))
  else
    let s := s.evictOwn (pa / 64)
    (s, leValue (s.overOwn pa (s.homeBytes pa n)))

/-- An indivisible update of `n` bytes at home, or at the bank (R118, R119), with the old value. -/
def State.update (s : State) (pa n : Nat) (f : Nat → Nat) : State × Nat :=
  let r := s.homeRead pa n
  let v := f r.2
  if s.isDev pa then ((if n = 8 then s.devWrite (homeDie pa) (offsetOf pa) (BitVec.ofNat 64 v) else s), r.2)
  else if isPad pa then (r.1.homeStoreNat pa n v, r.2)
  else ((r.1.mergeBytes pa (leBytes n v) s.hart.loc).patchOwn pa n, r.2)

/-- A load of the hart that executes. -/
def State.load (s : State) (va n width : Nat) : Acc :=
  match s.locate va n .read width with
  | .trap t => .trap t
  | .wait s => .wait s
  | .ok s pa pte => let r := s.readLoc va pa pte n; .ok r.1 r.2

/-- The checks of a descriptor's address that come before the release of the word that names it: address range, then alignment (R138, R298,
R311). -/
def descAddrTrap (va : Nat) : Option Trap :=
  let t := fun cause => ({ cause := cause, tval := va, access := accessByte .read 3 false } : Trap)
  if 2 ^ 52 ≤ va then some (t 4) else if va % 64 ≠ 0 then some (t 3) else none

/-- What reading a descriptor gives. -/
inductive Desc where
  | ok (s : State) (d : List Byte)
  | trap (t : Trap)
  | wait (s : State)

/-- A descriptor of 64 bytes read as an ordinary load would (R138, R298): address range, then alignment, then translation. -/
def State.loadDesc (s : State) (va : Nat) : Desc :=
  match s.locate va 64 .read 3 with
  | .trap t => .trap t
  | .wait s => .wait s
  | .ok s pa pte =>
    if uncached pa pte then .ok s (s.homeBytes pa 64)
    else
      let s := s.fillScalar (pa / 64) va s.hart.asid (Pte.kind pte == 1)
      .ok s (lineBytes (s.scalarData (pa / 64)))

end Sys2Proof.Machine
end

