-- ==== Sys2Proof/Machine/Float.lean ====
section
/-! DEFINITION. Number formats, exact results, rounding and flags (R74 to R99). A finite value is sign, magnitude and binary exponent; the exact
result of an operation may carry a sticky bit for what lies below its last bit. -/

namespace Sys2Proof.Machine

/-- A binary format: exponent and fraction bits; narrow formats have three readings (R75, R79). -/
structure Fmt where
  e : Nat
  p : Nat
  narrow : Bool
  deriving DecidableEq, Repr

def fp64 : Fmt := ⟨11, 52, false⟩
def fp32 : Fmt := ⟨8, 23, false⟩
def fp16 : Fmt := ⟨5, 10, false⟩
def bf16 : Fmt := ⟨8, 7, false⟩
def e4m3 : Fmt := ⟨4, 3, true⟩
def e5m2 : Fmt := ⟨5, 2, true⟩
def e3m2 : Fmt := ⟨3, 2, true⟩
def e2m3 : Fmt := ⟨2, 3, true⟩
def e2m1 : Fmt := ⟨2, 1, true⟩

/-- The formats by code (R38, R74). -/
def fmtOf (code : Nat) : Fmt :=
  match code with
  | 0 => fp64
  | 1 => fp32
  | 2 => fp16
  | 3 => bf16
  | 4 => e4m3
  | _ => e5m2

/-- Bits of a value. -/
def Fmt.width (f : Fmt) : Nat := 1 + f.e + f.p

/-- The exponent bias. -/
def Fmt.bias (f : Fmt) : Nat := 2 ^ (f.e - 1) - 1

/-- The NaN mode in force: narrow formats take the given one, the others are IEEE-like (R78). -/
def Fmt.mode (f : Fmt) (mode : Nat) : Nat := if f.narrow then mode else 2

/-- The magnitude code of infinity. -/
def Fmt.infCode (f : Fmt) : Nat := (2 ^ f.e - 1) * 2 ^ f.p

/-- The magnitude code of the largest finite value (R75, R80). -/
def Fmt.maxCode (f : Fmt) (mode : Nat) : Nat :=
  match f.mode mode with
  | 0 => 2 ^ (f.e + f.p) - 1
  | 1 => 2 ^ (f.e + f.p) - 2
  | _ => f.infCode - 1

/-- The canonical NaN (R76, R80). -/
def Fmt.nanCode (f : Fmt) : Nat := if f.narrow then 2 ^ (f.e + f.p) - 1 else f.infCode + 2 ^ (f.p - 1)

/-- The sign bit's weight. -/
def Fmt.signBit (f : Fmt) (neg : Bool) : Nat := if neg then 2 ^ (f.e + f.p) else 0

/-- A value: NaN (signalling or quiet), infinity, or ±m × 2^e exactly. -/
inductive FVal where
  | nan (sig : Bool)
  | inf (neg : Bool)
  | fin (neg : Bool) (m : Nat) (e : Int)
  deriving DecidableEq, Repr

/-- The value of a code under a NaN mode (R76, R79). -/
def Fmt.decode (f : Fmt) (mode code : Nat) : FVal :=
  let neg := nbit code (f.e + f.p)
  let ex := bits code f.p f.e
  let fr := code % 2 ^ f.p
  let normal : FVal := .fin neg (2 ^ f.p + fr) ((ex : Int) - (f.bias : Int) - (f.p : Int))
  if ex = 0 then .fin neg fr (1 - (f.bias : Int) - (f.p : Int))
  else if ex = 2 ^ f.e - 1 then
    match f.mode mode with
    | 0 => normal
    | 1 => if fr = 2 ^ f.p - 1 then .nan false else normal
    | _ => if fr = 0 then .inf neg else .nan (!f.narrow && !nbit fr (f.p - 1))
  else normal

/-- The exact result of an operation: a NaN (with NV), an infinity (with DZ), or ±(m + d) × 2^e with 0 < d < 1 where sticky, else d = 0. -/
inductive Real where
  | nan (nv : Bool)
  | inf (neg dz : Bool)
  | num (neg : Bool) (m : Nat) (e : Int) (sticky : Bool)
  deriving DecidableEq, Repr

/-- Flags (R22): NX, UF, OF, DZ, NV from bit 0 up. -/
def flagNX : Nat := 1
def flagUF : Nat := 2
def flagOF : Nat := 4
def flagDZ : Nat := 8
def flagNV : Nat := 16

/-- The number of bits of a magnitude. -/
def bitLen (m : Nat) : Nat := if m = 0 then 0 else Nat.log2 m + 1

/-- m × 2^-sh, with a sticky bit, rounded to an integer under a mode: RNE, RTZ, RDN, RUP, RST with its draw (R87). The flag says inexact. No word
has another mode: the codes 5 and 6 of a word are illegal (R38), and FCSR and VCFG hold none above 4 (R22, R151, log 79). -/
def roundShift (rm : Nat) (draw : Nat) (neg : Bool) (m sh : Nat) (sticky : Bool) : Nat × Bool :=
  let lo := m / 2 ^ sh
  let rem := m % 2 ^ sh
  let inexact := rem != 0 || sticky
  let up := match rm with
    | 0 => 2 ^ sh < 2 * rem || (2 * rem == 2 ^ sh && 0 < sh && (sticky || lo % 2 == 1))
    | 1 => false
    | 2 => neg && inexact
    | 3 => !neg && inexact
    | _ => draw < rem * 2 ^ 32 / 2 ^ sh
  (if up then lo + 1 else lo, inexact)

/-- An overflow's delivery (R88): the sign, and whether to infinity. -/
def overflowToInf (rm : Nat) (neg : Bool) : Bool :=
  match rm with
  | 1 => false
  | 2 => neg
  | 3 => !neg
  | _ => true

/-- A finite exact result rounded into a format (R87 to R89): code and flags. -/
def Fmt.round (f : Fmt) (mode rm draw : Nat) (neg : Bool) (m : Nat) (e : Int) (sticky : Bool) : Nat × Nat :=
  if m = 0 && !sticky then (f.signBit neg, 0)
  else
    let emin : Int := 1 - (f.bias : Int)
    let top : Int := (bitLen m : Int) + e
    let q : Int := max (top - ((f.p : Int) + 1)) (emin - (f.p : Int))
    -- the magnitude at weight 2^q
    let (m', sh) := if q < e then (m * 2 ^ (e - q).toNat, 0) else (m, (q - e).toNat)
    let (r, inexact) := roundShift rm draw neg m' sh sticky
    let code := if r < 2 ^ f.p then r else (q + (f.p : Int) + (f.bias : Int)).toNat * 2 ^ f.p + (r - 2 ^ f.p)
    if f.maxCode mode < code then
      let mag := if f.mode mode = 2 && overflowToInf rm neg then f.infCode else f.maxCode mode
      (f.signBit neg + mag, flagOF + flagNX)
    else
      let tiny := top ≤ emin
      (f.signBit neg + code, if inexact then (if tiny then flagUF + flagNX else flagNX) else 0)

/-- A result delivered into a format (R88): code and flags. -/
def Fmt.deliver (f : Fmt) (mode rm draw : Nat) : Real → Nat × Nat
  | .nan nv =>
    if f.mode mode = 0 then (0, flagNV) else (f.nanCode, if nv then flagNV else 0)
  | .inf neg dz =>
    let fl := if dz then flagDZ else 0
    match f.mode mode with
    | 0 => (f.signBit neg + f.maxCode mode, fl ||| flagNV)
    | 1 => (f.nanCode, fl ||| flagNV)
    | _ => (f.signBit neg + f.infCode, fl)
  | .num neg m e sticky => f.round mode rm draw neg m e sticky

/-- A value as an exact result: a signalling NaN raises NV (R77, R93). -/
def FVal.real : FVal → Real
  | .nan sig => .nan sig
  | .inf neg => .inf neg false
  | .fin neg m e => .num neg m e false

def FVal.isNan : FVal → Bool
  | .nan _ => true
  | _ => false

def FVal.isSig : FVal → Bool
  | .nan sig => sig
  | _ => false

def FVal.neg : FVal → FVal
  | .nan s => .nan s
  | .inf n => .inf (!n)
  | .fin n m e => .fin (!n) m e

/-- The signed integer of a sign and magnitude. -/
def sInt (neg : Bool) (m : Nat) : Int := if neg then -(m : Int) else (m : Int)

/-- The exact sum of two finite values, with the sign of a zero sum under the mode (R77). -/
def sumFin (rm : Nat) (n1 : Bool) (m1 : Nat) (e1 : Int) (n2 : Bool) (m2 : Nat) (e2 : Int) : Real :=
  let e := min e1 e2
  let v := sInt n1 (m1 * 2 ^ (e1 - e).toNat) + sInt n2 (m2 * 2 ^ (e2 - e).toNat)
  if v = 0 then .num (if m1 = 0 && m2 = 0 && n1 == n2 then n1 else rm == 2) 0 0 false
  else .num (v < 0) v.natAbs e false

/-- a + b (R109, R77). -/
def addReal (rm : Nat) (a b : FVal) : Real :=
  match a, b with
  | .nan s, b => .nan (s || b.isSig)
  | _, .nan s => .nan s
  | .inf n1, .inf n2 => if n1 = n2 then .inf n1 false else .nan true
  | .inf n, .fin _ _ _ => .inf n false
  | .fin _ _ _, .inf n => .inf n false
  | .fin n1 m1 e1, .fin n2 m2 e2 => sumFin rm n1 m1 e1 n2 m2 e2

/-- a × b as a value: exact; none for 0 × Inf (R109). -/
def mulVal (a b : FVal) : Option FVal :=
  match a, b with
  | .nan s, b => some (.nan (s || b.isSig))
  | _, .nan s => some (.nan s)
  | .inf n1, .inf n2 => some (.inf (n1 != n2))
  | .inf n1, .fin n2 m _ => if m = 0 then none else some (.inf (n1 != n2))
  | .fin n1 m _, .inf n2 => if m = 0 then none else some (.inf (n1 != n2))
  | .fin n1 m1 e1, .fin n2 m2 e2 => some (.fin (n1 != n2) (m1 * m2) (e1 + e2))

/-- a × b. -/
def mulReal (a b : FVal) : Real :=
  match mulVal a b with
  | none => .nan true
  | some v => v.real

/-- a × b + c with no rounding between (R114, R77): 0 × Inf is invalid whatever c is. -/
def fmaReal (rm : Nat) (a b c : FVal) : Real :=
  match mulVal a b with
  | none => .nan true
  | some p => addReal rm p c

/-- The bits of a quotient or root that any format and RST need below its own. -/
def guardBits : Nat := 160

/-- a / b (R109). -/
def divReal (a b : FVal) : Real :=
  match a, b with
  | .nan s, b => .nan (s || b.isSig)
  | _, .nan s => .nan s
  | .inf _, .inf _ => .nan true
  | .inf n1, .fin n2 _ _ => .inf (n1 != n2) false
  | .fin n1 _ _, .inf n2 => .num (n1 != n2) 0 0 false
  | .fin n1 m1 e1, .fin n2 m2 e2 =>
    if m2 = 0 then (if m1 = 0 then .nan true else .inf (n1 != n2) true)
    else
      let k := guardBits + bitLen m2
      let x := m1 * 2 ^ k
      .num (n1 != n2) (x / m2) (e1 - e2 - (k : Int)) (x % m2 != 0)

/-- The integer square root, bit by bit from bit `n - 1` down. -/
def isqrt (x : Nat) : Nat → Nat → Nat
  | 0, r => r
  | n + 1, r => if (r + 2 ^ n) * (r + 2 ^ n) ≤ x then isqrt x n (r + 2 ^ n) else isqrt x n r

/-- The square root of a (R109). -/
def sqrtReal (a : FVal) : Real :=
  match a with
  | .nan s => .nan s
  | .inf n => if n then .nan true else .inf false false
  | .fin n m e =>
    if m = 0 then .num n 0 0 false
    else if n then .nan true
    else
      let k := 2 * guardBits + (if (e % 2) = 0 then 0 else 1)
      let x := m * 2 ^ k
      let r := isqrt x (bitLen x / 2 + 1) 0
      .num false r ((e - (k : Int)) / 2) (r * r != x)

/-- Order of two values that are not NaN; +0 and −0 are equal. -/
def FVal.lt (a b : FVal) : Bool :=
  match a, b with
  | .nan _, _ => false
  | _, .nan _ => false
  | .inf n1, .inf n2 => n1 && !n2
  | .inf n1, .fin _ _ _ => n1
  | .fin _ _ _, .inf n2 => !n2
  | .fin n1 m1 e1, .fin n2 m2 e2 =>
    let e := min e1 e2
    sInt n1 (m1 * 2 ^ (e1 - e).toNat) < sInt n2 (m2 * 2 ^ (e2 - e).toNat)

/-- Equality of two values; never with a NaN. -/
def FVal.eq (a b : FVal) : Bool := !a.isNan && !b.isNan && !a.lt b && !b.lt a

def FVal.isNeg : FVal → Bool
  | .nan _ => false
  | .inf n => n
  | .fin n _ _ => n

/-- The conditions of FCMP and the compares (R111): result and NV. -/
def fpCompare (cond : Nat) (a b : FVal) : Bool × Nat :=
  let anySig := a.isSig || b.isSig
  let anyNan := a.isNan || b.isNan
  match cond with
  | 0 => (a.eq b, if anySig then flagNV else 0)
  | 1 => (a.lt b, if anyNan then flagNV else 0)
  | 2 => (!anyNan && !b.lt a, if anyNan then flagNV else 0)
  | _ => (anyNan, if anySig then flagNV else 0)

/-- FMIN and FMAX (R110) on codes: no rounding; −0 is smaller than +0. -/
def Fmt.minmax (f : Fmt) (isMax : Bool) (x y : Nat) : Nat × Nat :=
  let a := f.decode 2 x
  let b := f.decode 2 y
  let fl := if a.isSig || b.isSig then flagNV else 0
  let r :=
    if a.isNan && b.isNan then f.nanCode
    else if a.isNan then y
    else if b.isNan then x
    else
      let aLess := a.lt b || (a.eq b && a.isNeg && !b.isNeg)
      if aLess == isMax then y else x
  (r, fl)

/-- A result rounded to an integer of `w` bits (R94): the integer and flags. -/
def toIntReal (rm draw : Nat) (sgn : Bool) (w : Nat) : Real → Int × Nat
  | .nan _ => (0, flagNV)
  | .inf neg _ => (if neg then (if sgn then -(2 ^ (w - 1) : Nat) else 0) else (if sgn then (2 ^ (w - 1) : Nat) - 1 else (2 ^ w : Nat) - 1), flagNV)
  | .num neg m e sticky =>
    let (r, inexact) := if 0 ≤ e then (m * 2 ^ e.toNat, sticky) else roundShift rm draw neg m (-e).toNat sticky
    let v := sInt neg r
    let lo : Int := if sgn then -(2 ^ (w - 1) : Nat) else 0
    let hi : Int := if sgn then (2 ^ (w - 1) : Nat) - 1 else (2 ^ w : Nat) - 1
    if v < lo then (lo, flagNV) else if hi < v then (hi, flagNV) else (v, if inexact then flagNX else 0)

/-- An integer as an exact result. -/
def ofIntReal (v : Int) : Real := .num (v < 0) v.natAbs 0 false

/-! ### FP32 helpers with RNE, and VFEXP2 (R98, R99) -/

/-- An FP32 code's value. -/
def f32 (c : Nat) : FVal := fp32.decode 2 c

/-- An FP32 result under RNE. -/
def rn32 (r : Real) : Nat := (fp32.deliver 2 0 0 r).1

/-- T[j] = 2^(j/64) rounded to FP32 (R98). -/
def exp2Table : List Nat :=
  [0x3F800000, 0x3F8164D2, 0x3F82CD87, 0x3F843A29, 0x3F85AAC3, 0x3F871F62, 0x3F88980F, 0x3F8A14D5,
   0x3F8B95C2, 0x3F8D1ADF, 0x3F8EA43A, 0x3F9031DC, 0x3F91C3D3, 0x3F935A2B, 0x3F94F4F0, 0x3F96942D,
   0x3F9837F0, 0x3F99E046, 0x3F9B8D3A, 0x3F9D3EDA, 0x3F9EF532, 0x3FA0B051, 0x3FA27043, 0x3FA43516,
   0x3FA5FED7, 0x3FA7CD94, 0x3FA9A15B, 0x3FAB7A3A, 0x3FAD583F, 0x3FAF3B79, 0x3FB123F6, 0x3FB311C4] ++
  [0x3FB504F3, 0x3FB6FD92, 0x3FB8FBAF, 0x3FBAFF5B, 0x3FBD08A4, 0x3FBF179A, 0x3FC12C4D, 0x3FC346CD,
   0x3FC5672A, 0x3FC78D75, 0x3FC9B9BE, 0x3FCBEC15, 0x3FCE248C, 0x3FD06334, 0x3FD2A81E, 0x3FD4F35B,
   0x3FD744FD, 0x3FD99D16, 0x3FDBFBB8, 0x3FDE60F5, 0x3FE0CCDF, 0x3FE33F89, 0x3FE5B907, 0x3FE8396A,
   0x3FEAC0C7, 0x3FED4F30, 0x3FEFE4BA, 0x3FF28177, 0x3FF5257D, 0x3FF7D0DF, 0x3FFA83B3, 0x3FFD3E0C]

/-- VFExp2 of an FP32 code (R99): code and flags. -/
def vfexp2 (x : Nat) : Nat × Nat :=
  match f32 x with
  | .nan sig => (0x7FC00000, if sig then flagNV else 0)
  | .inf neg => (if neg then 0 else 0x7F800000, 0)
  | .fin neg m e =>
    let v := FVal.fin neg m e
    if !v.lt (.fin false 128 0) then (0x7F800000, flagOF + flagNX)
    else if v.lt (.fin true 160 0) then (0, flagUF + flagNX)
    else
      let s := sInt neg m
      -- x × 64 = s × 2^(e + 6); k is its floor, and f = x - k / 64 is rem × 2^e over the part below
      let (k, fm, fe) : Int × Nat × Int :=
        if 0 ≤ e + 6 then (s * 2 ^ (e + 6).toNat, 0, 0)
        else
          let d : Int := (2 ^ (-(e + 6)).toNat : Nat)
          (s.fdiv d, (s.fmod d).toNat, e)
      let j := (k.emod 64).toNat
      let mm := (k - (j : Int)) / 64
      let f := FVal.fin false fm fe
      let a := rn32 (mulReal f (f32 0x3D635847))
      let a := rn32 (addReal 0 (f32 a) (f32 0x3E75FDF0))
      let a := rn32 (mulReal f (f32 a))
      let a := rn32 (addReal 0 (f32 a) (f32 0x3F317218))
      let a := rn32 (mulReal f (f32 a))
      let a := rn32 (addReal 0 (f32 a) (f32 0x3F800000))
      let b := rn32 (mulReal (f32 (exp2Table.getD j 0)) (f32 a))
      match f32 b with
      | .fin n bm be => fp32.round 2 0 0 n bm (be + mm) false
      | _ => (b, 0)

end Sys2Proof.Machine
end

