-- ==== Sys2Proof/Machine/Flags.lean ====
section
/-! DEFINITION. Flags and rounding modes: FCSR of the scalar half, VSTAT of the execute half, and the draws of stochastic rounding (R22, R89 to
R92, R151, R152). -/

namespace Sys2Proof.Machine

/-- RM of FCSR (R22). -/
def Scalar.rm (c : Scalar) : Nat := bits c.fcsr.toNat 5 3

/-- Flags accrued into FCSR (R22): no flag is cleared. -/
def State.accrue (s : State) (fl : Nat) : State := s.sc (fun c => { c with fcsr := c.fcsr ||| BitVec.ofNat 8 (fl % 32) })

/-- The rounding mode of a scalar word: 7 takes FCSR.RM (R108). -/
def State.rmOf (s : State) (rm : Fin 8) : Nat := if rm.val = 7 then s.hart.sc.rm else rm.val

/-- The draw of a scalar word: one from generator 0 in RST mode, none otherwise (R87, R92). -/
def State.scalarDraw (s : State) (rm : Nat) : State × Nat :=
  if rm = 4 then
    let r := s.hart.sc.draw 0
    (s.sc (fun _ => r.1), r.2.toNat)
  else (s, 0)

/-- Flags accrued into VSTAT (R152): SAT in bit 5, the others as in FCSR. -/
def Exec.accrue (e : Exec) (fl : Nat) : Exec := { e with vstat := e.vstat ||| BitVec.ofNat 8 (fl % 64) }

/-- SAT of VSTAT (R152). -/
def flagSAT : Nat := 32

end Sys2Proof.Machine
end

