-- ==== Sys2Proof/Machine/Vector.lean ====
section
/-! DEFINITION. The element machinery of the execute processor: registers as elements, groups, the issue checks, predicates, policies, lends,
draws (R49, R50, R92, R129, R132, R153 to R158, R244). -/

namespace Sys2Proof.Machine

/-! ### Registers as elements (R132) -/

/-- Bits of a value from position `pos`. -/
def getBitsAt {w : Nat} (v : BitVec w) (pos n : Nat) : Nat := (v >>> pos).toNat % 2 ^ n

/-- The value with `n` bits from position `pos` replaced. -/
def setBitsAt {w : Nat} (v : BitVec w) (pos n x : Nat) : BitVec w :=
  (v &&& ~~~(BitVec.ofNat w (2 ^ n - 1) <<< pos)) ||| (BitVec.ofNat w (x % 2 ^ n) <<< pos)

/-- D (R129). -/
def Exec.d (e : Exec) : Nat := 2 ^ e.depth.val

/-- G of VTYPE. -/
def Exec.g (e : Exec) : Nat := 2 ^ e.group.val

/-- Bytes of one register that the hart holds: LGN × 128 × D. -/
def Exec.regBytes (e : Exec) : Nat := e.lgn * 128 * e.d

/-- MVL at a width in bits (R153). -/
def Exec.mvl (e : Exec) (w : Nat) : Nat := e.regBytes * 8 / w

/-- N_T, the columns of a tile (R172). -/
def Exec.nt (e : Exec) : Nat := e.regBytes

/-- A vector register by number; there is none above v31. -/
def Exec.vreg (e : Exec) (r : Nat) : VReg := if h : r < 32 then e.v[r] else 0

/-- A vector register replaced. -/
def Exec.setVreg (e : Exec) (r : Nat) (v : VReg) : Exec := if h : r < 32 then { e with v := e.v.set r v } else e

/-- Element `i`, at width `w`, of the group that starts at register `r`. -/
def Exec.elem (e : Exec) (r w i : Nat) : Nat := getBitsAt (e.vreg (r + i / e.mvl w)) (i % e.mvl w * w) w

/-- The element replaced. -/
def Exec.setElem (e : Exec) (r w i v : Nat) : Exec :=
  let k := r + i / e.mvl w
  e.setVreg k (setBitsAt (e.vreg k) (i % e.mvl w * w) w v)

/-- The elements of a group of `size` registers from element `vl` on become 0. -/
def Exec.zeroFrom (e : Exec) (r w size vl : Nat) : Exec :=
  (List.range size).foldl (fun e k =>
    let kept := min (vl * w - k * (e.regBytes * 8)) (e.regBytes * 8)
    e.setVreg (r + k) (BitVec.ofNat 131072 ((e.vreg (r + k)).toNat % 2 ^ kept))) e

/-- A mask register. -/
def Exec.mask (e : Exec) (m : Nat) : VReg := if h : m < 8 then e.m[m] else 0

/-- A mask register replaced. -/
def Exec.setMask (e : Exec) (m : Nat) (v : VReg) : Exec := if h : m < 8 then { e with m := e.m.set m v } else e

/-- A bit of a mask (R157). -/
def Exec.mbit (e : Exec) (m i : Nat) : Bool := (e.mask m).getLsbD i

/-- Bit `i` of a mask value replaced. -/
def putBit (v : VReg) (i : Nat) (b : Bool) : VReg := setBitsAt v i 1 (if b then 1 else 0)

/-- Row `r` of tile `t`, column `c`: an FP32 code (R172). -/
def Exec.tile (e : Exec) (t r c : Nat) : Nat :=
  if h : 32 * t + r < 256 then getBitsAt e.tiles[32 * t + r] (32 * c) 32 else 0

/-- The tile element replaced. -/
def Exec.setTile (e : Exec) (t r c v : Nat) : Exec :=
  if h : 32 * t + r < 256 then { e with tiles := e.tiles.set (32 * t + r) (setBitsAt e.tiles[32 * t + r] (32 * c) 32 v) } else e

/-! ### What a dispatched word carries -/

/-- The lent mask, 0 for none (R48). -/
def QEntry.pmask (q : QEntry) : Nat := bits q.lend.toNat 7 4

/-- The lent polarity. -/
def QEntry.pol (q : QEntry) : Bool := q.lend.getLsbD 11

/-- The lent copy register, where a copy is lent. -/
def QEntry.copy (q : QEntry) : Option Nat := if q.lend.getLsbD 17 then some (bits q.lend.toNat 12 5) else none

/-- VCFG as the word read it (R151). -/
def QEntry.frm (q : QEntry) : Nat := bits q.vcfg.toNat 5 3
def QEntry.nan (q : QEntry) : Nat := bits q.vcfg.toNat 3 2
def QEntry.iz (q : QEntry) : Bool := q.vcfg.getLsbD 2
def QEntry.tz (q : QEntry) : Bool := q.vcfg.getLsbD 1

/-- The predicate mask of a word whose pm field is `pm`, where it has one: a lent predicate comes with pm = 0 (R49, R50). -/
def QEntry.predMask (q : QEntry) (pm : Nat) : Option Nat := if q.pmask ≠ 0 then some (q.pmask - 1) else if pm = 0 then none else some pm

/-- A bit of the predicate mask: as the word read it, where it has (R282). -/
def QEntry.predBit (q : QEntry) (e : Exec) (m i : Nat) : Bool :=
  match q.pred with
  | some v => v.getLsbD i
  | none => e.mbit m i

/-- Active(i) (R49, R154) for a word whose pm field is `pm`. -/
def QEntry.active (q : QEntry) (e : Exec) (pm i : Nat) : Bool :=
  if q.pmask ≠ 0 then q.predBit e (q.pmask - 1) i != q.pol
  else if pm = 0 then true
  else q.predBit e pm i

/-- The word keeps the mask that it reads now (R282). -/
def QEntry.readMask (q : QEntry) (e : Exec) (pm : Nat) : QEntry := { q with pred := q.pred.or ((q.predMask pm).map e.mask) }

/-- The elements that are still to be performed below `hi` (R133). -/
def QEntry.todo (q : QEntry) (hi : Nat) : List Nat := (range q.start (min hi q.limit - q.start)).filter (fun i => !q.done.contains i)

/-- Destination element `i` written, and its copy with it (R49, R154). -/
def Exec.put (e : Exec) (q : QEntry) (r w i v : Nat) : Exec :=
  let e := e.setElem r w i v
  match q.copy with
  | none => e
  | some c => e.setElem c w i v

/-- The tail of the destination group and of its copy under TZ (R154). -/
def Exec.tail (e : Exec) (q : QEntry) (r w size : Nat) : Exec :=
  if !q.tz then e
  else
    let e := e.zeroFrom r w size q.vl
    match q.copy with
    | none => e
    | some c => e.zeroFrom c w size q.vl

/-- The generator of the lane that holds element `i` of a register written at width `w` (R92). DEDUCED (log 11): for a later register of a
group the element within its register, as R132 places it. -/
def laneGen (e : Exec) (w i : Nat) : Nat :=
  let per := 1024 * e.d / w
  let j := i % e.mvl w
  1 + 16 * (j / per) + (j % per * w / 8) % 128 / 8

/-- A draw of the lane in RST mode, none otherwise. -/
def Scalar.laneDraw (c : Scalar) (rm g : Nat) : Scalar × Nat :=
  if rm = 4 then
    let r := c.draw g
    (r.1, r.2.toNat)
  else (c, 0)

/-! ### What a word accepts from a LEND (R50) -/

/-- The word accepts a lent predicate. -/
def takesPredicate (w : Nat) : Bool :=
  let op := w % 128
  (0x40 ≤ op && op ≤ 0x43) || op == 0x45 || op == 0x46 || op == 0x49 || op == 0x4A || (0x50 ≤ op && op ≤ 0x58) || op == 0x62
    || (op == 0x63 && bits w 25 2 != 3)

/-- The word accepts a destination copy. -/
def takesCopy (w : Nat) : Bool :=
  let op := w % 128
  let f := bits w 27 5
  ((op == 0x40 || op == 0x41) && f != 3 && f != 5) || op == 0x42 || op == 0x43 || op == 0x45 || (0x50 ≤ op && op ≤ 0x52)
    || (op == 0x61 && f == 2) || op == 0x62 || (op == 0x63 && bits w 25 2 != 3)

/-- The pm field of a word that can take a predicate. -/
def pmField (w : Nat) : Nat := if w % 128 = 0x62 || w % 128 = 0x63 then bits w 27 3 else bits w 22 3

/-! ### Groups and the issue checks (R153, R156, R171, R244) -/

/-- A register group of an operand: `free` where it is a run of single registers, which needs no alignment (element 0 of a reduction or
move, the B group of MMA, the points of a G word); the width of its elements, 0 for single registers. -/
structure Grp where
  reg : Nat
  size : Nat
  free : Bool
  width : Nat
  deriving DecidableEq, Repr

/-- The group lies within v0 to v31; an element group is aligned to its size, of at most 8 registers. -/
def Grp.ok (g : Grp) : Bool := (g.free || (g.size ≤ 8 && g.reg % g.size == 0)) && g.reg + g.size ≤ 32

/-- Two groups share a register. -/
def Grp.meets (a b : Grp) : Bool := a.reg < b.reg + b.size && b.reg < a.reg + a.size

/-- How a destination may overlap a source (R156). -/
inductive Overlap where
  /-- it may coincide exactly with a group of its size -/
  | same
  /-- not at all -/
  | none
  /-- in any way -/
  | any
  deriving DecidableEq, Repr

/-- The operands of a word, for its issue checks. -/
structure Shape where
  dsts : List Grp
  srcs : List Grp
  /-- the greatest VL, where there is a limit -/
  vlMax : Option Nat
  overlap : Overlap
  /-- a breach that belongs to the word alone -/
  bad : Bool
  /-- the masks it writes -/
  masks : List Nat := []
  deriving DecidableEq, Repr

/-- The registers of a binding. -/
def Binding.grp (b : Binding) : Grp := ⟨b.reg, b.n, true, 0⟩

/-- The NAN field of the tensor entry a binding holds (R239). -/
def Binding.nan (b : Binding) : Nat := fieldAt b.entry 29 1

/-- A reader of a bound group reads it whole, from its first register, at a VL it holds (R244). DEDUCED (log 13): a run of single registers
reads each group that lies within it whole. The NaN mode of a BOP reader is checked where its delivery is issued. DESIGN CHOICE (log 89): the columns
that a BOP group holds, two for each byte of a register. -/
def Binding.readerBad (b : Binding) (e : Exec) (g : Grp) : Bool :=
  g.meets b.grp &&
    ((if g.free then b.reg < g.reg || g.reg + g.size < b.reg + b.n else g.reg != b.reg || g.size != b.n)
      || (if b.view = 1 then e.mvl 4 else b.n * e.mvl (8 * 2 ^ b.ew)) < e.vl)

/-- A word's operands break a rule that R46 item 8 assigns to the illegal-instruction trap, or the limits of a lent copy (R50). -/
def Shape.illegal (sh : Shape) (e : Exec) (lend : BitVec 32) : Bool :=
  let copies := if lend.getLsbD 31 && lend.getLsbD 17 then
      sh.dsts.map (fun d => (⟨bits lend.toNat 12 5, d.size, d.free, d.width⟩ : Grp))
    else []
  let outs := sh.dsts ++ copies
  sh.bad
    || !(sh.dsts ++ sh.srcs ++ copies).all Grp.ok
    || (match sh.vlMax with | none => false | some n => decide (n < e.vl))
    || sh.dsts.any (fun d => sh.srcs.any (fun s =>
        match sh.overlap with
        | .any => false
        | .none => d.meets s
        | .same => d.meets s && !(d.reg == s.reg && d.size == s.size && d.width == s.width)))
    || copies.any (fun c => sh.dsts.any c.meets || sh.srcs.any c.meets)
    || outs.any (fun d => e.bindings.any (fun b => d.meets b.grp))
    || sh.srcs.any (fun g => e.bindings.any (fun b => b.readerBad e g))

/-- A grouped operand of width `w2` in a word of width `w` (R153). -/
def Exec.operand (e : Exec) (r : Reg) (w2 w : Nat) : Grp := ⟨r.val, max 1 (e.g * w2 / w), false, w2⟩

/-- A single register (R153). -/
def single (r : Reg) : Grp := ⟨r.val, 1, true, 0⟩

/-- The usual limit of VL: G × MVL(W). -/
def Exec.vlCap (e : Exec) (w : Nat) : Option Nat := some (e.g * e.mvl w)

/-- The width of a coded sew or ew (R41). -/
def sewBits (c : Fin 4) : Nat := 8 * 2 ^ c.val

/-- The width of a coded format in the floating-point classes (R41). -/
def fmtBits (c : Fin 4) : Nat := (fmtOf c.val).width

/-! ### A word of the execute processor -/

/-- What a dispatched word is: its operands, whether it is a whole-result word (R158), and its performing of the elements from its start up
to an index: the last call reaches VL and treats the tail. -/
structure VOp where
  shape : Exec → Shape
  whole : Bool
  run : QEntry → Nat → State → State

/-- The element-wise loop (R154): active elements are performed in ascending order, inactive ones follow IZ, and at the end the tail follows
TZ. At VL = 0 nothing is written, no tail either (R155): of the X word MTOV, which R155 does not name, DEDUCED (log 70). `f` gives an element's value and flags from the registers, its draw and its index. -/
def elementwise (pm d w size : Nat) (draws : Bool) (f : Exec → Nat → Nat → Nat × Nat) (q : QEntry) (hi : Nat) (s : State) : State :=
  if q.vl = 0 then s
  else
    let one := fun (a : Exec × Scalar) (i : Nat) =>
      if q.active a.1 pm i then
        let r := a.2.laneDraw (if draws then q.frm else 0) (laneGen a.1 w i)
        let v := f a.1 r.2 i
        ((a.1.put q d w i v.1).accrue v.2, r.1)
      else if q.iz then (a.1.put q d w i 0, a.2)
      else a
    let r := (range q.start (min hi q.vl - q.start)).foldl one (s.hart.ep, s.hart.sc)
    let e := if q.vl ≤ hi then r.1.tail q d w size else r.1
    { s with hart := { s.hart with ep := e, sc := r.2 } }

/-- A word that writes a mask (R154, R158): bit by bit, the mask published whole. `f` gives a bit and flags. -/
def maskWrite (pm md : Nat) (f : Exec → Nat → Bool × Nat) (q : QEntry) (s : State) : State :=
  if q.vl = 0 then s
  else
    let e := s.hart.ep
    let one := fun (a : VReg × Nat) (i : Nat) =>
      if q.active e pm i then
        let v := f e i
        (putBit a.1 i v.1, a.2 ||| v.2)
      else if q.iz then (putBit a.1 i false, a.2)
      else a
    let r := (List.range q.vl).foldl one (e.mask md, 0)
    let m := if q.tz then BitVec.ofNat 131072 (r.1.toNat % 2 ^ q.vl) else r.1
    { s with hart := { s.hart with ep := (e.setMask md m).accrue r.2 } }

end Sys2Proof.Machine
end

