-- ==== Sys2Proof/Machine/VectorOps.lean ====
section
/-! DEFINITION. What each V word does to its elements: integer, floating point, compare, mask, permute, reduction and move (R159 to R171). The
words themselves, as instructions, are in VectorWords. -/

namespace Sys2Proof.Machine

/-! ### Forms -/

/-- An element-wise word of width `w` with a destination at width `wd` and sources at their widths (R153). -/
def elementOp (w : Nat) (d : Reg) (wd : Nat) (srcs : List (Reg × Nat)) (pm : Nat) (draws : Bool) (overlap : Overlap) (bad : Exec → Bool)
    (f : QEntry → Exec → Nat → Nat → Nat × Nat) : VOp where
  shape e := ⟨[e.operand d wd w], srcs.map (fun r => e.operand r.1 r.2 w), e.vlCap w, overlap, bad e, []⟩
  whole := false
  run q hi s := elementwise pm d.val wd (s.hart.ep.operand d wd w).size draws (f q) q hi s

/-- A word that writes a mask from sources of width `w`. -/
def maskOp (w : Nat) (md : Reg) (srcs : List Reg) (pm : Nat) (f : QEntry → Exec → Nat → Bool × Nat) : VOp where
  shape e := ⟨[], srcs.map (fun r => e.operand r w w), e.vlCap w, .any, false, [md.val]⟩
  whole := true
  run q _ s := maskWrite pm md.val (f q) q s

/-- No condition of the word's own. -/
def noneBad : Exec → Bool := fun _ => false

/-- The scalar operand of a vector-scalar form: xs1 mod 2^W (R159). -/
def QEntry.scalar (q : QEntry) (w : Nat) : Nat := q.xs1.toNat % 2 ^ w

/-! ### Integer arithmetic (R159 to R162): functions of the width and two patterns, giving a pattern and flags -/

/-- An integer as a pattern of `n` bits. -/
def pat (n : Nat) (z : Int) : Nat := (z % (2 ^ n : Nat)).toNat

/-- An integer clamped to the signed range of `n` bits, with SAT where it was clamped. -/
def clampS (n : Nat) (z : Int) : Nat × Nat :=
  let hi : Int := (2 ^ (n - 1) : Nat)
  if z < -hi then (pat n (-hi), flagSAT) else if hi - 1 < z then (pat n (hi - 1), flagSAT) else (pat n z, 0)

def intAdd (n a b : Nat) : Nat × Nat := ((a + b) % 2 ^ n, 0)
def intSub (n a b : Nat) : Nat × Nat := ((a + 2 ^ n - b) % 2 ^ n, 0)
def intMul (n a b : Nat) : Nat × Nat := (a * b % 2 ^ n, 0)
def intMulh (n a b : Nat) : Nat × Nat := (pat n ((signed n a * signed n b).fdiv (2 ^ n : Nat)), 0)
def intMulhu (n a b : Nat) : Nat × Nat := (a * b / 2 ^ n, 0)
def intDiv (n a b : Nat) : Nat × Nat := (if b = 0 then 2 ^ n - 1 else pat n ((signed n a).tdiv (signed n b)), 0)
def intDivu (n a b : Nat) : Nat × Nat := (if b = 0 then 2 ^ n - 1 else a / b, 0)
def intRem (n a b : Nat) : Nat × Nat := (if b = 0 then a else pat n ((signed n a).tmod (signed n b)), 0)
def intAnd (_ a b : Nat) : Nat × Nat := (a &&& b, 0)
def intOr (_ a b : Nat) : Nat × Nat := (a ||| b, 0)
def intXor (_ a b : Nat) : Nat × Nat := (a ^^^ b, 0)
def intShl (n a b : Nat) : Nat × Nat := (a * 2 ^ (b % n) % 2 ^ n, 0)
def intShr (n a b : Nat) : Nat × Nat := (a / 2 ^ (b % n), 0)
def intSar (n a b : Nat) : Nat × Nat := (pat n ((signed n a).fdiv (2 ^ (b % n) : Nat)), 0)
def intMin (n a b : Nat) : Nat × Nat := (if signed n a ≤ signed n b then a else b, 0)
def intMax (n a b : Nat) : Nat × Nat := (if signed n a ≤ signed n b then b else a, 0)
def intSadd (n a b : Nat) : Nat × Nat := clampS n (signed n a + signed n b)
def intWadd (n a b : Nat) : Nat × Nat := (pat (2 * n) (signed n a + signed n b), 0)

/-- VNCLIP (R162): a wide pattern of 2n bits shifted right with RNE and clamped. -/
def intNclip (n wide sh : Nat) : Nat × Nat :=
  let v := signed (2 * n) wide
  let r := roundShift 0 0 (v < 0) v.natAbs (sh % (2 * n)) false
  clampS n (sInt (v < 0) r.1)

/-- Vector-vector integer word. -/
def intVV (f : Nat → Nat → Nat → Nat × Nat) (o : OpV) : VOp :=
  let w := sewBits o.sew
  elementOp w o.d w [(o.s1, w), (o.s2, w)] o.pm.val false .same noneBad
    (fun _ e _ i => f w (e.elem o.s1.val w i) (e.elem o.s2.val w i))

/-- Vector-scalar integer word: a := vs2[i], b := xs1 (R159). -/
def intVS (f : Nat → Nat → Nat → Nat × Nat) (o : OpV) : VOp :=
  let w := sewBits o.sew
  elementOp w o.d w [(o.s2, w)] o.pm.val false .same noneBad (fun q e _ i => f w (e.elem o.s2.val w i) (q.scalar w))

/-- VWADD and VNCLIP are illegal at W = 64 and at G = 8 (R160). -/
def wideBad (w : Nat) : Exec → Bool := fun e => w == 64 || e.g == 8

def opVwaddVV (o : OpV) : VOp :=
  let w := sewBits o.sew
  elementOp w o.d (2 * w) [(o.s1, w), (o.s2, w)] o.pm.val false .same (wideBad w)
    (fun _ e _ i => intWadd w (e.elem o.s1.val w i) (e.elem o.s2.val w i))

def opVwaddVS (o : OpV) : VOp :=
  let w := sewBits o.sew
  elementOp w o.d (2 * w) [(o.s2, w)] o.pm.val false .same (wideBad w) (fun q e _ i => intWadd w (e.elem o.s2.val w i) (q.scalar w))

def opVnclipVV (o : OpV) : VOp :=
  let w := sewBits o.sew
  elementOp w o.d w [(o.s1, w), (o.s2, 2 * w)] o.pm.val false .same (wideBad w)
    (fun _ e _ i => intNclip w (e.elem o.s2.val (2 * w) i) (e.elem o.s1.val w i))

def opVnclipVS (o : OpV) : VOp :=
  let w := sewBits o.sew
  elementOp w o.d w [(o.s2, 2 * w)] o.pm.val false .same (wideBad w) (fun q e _ i => intNclip w (e.elem o.s2.val (2 * w) i) q.xs1.toNat)

/-- The carry or borrow into element i (R161): pm names its mask. -/
def carryIn (pm : Fin 8) (e : Exec) (i : Nat) : Nat := if pm.val ≠ 0 && e.mbit pm.val i then 1 else 0

/-- VADC and VSBC (R161): predicated by a lend only. -/
def carryVV (f : Nat → Nat → Nat → Nat → Nat) (o : OpV) : VOp :=
  let w := sewBits o.sew
  elementOp w o.d w [(o.s1, w), (o.s2, w)] 0 false .same noneBad
    (fun _ e _ i => (f w (e.elem o.s1.val w i) (e.elem o.s2.val w i) (carryIn o.pm e i), 0))

def carryVS (f : Nat → Nat → Nat → Nat → Nat) (o : OpV) : VOp :=
  let w := sewBits o.sew
  elementOp w o.d w [(o.s2, w)] 0 false .same noneBad (fun q e _ i => (f w (e.elem o.s2.val w i) (q.scalar w) (carryIn o.pm e i), 0))

/-- VMADC and VMSBC (R161). -/
def carryMaskVV (f : Nat → Nat → Nat → Nat → Bool) (o : OpV) : VOp :=
  let w := sewBits o.sew
  maskOp w o.d [o.s1, o.s2] 0 (fun _ e i => (f w (e.elem o.s1.val w i) (e.elem o.s2.val w i) (carryIn o.pm e i), 0))

def carryMaskVS (f : Nat → Nat → Nat → Nat → Bool) (o : OpV) : VOp :=
  let w := sewBits o.sew
  maskOp w o.d [o.s2] 0 (fun q e i => (f w (e.elem o.s2.val w i) (q.scalar w) (carryIn o.pm e i), 0))

def addCarry (n a b c : Nat) : Nat := (a + b + c) % 2 ^ n
def subBorrow (n a b c : Nat) : Nat := (a + 2 ^ n + 2 ^ n - b - c) % 2 ^ n
def addCarryOut (n a b c : Nat) : Bool := 2 ^ n ≤ a + b + c
def subBorrowOut (_ a b c : Nat) : Bool := a < b + c

def opVaddVV := intVV intAdd
def opVsubVV := intVV intSub
def opVadcVV := carryVV addCarry
def opVmadcVV := carryMaskVV addCarryOut
def opVsbcVV := carryVV subBorrow
def opVmsbcVV := carryMaskVV subBorrowOut
def opVmulVV := intVV intMul
def opVmulhVV := intVV intMulh
def opVmulhuVV := intVV intMulhu
def opVdivVV := intVV intDiv
def opVdivuVV := intVV intDivu
def opVremVV := intVV intRem
def opVandVV := intVV intAnd
def opVorVV := intVV intOr
def opVxorVV := intVV intXor
def opVshlVV := intVV intShl
def opVshrVV := intVV intShr
def opVsarVV := intVV intSar
def opVminVV := intVV intMin
def opVmaxVV := intVV intMax
def opVsaddVV := intVV intSadd
def opVaddVS := intVS intAdd
def opVsubVS := intVS intSub
def opVadcVS := carryVS addCarry
def opVmadcVS := carryMaskVS addCarryOut
def opVsbcVS := carryVS subBorrow
def opVmsbcVS := carryMaskVS subBorrowOut
def opVmulVS := intVS intMul
def opVmulhVS := intVS intMulh
def opVmulhuVS := intVS intMulhu
def opVdivVS := intVS intDiv
def opVdivuVS := intVS intDivu
def opVremVS := intVS intRem
def opVandVS := intVS intAnd
def opVorVS := intVS intOr
def opVxorVS := intVS intXor
def opVshlVS := intVS intShl
def opVshrVS := intVS intShr
def opVsarVS := intVS intSar
def opVminVS := intVS intMin
def opVmaxVS := intVS intMax
def opVsaddVS := intVS intSadd

/-! ### Floating point (R163, R164) -/

/-- A result delivered into the sew format under the FRM read at dispatch. -/
def fpVV (f : Nat → FVal → FVal → Real) (o : OpV) : VOp :=
  let fm := fmtOf o.sew.val
  let w := fm.width
  elementOp w o.d w [(o.s1, w), (o.s2, w)] o.pm.val true .same noneBad
    (fun q e dr i => fm.deliver 2 q.frm dr (f q.frm (fm.decode 2 (e.elem o.s1.val w i)) (fm.decode 2 (e.elem o.s2.val w i))))

def fpVS (f : Nat → FVal → FVal → Real) (o : OpV) : VOp :=
  let fm := fmtOf o.sew.val
  let w := fm.width
  elementOp w o.d w [(o.s2, w)] o.pm.val true .same noneBad
    (fun q e dr i => fm.deliver 2 q.frm dr (f q.frm (fm.decode 2 (e.elem o.s2.val w i)) (fm.decode 2 (q.scalar w))))

def opVfaddVV := fpVV addReal
def opVfsubVV := fpVV (fun rm a b => addReal rm a b.neg)
def opVfmulVV := fpVV (fun _ a b => mulReal a b)
def opVfdivVV := fpVV (fun _ a b => divReal a b)
def opVfaddVS := fpVS addReal
def opVfsubVS := fpVS (fun rm a b => addReal rm a b.neg)
def opVfmulVS := fpVS (fun _ a b => mulReal a b)
def opVfdivVS := fpVS (fun _ a b => divReal a b)

def opVfsqrt (o : OpV1) : VOp :=
  let fm := fmtOf o.sew.val
  let w := fm.width
  elementOp w o.d w [(o.s1, w)] o.pm.val true .same noneBad
    (fun q e dr i => fm.deliver 2 q.frm dr (sqrtReal (fm.decode 2 (e.elem o.s1.val w i))))

/-- VFMA (R163): vd[i] is read as a third source. -/
def opVfmaVV (o : OpV) : VOp :=
  let fm := fmtOf o.sew.val
  let w := fm.width
  elementOp w o.d w [(o.s1, w), (o.s2, w)] o.pm.val true .same noneBad
    (fun q e dr i => fm.deliver 2 q.frm dr (fmaReal q.frm (fm.decode 2 (e.elem o.s1.val w i)) (fm.decode 2 (e.elem o.s2.val w i))
      (fm.decode 2 (e.elem o.d.val w i))))

def opVfmaVS (o : OpV) : VOp :=
  let fm := fmtOf o.sew.val
  let w := fm.width
  elementOp w o.d w [(o.s2, w)] o.pm.val true .same noneBad
    (fun q e dr i => fm.deliver 2 q.frm dr (fmaReal q.frm (fm.decode 2 (e.elem o.s2.val w i)) (fm.decode 2 (q.scalar w))
      (fm.decode 2 (e.elem o.d.val w i))))

/-- VFMIN and VFMAX: as R110, no draw. -/
def fpMinMaxVV (isMax : Bool) (o : OpV) : VOp :=
  let fm := fmtOf o.sew.val
  let w := fm.width
  elementOp w o.d w [(o.s1, w), (o.s2, w)] o.pm.val false .same noneBad
    (fun _ e _ i => fm.minmax isMax (e.elem o.s1.val w i) (e.elem o.s2.val w i))

def fpMinMaxVS (isMax : Bool) (o : OpV) : VOp :=
  let fm := fmtOf o.sew.val
  let w := fm.width
  elementOp w o.d w [(o.s2, w)] o.pm.val false .same noneBad (fun q e _ i => fm.minmax isMax (e.elem o.s2.val w i) (q.scalar w))

def opVfminVV := fpMinMaxVV false
def opVfmaxVV := fpMinMaxVV true
def opVfminVS := fpMinMaxVS false
def opVfmaxVS := fpMinMaxVS true

/-- VFCVT (R164, R93): direction 0 converts from the sew format to the other, 1 to it. -/
def opVfcvt (o : OpVCvt) : VOp :=
  let fs := fmtOf o.sew.val
  let fo := fmtOf o.other.val
  let src := if o.dir.val = 0 then fs else fo
  let dst := if o.dir.val = 0 then fo else fs
  elementOp fs.width o.d dst.width [(o.s1, src.width)] o.pm.val true .same (fun _ => 6 ≤ o.other.val)
    (fun q e dr i => dst.deliver q.nan q.frm dr (src.decode q.nan (e.elem o.s1.val src.width i)).real)

/-- VFCVTI (R164, R94). -/
def opVfcvti (o : OpVCvtI) : VOp :=
  let fm := fmtOf o.sew.val
  let iw := sewBits o.iw
  elementOp fm.width o.d iw [(o.s1, fm.width)] o.pm.val true .same noneBad
    (fun q e dr i =>
      let r := toIntReal q.frm dr (o.signed.val == 1) iw (fm.decode 2 (e.elem o.s1.val fm.width i)).real
      (pat iw r.1, r.2))

/-- VFCVTF (R164, R94). -/
def opVfcvtf (o : OpVCvtI) : VOp :=
  let fm := fmtOf o.sew.val
  let iw := sewBits o.iw
  elementOp fm.width o.d fm.width [(o.s1, iw)] o.pm.val true .same noneBad
    (fun q e dr i =>
      let a := e.elem o.s1.val iw i
      fm.deliver 2 q.frm dr (ofIntReal (if o.signed.val = 1 then signed iw a else (a : Int))))

/-- VFEXP2 (R99): FP32 only, and it never draws. -/
def opVfexp2 (o : OpV1) : VOp :=
  let w := fmtBits o.sew
  elementOp w o.d w [(o.s1, w)] o.pm.val false .same (fun _ => o.sew.val != 1) (fun _ e _ i => vfexp2 (e.elem o.s1.val w i))

/-! ### Compares (R165) -/

def cmpVV (f : Nat → Nat → Nat → Bool) (o : OpV) : VOp :=
  let w := sewBits o.sew
  maskOp w o.d [o.s1, o.s2] o.pm.val (fun _ e i => (f w (e.elem o.s1.val w i) (e.elem o.s2.val w i), 0))

def cmpVS (f : Nat → Nat → Nat → Bool) (o : OpV) : VOp :=
  let w := sewBits o.sew
  maskOp w o.d [o.s2] o.pm.val (fun q e i => (f w (e.elem o.s2.val w i) (q.scalar w), 0))

def fcmpVV (cond : Nat) (o : OpV) : VOp :=
  let fm := fmtOf o.sew.val
  let w := fm.width
  maskOp w o.d [o.s1, o.s2] o.pm.val (fun _ e i => fpCompare cond (fm.decode 2 (e.elem o.s1.val w i)) (fm.decode 2 (e.elem o.s2.val w i)))

def fcmpVS (cond : Nat) (o : OpV) : VOp :=
  let fm := fmtOf o.sew.val
  let w := fm.width
  maskOp w o.d [o.s2] o.pm.val (fun q e i => fpCompare cond (fm.decode 2 (e.elem o.s2.val w i)) (fm.decode 2 (q.scalar w)))

def opVcmpeqVV := cmpVV (fun _ a b => a == b)
def opVcmpneVV := cmpVV (fun _ a b => a != b)
def opVcmpltVV := cmpVV (fun n a b => signed n a < signed n b)
def opVcmpleVV := cmpVV (fun n a b => signed n a ≤ signed n b)
def opVcmpltuVV := cmpVV (fun _ a b => a < b)
def opVcmpleuVV := cmpVV (fun _ a b => a ≤ b)
def opVcmpgtVV := cmpVV (fun n a b => signed n b < signed n a)
def opVcmpgtuVV := cmpVV (fun _ a b => b < a)
def opVcmpfeqVV := fcmpVV 0
def opVcmpfltVV := fcmpVV 1
def opVcmpfleVV := fcmpVV 2
def opVcmpfunordVV := fcmpVV 3
def opVcmpeqVS := cmpVS (fun _ a b => a == b)
def opVcmpneVS := cmpVS (fun _ a b => a != b)
def opVcmpltVS := cmpVS (fun n a b => signed n a < signed n b)
def opVcmpleVS := cmpVS (fun n a b => signed n a ≤ signed n b)
def opVcmpltuVS := cmpVS (fun _ a b => a < b)
def opVcmpleuVS := cmpVS (fun _ a b => a ≤ b)
def opVcmpgtVS := cmpVS (fun n a b => signed n b < signed n a)
def opVcmpgtuVS := cmpVS (fun _ a b => b < a)
def opVcmpfeqVS := fcmpVS 0
def opVcmpfltVS := fcmpVS 1
def opVcmpfleVS := fcmpVS 2
def opVcmpfunordVS := fcmpVS 3

/-! ### Masks (R166) -/

/-- A mask word on bits 0 to VL − 1. -/
def bitsOp (md : Reg) (f : Exec → Nat → Bool) : VOp where
  shape _ := ⟨[], [], none, .any, false, [md.val]⟩
  whole := true
  run q _ s := maskWrite 0 md.val (fun e i => (f e i, 0)) q s

def opMand (o : OpDSS) : VOp := bitsOp o.d (fun e i => e.mbit o.s1.val i && e.mbit o.s2.val i)
def opMor (o : OpDSS) : VOp := bitsOp o.d (fun e i => e.mbit o.s1.val i || e.mbit o.s2.val i)
def opMxor (o : OpDSS) : VOp := bitsOp o.d (fun e i => e.mbit o.s1.val i != e.mbit o.s2.val i)
def opMandn (o : OpDSS) : VOp := bitsOp o.d (fun e i => e.mbit o.s1.val i && !e.mbit o.s2.val i)
def opMnot (o : OpDS) : VOp := bitsOp o.d (fun e i => !e.mbit o.s1.val i)
def opMshl (o : OpDS) : VOp := bitsOp o.d (fun e i => 0 < i && e.mbit o.s1.val (i - 1))
def opMset (o : OpD) : VOp := bitsOp o.d (fun _ _ => true)

/-- The bits of a mask below VL. -/
def Exec.below (e : Exec) (m : Nat) : List Nat := (List.range e.vl).filter (fun i => e.mbit m i)

/-! ### Permutes (R167, R168) -/

/-- VCOMPRESS: the selected elements packed; elements from their count on are tail. -/
def opVcompress (o : OpV1) : VOp :=
  let w := sewBits o.sew
  { shape := fun e => ⟨[e.operand o.d w w], [e.operand o.s1 w w], e.vlCap w, .none, false, []⟩
    whole := true
    run := fun q _ s =>
      if q.vl = 0 then s
      else
        let e := s.hart.ep
        let sel := (List.range q.vl).filter (q.active e o.pm.val)
        let e' := sel.zipIdx.foldl (fun (a : Exec) (p : Nat × Nat) => a.put q o.d.val w p.2 (e.elem o.s1.val w p.1)) e
        let e' := e'.tail { q with vl := sel.length } o.d.val w e.g
        { s with hart := { s.hart with ep := e' } } }

/-- VEXPAND: the j-th active element takes element j of the source. -/
def opVexpand (o : OpV1) : VOp :=
  let w := sewBits o.sew
  { shape := fun e => ⟨[e.operand o.d w w], [e.operand o.s1 w w], e.vlCap w, .none, false, []⟩
    whole := true
    run := fun q _ s =>
      if q.vl = 0 then s
      else
        let e := s.hart.ep
        let one := fun (a : Exec × Nat) (i : Nat) =>
          if q.active e o.pm.val i then (a.1.put q o.d.val w i (e.elem o.s1.val w a.2), a.2 + 1)
          else if q.iz then (a.1.put q o.d.val w i 0, a.2)
          else a
        let r := (List.range q.vl).foldl one (e, 0)
        { s with hart := { s.hart with ep := r.1.tail q o.d.val w e.g } } }

def opViota (o : OpV0) : VOp :=
  let w := sewBits o.sew
  elementOp w o.d w [] o.pm.val false .none noneBad (fun _ _ _ i => (i % 2 ^ w, 0))

/-- VCONFLICT (R168). -/
def opVconflict (o : OpV1) : VOp :=
  let w := sewBits o.sew
  elementOp w o.d w [(o.s1, w)] o.pm.val false .none noneBad (fun q e _ i =>
    let b := i - i % w
    let hit := fun k => q.active e o.pm.val (b + k) && e.elem o.s1.val w (b + k) == e.elem o.s1.val w i
    ((List.range (i % w)).foldl (fun a k => if hit k then a + 2 ^ k else a) 0, 0))

def opVgather (o : OpV) : VOp :=
  let w := sewBits o.sew
  elementOp w o.d w [(o.s1, w), (o.s2, w)] o.pm.val false .none noneBad (fun _ e _ i =>
    let x := e.elem o.s2.val w i
    (if x < e.g * e.mvl w then e.elem o.s1.val w x else 0, 0))

/-- VSLIDEUP: elements below f are not written. -/
def opVslideup (o : OpV) : VOp :=
  let w := sewBits o.sew
  let base := elementOp w o.d w [(o.s1, w)] o.pm.val false .none noneBad
    (fun q e _ i => (e.elem o.s1.val w (i - q.xs2.toNat), 0))
  { base with run := fun q hi s => base.run { q with start := max q.start (min q.xs2.toNat q.vl) } hi s }

def opVslidedn (o : OpV) : VOp :=
  let w := sewBits o.sew
  elementOp w o.d w [(o.s1, w)] o.pm.val false .none noneBad (fun q e _ i =>
    (if i + q.xs2.toNat < e.g * e.mvl w then e.elem o.s1.val w (i + q.xs2.toNat) else 0, 0))

def opVbcast (o : OpV1) : VOp :=
  let w := sewBits o.sew
  elementOp w o.d w [] o.pm.val false .none noneBad (fun q _ _ _ => (q.scalar w, 0))

/-! ### Reductions (R97, R169) -/

/-- One node of the tree: Absent passes the other operand on, and neither draws nor raises a flag. -/
def combine (op : Nat → Nat → Nat → Nat × Nat) (rm g : Nat) (a b : Option Nat) (c : Scalar × Nat) : Option Nat × Scalar × Nat :=
  match a, b with
  | none, b => (b, c)
  | a, none => (a, c)
  | some x, some y =>
    let r := c.1.laneDraw rm g
    let v := op r.2 x y
    (some v.1, r.1, c.2 ||| v.2)

/-- One level of the tree: element i with element i + half, in ascending order. The lower-indexed operand is w[i], so its lane is that of element
i even where w[i] was passed up to it past an Absent one: DEDUCED (log 11). -/
def treeLevel (op : Nat → Nat → Nat → Nat × Nat) (rm : Nat) (lane : Nat → Nat) :
    Nat → List (Option Nat) → List (Option Nat) → Scalar × Nat → List (Option Nat) × Scalar × Nat
  | i, a :: as, b :: bs, c =>
    let r := combine op rm (lane i) a b c
    let t := treeLevel op rm lane (i + 1) as bs r.2
    (r.1 :: t.1, t.2)
  | _, _, _, c => ([], c)

/-- The tree of R97 over 2^k leaves. -/
def reduceTree (op : Nat → Nat → Nat → Nat × Nat) (rm : Nat) (lane : Nat → Nat) :
    Nat → List (Option Nat) → Scalar × Nat → Option Nat × Scalar × Nat
  | 0, w, c => (w.headD none, c)
  | k + 1, w, c =>
    let r := treeLevel op rm lane 0 (w.take (2 ^ k)) (w.drop (2 ^ k)) c
    reduceTree op rm lane k r.1 r.2

/-- The least k with n ≤ 2^k. -/
def log2Up (n : Nat) : Nat := if n ≤ 1 then 0 else Nat.log2 (n - 1) + 1

/-- A reduction: vd[0] := Combine(op, vs2[0], tree), and the rest of vd is tail. -/
def reduceOp (w : Nat) (o : OpV) (draws : Bool) (op : Nat → Nat → Nat → Nat → Nat × Nat) : VOp where
  shape e := ⟨[single o.d], [e.operand o.s1 w w, single o.s2], e.vlCap w, .any, false, []⟩
  whole := true
  run q _ s :=
    if q.vl = 0 then s
    else
      let e := s.hart.ep
      let rm := if draws then q.frm else 0
      let leaf := fun i => if i < q.vl && q.active e o.pm.val i then some (e.elem o.s1.val w i) else none
      let k := log2Up q.vl
      let t := reduceTree (op q.frm) rm (laneGen e w) k ((List.range (2 ^ k)).map leaf) (s.hart.sc, 0)
      let r := combine (op q.frm) rm 1 (some (e.elem o.s2.val w 0)) t.1 t.2
      let e' := e.setElem o.d.val w 0 (r.1.getD 0)
      let e' := if q.tz then e'.zeroFrom o.d.val w 1 1 else e'
      { s with hart := { s.hart with ep := e'.accrue r.2.2, sc := r.2.1 } }

def opVredsum (o : OpV) : VOp := reduceOp (sewBits o.sew) o false (fun _ _ a b => intAdd (sewBits o.sew) a b)
def opVredmax (o : OpV) : VOp := reduceOp (sewBits o.sew) o false (fun _ _ a b => intMax (sewBits o.sew) a b)
def opVredmin (o : OpV) : VOp := reduceOp (sewBits o.sew) o false (fun _ _ a b => intMin (sewBits o.sew) a b)

def opVredfsum (o : OpV) : VOp :=
  let fm := fmtOf o.sew.val
  reduceOp fm.width o true (fun rm dr a b => fm.deliver 2 rm dr (addReal rm (fm.decode 2 a) (fm.decode 2 b)))

def opVredfmax (o : OpV) : VOp :=
  let fm := fmtOf o.sew.val
  reduceOp fm.width o false (fun _ _ a b => fm.minmax true a b)

/-- VMVSX (R170): where VL is not 0, element 0 and no other. -/
def opVmvsx (o : OpVMv) : VOp :=
  let w := sewBits o.sew
  { shape := fun _ => ⟨[single o.d], [], none, .any, false, []⟩
    whole := false
    run := fun q _ s => if q.vl = 0 || q.start ≠ 0 then s else s.ep (fun e => e.setElem o.d.val w 0 (q.scalar w)) }

end Sys2Proof.Machine
end

