-- ==== Sys2Proof/Machine/GeomOps.lean ====
section
/-! DEFINITION. The exact geometric predicates and their stages (R186 to R200). -/

namespace Sys2Proof.Machine

/-- A dyadic number m × 2^e. -/
structure Dy where
  m : Int
  e : Int
  deriving DecidableEq, Repr

def Dy.add (a b : Dy) : Dy :=
  let lo := min a.e b.e
  ⟨a.m * 2 ^ (a.e - lo).toNat + b.m * 2 ^ (b.e - lo).toNat, lo⟩

def Dy.neg (a : Dy) : Dy := ⟨-a.m, a.e⟩
def Dy.mul (a b : Dy) : Dy := ⟨a.m * b.m, a.e + b.e⟩
def Dy.abs (a : Dy) : Dy := ⟨a.m.natAbs, a.e⟩

/-- a < b. -/
def Dy.lt (a b : Dy) : Bool := (b.add a.neg).m > 0

/-- The sign. -/
def Dy.sign (a : Dy) : Int := if a.m = 0 then 0 else if a.m < 0 then -1 else 1

/-- The result of an operation rounded once to `prec` bits under RNE; none where it overflows or underflows in the sense of R191. -/
def Dy.round (prec : Nat) (a : Dy) : Option Dy :=
  if a.m = 0 then some ⟨0, 0⟩
  else
    let mag := a.m.natAbs
    let top := (bitLen mag : Int) + a.e
    if top ≤ -1022 then none
    else
      let sh := bitLen mag - prec
      let r := (roundShift 0 0 false mag sh false).1
      if 1024 < (bitLen r : Int) + a.e + sh then none else some ⟨sInt (a.m < 0) r, a.e + sh⟩

/-- An expression over the coordinates of the points moved to the origin. -/
inductive GExp where
  | x (p j : Nat)
  | neg (a : GExp)
  | add (a b : GExp)
  | sub (a b : GExp)
  | mul (a b : GExp)
  deriving DecidableEq, Repr

/-- The value of an expression under given operations. -/
def GExp.eval {α : Type} (leaf : Nat → Nat → α) (add sub mul : α → α → α) (neg : α → α) : GExp → α
  | .x p j => leaf p j
  | .neg a => neg (a.eval leaf add sub mul neg)
  | .add a b => add (a.eval leaf add sub mul neg) (b.eval leaf add sub mul neg)
  | .sub a b => sub (a.eval leaf add sub mul neg) (b.eval leaf add sub mul neg)
  | .mul a b => mul (a.eval leaf add sub mul neg) (b.eval leaf add sub mul neg)

/-- O2(u, v) (R189). -/
def gO2 (u v : Nat) : GExp := .sub (.mul (.x u 0) (.x v 1)) (.mul (.x u 1) (.x v 0))

/-- L(u) in two and three dimensions. -/
def gL2 (u : Nat) : GExp := .add (.mul (.x u 0) (.x u 0)) (.mul (.x u 1) (.x u 1))
def gL3 (u : Nat) : GExp := .add (gL2 u) (.mul (.x u 2) (.x u 2))

/-- O3(u, v, w), expanded along its first column (R191). -/
def gO3 (u v w : Nat) : GExp :=
  let minor := fun (a b : Nat) => GExp.sub (.mul (.x a 1) (.x b 2)) (.mul (.x a 2) (.x b 1))
  .add (.sub (.mul (.x u 0) (minor v w)) (.mul (.x v 0) (minor u w))) (.mul (.x w 0) (minor u v))

/-- A predicate: its expression, points, dimension, and the constants of its filters: c0 = (a + bε)ε and c1 = k × 2^-104. -/
structure GPred where
  exp : GExp
  points : Nat
  dim : Nat
  c0a : Nat
  c0b : Nat
  c1 : Nat
  deriving DecidableEq, Repr

def gori2P : GPred := ⟨gO2 0 1, 3, 2, 3, 16, 4⟩
def gincP : GPred :=
  ⟨.add (.sub (.mul (gL2 0) (gO2 1 2)) (.mul (gL2 1) (gO2 0 2))) (.mul (gL2 2) (gO2 0 1)), 4, 2, 10, 96, 12⟩
def gori3P : GPred := ⟨gO3 0 1 2, 4, 3, 7, 56, 8⟩
def ginsP : GPred :=
  ⟨.add (.sub (.add (.neg (.mul (gL3 0) (gO3 1 2 3))) (.mul (gL3 1) (gO3 0 2 3))) (.mul (gL3 2) (gO3 0 1 3))) (.mul (gL3 3) (gO3 0 1 2)),
    5, 3, 16, 224, 20⟩

/-- An operation on values that may already have failed. -/
def opt2 (f : Dy → Dy → Option Dy) (a b : Option Dy) : Option Dy :=
  match a, b with
  | some x, some y => f x y
  | _, _ => none

/-- D and the permanent P by a filter of `prec` bits (R191, R192), from the points in the predicate's order. -/
def GPred.filter (g : GPred) (prec : Nat) (pts : Nat → Nat → Dy) : Option Dy × Option Dy :=
  let diff := fun (p j : Nat) => ((pts p j).add (pts (g.points - 1) j).neg).round prec
  let add := opt2 (fun a b => (a.add b).round prec)
  let sub := opt2 (fun a b => (a.add b.neg).round prec)
  let mul := opt2 (fun a b => (a.mul b).round prec)
  let neg := fun (a : Option Dy) => a.map Dy.neg
  let d := g.exp.eval diff add sub mul neg
  let p := g.exp.eval (fun p j => (diff p j).map Dy.abs) add add mul (fun a => a)
  (d, p)

/-- The lowest stage that decides (R191 to R194). -/
def GPred.stage (g : GPred) (pts : Nat → Nat → Dy) : Nat :=
  let decides := fun (r : Option Dy × Option Dy) (c : Dy) (prec : Nat) =>
    match r with
    | (some d, some p) =>
      match (c.mul p).round prec with
      | some t => t.lt d.abs
      | none => false
    | _ => false
  let r0 := g.filter 53 pts
  let zeroP := match r0 with
    | (some _, some p) => p.m == 0
    | _ => false
  if zeroP || decides r0 ⟨(g.c0a * 2 ^ 53 + g.c0b : Nat), -106⟩ 53 then 0
  else if decides (g.filter 106 pts) ⟨(g.c1 : Nat), -104⟩ 106 then 1
  else 2

/-- The exact D (R193). -/
def GPred.exact (g : GPred) (pts : Nat → Nat → Dy) : Dy :=
  g.exp.eval (fun p j => (pts p j).add (pts (g.points - 1) j).neg) Dy.add (fun a b => a.add b.neg) Dy.mul Dy.neg

/-! ### Tie-break by index (R197) -/

/-- A polynomial in the infinitesimal: exponents rising, no zero coefficient. -/
abbrev EPoly := List (Nat × Dy)

/-- A term added to a polynomial. -/
def EPoly.addTerm (k : Nat) (c : Dy) : EPoly → EPoly
  | [] => if c.m = 0 then [] else [(k, c)]
  | (l, d) :: r =>
    if k < l then (if c.m = 0 then (l, d) :: r else (k, c) :: (l, d) :: r)
    else if k = l then (let v := c.add d; if v.m = 0 then r else (k, v) :: r)
    else (l, d) :: EPoly.addTerm k c r

def EPoly.add (a b : EPoly) : EPoly := b.foldl (fun p t => EPoly.addTerm t.1 t.2 p) a
def EPoly.neg (a : EPoly) : EPoly := a.map (fun t => (t.1, t.2.neg))
def EPoly.mul (a b : EPoly) : EPoly :=
  a.foldl (fun p t => b.foldl (fun p u => EPoly.addTerm (t.1 + u.1) (t.2.mul u.2) p) p) []

/-- The rank of point `p` among `m` points by id, then by operand position. -/
def rankOf (ids : Nat → Nat) (m p : Nat) : Nat :=
  ((List.range m).filter (fun q => ids q < ids p || (ids q == ids p && q < p))).length

/-- The sign of D's nonzero term of lowest order; `rank` gives the rank of the predicate's points among the `m` points of the element. -/
def GPred.tie (g : GPred) (m : Nat) (rank : Nat → Nat) (pts : Nat → Nat → Dy) : Int :=
  let moved := fun (p j : Nat) => EPoly.addTerm (2 ^ (g.dim * (m - 1 - rank p) + j)) ⟨1, 0⟩ (EPoly.addTerm 0 (pts p j) [])
  let d := g.exp.eval (fun p j => (moved p j).add (moved (g.points - 1) j).neg) EPoly.add (fun a b => a.add b.neg) EPoly.mul EPoly.neg
  match d with
  | [] => 0
  | t :: _ => t.2.sign

/-- An orientation or sphere test resolved: sign, exact zero, stage. -/
def GPred.resolve (g : GPred) (tb : Bool) (m : Nat) (rank : Nat → Nat) (pts : Nat → Nat → Dy) : Int × Bool × Nat :=
  let s := (g.exact pts).sign
  (if s = 0 && tb then g.tie m rank pts else s, s == 0, g.stage pts)

/-! ### Segments (R190) -/

/-- x lies in the closed box spanned by u and v. -/
def onSegment (pts : Nat → Nat → Dy) (x u v : Nat) : Bool :=
  (List.range 2).all (fun j =>
    let a := pts u j
    let b := pts v j
    let lo := if b.lt a then b else a
    let hi := if b.lt a then a else b
    !(pts x j).lt lo && !hi.lt (pts x j))

/-- GSEG of the points p, q, r, s (0 to 3): result, a zero among its orientations, the highest stage. -/
def gseg (tb : Bool) (rank : Nat → Nat) (pts : Nat → Nat → Dy) : Int × Bool × Nat :=
  let ori := fun (a b c : Nat) =>
    let sel := fun (k : Nat) => [a, b, c].getD k 0
    gori2P.resolve tb 4 (fun k => rank (sel k)) (fun k j => pts (sel k) j)
  let o1 := ori 0 1 2
  let o2 := ori 0 1 3
  let o3 := ori 2 3 0
  let o4 := ori 2 3 1
  let zero := o1.2.1 || o2.2.1 || o3.2.1 || o4.2.1
  let stage := max (max o1.2.2 o2.2.2) (max o3.2.2 o4.2.2)
  let r : Int :=
    if o1.1 * o2.1 < 0 && o3.1 * o4.1 < 0 then 1
    else if o1.1 = 0 && o2.1 = 0 && o3.1 = 0 && o4.1 = 0 then
      -- all four points lie on one line: along an axis on which they differ, the common part of the two intervals
      let j := if (List.range 3).any (fun k => ((pts (k + 1) 0).add (pts 0 0).neg).m != 0) then 0 else 1
      let mn := fun (a b : Dy) => if b.lt a then b else a
      let mx := fun (a b : Dy) => if b.lt a then a else b
      let lo := mx (mn (pts 0 j) (pts 1 j)) (mn (pts 2 j) (pts 3 j))
      let hi := mn (mx (pts 0 j) (pts 1 j)) (mx (pts 2 j) (pts 3 j))
      if hi.lt lo then 0 else if lo.lt hi then 3 else 2
    else if (o1.1 = 0 && onSegment pts 2 0 1) || (o2.1 = 0 && onSegment pts 3 0 1)
        || (o3.1 = 0 && onSegment pts 0 2 3) || (o4.1 = 0 && onSegment pts 1 2 3) then 2
    else 0
  (r, zero, stage)

/-! ### The words -/

/-- A G word: points, dimension, and the resolving of an element. -/
structure GKind where
  points : Nat
  dim : Nat
  resolve : Bool → (Nat → Nat) → (Nat → Nat → Dy) → Int × Bool × Nat

def GPred.kind (g : GPred) : GKind := ⟨g.points, g.dim, fun tb rank pts => g.resolve tb g.points rank pts⟩
def gori2K : GKind := gori2P.kind
def gincK : GKind := gincP.kind
def gori3K : GKind := gori3P.kind
def ginsK : GKind := ginsP.kind
def gsegK : GKind := ⟨4, 2, gseg⟩

/-- The point format (R43). -/
def OpG.fmt (o : OpG) : Fmt := if o.pf.val = 0 then fp32 else fp64

/-- Coordinate j of point p of element i. -/
def coord (k : GKind) (o : OpG) (e : Exec) (i p j : Nat) : FVal :=
  (OpG.fmt o).decode 2 (e.elem (o.vp.val + p * k.dim + j) (OpG.fmt o).width i)

/-- The element has a NaN or an infinity among its coordinates (R198). -/
def nonFinite (k : GKind) (o : OpG) (e : Exec) (i : Nat) : Bool :=
  (List.range k.points).any (fun p => (List.range k.dim).any (fun j =>
    match coord k o e i p j with
    | .fin _ _ _ => false
    | _ => true))

/-- The result width, VTYPE.SEW (R187). -/
def Exec.sewW (e : Exec) : Nat := 8 * 2 ^ e.sew.val

/-- A stage counter advances, saturating (R200). -/
def Exec.countStage (e : Exec) (stage : Nat) : Exec :=
  let n := wbits e.gstat (21 * stage) 21
  { e with gstat := setBits e.gstat (21 * stage) 21 (min (n + 1) (2 ^ 21 - 1)) }

/-- A finite element resolved: its sign, an exact zero, and the stage that decides it (R191 to R194, R197). -/
def geomResolved (k : GKind) (o : OpG) (e : Exec) (i : Nat) : Int × Bool × Nat :=
  let pts := fun (p j : Nat) =>
    match coord k o e i p j with
    | .fin n m x => (⟨sInt n m, x⟩ : Dy)
    | _ => ⟨0, 0⟩
  let ids := fun (p : Nat) => e.elem (o.vs.val + p) (OpG.fmt o).width i
  k.resolve (o.tb.val == 1) (rankOf ids k.points) pts

/-- The result and the m0 bit of one element of a G word; a non-finite one is delivered as in flag mode (R189, R198, R199), an inactive one as IZ
says (R154). -/
def geomWrite (k : GKind) (o : OpG) (q : QEntry) (s : State) (i : Nat) : State :=
  let e := s.hart.ep
  let w := e.sewW
  let write := fun (v : Int) (z : Bool) => s.ep (fun e => (e.put q o.d.val w i (pat w v)).setMask 0 (putBit (e.mask 0) i z))
  if q.active e o.pm.val i then
    (if nonFinite k o e i then write (-(2 ^ (w - 1) : Nat)) false
     else let r := geomResolved k o e i; write r.1 r.2.1)
  else if q.iz then s.ep (fun e => (e.put q o.d.val w i 0).setMask 0 (putBit (e.mask 0) i false))
  else s

/-- The group index passes an element, and the counter of the stage that resolved it advances (R200), with the lifetime histogram. -/
def geomCount (k : GKind) (o : OpG) (q : QEntry) (s : State) (i : Nat) : State :=
  let e := s.hart.ep
  if q.active e o.pm.val i && !nonFinite k o e i then
    let r := geomResolved k o e i
    (s.ep (fun e => e.countStage r.2.2)).count s.hart.die (0x1100 + r.2.2) 1
  else s

/-- One element of a G word, as the group index passes it: an element that has finished before is only counted (R195, R200). It is counted by the
mask that the word reads, before its bit of m0 is written (R157). -/
def geomElement (k : GKind) (o : OpG) (q : QEntry) (s : State) (i : Nat) : State :=
  let s := geomCount k o q s i
  if q.done.contains i then s else geomWrite k o q s i

/-- A G word (R186 to R200); `run` passes the group index over its elements, those that have finished before it (R195) among
them. DEDUCED (log 70): at VL = 0 it writes no tail, as R155 says of a V word. -/
def geomOp (k : GKind) (o : OpG) : VOp where
  shape e :=
    { dsts := [single o.d]
      srcs := [⟨o.vp.val, k.points * k.dim, true, 0⟩] ++ (if o.tb.val = 1 then [⟨o.vs.val, k.points, true, 0⟩] else [])
      vlMax := some (min (e.mvl (OpG.fmt o).width) (e.mvl e.sewW))
      overlap := .none
      bad := false
      masks := [0] }
  whole := false
  run q hi s :=
    if q.vl = 0 then s
    else
      let s := (range q.start (min hi q.limit - q.start)).foldl (geomElement k o q) s
      if q.vl ≤ hi && q.vl ≤ q.limit && q.tz then
        s.ep (fun e => (e.tail q o.d.val e.sewW 1).setMask 0 (BitVec.ofNat 131072 ((e.mask 0).toNat % 2 ^ q.vl)))
      else s

def opGori2 (o : OpG) : VOp := geomOp gori2K o
def opGinc (o : OpG) : VOp := geomOp gincK o
def opGseg (o : OpG) : VOp := geomOp gsegK o
def opGori3 (o : OpG) : VOp := geomOp gori3K o
def opGins (o : OpG) : VOp := geomOp ginsK o

/-- The kind and the operands of a G word that resolves elements. -/
def geomOf (i : Instr) : Option (GKind × OpG) :=
  match i with
  | .gori2 o => some (gori2K, o)
  | .ginc o => some (gincK, o)
  | .gseg o => some (gsegK, o)
  | .gori3 o => some (gori3K, o)
  | .gins o => some (ginsK, o)
  | _ => none

/-- Element `j` of a G word finishes while the group index waits below it (R195): it is above the index, still to be performed, and, in trap mode,
not one at which the word stops (R198). -/
def State.geomAhead (s : State) (k : GKind) (o : OpG) (q : QEntry) (j : Nat) : Option (State × QEntry) :=
  if q.start < j && (q.todo q.vl).contains j && (o.nf.val == 1 || !nonFinite k o s.hart.ep j || !q.active s.hart.ep o.pm.val j) then
    some (geomWrite k o q s j, { q with done := j :: q.done })
  else none

/-- Element `j` stops a trap-mode G word: it is active and not finite, and is not the element at which the word was resumed (R198, R199). -/
def State.geomStops (s : State) (k : GKind) (o : OpG) (q : QEntry) (j : Nat) : Bool :=
  q.active s.hart.ep o.pm.val j && nonFinite k o s.hart.ep j && !(s.hart.sc.vstartArmed && j == s.hart.sc.vstart.toNat)

/-- The lowest element at or above its start at which a trap-mode G word stops. -/
def State.geomStop (s : State) (k : GKind) (o : OpG) (q : QEntry) : Option Nat :=
  (range q.start (q.vl - q.start)).find? (s.geomStops k o q)

end Sys2Proof.Machine
end

