-- ==== Sys2Proof/Machine/Stream.lean ====
section
/-! DEFINITION. Vector accesses to memory, the tensor table, and the deliveries of stream bindings (R74, R80 to R86, R229, R238 to R245). -/

namespace Sys2Proof.Machine

/-! ### Element accesses -/

/-- What a word keeps of an element's translation is named by its page and its slice, since each slice translates for itself (R342). -/
def pageKey (va : Nat) : Nat := va / 65536 * 65536 + va / 256 % 16 * 256

/-- Where an address stands, for a word whose pages are translated (R229). -/
def resolve (pages : List PageRef) (core va : Nat) : Nat × Nat :=
  if inWindow va then (padAddr core (va - windowBase), 0)
  else match pages.find? (fun p => p.va == pageKey va) with
    | some p => (p.pa + va % 65536, p.pte)
    | none => (va, 0)

/-- `n` bytes within a line read by the execute processor: the bank, the home for pages of class D, else the core's VDC (R204, R208, R229). -/
def State.vread (s : State) (va pa pte n : Nat) : State × Nat :=
  if uncached pa pte then (s, leValue (s.homeBytes pa n))
  else
    let s := s.fillVdc s.hart.coreId (pa / 64) va s.hart.asid (Pte.kind pte == 1)
    let d := ((s.vdc.find? (fun l => l.core == s.hart.coreId && l.line == pa / 64)).map (·.data)).getD 0
    (s.seeVdc s.hart.coreId (pa / 64) s.hart.slot false (byteMask (pa % 64) n), getBytes d (pa % 64) n)

/-- `n` bytes within a line written by the execute processor (R209, R216). -/
def State.vwrite (s : State) (va pa pte n v : Nat) : State :=
  if isPad pa then s.homeStoreNat pa n v
  else if Pte.cls pte then s.mergeBytes pa (leBytes n v) s.hart.loc
  else
    let core := s.hart.coreId
    let swm := Pte.kind pte == 1
    let s := (s.fillVdc core (pa / 64) va s.hart.asid swm).noteNewer (pa / 64)
    let s := s.writeVdc core (pa / 64) s.hart.slot false (setBytes (0 : BitVec 512) (pa % 64) n v) (byteMask (pa % 64) n)
    if swm then s.collect core s.hart.asid va else s

/-- What checking an address gives. -/
inductive Chk where
  | ok (s : State) (pages : List PageRef)
  | trap (t : Trap)
  | wait (s : State)

/-- The checks on one element's address: range, alignment, translation by its slice (R229, R327, R342). A page that a slice has checked for the
word stays checked. -/
def State.checkAddr (s : State) (pages : List PageRef) (va n : Nat) (k : Kind) (code : Nat) : Chk :=
  if va < 2 ^ 52 && va % n == 0 && !inWindow va && pages.any (fun p => p.va == pageKey va) then .ok s pages
  else match s.locateSlice va n k code with
    | .trap t => .trap t
    | .wait s => .wait s
    | .ok s pa pte => .ok s (if isPad pa then pages else ⟨pageKey va, pa - va % 65536, pte⟩ :: pages)

/-- What checking a word's elements gives: a failing element leaves the elements below it checked. -/
inductive Checks where
  | ok (s : State) (pages : List PageRef)
  | fail (s : State) (pages : List PageRef) (i : Nat) (t : Trap)
  | wait (s : State)

/-- The elements of a list checked in order. -/
def State.checkAll (addr : Nat → Nat) (n : Nat) (k : Kind) (code : Nat) : List Nat → State → List PageRef → Checks
  | [], s, pages => .ok s pages
  | i :: is, s, pages =>
    match s.checkAddr pages (addr i) n k code with
    | .trap t => .fail s pages i t
    | .wait s => .wait s
    | .ok s pages => State.checkAll addr n k code is s pages

/-! ### The tensor table (R238 to R241) -/

/-- The fields of an entry. -/
def tBase (e : List Byte) : Nat := fieldAt e 0 8
def tScale (e : List Byte) : Nat := fieldAt e 8 8
def tDim (e : List Byte) (j : Nat) : Nat := fieldAt e (16 + 4 * j) 4
def tFmt (e : List Byte) : Nat := fieldAt e 28 1
def tNan (e : List Byte) : Nat := fieldAt e 29 1
def tStride (e : List Byte) (j : Nat) : Int := signed 64 (fieldAt e (32 + 8 * j) 8)

/-- A block format (R74, R240). -/
def isBlock (fmt : Nat) : Bool := 6 ≤ fmt && fmt ≤ 11

/-- The entry breaks R241. DEDUCED (log 12): FMT codes above 15 are no format either. -/
def tensorBad (e : List Byte) : Bool :=
  let fmt := tFmt e
  14 < fmt || tNan e == 3 || 3 < tNan e || fieldAt e 30 2 != 0 || fieldAt e 56 8 != 0
    || tDim e 0 == 0 || tDim e 1 == 0 || tDim e 2 == 0
    || (fmt == 11 && tScale e == 0) || (!isBlock fmt && tScale e != 0) || tScale e % 4 != 0
    || (isBlock fmt && (tStride e 0 != 0 || tStride e 1 != 0 || tStride e 2 != 0))
    || (fmt == 13 && (tStride e 0 % 2 != 0 || tStride e 1 % 2 != 0 || tStride e 2 % 2 != 0))

/-- What reading a tensor table entry gives. -/
inductive TEntry where
  | ok (s : State) (e : List Byte)
  | trap (s : State) (t : Trap)
  | wait

/-- The entry of an index, read as an ordinary load of 64 bytes, and judged (R241). DEDUCED (log 36): ACCESS of a tensor-entry fault is that of a
descriptor read. -/
def State.tensorEntry (s : State) (index : Nat) : TEntry :=
  let c := s.ctx
  let fault := { cause := 0x16, tval := index, access := accessByte .read 3 false }
  if c.tenscnt ≤ index then .trap s fault
  else match s.loadDesc ((wbits c.tenstab 6 46 * 64 + 64 * index) % 2 ^ 64) with
    | .trap t => .trap s t
    | .wait _ => .wait
    | .ok s e => if tensorBad e then .trap s fault else .ok s e

/-! ### Formats in memory -/

/-- The element format of a block format, elements per block and bytes per block (R82, R84). -/
def blockFmt (fmt : Nat) : Fmt × Nat × Nat :=
  match fmt with
  | 6 => (e4m3, 32, 33)
  | 7 => (e5m2, 32, 33)
  | 8 => (e3m2, 32, 25)
  | 9 => (e2m3, 32, 25)
  | 10 => (e2m1, 32, 17)
  | _ => (e2m1, 64, 33)

/-- Bits of an element of a format without blocks (R74, R86). -/
def plainBits (fmt : Nat) : Nat :=
  match fmt with
  | 0 => 64
  | 1 | 14 => 32
  | 2 | 3 => 16
  | 13 => 4
  | _ => 8

/-- The magnitudes of QN4 in units of 1/256 (R83). -/
def qn4Mag (idx : Nat) : Nat := [0, 22, 46, 73, 104, 141, 189, 256].getD idx 0

/-- A QN4 code as MMA reads it (R83, R176). -/
def qn4Val (mode code : Nat) : FVal :=
  let neg := nbit code 3
  let idx := code % 8
  if idx = 0 && neg && mode ≠ 0 then .nan false
  else if idx = 7 && mode = 2 then .inf neg
  else .fin neg (qn4Mag idx) (-8)

/-- DecodeQN4 (R85): FP32 code and flags. -/
def qn4Decode (mode code sc sup : Nat) : Nat × Nat :=
  if sc = 0 then (0, 0)
  else
    let neg := nbit code 3
    let idx := code % 8
    if idx = 0 && neg && mode ≠ 0 then (fp32.nanCode, 0)
    else if idx = 7 && mode = 2 then fp32.deliver 2 0 0 (mulReal (.inf neg) (f32 sup))
    else fp32.deliver 2 0 0 (mulReal (.fin neg (qn4Mag idx * sc) (-16)) (f32 sup))

/-- An E8M0 scale (R81); the zero block of finite-only mode is the caller's. DEDUCED (log 61): also for a column scale. -/
def e8m0 (sc : Nat) : FVal := if sc = 255 then .nan false else .fin false 1 ((sc : Int) - 127)

/-- An element of an MX block times its scale and super-scale, rounded once under RNE (R82, R242). -/
def mxDecode (f : Fmt) (mode code sc sup : Nat) : Nat × Nat :=
  if sc = 255 && mode = 0 then (0, 0)
  else match mulVal (f.decode mode code) (e8m0 sc) with
    | none => (fp32.nanCode, flagNV)
    | some x => fp32.deliver 2 0 0 (mulReal x (f32 sup))

/-- The column scale of view CSC (R242): QN4 or MXFP4. -/
def columnScale (fmt mode sc sup : Nat) : Nat × Nat :=
  if fmt = 11 then (if sc = 0 then (0, 0) else fp32.deliver 2 0 0 (mulReal (.fin false sc (-8)) (f32 sup)))
  else if sc = 255 && mode = 0 then (0, 0)
  else fp32.deliver 2 0 0 (mulReal (e8m0 sc) (f32 sup))

/-! ### Strips (R242) -/

/-- One element of a strip: its register, its index at a width, the bytes it needs, and its value and flags from them. -/
structure StripItem where
  reg : Nat
  index : Nat
  width : Nat
  reads : List (Nat × Nat)
  value : List Nat → Nat × Nat

/-- The reads of an element of a block: the bytes of its code, its scale, and its super-scale where there is one. -/
def blockReads (e : List Byte) (p : Nat) : List (Nat × Nat) :=
  let f := blockFmt (tFmt e)
  let w := f.1.width
  let block := tBase e + p / f.2.1 * f.2.2
  let lo := w * (p % f.2.1)
  (range (lo / 8) ((lo + w - 1) / 8 - lo / 8 + 1)).map (fun k => (block + k, 1)) ++ [(block + f.2.2 - 1, 1)]
    ++ (if tScale e = 0 then [] else [(tScale e + 4 * (p / 16384), 4)])

/-- Code, scale and super-scale from those reads; S is 1.0 where there is none. -/
def blockParts (e : List Byte) (p : Nat) (vs : List Nat) : Nat × Nat × Nat :=
  let f := blockFmt (tFmt e)
  let w := f.1.width
  let lo := w * (p % f.2.1)
  let n := (lo + w - 1) / 8 - lo / 8 + 1
  let raw := (vs.take n).zipIdx.foldl (fun a x => a + x.1 * 256 ^ x.2) 0
  (raw / 2 ^ (lo % 8) % 2 ^ w, vs.getD n 0, if tScale e = 0 then 0x3F800000 else vs.getD (n + 1) 0)

/-- The address of element p of a tensor without blocks, in elements (R240). -/
def plainIndex (e : List Byte) (p : Nat) : Int :=
  let d0 := tDim e 0
  let d1 := tDim e 1
  ((p % d0 : Nat) : Int) * tStride e 0 + ((p / d0 % d1 : Nat) : Int) * tStride e 1 + ((p / (d0 * d1) : Nat) : Int) * tStride e 2

/-- Address arithmetic modulo 2^64. -/
def addrOf (base : Nat) (off : Int) : Nat := (((base : Int) + off) % (2 ^ 64 : Nat)).toNat

/-- Element j of a LIN strip. -/
def linItem (b : Binding) (j : Nat) : StripItem :=
  let e := b.entry
  let w := 8 * 2 ^ b.ew
  let p := b.pos + j
  let fmt := tFmt e
  if tDim e 0 * tDim e 1 * tDim e 2 ≤ p then ⟨b.reg, j, w, [], fun _ => (0, 0)⟩
  else if isBlock fmt then
    ⟨b.reg, j, w, blockReads e p, fun vs =>
      let x := blockParts e p vs
      if fmt = 11 then qn4Decode (tNan e) x.1 x.2.1 x.2.2 else mxDecode (blockFmt fmt).1 (tNan e) x.1 x.2.1 x.2.2⟩
  else
    let q := plainIndex e p
    if fmt = 13 then
      ⟨b.reg, j, w, [(addrOf (tBase e) (q.fdiv 2), 1)], fun vs => ((sext 4 (vs.headD 0 / 16 ^ (q.fmod 2).toNat % 16)).toNat % 256, 0)⟩
    else
      let n := plainBits fmt / 8
      ⟨b.reg, j, w, [(addrOf (tBase e) (q * (n : Int)), n)], fun vs => (vs.headD 0, 0)⟩

/-- K-row k of column j of a BOP strip: a code packed at 4 bits. -/
def bopItem (b : Binding) (j k : Nat) : StripItem :=
  let e := b.entry
  let c := b.pos + j
  let p := 8 * (b.g * tDim e 0 + c) + k
  if tDim e 0 ≤ c || tDim e 0 * tDim e 1 * tDim e 2 ≤ p then ⟨b.reg + k, j, 4, [], fun _ => (0, 0)⟩
  else ⟨b.reg + k, j, 4, (blockReads e p).take 1, fun vs => ((blockParts e p vs).1, 0)⟩

/-- Column j of a CSC strip. -/
def cscItem (b : Binding) (j : Nat) : StripItem :=
  let e := b.entry
  let c := b.pos + j
  let p := 8 * (b.g * tDim e 0 + c)
  if tDim e 0 ≤ c || tDim e 0 * tDim e 1 * tDim e 2 ≤ p then ⟨b.reg, j, 32, [], fun _ => (0, 0)⟩
  else
    ⟨b.reg, j, 32, (blockReads e p).drop 1, fun vs => columnScale (tFmt e) (tNan e) (vs.headD 0) (if tScale e = 0 then 0x3F800000 else vs.getD 1 0)⟩

/-- The strip at the binding's position, for a reader's VL. -/
def strip (b : Binding) (vl : Nat) : List StripItem :=
  match b.view with
  | 0 => (List.range vl).map (linItem b)
  | 1 => (List.range vl).flatMap (fun j => (List.range 8).map (bopItem b j))
  | _ => (List.range vl).map (cscItem b)

/-- No reader is owed the strip that stands in the group. -/
def Binding.taken (b : Binding) : Binding := { b with given := none }

/-- The position after a delivery (R243), in the 64 bits that R362 keeps of it. -/
def Binding.advance (b : Binding) (vl : Nat) : Binding :=
  if b.view = 0 then { b.taken with pos := (b.pos + vl) % 2 ^ 64 }
  else if tDim b.entry 1 ≤ 8 * (b.g + 1) then { b.taken with g := 0, pos := (b.pos + vl) % 2 ^ 64 }
  else { b.taken with g := b.g + 1 }

/-- A delivery performed (R243): its strip is written, and the rest of the group follows TZ; flags of the decode accrue. DEDUCED (log 69): that
holds also at VL = 0, where the reader itself writes no tail (R155). -/
def runDelivery (b : Binding) (q : QEntry) (s : State) : State :=
  let core := s.hart.coreId
  let read := fun (a : State × List Nat) (r : Nat × Nat) =>
    let x := resolve q.pages core (r.1 % 2 ^ 64)
    let v := a.1.vread (r.1 % 2 ^ 64) x.1 x.2 r.2
    (v.1, a.2 ++ [v.2])
  let one := fun (s : State) (it : StripItem) =>
    let r := it.reads.foldl read (s, [])
    let v := it.value r.2
    r.1.ep (fun e => (e.setElem it.reg it.width it.index v.1).accrue v.2)
  let s := (strip b q.vl).foldl one s
  if !q.tz then s
  else if b.view = 1 then s.ep (fun e => (List.range 8).foldl (fun e k => e.zeroFrom (b.reg + k) 4 1 q.vl) e)
  else s.ep (fun e => e.zeroFrom b.reg (8 * 2 ^ b.ew) b.n q.vl)

/-- The reads of a delivery, checked in order; they are bytes or aligned elements (R243), and those that pass have marked their pages (R344). DEDUCED (log 36): ACCESS of one that fails. -/
def State.checkReads (s : State) (pages : List PageRef) (code : Nat) : List (Nat × Nat) → Checks
  | [] => .ok s pages
  | r :: rs =>
    match s.checkAddr pages (r.1 % 2 ^ 64) r.2 .read code with
    | .trap t => .fail s pages 0 { t with access := t.access + 16 }
    | .wait s => .wait s
    | .ok s pages => State.checkReads s pages code rs

/-- What issuing the deliveries of a reader gives: their entries, and the bindings with the entries that they read; or a trap, with the marks of
the pages that were read before it (R344). -/
inductive Deliv where
  | ok (s : State) (qs : List QEntry) (bs : List Binding)
  | trap (s : State) (t : Trap)
  | illegal (s : State)
  | wait (s : State)

/-- The binding with its entry, read again where it is not at hand. -/
def State.bindingEntry (s : State) (b : Binding) : TEntry :=
  if b.entry.isEmpty then s.tensorEntry b.tensor else .ok s b.entry

/-- A reader of the groups `srcs` reads the binding. -/
def Binding.readBy (b : Binding) (srcs : List Grp) : Bool := srcs.any (fun g => g.meets b.grp)

/-- A BOP binding whose entry is at hand has another NaN mode than VCFG (R244). -/
def Binding.nanBad (b : Binding) (e : Exec) : Bool := b.view == 1 && !b.entry.isEmpty && bits e.vcfg.toNat 3 2 != tNan b.entry

/-- The entries of the bindings that a reader reads, at hand. -/
def State.fillBindings (s : State) (srcs : List Grp) : List Binding → Deliv
  | [] => .ok s [] []
  | b :: rest =>
    match (if b.readBy srcs then s.bindingEntry b else .ok s b.entry) with
    | .trap s t => .trap s t
    | .wait => .wait s
    | .ok s entry =>
      match State.fillBindings s srcs rest with
      | .ok s qs bs => .ok s qs ({ b with entry := entry } :: bs)
      | r => r

/-- The deliveries of a reader of the groups `srcs` (R243): one for each binding that it reads, but for one whose strip a halt found delivered to
this reader (R245). -/
def State.deliveries (s : State) (srcs : List Grp) : List Binding → Deliv
  | [] => .ok s [] []
  | b :: rest =>
    if !b.readBy srcs || b.given == some s.hart.sc.pc then
      match State.deliveries s srcs rest with
      | .ok s qs bs => .ok s qs (b :: bs)
      | r => r
    else
      let e := s.hart.ep
      match s.checkReads [] b.ew ((strip b e.vl).flatMap (·.reads)) with
      | .fail s _ _ t => .trap s t
      | .wait s => .wait s
      | .ok s pages =>
        match State.deliveries s srcs rest with
        | .ok s qs bs =>
          let q : QEntry :=
            { word := .delivery b, start := 0, vl := e.vl, limit := e.vl, lend := 0, vcfg := e.vcfg, rowBase := e.rowBase, rows := e.rows
              xs1 := 0, xs2 := 0, pages := pages }
          .ok s (q :: qs) (b :: bs)
        | r => r

/-- The deliveries that a reader is owed (R243): the NaN mode of every BOP binding it reads comes before any other check, as part of the word's
issue (R26, R244). -/
def State.issueDeliveries (s : State) (srcs : List Grp) (bs : List Binding) : Deliv :=
  if bs.any (fun b => b.readBy srcs && b.nanBad s.hart.ep) then .illegal s
  else match s.fillBindings srcs bs with
    | .ok s _ bs => if bs.any (fun b => b.readBy srcs && b.nanBad s.hart.ep) then .illegal s else s.deliveries srcs bs
    | r => r

/-- The bindings after a reader's deliveries: their positions advanced (R243). -/
def advanceAll (srcs : List Grp) (vl : Nat) (bs : List Binding) : List Binding :=
  bs.map (fun b => if b.readBy srcs then b.advance vl else b)

/-! ### Element loads and stores, performed (R230, R232, R234) -/

/-- The elements of a load that are still to be performed below `hi`; elements at or above its limit are not touched. -/
def runLoad (pm d w : Nat) (addr : QEntry → Exec → Nat → Nat) (q : QEntry) (hi : Nat) (s : State) : State :=
  if q.vl = 0 then s
  else
    let one := fun (s : State) (i : Nat) =>
      if q.active s.hart.ep pm i then
        let va := addr q s.hart.ep i
        let x := resolve q.pages s.hart.coreId va
        let r := s.vread va x.1 x.2 (w / 8)
        r.1.ep (fun e => e.put q d w i r.2)
      else if q.iz then s.ep (fun e => e.put q d w i 0)
      else s
    let s := (q.todo hi).foldl one s
    if q.vl ≤ hi then s.ep (fun e => e.tail q d w e.g) else s

/-- The elements of a store that are still to be performed below `hi`, in ascending order: the higher element's byte is left (R232). -/
def runStore (pm d w : Nat) (addr : QEntry → Exec → Nat → Nat) (q : QEntry) (hi : Nat) (s : State) : State :=
  let one := fun (s : State) (i : Nat) =>
    if q.active s.hart.ep pm i then
      let va := addr q s.hart.ep i
      let x := resolve q.pages s.hart.coreId va
      s.vwrite va x.1 x.2 (w / 8) (s.hart.ep.elem d w i)
    else s
  (q.todo hi).foldl one s

/-- The element addresses of the plain forms (R234), modulo 2^64. -/
def addrUnit (n : Nat) (q : QEntry) (_ : Exec) (i : Nat) : Nat := (q.xs1 + BitVec.ofNat 64 (i * n)).toNat
def addrStride (q : QEntry) (_ : Exec) (i : Nat) : Nat := (q.xs1 + BitVec.ofNat 64 i * q.xs2).toNat
def addrIndex (idx : Nat) (q : QEntry) (e : Exec) (i : Nat) : Nat := (q.xs1 + BitVec.ofNat 64 (e.elem idx (8 * 2 ^ e.sew.val) i)).toNat

/-- The index group, read at VTYPE.SEW (R234). -/
def Exec.indexGrp (e : Exec) (r : Reg) (w : Nat) : Grp := e.operand r (8 * 2 ^ e.sew.val) w

def opVld (o : OpV1) : VOp :=
  let w := sewBits o.sew
  { shape := fun e => ⟨[e.operand o.d w w], [], e.vlCap w, .same, false, []⟩
    whole := false
    run := runLoad o.pm.val o.d.val w (addrUnit (w / 8)) }

def opVlds (o : OpV) : VOp :=
  let w := sewBits o.sew
  { shape := fun e => ⟨[e.operand o.d w w], [], e.vlCap w, .same, false, []⟩
    whole := false
    run := runLoad o.pm.val o.d.val w addrStride }

def opVldx (o : OpV) : VOp :=
  let w := sewBits o.sew
  { shape := fun e => ⟨[e.operand o.d w w], [e.indexGrp o.s2 w], e.vlCap w, .none, false, []⟩
    whole := false
    run := runLoad o.pm.val o.d.val w (addrIndex o.s2.val) }

def opVst (o : OpV1) : VOp :=
  let w := sewBits o.sew
  { shape := fun e => ⟨[], [e.operand o.d w w], e.vlCap w, .any, false, []⟩
    whole := false
    run := runStore o.pm.val o.d.val w (addrUnit (w / 8)) }

def opVsts (o : OpV) : VOp :=
  let w := sewBits o.sew
  { shape := fun e => ⟨[], [e.operand o.d w w], e.vlCap w, .any, false, []⟩
    whole := false
    run := runStore o.pm.val o.d.val w addrStride }

def opVstx (o : OpV) : VOp :=
  let w := sewBits o.sew
  { shape := fun e => ⟨[], [e.operand o.d w w, e.indexGrp o.s2 w], e.vlCap w, .any, false, []⟩
    whole := false
    run := runStore o.pm.val o.d.val w (addrIndex o.s2.val) }

/-! ### Segments (R235, R236) -/

/-- Bytes of a segment and of its slot. -/
def OpVSeg.bytes (o : OpVSeg) : Nat :=
  match o.kind.val with
  | 0 => (o.nf.val + 1) * 2 ^ o.ew.val
  | 1 => match o.nf.val with
    | 0 => 33
    | 1 => 25
    | _ => 17
  | _ => 33

/-- The smallest power of two that holds a segment. -/
def OpVSeg.slot (o : OpVSeg) : Nat := 2 ^ log2Seg (OpVSeg.bytes o)
where
  /-- The least k with n ≤ 2^k. -/
  log2Seg (n : Nat) : Nat := if n ≤ 1 then 0 else Nat.log2 (n - 1) + 1

/-- Elements of a segment: register, index, width in bits, for byte offsets that rise with the list. Fields of a plain segment; bytes of a
block and its scale. -/
def OpVSeg.fields (o : OpVSeg) (e : Exec) (i : Nat) : List (Nat × Nat × Nat) :=
  if o.kind.val = 0 then (List.range (o.nf.val + 1)).map (fun f => (o.d.val + f * e.g, i, sewBits o.ew))
  else
    let b := OpVSeg.bytes o - 1
    (List.range b).map (fun k => (o.d.val, i * b + k, 8)) ++ [(o.d.val + e.g, i, 8)]

/-- The register groups of a segment word. -/
def OpVSeg.groups (o : OpVSeg) (e : Exec) : List Grp :=
  if o.kind.val = 0 then (List.range (o.nf.val + 1)).map (fun f => ⟨o.d.val + f * e.g, e.g, false, sewBits o.ew⟩)
  else [⟨o.d.val, e.g, false, 8⟩, ⟨o.d.val + e.g, 1, true, 0⟩]

/-- The greatest VL of a segment word. -/
def OpVSeg.vlMax (o : OpVSeg) (e : Exec) : Nat :=
  if o.kind.val = 0 then e.g * e.mvl (sewBits o.ew) else min (e.g * e.regBytes / (OpVSeg.bytes o - 1)) e.regBytes

/-- The address of segment i. -/
def addrSeg (o : OpVSeg) (q : QEntry) (_ : Exec) (i : Nat) : Nat := (q.xs1 + BitVec.ofNat 64 (i * OpVSeg.slot o)).toNat

def opVlseg (o : OpVSeg) : VOp where
  shape e := ⟨OpVSeg.groups o e, [], some (OpVSeg.vlMax o e), .same, false, []⟩
  whole := true
  run q _ s :=
    if q.vl = 0 then s
    else
      let put := fun (a : Exec × Nat) (f : Nat × Nat × Nat) => (a.1.setElem f.1 f.2.2 f.2.1 (a.2 % 2 ^ f.2.2), a.2 / 2 ^ f.2.2)
      let one := fun (s : State) (i : Nat) =>
        if q.active s.hart.ep o.pm.val i then
          let va := addrSeg o q s.hart.ep i
          let x := resolve q.pages s.hart.coreId va
          let r := s.vread va x.1 x.2 (OpVSeg.bytes o)
          r.1.ep (fun e => ((OpVSeg.fields o e i).foldl put (e, r.2)).1)
        else if q.iz && o.kind.val = 0 then s.ep (fun e => ((OpVSeg.fields o e i).foldl put (e, 0)).1)
        else s
      let s := (List.range q.limit).foldl one s
      if q.tz && o.kind.val = 0 then
        s.ep (fun e => (OpVSeg.groups o e).foldl (fun e g => e.zeroFrom g.reg (sewBits o.ew) g.size q.vl) e)
      else s

def opVsseg (o : OpVSeg) : VOp where
  shape e := ⟨[], OpVSeg.groups o e, some (OpVSeg.vlMax o e), .any, false, []⟩
  whole := false
  run q hi s :=
    let one := fun (s : State) (i : Nat) =>
      if q.active s.hart.ep o.pm.val i then
        let e := s.hart.ep
        let va := addrSeg o q e i
        let x := resolve q.pages s.hart.coreId va
        let v := (OpVSeg.fields o e i).foldr (fun f a => e.elem f.1 f.2.2 f.2.1 + a * 2 ^ f.2.2) 0
        s.vwrite va x.1 x.2 (OpVSeg.bytes o) v
      else s
    (q.todo hi).foldl one s

/-! ### Vector atomics (R237) -/

/-- An element put into a list that rises by address; equal addresses keep their order. -/
def insertByAddr (x : Nat × Nat) : List (Nat × Nat) → List (Nat × Nat)
  | [] => [x]
  | y :: ys => if x.2 < y.2 then x :: y :: ys else y :: insertByAddr x ys

/-- The operation of AMO and VAMO on `n` bytes (R118); 7 is no operation of either. -/
def amoOp (aop n old b : Nat) : Nat :=
  match aop with
  | 0 => b
  | 1 => (old + b) % 256 ^ n
  | 2 => old &&& b
  | 3 => old ||| b
  | 4 => old ^^^ b
  | 5 => if signed (8 * n) old ≤ signed (8 * n) b then old else b
  | _ => if signed (8 * n) old ≤ signed (8 * n) b then b else old

/-- The dirty bytes of a line held in any cache of the core go home (R237). -/
def State.coreHome (s : State) (line : Nat) : State :=
  let core := s.hart.coreId
  let s := (s.allHarts.filter (fun h => h.coreId == core)).foldl (fun s h => s.flushScalar h (fun l => l.line == line) false) s
  s.flushVdc (fun l => l.core == core && l.line == line) false

/-- One active element of a VAMO: old value at the home or the bank, and the new one (R237). -/
def State.vamoOne (s : State) (va pa pte n : Nat) (f : Nat → Nat) : State × Nat :=
  let s := if isPad pa then s else (s.coreHome (pa / 64)).noteNewer (pa / 64)
  let old := leValue (s.homeBytes pa n)
  let v := f old
  if isPad pa then (s.homeStoreNat pa n v, old)
  else
    let s := (s.mergeBytes pa (leBytes n v) s.hart.loc).patchVdc s.hart.coreId (pa / 64) (setBytes (0 : BitVec 512) (pa % 64) n v)
      (byteMask (pa % 64) n)
    (if Pte.kind pte = 1 then s.collect s.hart.coreId s.hart.asid va else s, old)

def opVamo (o : OpVAmo) : VOp :=
  let w := sewBits o.ew
  let n := w / 8
  { shape := fun e => ⟨[e.operand o.d w w], [e.indexGrp o.s2 w], e.vlCap w, .none, false, []⟩
    whole := false
    run := fun q hi s =>
      if q.vl = 0 then s
      else
        let e := s.hart.ep
        let todo := q.todo hi
        let act := (todo.filter (q.active e o.pm.val)).map (fun i => (i, addrIndex o.s2.val q e i))
        let dev := fun (x : Nat × Nat) => Pte.cls (resolve q.pages s.hart.coreId x.2).2
        let order := (act.filter (fun x => !dev x)).foldl (fun l x => insertByAddr x l) [] ++ act.filter dev
        let one := fun (s : State) (x : Nat × Nat) =>
          let y := resolve q.pages s.hart.coreId x.2
          let r := s.vamoOne x.2 y.1 y.2 n (fun old => amoOp o.aop.val n old (e.elem o.d.val w x.1))
          r.1.ep (fun e => e.put q o.d.val w x.1 r.2)
        let s := order.foldl one s
        let s := if q.iz then (todo.filter (fun i => !q.active e o.pm.val i)).foldl (fun s i => s.ep (fun e => e.put q o.d.val w i 0)) s else s
        if q.vl ≤ hi && q.vl ≤ q.limit then s.ep (fun e => e.tail q o.d.val w e.g) else s }

/-! ### How a VM word reaches memory -/

/-- How a VM word reaches memory. -/
structure VMem where
  /-- bytes of alignment -/
  n : Nat
  kind : Kind
  /-- width code of ACCESS -/
  code : Nat
  /-- indexed and strided bits of ACCESS (R336) -/
  flags : Nat
  stride : Word
  /-- the register of the index group, of an indexed word -/
  index : Option Reg
  pm : Nat
  addr : QEntry → Exec → Nat → Nat

/-- The word is indexed. -/
def VMem.indexed (m : VMem) : Bool := m.index.isSome

def memUnit (k : Kind) (o : OpV1) : VMem :=
  let n := 2 ^ o.sew.val
  ⟨n, k, o.sew.val, 0, BitVec.ofNat 64 n, none, o.pm.val, addrUnit n⟩

def memStride (k : Kind) (o : OpV) (x2 : Word) : VMem := ⟨2 ^ o.sew.val, k, o.sew.val, 64, x2, none, o.pm.val, addrStride⟩

def memIndex (k : Kind) (o : OpV) : VMem := ⟨2 ^ o.sew.val, k, o.sew.val, 32, 0, some o.s2, o.pm.val, addrIndex o.s2.val⟩

/-- A segment's accesses; their width code is the element width, 0 for block segments (R336). -/
def memSeg (k : Kind) (o : OpVSeg) : VMem :=
  ⟨OpVSeg.slot o, k, if o.kind.val = 0 then o.ew.val else 0, 0, 0, none, o.pm.val, addrSeg o⟩

def memAmo (o : OpVAmo) : VMem := ⟨2 ^ o.ew.val, .rmw, o.ew.val, 32, 0, some o.s2, o.pm.val, addrIndex o.s2.val⟩

/-- How the word reaches memory, of a VM word that does; `x2` is its second x value. -/
def vmemOf (i : Instr) (x2 : Word) : Option VMem :=
  match i with
  | .vld o => some (memUnit .read o)
  | .vlds o => some (memStride .read o x2)
  | .vldx o => some (memIndex .read o)
  | .vlseg o => some (memSeg .read o)
  | .vst o => some (memUnit .write o)
  | .vsts o => some (memStride .write o x2)
  | .vstx o => some (memIndex .write o)
  | .vsseg o => some (memSeg .write o)
  | .vamo o => some (memAmo o)
  | _ => none

/-- The line that an element of a dispatched word lies in. -/
def VMem.line (m : VMem) (q : QEntry) (core : Nat) (e : Exec) (j : Nat) : Nat := (resolve q.pages core (m.addr q e j)).1 / 64

/-- An element lies in a page of class D. -/
def VMem.dev (m : VMem) (q : QEntry) (core : Nat) (e : Exec) (j : Nat) : Bool := Pte.cls (resolve q.pages core (m.addr q e j)).2

/-- The elements that a word performs together with those of `l`: the active ones outside class D that lie in the lines of these (R208, R209, R237,
R390). Those of an indexed store are performed each by itself (R296). -/
def VMem.mates (m : VMem) (q : QEntry) (core : Nat) (e : Exec) (l : List Nat) : List Nat :=
  if m.kind = .write && m.indexed then []
  else
    let lines := (l.filter (q.active e m.pm)).map (m.line q core e)
    (q.todo q.vl).filter (fun j => !l.contains j && q.active e m.pm j && !m.dev q core e j && lines.contains (m.line q core e j))

/-- Element `j` can be performed before those that precede it (R133, R233): it is still to be performed and, where it is active, lies in no page
of class D, and no byte that it writes is written by one that precedes it (R232). -/
def VMem.canLead (m : VMem) (q : QEntry) (core : Nat) (e : Exec) (j : Nat) : Bool :=
  let at_ := fun (i : Nat) => (resolve q.pages core (m.addr q e i)).1
  (q.todo q.vl).contains j
    && (!q.active e m.pm j || (!m.dev q core e j
      && (m.kind != .write || (q.todo j).all (fun i => !q.active e m.pm i || at_ i + m.n ≤ at_ j || at_ j + m.n ≤ at_ i))))

end Sys2Proof.Machine
end

