-- ==== Sys2Proof/Machine/MatrixOps.lean ====
section
/-! DEFINITION. What each X word does to tiles, registers and memory (R172 to R185). The words themselves are in MatrixWords. -/

namespace Sys2Proof.Machine

/-- An operand format of MMA: A's and B's formats, QN4 codes apart, their widths, and whether a column scale is read (R174). -/
structure MmaType where
  fa : Fmt
  fb : Fmt
  wb : Nat
  qn4 : Bool
  scaled : Bool
  deriving DecidableEq, Repr

/-- The types by code (R174); 10 to 15 are reserved. -/
def mmaType (code : Nat) : MmaType :=
  match code with
  | 0 => ⟨bf16, bf16, 16, false, false⟩
  | 1 => ⟨fp16, fp16, 16, false, false⟩
  | 2 => ⟨e4m3, e4m3, 8, false, false⟩
  | 3 => ⟨e5m2, e5m2, 8, false, false⟩
  | 4 => ⟨e4m3, e5m2, 8, false, false⟩
  | 5 => ⟨e5m2, e4m3, 8, false, false⟩
  | 6 => ⟨bf16, e2m1, 4, true, true⟩
  | 7 => ⟨bf16, e2m1, 4, false, true⟩
  | 8 => ⟨e4m3, e2m1, 4, true, true⟩
  | _ => ⟨e4m3, e2m1, 4, false, true⟩

/-- The tile is not usable at the hart's depth (R129). -/
def tileBad (t : Nat) (e : Exec) : Bool := 8 / e.d ≤ t

/-- The exact sum of products (R96): NaN for a NaN or 0 × Inf product and for infinities of both signs; a zero sum is +0. -/
def sumProducts (ps : List (Option FVal)) : Real :=
  let nv := ps.any (fun p => match p with | none => true | some v => v.isSig)
  let nan := ps.any (fun p => match p with | none => true | some v => v.isNan)
  let inf := fun (n : Bool) => ps.any (fun p => p == some (.inf n))
  if nan then .nan (nv || (inf true && inf false))
  else if inf true && inf false then .nan true
  else if inf true then .inf true false
  else if inf false then .inf false false
  else
    let add := fun (a : Int × Int) (p : Option FVal) =>
      match p with
      | some (.fin n m e) => let lo := min a.2 e; (a.1 * 2 ^ (a.2 - lo).toNat + sInt n m * 2 ^ (e - lo).toNat, lo)
      | _ => a
    let r := ps.foldl add (0, 0)
    .num (r.1 < 0) r.1.natAbs r.2 false

/-- An exact result as an operand. -/
def Real.val : Real → FVal
  | .nan _ => .nan false
  | .inf n _ => .inf n
  | .num n m e _ => .fin n m e

/-- NV of an exact result. -/
def Real.nv : Real → Nat
  | .nan nv => if nv then flagNV else 0
  | _ => 0

/-- The column scale applied (R176): a NaN scale gives NaN and NV, as does an infinite sum times a zero scale. -/
def applyScale (u : Real) (sc : FVal) : FVal × Nat :=
  if sc.isNan then (.nan false, u.nv ||| flagNV)
  else match mulVal u.val sc with
    | none => (.nan false, u.nv ||| flagNV)
    | some v => (v, u.nv)

/-- One element of MMA (R96, R176): the FP32 code and flags. DEDUCED (log 73): a signalling NaN that it adds to raises NV (R77). -/
def mmaElement (old : Nat) (ps : List (Option FVal)) (sc : Option FVal) : Nat × Nat :=
  let u := sumProducts ps
  let v := match sc with
    | none => (u.val, u.nv)
    | some c => applyScale u c
  let r := fp32.deliver 2 0 0 (addReal 0 (f32 old) v.1)
  (r.1, r.2 ||| v.2)

/-- MMA (R174 to R177). -/
def opMma (o : OpMma) : VOp :=
  let ty := mmaType o.type.val
  let m := 8 * 2 ^ o.g.val
  let wa := ty.fa.width
  { shape := fun e =>
      { dsts := []
        srcs := [single o.vA, ⟨o.vB.val, 8, true, 0⟩] ++ (if ty.scaled then [⟨o.vS.val, 4, false, 32⟩] else [])
        vlMax := some (if ty.wb = 4 then e.nt else min e.nt (e.mvl ty.wb))
        overlap := .any
        bad := tileBad o.td.val e || e.regBytes < m * wa || 32 < e.rowBase + m }
    whole := true
    run := fun q _ s =>
      let e := s.hart.ep
      let a := fun (r k : Nat) => ty.fa.decode q.nan (e.elem o.vA.val wa (8 * r + k))
      let b := fun (k c : Nat) =>
        let code := e.elem (o.vB.val + k) ty.wb c
        if ty.qn4 then qn4Val q.nan code else ty.fb.decode q.nan code
      let one := fun (x : Exec) (p : Nat × Nat) =>
        let row := q.rowBase + p.1
        let sc := if ty.scaled then some (f32 (e.elem o.vS.val 32 p.2)) else none
        let old := if o.acc.val = 1 then e.tile o.td.val row p.2 else 0
        let v := mmaElement old ((List.range 8).map (fun k => mulVal (a p.1 k) (b k p.2))) sc
        (x.setTile o.td.val row p.2 v.1).accrue v.2
      let cells := (List.range m).flatMap (fun r => (List.range q.vl).map (fun c => (r, c)))
      { s with hart := { s.hart with ep := cells.foldl one e } } }

/-- MZERO (R179). -/
def opMzero (o : OpMZero) : VOp where
  shape e := ⟨[], [], none, .any, tileBad o.td.val e, []⟩
  whole := true
  run _ _ s := s.ep (fun e => { e with tiles := Vector.ofFn (fun (i : Fin 256) => if i.val / 32 = o.td.val then 0 else e.tiles[i.val]) })

/-- MMOVT (R179). -/
def opMmovt (o : OpMmovt) : VOp where
  shape e := ⟨[], [], none, .any, tileBad o.td.val e || tileBad o.ts.val e, []⟩
  whole := true
  run _ _ s := s.ep (fun e => { e with
    tiles := Vector.ofFn (fun (i : Fin 256) =>
      if i.val / 32 = o.td.val then e.tiles[32 * o.ts.val + i.val % 32]'(by omega) else e.tiles[i.val]) })

/-- The format of a cv code (R179). -/
def cvFmt (cv : Fin 4) : Fmt :=
  match cv.val with
  | 0 => fp32
  | 1 => bf16
  | 2 => fp16
  | _ => e4m3

/-- MTOV (R181): row xs1 mod 32 into the group, one rounding per element. -/
def opMtov (o : OpMtov) : VOp :=
  let f := cvFmt o.cv
  let w := f.width
  { shape := fun e => ⟨[e.operand o.d w w], [], some (min e.nt (e.g * e.mvl w)), .any, tileBad o.ts.val e, []⟩
    whole := false
    run := fun q hi s => elementwise 0 o.d.val w s.hart.ep.g true
      (fun e dr c => f.deliver q.nan q.frm dr (f32 (e.tile o.ts.val (q.xs1.toNat % 32) c)).real) q hi s }

/-- MVTOT (R182): the group into row xs2 mod 32, exactly. DEDUCED (log 73): an exact conversion draws nothing in stochastic mode. -/
def opMvtot (o : OpMvtot) : VOp :=
  let f := cvFmt o.cv
  let w := f.width
  { shape := fun e => ⟨[], [e.operand o.s1 w w], some (min e.nt (e.g * e.mvl w)), .any, tileBad o.td.val e, []⟩
    whole := true
    run := fun q _ s =>
      let one := fun (e : Exec) (c : Nat) =>
        let v := fp32.deliver 2 0 0 (f.decode q.nan (e.elem o.s1.val w c)).real
        (e.setTile o.td.val (q.xs2.toNat % 32) c v.1).accrue v.2
      s.ep (fun e => (List.range q.vl).foldl one e) }

/-- The elements (j, c) of MSTORE and MLOAD in ascending order (R183). -/
def tileCells (rows vl : Nat) : List (Nat × Nat) := (List.range rows).flatMap (fun j => (List.range vl).map (fun c => (j, c)))

/-- The address of element (j, c). -/
def tileAddr (x1 x2 : Word) (n : Nat) (p : Nat × Nat) : Nat := (x1 + BitVec.ofNat 64 p.1 * x2 + BitVec.ofNat 64 (p.2 * n)).toNat

/-- The size code of an element of `n` bytes (R336). -/
def tileCode (n : Nat) : Nat := if n = 4 then 2 else n - 1

/-- The checks of MSTORE and MLOAD on the addresses of `rows` rows of `vl` elements, in the order of R184. DEDUCED (log 72): where several elements
fail, the one reported is the first in ascending (j, c). -/
def State.checkTile (s : State) (rows vl : Nat) (x1 x2 : Word) (n : Nat) (k : Kind) : Checks :=
  let cells := tileCells rows vl
  let addr := fun (j : Nat) => tileAddr x1 x2 n (cells.getD j (0, 0))
  let t := fun (cause va : Nat) =>
    ({ cause := cause, tval := va, access := accessByte k (tileCode n) false + 16, base := x1.toNat } : Trap)
  match cells.find? (fun p => 2 ^ 52 ≤ tileAddr x1 x2 n p) with
  | some p => .fail s [] 0 (t 4 (tileAddr x1 x2 n p))
  | none =>
    if x1.toNat % n ≠ 0 then .fail s [] 0 (t 3 x1.toNat)
    else if x2.toNat % n ≠ 0 then .fail s [] 0 (t 3 (x1 + x2).toNat)
    else match State.checkAll addr n k (tileCode n) (List.range cells.length) s [] with
      | .fail s pages i u => .fail s pages i { u with access := u.access + 16, base := x1.toNat }
      | c => c

/-- The element size and the kind of an X word that accesses memory. -/
def tileAccess (i : Instr) : Option (Nat × Kind) :=
  match i with
  | .mstore o => some ((cvFmt o.cv).width / 8, .write)
  | .mload o => some ((cvFmt o.cv).width / 8, .read)
  | _ => none

/-- MSTORE (R183): rows rounded in ascending order, each draw from the lane of its column. -/
def opMstore (o : OpMstore) : VOp :=
  let f := cvFmt o.cv
  let n := f.width / 8
  { shape := fun e => ⟨[], [], some e.nt, .any, tileBad o.ts.val e, []⟩
    whole := true
    run := fun q _ s =>
      let one := fun (s : State) (p : Nat × Nat) =>
        let e := s.hart.ep
        let r := s.hart.sc.laneDraw q.frm (1 + (16 * (p.2 / (128 * e.d)) + p.2 % 16))
        let v := f.deliver q.nan q.frm r.2 (f32 (e.tile o.ts.val (q.rowBase + p.1) p.2)).real
        let s := { s with hart := { s.hart with sc := r.1, ep := e.accrue v.2 } }
        let va := tileAddr q.xs1 q.xs2 n p
        let x := resolve q.pages s.hart.coreId va
        s.vwrite va x.1 x.2 n v.1
      (tileCells q.rows q.vl).foldl one s }

/-- MLOAD (R183): exactly. DEDUCED (log 73): an exact conversion draws nothing in stochastic mode. -/
def opMload (o : OpMvtot) : VOp :=
  let f := cvFmt o.cv
  let n := f.width / 8
  { shape := fun e => ⟨[], [], some e.nt, .any, tileBad o.td.val e, []⟩
    whole := true
    run := fun q _ s =>
      let one := fun (s : State) (p : Nat × Nat) =>
        let va := tileAddr q.xs1 q.xs2 n p
        let x := resolve q.pages s.hart.coreId va
        let r := s.vread va x.1 x.2 n
        let v := fp32.deliver 2 0 0 (f.decode q.nan r.2).real
        r.1.ep (fun e => (e.setTile o.td.val (q.rowBase + p.1) p.2 v.1).accrue v.2)
      (tileCells q.rows q.vl).foldl one s }

end Sys2Proof.Machine
end

