-- ==== Sys2Proof/Machine/Ep.lean ====
section
/-! DEFINITION. The queue between the two halves of a hart: dispatching, performing and draining words (R125 to R127, R133, R155, R303). -/

namespace Sys2Proof.Machine

/-- The performing of a dispatched word; none for a word that the access processor executes itself. -/
def vopOf (i : Instr) : Option VOp :=
  match i with
  | .vaddVV o => some (opVaddVV o)
  | .vsubVV o => some (opVsubVV o)
  | .vadcVV o => some (opVadcVV o)
  | .vmadcVV o => some (opVmadcVV o)
  | .vsbcVV o => some (opVsbcVV o)
  | .vmsbcVV o => some (opVmsbcVV o)
  | .vmulVV o => some (opVmulVV o)
  | .vmulhVV o => some (opVmulhVV o)
  | .vmulhuVV o => some (opVmulhuVV o)
  | .vdivVV o => some (opVdivVV o)
  | .vdivuVV o => some (opVdivuVV o)
  | .vremVV o => some (opVremVV o)
  | .vandVV o => some (opVandVV o)
  | .vorVV o => some (opVorVV o)
  | .vxorVV o => some (opVxorVV o)
  | .vshlVV o => some (opVshlVV o)
  | .vshrVV o => some (opVshrVV o)
  | .vsarVV o => some (opVsarVV o)
  | .vminVV o => some (opVminVV o)
  | .vmaxVV o => some (opVmaxVV o)
  | .vsaddVV o => some (opVsaddVV o)
  | .vwaddVV o => some (opVwaddVV o)
  | .vnclipVV o => some (opVnclipVV o)
  | .vaddVS o => some (opVaddVS o)
  | .vsubVS o => some (opVsubVS o)
  | .vadcVS o => some (opVadcVS o)
  | .vmadcVS o => some (opVmadcVS o)
  | .vsbcVS o => some (opVsbcVS o)
  | .vmsbcVS o => some (opVmsbcVS o)
  | .vmulVS o => some (opVmulVS o)
  | .vmulhVS o => some (opVmulhVS o)
  | .vmulhuVS o => some (opVmulhuVS o)
  | .vdivVS o => some (opVdivVS o)
  | .vdivuVS o => some (opVdivuVS o)
  | .vremVS o => some (opVremVS o)
  | .vandVS o => some (opVandVS o)
  | .vorVS o => some (opVorVS o)
  | .vxorVS o => some (opVxorVS o)
  | .vshlVS o => some (opVshlVS o)
  | .vshrVS o => some (opVshrVS o)
  | .vsarVS o => some (opVsarVS o)
  | .vminVS o => some (opVminVS o)
  | .vmaxVS o => some (opVmaxVS o)
  | .vsaddVS o => some (opVsaddVS o)
  | .vwaddVS o => some (opVwaddVS o)
  | .vnclipVS o => some (opVnclipVS o)
  | .vfaddVV o => some (opVfaddVV o)
  | .vfsubVV o => some (opVfsubVV o)
  | .vfmulVV o => some (opVfmulVV o)
  | .vfdivVV o => some (opVfdivVV o)
  | .vfsqrt o => some (opVfsqrt o)
  | .vfmaVV o => some (opVfmaVV o)
  | .vfminVV o => some (opVfminVV o)
  | .vfmaxVV o => some (opVfmaxVV o)
  | .vfcvt o => some (opVfcvt o)
  | .vfcvti o => some (opVfcvti o)
  | .vfcvtf o => some (opVfcvtf o)
  | .vfexp2 o => some (opVfexp2 o)
  | .vfaddVS o => some (opVfaddVS o)
  | .vfsubVS o => some (opVfsubVS o)
  | .vfmulVS o => some (opVfmulVS o)
  | .vfdivVS o => some (opVfdivVS o)
  | .vfmaVS o => some (opVfmaVS o)
  | .vfminVS o => some (opVfminVS o)
  | .vfmaxVS o => some (opVfmaxVS o)
  | .mand o => some (opMand o)
  | .mor o => some (opMor o)
  | .mxor o => some (opMxor o)
  | .mandn o => some (opMandn o)
  | .mnot o => some (opMnot o)
  | .mshl o => some (opMshl o)
  | .mset o => some (opMset o)
  | .vcompress o => some (opVcompress o)
  | .vexpand o => some (opVexpand o)
  | .viota o => some (opViota o)
  | .vconflict o => some (opVconflict o)
  | .vgather o => some (opVgather o)
  | .vslideup o => some (opVslideup o)
  | .vslidedn o => some (opVslidedn o)
  | .vbcast o => some (opVbcast o)
  | .vredsum o => some (opVredsum o)
  | .vredmax o => some (opVredmax o)
  | .vredmin o => some (opVredmin o)
  | .vredfsum o => some (opVredfsum o)
  | .vredfmax o => some (opVredfmax o)
  | .vmvsx o => some (opVmvsx o)
  | .vcmpeqVV o => some (opVcmpeqVV o)
  | .vcmpneVV o => some (opVcmpneVV o)
  | .vcmpltVV o => some (opVcmpltVV o)
  | .vcmpleVV o => some (opVcmpleVV o)
  | .vcmpltuVV o => some (opVcmpltuVV o)
  | .vcmpleuVV o => some (opVcmpleuVV o)
  | .vcmpgtVV o => some (opVcmpgtVV o)
  | .vcmpgtuVV o => some (opVcmpgtuVV o)
  | .vcmpfeqVV o => some (opVcmpfeqVV o)
  | .vcmpfltVV o => some (opVcmpfltVV o)
  | .vcmpfleVV o => some (opVcmpfleVV o)
  | .vcmpfunordVV o => some (opVcmpfunordVV o)
  | .vcmpeqVS o => some (opVcmpeqVS o)
  | .vcmpneVS o => some (opVcmpneVS o)
  | .vcmpltVS o => some (opVcmpltVS o)
  | .vcmpleVS o => some (opVcmpleVS o)
  | .vcmpltuVS o => some (opVcmpltuVS o)
  | .vcmpleuVS o => some (opVcmpleuVS o)
  | .vcmpgtVS o => some (opVcmpgtVS o)
  | .vcmpgtuVS o => some (opVcmpgtuVS o)
  | .vcmpfeqVS o => some (opVcmpfeqVS o)
  | .vcmpfltVS o => some (opVcmpfltVS o)
  | .vcmpfleVS o => some (opVcmpfleVS o)
  | .vcmpfunordVS o => some (opVcmpfunordVS o)
  | .vld o => some (opVld o)
  | .vlds o => some (opVlds o)
  | .vldx o => some (opVldx o)
  | .vlseg o => some (opVlseg o)
  | .vst o => some (opVst o)
  | .vsts o => some (opVsts o)
  | .vstx o => some (opVstx o)
  | .vsseg o => some (opVsseg o)
  | .vamo o => some (opVamo o)
  | .mma o => some (opMma o)
  | .mzero o => some (opMzero o)
  | .mtov o => some (opMtov o)
  | .mvtot o => some (opMvtot o)
  | .mstore o => some (opMstore o)
  | .mload o => some (opMload o)
  | .mmovt o => some (opMmovt o)
  | .gori2 o => some (opGori2 o)
  | .ginc o => some (opGinc o)
  | .gseg o => some (opGseg o)
  | .gori3 o => some (opGori3 o)
  | .gins o => some (opGins o)
  | _ => none

/-- A clear of mask bits lo to lo + n - 1 (R303). -/
def Exec.clearBits (e : Exec) (m lo n : Nat) : Exec := e.setMask m (setBitsAt (e.mask m) lo n 0)

/-- A queued entry performed up to element `hi`. After the clear that a CPY dispatched, its command enters the engine (R303). -/
def State.perform (s : State) (q : QEntry) (hi : Nat) : State :=
  match q.word with
  | .delivery b => runDelivery b q s
  | .maskClear m lo n tag =>
    let s := s.ep (fun e => e.clearBits m lo n)
    let me := s.hart.owner
    { s with copies := s.copies.map (fun c => if c.owner = me && c.tag = tag then { c with entered := true } else c) }
  | .word i =>
    match vopOf i with
    | some op => op.run q hi s
    | none => s

/-- The oldest entry of the hart that executes is performed to its end. -/
def State.completeHead (s : State) : State :=
  match s.hart.ep.queue with
  | [] => s
  | q :: rest => (s.ep (fun e => { e with queue := rest })).perform q q.vl

/-- The `n` oldest entries of the hart that executes are performed. -/
def State.drainN (s : State) (n : Nat) : State := (List.range n).foldl (fun s _ => s.completeHead) s

/-- Every entry of the hart that executes is performed, oldest first. -/
def State.drain (s : State) : State := s.drainN s.hart.ep.queue.length

/-- The entries of the hart that executes are performed up to the last that `p` names. -/
def State.drainTo (s : State) (p : QEntry → Bool) : State :=
  s.drainN (((s.hart.ep.queue.zipIdx.filter (fun x => p x.1)).map (fun x => x.2 + 1)).foldl max 0)

/-- The entry is element-wise: it can stand partway (R158). -/
def QEntry.elementwise (q : QEntry) : Bool :=
  match q.word with
  | .word i => match vopOf i with
    | some op => !op.whole
    | none => false
  | _ => false

/-- The destination groups of an entry, its lent copies and the group of a delivery. -/
def QEntry.dsts (q : QEntry) (e : Exec) : List Grp :=
  match q.word with
  | .word i => (match vopOf i with
    | some op =>
      let ds := (op.shape e).dsts
      ds ++ (match q.copy with | some c => ds.map (fun d => { d with reg := c }) | none => [])
    | none => [])
  | .delivery b => [b.grp]
  | .maskClear _ _ _ _ => []

/-- The masks that an entry writes. -/
def QEntry.masks (q : QEntry) (e : Exec) : List Nat :=
  match q.word with
  | .word i => (match vopOf i with | some op => (op.shape e).masks | none => [])
  | .delivery _ => []
  | .maskClear m _ _ _ => [m]

/-- The words before an indexed or predicated VM word complete up to the last that writes its index group or its predicate mask (R126, R282). -/
def State.awaitProducers (s : State) (groups : List Grp) (masks : List Nat) : State :=
  let e := s.hart.ep
  s.drainTo (fun q => (q.dsts e).any (fun d => groups.any d.meets) || (q.masks e).any masks.contains)

/-- The elements of each register of a destination group. -/
def Exec.perReg (e : Exec) (g : Grp) : Nat := e.mvl (if g.width = 0 then 8 * 2 ^ e.sew.val else g.width)

/-- The group index of an entry: no element at or above the limit of a VAMO that traps there is complete (R133, R232). -/
def QEntry.groupPi (q : QEntry) : Nat :=
  match q.word with
  | .word (.vamo _) => min q.start q.limit
  | _ => q.start

/-- The group index of a word at work gives the index of a register that it writes (R133). -/
def QEntry.piOf (q : QEntry) (e : Exec) (r : Nat) : Option Nat :=
  if !q.elementwise || !q.begun then none
  else ((q.dsts e).find? (fun d => d.meets ⟨r, 1, true, 0⟩)).map (fun d => min (q.groupPi - (r - d.reg) * e.perReg d) (e.perReg d))

/-- The index that a stopped instruction has left to a register (R133, R198). -/
def Exec.stoppedPi (e : Exec) (r : Nat) : Option Nat := (e.gpi.find? (fun p => p.reg == r)).map (·.pi)

/-- PI of a vector register (R133): where the word at work stands, the oldest in the queue or a trap-mode G word, for the registers that it
writes; where a stopped instruction has left it incomplete, the index there (R198, R199, R232); MVL for every other. DEDUCED (log 71): also after a
configure instruction that zeroes the indices (R131), since no incomplete word then writes the register. -/
def Exec.pi (e : Exec) (r : Nat) : Nat :=
  (((e.queue.head?.or e.geom).bind (fun q => q.piOf e r)).or (e.stoppedPi r)).getD (e.mvl (8 * 2 ^ e.sew.val))

/-- The group index of a word begins, and a stopped instruction's index is no longer that of a register that the word writes (R133). -/
def Exec.takePi (e : Exec) (q : QEntry) : Exec :=
  { e with gpi := e.gpi.filter (fun p => !(q.dsts e).any (fun d => d.meets ⟨p.reg, 1, true, 0⟩)) }

/-- A word stops at element `j`: the registers that it writes keep the indices which follow from that, those of them that are below MVL (R133,
R198, R199, R232). -/
def Exec.stopAt (e : Exec) (q : QEntry) (j : Nat) (inner : Bool) : Exec :=
  let q := { q with start := j, begun := true }
  let left := (List.range 32).filterMap (fun r =>
    (q.piOf e r).bind (fun p => if p < e.mvl (8 * 2 ^ e.sew.val) then some (⟨r, p, inner⟩ : StoppedPi) else none))
  { e with gpi := left ++ (e.takePi q).gpi }

/-- Elements of an entry performed by themselves, with no tail (R133). -/
def State.performOnly (s : State) (q : QEntry) (l : List Nat) : State :=
  s.perform { q with vl := q.vl + 1, start := 0, done := (List.range q.vl).filter (fun j => !l.contains j) } q.vl

/-- The elements at the head of an entry that are already performed are passed over (R133). -/
def QEntry.settleStart (q : QEntry) : QEntry :=
  let n := ((range q.start (q.vl - q.start)).takeWhile q.done.contains).length
  { q with start := q.start + n, done := q.done.filter (fun j => q.start + n ≤ j) }

/-- The oldest entry of the hart that executes, partway: it stands as `q`, or is completed where no element is left (R133). -/
def State.putHead (s : State) (q : QEntry) (rest : List QEntry) : State :=
  let q := q.settleStart
  let s := s.ep (fun e => { e with queue := q :: rest })
  if q.vl ≤ q.start then s.completeHead else s

/-- A word of the queue that is under way keeps the mask that it has read (R282). -/
def QEntry.underWay (q : QEntry) (e : Exec) : QEntry :=
  match q.word with
  | .word i => let w := encode i; { q.readMask e (if takesPredicate w then pmField w else 0) with begun := true }
  | _ => { q with begun := true }

/-- How the word of an entry reaches memory, of a VM word. -/
def QEntry.vmem (q : QEntry) : Option VMem :=
  match q.word with
  | .word i => vmemOf i q.xs2
  | _ => none

/-- Where the group index stands when it has passed element `hi` − 1: it jumps past the elements above that have finished (R195). -/
def QEntry.reach (q : QEntry) (hi : Nat) : Nat := hi + ((range hi (q.vl - hi)).takeWhile q.done.contains).length

/-- The entry with its group index at `hi`. -/
def QEntry.moveTo (q : QEntry) (hi : Nat) : QEntry := { q with start := hi, done := q.done.filter (fun j => hi ≤ j) }

/-- The oldest entry is performed for `n` more elements (R133), with the elements of a VM word that lie in the same lines; a whole-result
word, or one that reaches its end, is completed. -/
def State.advanceHead (s : State) (n : Nat) : State :=
  match s.hart.ep.queue with
  | [] => s
  | q :: rest =>
    let hi := q.reach (q.start + n)
    if q.elementwise && hi < q.vl then
      let q := q.underWay s.hart.ep
      match q.vmem with
      | none => (s.ep (fun e => { e with queue := q.moveTo hi :: rest })).perform q hi
      | some m =>
        let l := q.todo hi
        let l := l ++ m.mates q s.hart.coreId s.hart.ep l
        (s.performOnly q l).putHead { q with start := hi, done := l.filter (hi ≤ ·) ++ q.done } rest
    else s.completeHead

/-- Element `j` of a G word at work finishes before those that precede it, where it may (R195). -/
def State.geomLead (s : State) (q : QEntry) (j : Nat) : Option (State × QEntry) :=
  match q.word with
  | .word i => (geomOf i).bind (fun g => s.geomAhead g.1 g.2 q j)
  | _ => none

/-- Element `j` of the word at work, an element-wise VM word or a G word, is performed before those that precede it, where it may be (R133, R158,
R195, R233). -/
def State.performAhead (s : State) (j : Nat) : Option State :=
  match s.hart.ep.queue with
  | [] => s.hart.ep.geom.bind (fun q => (s.geomLead (q.underWay s.hart.ep) j).map (fun r =>
      r.1.ep (fun e => { e.takePi r.2 with geom := some r.2 })))
  | q :: rest =>
    let q := q.underWay s.hart.ep
    match q.vmem with
    | none => (s.geomLead q j).map (fun r => r.1.ep (fun e => { e with queue := r.2 :: rest }))
    | some m =>
      if q.elementwise && m.canLead q s.hart.coreId s.hart.ep j then
        let l := j :: m.mates q s.hart.coreId s.hart.ep [j]
        some ((s.performOnly q l).putHead { q with done := l ++ q.done } rest)
      else none

/-- A trap-mode G word at work is performed for `n` more elements, with those above that have finished, up to the one at which it stops (R127,
R195, R198). -/
def State.advanceGeom (s : State) (n : Nat) : State :=
  match s.hart.ep.geom with
  | none => s
  | some q =>
    match q.word with
    | .word i => (match geomOf i with
      | none => s
      | some (k, o) =>
        let q := q.underWay s.hart.ep
        let hi := min (min (q.reach (q.start + n)) q.vl) ((s.geomStop k o q).getD q.vl)
        (s.ep (fun e => { e.takePi q with geom := some (q.moveTo hi) })).perform { q with limit := hi } hi)
    | _ => s

/-- An entry joins the queue, and a stopped instruction's index is no longer that of a register that it writes; while the model is prompt it is
performed at once (DESIGN CHOICE, logs 7 and 41). -/
def State.send (s : State) (q : QEntry) : State :=
  let s := s.ep (fun e => { e.takePi q with queue := e.queue ++ [q] })
  if s.prompt then s.drain else s

/-- What the access processor reads at the dispatch of a word (R126): a pending lend, an armed start element of an element-wise word
(R332), the configuration, and the x values. -/
def State.entry (s : State) (i : Instr) (whole : Bool) (x1 x2 : Word) : QEntry where
  word := .word i
  start := if !whole && s.hart.sc.vstartArmed then s.hart.sc.vstart.toNat else 0
  vl := s.hart.ep.vl
  limit := s.hart.ep.vl
  lend := if s.hart.sc.lend.getLsbD 31 then s.hart.sc.lend else 0
  vcfg := s.hart.ep.vcfg
  rowBase := s.hart.ep.rowBase
  rows := s.hart.ep.rows
  xs1 := x1
  xs2 := x2
  pages := []

/-- X words travel in MXQ; VM words and deliveries count as vector memory instructions (R125, R126). -/
def QEntry.isX (q : QEntry) : Bool :=
  match q.word with
  | .word (.mma _) | .word (.mzero _) | .word (.mtov _) | .word (.mvtot _) | .word (.mstore _) | .word (.mload _) | .word (.mmovt _) => true
  | _ => false

def QEntry.isVm (q : QEntry) : Bool :=
  match q.word with
  | .delivery _ => true
  | _ => q.vmem.isSome

/-- The word of an entry stores to memory. -/
def QEntry.stores (q : QEntry) : Bool :=
  q.vmem.any (fun m => m.kind.writes) || (match q.word with | .word i => (tileAccess i).any (fun t => t.2.writes) | _ => false)

/-- The queues have room for more entries (R125, R126): 64 in VIQ, 16 of them vector memory instructions, and 16 in MXQ; else the access
processor stalls. -/
def State.epRoom (s : State) (new : List QEntry) : Bool :=
  let all := s.hart.ep.queue ++ new
  (all.filter (fun q => !q.isX)).length ≤ 64 && (all.filter QEntry.isVm).length ≤ 16 && (all.filter QEntry.isX).length ≤ 16

/-- A mask whose bits an incomplete copy command of the hart holds (R303). DEDUCED (log 57): from its entry into the engine. -/
def State.held (s : State) (m : Nat) : Bool :=
  s.copies.any (fun c => c.owner == s.hart.owner && c.entered && wbits c.xs2 0 4 == m + 1)

/-- The issue checks of a dispatched word fail (R46 items 6 to 8). -/
def State.issueBad (s : State) (sh : Shape) : Bool := s.hart.ctl || sh.illegal s.hart.ep s.hart.sc.lend || sh.masks.any s.held

/-- The deliveries that a word of this shape is owed (R243). -/
def State.owed (s : State) (sh : Shape) : Deliv := s.issueDeliveries sh.srcs s.hart.ep.bindings

/-- The bindings replaced. -/
def State.setBindings (s : State) (bs : List Binding) : State := s.ep (fun e => { e with bindings := bs })

/-- The positions of the bindings after a reader of this shape (R243). -/
def State.setAdvanced (s : State) (sh : Shape) (bs : List Binding) : State := s.setBindings (advanceAll sh.srcs s.hart.ep.vl bs)

/-- DISPATCH of a V or X word that raises nothing after its issue checks and its deliveries (R127). -/
def dispatch (i : Instr) (op : VOp) (x1 x2 : Word) (s : State) : Out :=
  let sh := op.shape s.hart.ep
  if s.issueBad sh then illegal s i
  else match s.owed sh with
    | .trap s t => raise s t
    | .illegal s => illegal s i
    | .wait s => waitHere s false
    | .ok s' qs bs =>
      let q := s'.entry i op.whole x1 x2
      if !s'.epRoom (qs ++ [q]) then waitHere s false
      else .next (((((qs.foldl State.send s').setAdvanced sh bs)).send q).retire)

/-- A word that returns a value through BRQ: the access processor waits for it (R126). DESIGN CHOICE (log 95): every word before it is complete by
then, though R170 asks only for the first element of its source and R157 for its mask. -/
def brq (i : Instr) (srcs : List Grp) (d : Reg) (f : State → Word) (s : State) : Out :=
  let sh : Shape := ⟨[], srcs, none, .any, false, []⟩
  if s.issueBad sh then illegal s i
  else match s.owed sh with
    | .trap s t => raise s t
    | .illegal s => illegal s i
    | .wait s => waitHere s false
    | .ok s' qs bs =>
      if !s'.epRoom qs then waitHere s false
      else
        let s := ((qs.foldl State.send s').setAdvanced sh bs).drain
        retireX s d (f s)

end Sys2Proof.Machine
end

