-- ==== Sys2Proof/Machine/Csr.lean ====
section
/-! DEFINITION. The control and status registers: which exist, what a read answers, and what a write stores under the access codes (R10,
R17 to R23, R51, R91, R121, R128, R148 to R152, R173, R200, R214, R231, R238, R307, R315, R316, R330, R332, R337, R339, R341). -/

namespace Sys2Proof.Machine

/-- A value that LENDSTATE or UILEND stores: PMASK, then DC, then POL, then PENDING, each as its field map states (R51). -/
def legalLend (w : Nat) : BitVec 32 :=
  let pmask := if 8 < bits w 7 4 then 0 else bits w 7 4
  let dce := bits w 17 1
  let dc := if dce = 0 then 0 else bits w 12 5
  let pol := if pmask = 0 then 0 else bits w 11 1
  let pending := if pmask = 0 && dce = 0 then 0 else bits w 31 1
  BitVec.ofNat 32 (pending * 2 ^ 31 + dce * 2 ^ 17 + dc * 2 ^ 12 + pol * 2 ^ 11 + pmask * 2 ^ 7)

/-- A write of FCSR (R22): a mode above 4 stores 0. -/
def legalFcsr (w : Nat) : BitVec 8 :=
  BitVec.ofNat 8 (if 4 < bits w 5 3 then bits w 0 5 else bits w 0 8)

/-- A write of VCFG (R151). -/
def legalVcfg (w : Nat) : BitVec 8 :=
  let frm := if 4 < bits w 5 3 then 0 else bits w 5 3
  let nan := if bits w 3 2 = 3 then 0 else bits w 3 2
  BitVec.ofNat 8 (frm * 32 + nan * 8 + bits w 1 2 * 2)

/-- ROWS as a write of TILESHAPE stores it, after ROWBASE has taken its new value (R173). -/
def legalRows (base rows : Nat) : Nat :=
  let r := if rows = 0 then 1 else rows
  if 32 < base + r then 32 - base else r

/-- The owner of lane group `j` of a core, with its two-bit number, and whether the group counts in its reservation (R128). -/
def lgEntry (hs : List Hart) (j : Nat) : Nat :=
  match hs.find? (fun h => h.ep.lg.getLsbD j) with
  | none => 0
  | some h => 8 + (if (lowest h.reserve h.ep.lg).getLsbD j then 4 else 0) + h.slot

/-- LGALLOC (R128): the core's lane allocation table. -/
def State.lgalloc (s : State) (core : Nat) : Word :=
  let hs := s.coreHarts core
  BitVec.ofNat 64 ((List.range 16).foldl (fun n j => n + lgEntry hs j * 16 ^ j) 0)

/-- VTYPE (R149). -/
def Exec.vtype (e : Exec) : Word :=
  BitVec.ofNat 64 (e.lgn * 256 + e.depth.val * 64 + e.group.val * 16 + e.sew.val)

/-- VSTART (R332). -/
def Scalar.vstartWord (c : Scalar) : Word :=
  BitVec.ofNat 64 ((if c.vstartArmed then 2 ^ 63 else 0) + c.vstart.toNat)

/-- UISTATUS (R307). -/
def Scalar.uistatus (c : Scalar) : Word :=
  BitVec.ofNat 64 ((if c.uiRstrt then 8 else 0) + (if c.uiActive then 4 else 0) + (if c.uiPend then 2 else 0) + (if c.uiEn then 1 else 0))

/-- An event is raised (R308): it pends, is counted, and its tag is the latest. -/
def Scalar.raiseEvent (c : Scalar) (tag : Nat) : Scalar :=
  { c with uiPend := true, uiCount := c.uiCount + 1, uiTag := BitVec.ofNat 32 tag }

/-- A write of UISTATUS (R307): writing PEND 0 discards every pending event, and writing 1 raises one with tag 0. -/
def Scalar.writeUistatus (c : Scalar) (w : Word) : Scalar :=
  let c := { c with uiEn := w.getLsbD 0, uiRstrt := w.getLsbD 3 }
  if w.getLsbD 1 then c.raiseEvent 0 else { c with uiPend := false, uiCount := 0 }

/-- CYCLE is read (R19): the clocks that have passed since are a free value. -/
def State.readCycle (s : State) : State × Word :=
  let w := s.hart.sc.cycle + BitVec.ofNat 64 (Config.clocks s.free)
  ({ s.sc (fun c => { c with cycle := w }) with free := s.free + 1 }, w)

/-- The CSRs of a hart and of a control core alike: those of layer one, RNDSEED and LENDSTATE. DEDUCED (log 14): a control core, which
executes scalar and LEND words, holds these. HARTID of a control core is an unstated value (log 15). -/
def State.csrShared (s : State) (n : Nat) : Option (State × Word) :=
  let c := s.hart.sc
  match n with
  | 0x000 => some s.readCycle
  | 0x001 => some (s, c.instret)
  | 0x010 => some (s, if s.hart.ctl then Config.controlId s.hart.loc else BitVec.ofNat 64 s.hart.loc)
  | 0x020 => some (s, c.fcsr.setWidth 64)
  | 0x021 => some (s, c.rndseed.setWidth 64)
  | 0x040 => some (s, c.tcause.setWidth 64)
  | 0x041 => some (s, c.tpc)
  | 0x042 => some (s, c.tval)
  | 0x050 => some (s, c.lend.setWidth 64)
  | _ => none

/-- The CSRs of harts only, except those of the vector half. -/
def State.csrHart (s : State) (n : Nat) : Option (State × Word) :=
  let c := s.hart.sc
  let x := s.ctx
  match n with
  | 0x043 => some (s, c.tdeleg.setWidth 64)
  | 0x069 => some (s, c.vstartWord)
  | 0x070 => some (s, x.swmring)
  | 0x071 => some (s, x.tenstab)
  | 0x072 => some (s, BitVec.ofNat 64 x.tenscnt)
  | 0x073 => some (s, BitVec.ofNat 64 x.ptroot)
  | 0x074 => some (s, BitVec.ofNat 64 s.hart.asid)
  | 0x080 => some (s, c.uistatus)
  | 0x081 => some (s, c.uivec)
  | 0x082 => some (s, c.uiepc)
  | 0x083 => some (s, BitVec.ofNat 64 (c.uiEvents.toNat * 2 ^ 32 + c.uiCauseTag.toNat))
  | 0x084 => some (s, c.uilend.setWidth 64)
  | 0x085 => some (s, c.splitr.setWidth 64)
  | 0x086 => some (s, c.bkshuf.setWidth 64)
  | _ => none

/-- The CSRs of a hart's vector configuration and status. VSTAT and GSTAT are read once the earlier words are complete (R148, R200). -/
def State.csrVector (s : State) (n : Nat) : Option (State × Word) :=
  let e := s.hart.ep
  match n with
  | 0x060 => some (s, s.lgalloc s.hart.coreId)
  | 0x061 => some (s, e.vtype)
  | 0x062 => some (s, BitVec.ofNat 64 e.vl)
  | 0x063 => some (s, e.avlrem)
  | 0x064 => some (s, e.vcfg.setWidth 64)
  | 0x065 => let s := s.drain; some (s, s.hart.ep.vstat.setWidth 64)
  | 0x066 => some (s, BitVec.ofNat 64 (e.rowBase * 256 + e.rows))
  | 0x067 => let s := s.drain; some (s, s.hart.ep.gstat)
  | 0x068 => some (s, BitVec.ofNat 64 e.vltrim)
  | _ => none

/-- The CSRs of control cores only (R337, R339). -/
def State.csrControl (s : State) (n : Nat) : Option (State × Word) :=
  match n with
  | 0x045 => some (s, s.hart.sc.ctvec)
  | 0x0A0 => some (s, (s.die s.hart.die).fqdesc)
  | _ => none

/-- A read of a CSR by number; none where the number is undefined (R17). -/
def State.csrRead (s : State) (n : Nat) : Option (State × Word) :=
  (s.csrShared n).or (if s.hart.ctl then s.csrControl n else (s.csrHart n).or (s.csrVector n))

/-- A write of a defined CSR: read-only fields keep their values and legalised fields store what their maps state (R10). A write of RNDSEED waits
for the words before it, which draw from the generators as they stood (R92). -/
def State.csrWrite (s : State) (n : Nat) (w : Word) : State :=
  let v := w.toNat
  let asid := s.hart.asid
  match n with
  | 0x020 => s.sc (fun c => { c with fcsr := legalFcsr v })
  | 0x021 => s.drain.sc (fun c => { c with rndseed := BitVec.ofNat 32 v, gens := seedAll (BitVec.ofNat 32 v) })
  | 0x043 => s.sc (fun c => { c with tdeleg := BitVec.ofNat 9 v &&& 0x182 })
  | 0x045 => s.sc (fun c => { c with ctvec := w &&& 0xFFFFFFFFFFFFC })
  | 0x050 => s.sc (fun c => { c with lend := legalLend v, uilend := if s.hart.ctl then legalLend v else c.uilend })
  | 0x064 => s.ep (fun e => { e with vcfg := legalVcfg v })
  | 0x065 => s.ep (fun e => { e with vstat := BitVec.ofNat 8 (bits v 0 6) })
  | 0x066 => s.ep (fun e => { e with rowBase := bits v 8 5, rows := legalRows (bits v 8 5) (bits v 0 6) })
  | 0x067 => s.ep (fun e => { e with gstat := BitVec.ofNat 64 (bits v 0 63) })
  | 0x069 => s.sc (fun c => { c with vstartArmed := w.getLsbD 63, vstart := BitVec.ofNat 18 v })
  | 0x070 => s.updCtx asid (fun c => { c with swmring := w &&& 0xFFFFFFFFFFFC1 })
  | 0x071 => s.updCtx asid (fun c => { c with tenstab := w &&& 0xFFFFFFFFFFFC0 })
  | 0x072 => s.updCtx asid (fun c => { c with tenscnt := bits v 0 32 })
  | 0x080 => s.sc (fun c => c.writeUistatus w)
  | 0x081 => s.sc (fun c => { c with uivec := w &&& 0xFFFFFFFFFFFFC })
  | 0x082 => s.sc (fun c => { c with uiepc := w &&& 0xFFFFFFFFFFFFC })
  | 0x084 => s.sc (fun c => { c with uilend := legalLend v })
  | 0x085 => s.sc (fun c => { c with splitr := BitVec.ofNat 9 (min (bits v 0 9) 256) })
  | 0x086 => s.sc (fun c => { c with bkshuf := BitVec.ofNat 48 v })
  | 0x0A0 => s.updDie s.hart.die (fun d => { d with fqdesc := w &&& 0xFFFFFFFFFFFC1 })
  | _ => s

/-- A CSR word (R121): `f` gives the value to write from the old one, or none where nothing is written. The write follows the retirement
of the word itself, before the next instruction. -/
def csrWord (i : Instr) (o : OpCsr) (f : Word → Option Word) (s : State) : Out :=
  match s.csrRead o.csr.val with
  | none => illegal s i
  | some (s, t) =>
    let w := f t
    let s := (s.xw o.d t).retire
    .next (match w with | none => s | some w => s.csrWrite o.csr.val w)

/-- R121: CSRRW always writes. -/
def execCsrrw (o : OpCsr) (s : State) : Out := csrWord (.csrrw o) o (fun _ => some (s.xr o.s1)) s

/-- R121: CSRRS writes the old value with the bits of xs1 set, unless its s1 field is 0. -/
def execCsrrs (o : OpCsr) (s : State) : Out :=
  csrWord (.csrrs o) o (fun t => if o.s1.val = 0 then none else some (t ||| s.xr o.s1)) s

/-- R121: CSRRC writes the old value with the bits of xs1 clear, unless its s1 field is 0. -/
def execCsrrc (o : OpCsr) (s : State) : Out :=
  csrWord (.csrrc o) o (fun t => if o.s1.val = 0 then none else some (t &&& ~~~s.xr o.s1)) s

end Sys2Proof.Machine
end

