-- ==== Sys2Proof/Machine/Control.lean ====
section
/-! DEFINITION. Words that direct the hart itself: hints, calls and breakpoints, LEND, the configure words and YIELD (R47, R49, R122, R129 to
R131, R143). -/

namespace Sys2Proof.Machine

/-- R47: a word of the hint space is a no-op. -/
def execHint (_ : OpHint) (s : State) : Out := .next s.retire

/-- R122: ECALL raises its trap. -/
def execEcall (s : State) : Out := raise s { cause := 6, tval := 0 }

/-- R122: EBREAK raises its trap. -/
def execEbreak (s : State) : Out := raise s { cause := 5, tval := 0 }

/-- The low 32 bits of LENDSTATE that a LEND word leaves (R48, R49). -/
def OpLend.state (o : OpLend) : BitVec 32 :=
  BitVec.ofNat 32 (2 ^ 31 + o.dce.val * 2 ^ 17 + o.dc.val * 2 ^ 12 + o.pol.val * 2 ^ 11 + o.pmask.val * 2 ^ 7)

/-- R49: LEND lends its fields to the next word; after a pending LEND it is illegal. -/
def execLend (o : OpLend) (s : State) : Out :=
  if s.hart.sc.lend.getLsbD 31 then illegal s (.lend o)
  else .next (s.retire.sc (fun c => { c with lend := OpLend.state o }))

/-! ### The configure words -/

/-- MVL in elements of `8 × 2^sew` bits (R131). -/
def mvlOf (lgs depth sew : Nat) : Nat := lgs * 128 * 2 ^ depth / 2 ^ sew

/-- VL and AVLREM for an application length, by the configuration that stands, and xd (R131). -/
def State.setLength (s : State) (d : Reg) (avl : Word) : State :=
  let e := s.hart.ep
  let vl := min avl.toNat (2 ^ e.group.val * mvlOf e.lgn e.depth.val e.sew.val)
  (s.ep (fun e => { e with vl := vl, avlrem := avl - BitVec.ofNat 64 vl })).xw d (BitVec.ofNat 64 vl)

/-- The lane groups granted for a request of `req`, where 0 keeps the count (R131, R145). -/
def State.grant (s : State) (req : Nat) : Nat :=
  let h := s.hart
  let held := h.ep.lgn
  let want := if req = 0 then held else req
  if s.higherHold h then h.reserve
  else min (max want h.reserve) (held + s.freeNotHeld h.coreId)

/-- The lane groups a hart holds after a grant of `n`: the highest-numbered ones are released, the lowest-numbered free ones taken (R131). -/
def State.regroup (s : State) (n : Nat) : BitVec 16 :=
  let own := s.hart.ep.lg
  let held := s.hart.ep.lgn
  if n ≤ held then lowest n own else own ||| lowest (n - held) (s.freeLgs s.hart.coreId)

/-- The lines of the slices of a core's lane groups `lgs` go home and leave the cache. -/
def State.flushSlices (s : State) (core : Nat) (lgs : BitVec 16) : State :=
  s.flushVdc (fun l => l.core == core && lgs.getLsbD (sliceOf l.line)) true

/-- The slices that pass to another owner are flushed (R212), and so are those whose banks a raised depth moves into register storage (R129).
DESIGN CHOICE (log 16): every line of such a slice leaves the cache. -/
def State.moveBanks (s : State) (new : BitVec 16) (depth : Nat) : State :=
  let old := s.hart.ep.lg
  s.flushSlices s.hart.coreId ((old ^^^ new) ||| (if s.hart.ep.depth.val < depth then new else 0))

/-- The configuration takes effect: where the lane-group count or the depth changes, every register and tile is zeroed and the lane generators
are seeded (R131, R90). -/
def State.configure (s : State) (req depth group sew : Fin 17) : State :=
  let n := s.grant req.val
  let lg := s.regroup n
  let changed := n ≠ s.hart.ep.lgn || depth.val ≠ s.hart.ep.depth.val
  let s := if changed then (s.moveBanks lg depth.val).sc Scalar.seedLanes else s
  let s := if changed then s.ep (fun e => { e with v := Vector.replicate 32 0, tiles := Vector.replicate 256 0, gpi := [] }) else s
  s.ep (fun e => { e with lg := lg, depth := Fin.ofNat 4 depth.val, group := Fin.ofNat 4 group.val, sew := Fin.ofNat 4 sew.val })

/-- A field of a configure word. -/
def cfg (n : Nat) : Fin 17 := Fin.ofNat 17 n

/-- R131: SETVL, whose request is in xs2: 0 keeps the count and a value above 16 asks for 16. It waits for the execute processor. -/
def execSetvl (o : OpSetvl) (s : State) : Out :=
  if s.hart.ctl then illegal s (.setvl o)
  else
    let avl := s.xr o.s1
    let req := cfg (min (s.xn o.s2) 16)
    .next (((s.drain.configure req (cfg o.depth.val) (cfg o.group.val) (cfg o.sew.val)).setLength o.d avl).retire)

/-- R131: SETVLI, whose request is its count field plus one; a reserved count is illegal. -/
def execSetvli (o : OpSetvli) (s : State) : Out :=
  if s.hart.ctl || 16 ≤ o.count.val then illegal s (.setvli o)
  else
    let avl := s.xr o.s1
    let req := cfg (o.count.val + 1)
    .next (((s.drain.configure req (cfg o.depth.val) (cfg o.group.val) (cfg o.sew.val)).setLength o.d avl).retire)

/-- R131: SETVLC sets the length only, without waiting. -/
def execSetvlc (o : OpDS) (s : State) : Out :=
  if s.hart.ctl then illegal s (.setvlc o) else .next ((s.setLength o.d (s.xr o.s1)).retire)

/-- R143: YIELD cuts the hart to its reservation under a hold of higher priority, as a SETVLI with a count equal to the reservation does; else
it changes no state but that the next ready hart of the core issues before it does. DEDUCED (log 17): the cut leaves VL and AVLREM, since YIELD has
no application length. -/
def execYield (s : State) : Out :=
  if s.hart.ctl then illegal s .yield
  else if s.higherHold s.hart && s.hart.reserve < s.hart.ep.lgn then
    let e := s.hart.ep
    .next ((s.drain.configure (cfg s.hart.reserve) (cfg e.depth.val) (cfg e.group.val) (cfg e.sew.val)).retire)
  else .next s.offerTurn.retire

end Sys2Proof.Machine
end

