-- ==== Sys2Proof/Machine/Operands.lean ====
section
/-! DEFINITION. The operand forms of the scalar words: register pairs, immediates, offsets and targets (R36, R101 to R107). -/

namespace Sys2Proof.Machine

/-- The sign-extended immediate of the I format (R36, R102). -/
def OpI.value (o : OpI) : Word := sext 15 o.imm.val

/-- The value LUI and AUIPC add: imm20 × 2^15, sign-extended (R105). -/
def OpU.value (o : OpU) : Word := Word.ofInt (signed 20 o.imm.val * 32768)

/-- The byte offset of a branch (R36). -/
def OpB.value (o : OpB) : Word := Word.ofInt (signed 15 o.off.val * 4)

/-- The byte offset of JAL (R36). -/
def OpJ.value (o : OpJ) : Word := Word.ofInt (signed 20 o.off.val * 4)

/-- Bytes of an access by its width code (R34). -/
def widthBytes (w : Fin 4) : Nat := 2 ^ w.val

/-- The effective address of a scalar load (R36, R115). -/
def OpLd.address (o : OpLd) (s : State) : Nat := (s.xr o.s1 + Word.ofInt (signed 8 o.off.val * (widthBytes o.width : Nat))).toNat

/-- The effective address of a scalar store (R36, R115). -/
def OpSt.address (o : OpSt) (s : State) : Nat := (s.xr o.s1 + Word.ofInt (signed 8 o.off.val * (widthBytes o.width : Nat))).toNat

/-- A register-register word: the result of `f` on the two sources. -/
def aluDSS (f : Word → Word → Word) (o : OpDSS) (s : State) : Out := retireX s o.d (f (s.xr o.s1) (s.xr o.s2))

/-- A word with one source. -/
def aluDS (f : Word → Word) (o : OpDS) (s : State) : Out := retireX s o.d (f (s.xr o.s1))

/-- A register-immediate word. -/
def aluI (f : Word → Word → Word) (o : OpI) (s : State) : Out := retireX s o.d (f (s.xr o.s1) (OpI.value o))

/-- A shift by an immediate. -/
def aluSh (f : Word → Nat → Word) (o : OpSh) (s : State) : Out := retireX s o.d (f (s.xr o.s1) o.sh.val)

/-- The trap of a target that the pc cannot take (R14, R24, R107): alignment before range. -/
def targetTrap (t : Word) : Option Trap :=
  if t.toNat % 4 ≠ 0 then some { cause := 2, tval := t.toNat, access := 8 }
  else if 2 ^ 52 ≤ t.toNat then some { cause := 4, tval := t.toNat, access := 8 }
  else none

/-- A conditional branch: a target is checked only where it is taken (R106). -/
def branchOn (taken : Word → Word → Bool) (o : OpB) (s : State) : Out :=
  if taken (s.xr o.s1) (s.xr o.s2) then
    let t := s.hart.sc.pc + OpB.value o
    match targetTrap t with
    | some e => raise s e
    | none => .next (s.retireTo t)
  else .next s.retire

/-- A jump to `t` that links into `d` (R107). -/
def jumpTo (t : Word) (d : Reg) (s : State) : Out :=
  match targetTrap t with
  | some e => raise s e
  | none => .next ((s.xw d (s.hart.sc.pc + 4)).retireTo t)

end Sys2Proof.Machine
end

