-- ==== Sys2Proof/Machine/ScalarMem.lean ====
section
/-! DEFINITION. The scalar memory words LD, LDU, ST, AMO and CAS, with their ordering parts (R115 to R120, R267, R286). -/

namespace Sys2Proof.Machine

/-- The ordering parts of an ord code: release (2, 3) and acquire (1, 3) (R34). -/
def relPart (ord : Fin 4) : Bool := ord.val == 2 || ord.val == 3
def acqPart (ord : Fin 4) : Bool := ord.val == 1 || ord.val == 3

/-- The release part, where there is one, at the scope the address takes. -/
def State.ordRelease (s : State) (ord : Fin 4) (scope : Fin 8) (va : Nat) : State :=
  if relPart ord then s.release (clipScope va scope.val) else s

/-- The acquire part, where there is one. -/
def State.ordAcquire (s : State) (ord : Fin 4) (scope : Fin 8) (va : Nat) : State :=
  if acqPart ord then s.acquire (clipScope va scope.val) else s

/-- A scalar load whose value is extended by `ext` (R116). The acquire part follows the read (R267). -/
def loadWord (ext : Nat → Word) (o : OpLd) (s : State) : Out :=
  let n := widthBytes o.width
  let va := OpLd.address o s
  match s.load va n o.width.val with
  | .trap t => raise s t
  | .wait s => waitHere s false
  | .ok s v => retireX (s.ordAcquire o.ord o.scope va) o.d (ext v)

/-- LD (R116): sign-extending. -/
def execLd (o : OpLd) (s : State) : Out := loadWord (sext (8 * widthBytes o.width)) o s

/-- LDU (R116): zero-extending. -/
def execLdu (o : OpLd) (s : State) : Out := loadWord (BitVec.ofNat 64) o s

/-- ST (R117): the release part precedes the write (R267). -/
def execSt (o : OpSt) (s : State) : Out :=
  let n := widthBytes o.width
  let va := OpSt.address o s
  match s.locate va n .write o.width.val with
  | .trap t => raise s t
  | .wait s => waitHere s false
  | .ok s pa pte => .next ((s.ordRelease o.ord o.scope va).writeLoc va pa pte n (s.xn o.s2 % 256 ^ n)).retire

/-- An indivisible update of `n` bytes at a located address, after its release part: update, acquire; the write of an SWM page is collected (R118,
R119, R216). -/
def State.updateEnd (s : State) (ord : Fin 4) (scope : Fin 8) (n va pa pte : Nat) (d : Reg) (f : Nat → Nat) : Out :=
  let r := s.update pa n f
  let s := if Pte.kind pte == 1 then r.1.collect r.1.hart.coreId r.1.hart.asid va else r.1
  retireX (s.ordAcquire ord scope va) d (sext (8 * n) r.2)

/-- An indivisible update at a located address with its ordering parts (R267). -/
def updateAt (ord : Fin 4) (scope : Fin 8) (width : Fin 4) (va pa pte : Nat) (d : Reg) (f : Nat → Nat) (s : State) : Out :=
  (s.ordRelease ord scope va).updateEnd ord scope (widthBytes width) va pa pte d f

/-- AMO (R118). -/
def execAmo (o : OpAmo) (s : State) : Out :=
  let n := widthBytes o.width
  let va := s.xn o.s1
  match s.locate va n .rmw o.width.val with
  | .trap t => raise s t
  | .wait s => waitHere s false
  | .ok s pa pte => updateAt o.ord o.scope o.width va pa pte o.d (fun old => amoOp o.aop.val n old (s.xn o.s2 % 256 ^ n)) s

/-- CAS (R119). DEDUCED (log 52): its page is checked as one that is read, and where the comparison succeeds as one that is updated; a CAS that
fails is a load, with its acquire part alone. -/
def execCas (o : OpCas) (s : State) : Out :=
  let n := widthBytes o.width
  let va := s.xn o.s1
  match s.locate va n .read o.width.val with
  | .trap t => raise s t
  | .wait s => waitHere s false
  | .ok s' pa _ =>
    let r := s'.homeRead pa n
    if r.2 ≠ s.xn o.d % 256 ^ n then retireX (r.1.ordAcquire o.ord o.scope va) o.d (sext (8 * n) r.2)
    else match r.1.locate va n .rmw o.width.val with
      | .trap t => raise r.1 t
      | .wait s => waitHere s false
      | .ok t pa pte =>
        let t := t.ordRelease o.ord o.scope va
        let r := t.homeRead pa n
        if r.2 ≠ s.xn o.d % 256 ^ n then retireX (r.1.ordAcquire o.ord o.scope va) o.d (sext (8 * n) r.2)
        else t.updateEnd o.ord o.scope n va pa pte o.d (fun _ => s.xn o.s2 % 256 ^ n)

end Sys2Proof.Machine
end

