-- ==== Sys2Proof/Machine/Sync.lean ====
section
/-! DEFINITION. Pots, fences, queue drains, barriers, monitors and the heartbeat (R246 to R260). -/

namespace Sys2Proof.Machine

/-! ### Objects -/

/-- What locating a pot or a barrier gives; a trap of the object's own comes after the walk has marked its page (R344). -/
inductive ObjAt where
  | ok (s : State) (pa pte : Nat)
  | trap (s : State) (t : Trap)
  | wait (s : State)

/-- The location of a pot or barrier: address range, alignment to 64 bytes, the window, the page's translation, and last its home in tier 1 and
class N (R248, R257). `own` is the object's own fault. -/
def State.objectAt (s : State) (va : Nat) (k : Kind) (width own : Nat) : ObjAt :=
  let t := fun cause dev => ({ cause := cause, tval := va, access := accessByte k width dev } : Trap)
  let home := fun (l : Loc) => match l with
    | .ok s pa pte => if region pa != 0 || Pte.cls pte then ObjAt.trap s (t own (Pte.cls pte)) else .ok s pa pte
    | .trap e => .trap s e
    | .wait s => .wait s
  if 2 ^ 52 ≤ va then .trap s (t 4 false)
  else if va % 64 ≠ 0 then .trap s (t 3 false)
  else if s.hart.ctl then home (s.physical va t)
  else if inWindow va then .trap s (t own false)
  else home (s.page s.hart.slot va k t)

/-! ### Pots (R248 to R251) -/

/-- A pot word: its request, once the address has passed its checks. Every word but POTINIT needs a pot line, and POTINIT is refused on the pot
of a farm that has not completed (R250). -/
def potAt (op : PotOp) (k : Kind) (init : Bool) (d : Reg) (va n : Nat) (s : State) : Out :=
  match s.objectAt va k 3 0x17 with
  | .trap s t => raise s t
  | .wait s => waitHere s false
  | .ok s pa _ =>
    if (if init then s.farmPot pa else !s.isPot pa) then raise s { cause := 0x17, tval := va, access := accessByte k 3 false }
    else .next ((if s.hart.ctl then s else s.usePot ⟨s.hart.asid, va, pa⟩).potRequest ⟨s.hart.loc, op, va, pa, n, d⟩)

/-- A pot word whose address is in xs1 and whose amount is in xs2 (R248). -/
def potWord (op : PotOp) (k : Kind) (init : Bool) (d s1 s2 : Reg) (s : State) : Out := potAt op k init d (s.xn s1) (s.xn s2) s

/-- R249: POTTAKE. -/
def execPottake (o : OpDSS) (s : State) : Out := potWord .take .rmw false o.d o.s1 o.s2 s

/-- R249: POTTAKEQ, which never calls in. -/
def execPottakeq (o : OpDSS) (s : State) : Out := potWord .takeq .rmw false o.d o.s1 o.s2 s

/-- R250: POTGIVE. -/
def execPotgive (o : OpDSS) (s : State) : Out := potWord .give .rmw false o.d o.s1 o.s2 s

/-- R250: POTREADX. -/
def execPotreadx (o : OpDS) (s : State) : Out := potWord .readx .rmw false o.d o.s1 0 s

/-- R250: POTREAD. -/
def execPotread (o : OpDS) (s : State) : Out := potWord .read .read false o.d o.s1 0 s

/-- R250: POTINIT. -/
def execPotinit (o : OpPotinit) (s : State) : Out :=
  potWord (.init o.policy.val o.scope.val) .rmw true 0 o.s1 o.s2 s

/-! ### Fences and drains (R252 to R254) -/

/-- Every dirty scalar byte of the hart that executes goes home, those that a release at scope C or an SVFENCE has put into the VDC too (R31,
R252). -/
def State.scalarHome (s : State) : State :=
  (s.flushScalar s.hart (fun _ => true) false).flushVdc (fun l => l.core == s.hart.coreId && l.answers s.hart.slot) false

/-- R252: FENCE. -/
def execFence (o : OpFence) (s : State) : Out :=
  let s := if relPart o.ord then s.release o.scope.val else s
  let s := if acqPart o.ord then s.acquire o.scope.val else s
  .next (if o.fetch.val = 1 then s.scalarHome.dropIcache s.hart.coreId else s).retire

/-- R253: SVFENCE puts the hart's dirty scalar bytes where its vector accesses find them, those of SWM pages too (R272). -/
def execSvfence (s : State) : Out := .next (if s.hart.ctl then s.release 1 else s.pushScalar s.hart (fun _ => true)).retire

/-- R253: VSFENCE completes the hart's vector accesses and drops its scalar lines, as an acquire at scope C. Lines of SWM pages are dropped too,
their dirty bytes put into the VDC and not home (R213, R272). -/
def execVsfence (s : State) : Out :=
  let s := s.drain
  let s := if s.hart.ctl then s else s.pushScalar s.hart (fun l => l.swm)
  let s := s.acquire 1
  .next ({ s with hart := { s.hart with scache := [], newer := [] } }.retire)

/-- Every copy command of the hart that executes is complete, among those of tag up to `n` where one is given. -/
def State.copiesDone (s : State) (n : Option Nat) : Bool :=
  s.copies.all (fun c => c.owner != s.hart.owner || (match n with | none => false | some n => n < c.tag))

/-- Every Strelvis command of the hart that executes is complete, among those of tag up to `n` where one is given. -/
def State.bksDone (s : State) (n : Option Nat) : Bool :=
  s.bks.all (fun c => c.owner != s.hart.owner || (match n with | none => false | some n => n < c.tag))

/-- R254: QDRAIN retires when every named queue is drained; the queues of the execute processor share one order, so each of them drains it
whole. Its accesses are before every later scalar access (R272), though the scalar cache drops no line (R323). DEDUCED (log 50): the lines they
have written are brought up to date where the scalar cache holds them. -/
def execQdrain (o : OpQdrain) (s : State) : Out :=
  let set := o.set.val
  let s := if set % 32 = 0 then s else s.drain.catchUp
  let engines := (!nbit set 5 || s.copiesDone none) && (!nbit set 6 || s.bksDone none)
  if engines || s.hart.ctl then .next s.retire else waitHere s true

/-! ### Barriers (R255 to R257) -/

/-- A barrier word: `pre` is done once its address has passed its checks, a phase whose condition a store has made true completes (R255), and `f`
does its work at the object, or answers none where R257 refuses it. -/
def barrierWord (k : Kind) (s1 : Reg) (pre : State → State) (f : State → Nat → Option Out) (s : State) : Out :=
  let va := s.xn s1
  match s.objectAt va k 2 0x18 with
  | .trap s t => raise s t
  | .wait s => waitHere s false
  | .ok s pa _ =>
    let s := (pre s).barNorm pa
    let fault := raise s { cause := 0x18, tval := va, access := accessByte k 2 false }
    if s.barOk pa then (f s pa).getD fault else fault

/-- R256: BARRIVE. Its release part comes before the object is judged, so it finds what the hart itself has stored there. -/
def execBarrive (o : OpBar) (s : State) : Out :=
  barrierWord .rmw o.s1 (fun s => if relPart o.ord then s.release o.scope.val else s) (fun s pa =>
    let phase := BitVec.ofNat 64 (s.barPhase pa)
    (s.barArrive pa).map (fun s => .next (s.note.xw o.d phase).retire)) s

/-- R256: BARWAIT, an architected wait while the phase is the one named. -/
def execBarwait (o : OpBarwait) (s : State) : Out :=
  barrierWord .read o.s1 id (fun s pa =>
    let phase := s.barPhase pa
    if phase = s.xn o.s2 % 2 ^ 32 then some (waitHere s true)
    else
      let s := s.xw o.d (BitVec.ofNat 64 phase)
      some (.next (if acqPart o.ord then s.acquire o.scope.val else s).retire)) s

/-- R256: BAREXP raises PENDING, which R257 keeps below 2^28. -/
def execBarexp (o : OpSS) (s : State) : Out :=
  barrierWord .rmw o.s1 id (fun s pa =>
    let n := s.barPending pa + s.xn o.s2
    if 2 ^ 28 ≤ n then none else some (.next (s.barSet pa (s.barArrived pa) n).note.retire)) s

/-! ### Monitors (R258 to R260) -/

/-- R258: MWATCHLD writes its own bytes of the line back, then reads the home and arms the monitor in one step. -/
def execMwatchld (o : OpBar) (s : State) : Out :=
  let va := s.xn o.s1
  match s.locate va 8 .read 3 with
  | .trap t => raise s t
  | .wait s => waitHere s false
  | .ok s pa _ =>
    let s := if isPad pa || s.isDev pa then s else s.ownHome (pa / 64)
    let v := if s.isDev pa then s.devRead (homeDie pa) (offsetOf pa) else BitVec.ofNat 64 (leValue (s.homeBytes pa 8))
    let s := (s.sc (fun c => { c with monitor := some ⟨pa / 64, va, false⟩ })).xw o.d v
    .next (if acqPart o.ord then s.acquire (clipScope va o.scope.val) else s).retire

/-- The end of an MWAIT (R259): the monitor is disarmed and the answer written. -/
def State.mwaitEnd (s : State) (d : Reg) (fired : Bool) : State :=
  ((s.sc (fun c => { c with monitor := none })).xw d (Word.ofBool fired)).retire

/-- The round limit of the MWAIT at which the hart that executes waits has been reached (R259). -/
def State.mwaitOver (s : State) : Bool :=
  match s.hart.mwait with
  | none => false
  | some m => m.limit != 0 && m.limit ≤ m.rounds

/-- R259: MWAIT. -/
def execMwait (o : OpDS) (s : State) : Out :=
  match s.hart.sc.monitor with
  | none => .next (s.mwaitEnd o.d false)
  | some m =>
    if m.fired then .next (s.mwaitEnd o.d true)
    else if s.mwaitOver then .next (s.mwaitEnd o.d false)
    else
      let rounds := (s.hart.mwait.map (·.rounds)).getD 0
      waitHere { s with hart := { s.hart with mwait := some ⟨s.xn o.s1, rounds, o.d⟩ } } true

/-- R260: HEARTBEAT. -/
def execHeartbeat (s : State) : Out := .next s.note.retire

end Sys2Proof.Machine
end

