-- ==== Sys2Proof/Machine/Ranges.lean ====
section
/-! DEFINITION. The range and image instructions (R213, R219, R226, R261 to R265). -/

namespace Sys2Proof.Machine

/-- A part of a range that lies in one page: its virtual addresses lo to hi - 1, the physical address of lo, and the entry. -/
structure Piece where
  lo : Nat
  hi : Nat
  pa : Nat
  pte : Nat

/-- The physical lines that the piece overlaps. -/
def Piece.covers (p : Piece) (line : Nat) : Bool := p.pa / 64 ≤ line && line ≤ (p.pa + (p.hi - p.lo) - 1) / 64

/-- The frame's first address. -/
def Piece.frame (p : Piece) : Nat := p.pa / 65536 * 65536

/-- The ACCESS byte of a range instruction (R336): its width code is 0. -/
def rangeTrap (k : Kind) (va cause : Nat) (dev : Bool) : Trap :=
  { cause := cause, tval := va, access := accessByte k 0 dev }

/-- A page of a range, translated (R261). A control core's pages are physical. -/
def State.rangePage (s : State) (k : Kind) (va : Nat) : Loc :=
  if s.hart.ctl then s.physical va (rangeTrap k va)
  else s.page s.hart.slot va k (rangeTrap k va)

/-- A page of a range translated as a read (R261). -/
def State.readPage (s : State) (va : Nat) : Loc := s.rangePage .read va

/-- How the visit of a range's pages ends. -/
inductive Visit where
  | done (s : State)
  | trap (s : State) (t : Trap)
  | wait (s : State)

/-- The pages of a range from page `p`, `n` of them, in ascending order; window lines are passed over, and `act` does the work of one page
(R261). Work on lower pages stays done where a page traps. -/
def visit (locate : State → Nat → Loc) (lo hi : Nat) (act : Piece → State → Visit) : Nat → Nat → State → Visit
  | 0, _, s => .done s
  | n + 1, p, s =>
    let first := max lo (p * 65536)
    if !s.hart.ctl && inWindow first then .done s
    else match locate s first with
      | .trap t => .trap s t
      | .wait s => .wait s
      | .ok s pa pte =>
        match act ⟨first, min hi (p * 65536 + 65536), pa, pte⟩ s with
        | .done s => visit locate lo hi act n (p + 1) s
        | .trap s t => .trap s t
        | .wait s => .wait s

/-- A range instruction (R261), its checks in an order that is DEDUCED (log 40): an empty range does nothing, the address range is checked before any
page, and `after` follows the last page. -/
def rangeWord (k : Kind) (locate : State → Nat → Loc) (lo n : Nat) (pre : Option Trap) (act : Piece → State → Visit) (after : State → State) (s : State) : Out :=
  if n = 0 then .next s.retire
  else if 2 ^ 52 < lo + n then raise s (rangeTrap k (max lo (2 ^ 52)) 4 false)
  else match pre with
    | some t => raise s t
    | none =>
      match visit locate lo (lo + n) act ((lo + n - 1) / 65536 - lo / 65536 + 1) (lo / 65536) s with
      | .done s => .next (after s).retire
      | .trap s t => raise s t
      | .wait s => waitHere s false

/-- The dirty bytes of a piece in the hart's scalar cache and in the core's VDC lines that the hart answers for go home (R262, R263, R277). -/
def State.pieceHome (s : State) (p : Piece) : State :=
  let h := s.hart
  let s := s.flushScalar h (fun l => p.covers l.line) false
  s.flushVdc (fun l => l.core == h.coreId && p.covers l.line && l.answers h.slot) false

/-- The frames that a SETTLE touches through an SREG page (R262). -/
def settleFrames (s : State) : List Nat → State
  | [] => s
  | f :: fs => settleFrames (s.setSettle f (s.settleOf f + 1)) fs

/-- The SREG frames of a range that has been visited whole, found again by its translations, which all succeed. -/
def State.sregFrames (s : State) (lo hi : Nat) : List Nat :=
  let pages := range (lo / 65536) ((hi - 1) / 65536 - lo / 65536 + 1)
  (pages.filterMap (fun p =>
    let va := max lo (p * 65536)
    if s.hart.ctl || inWindow va then none
    else match s.rangePage .read va with
      | .ok _ pa pte => if Pte.kind pte == 2 && region pa == 0 then some (pa / 65536 * 65536) else none
      | _ => none)).eraseDups

/-- R262: SETTLE, whose counts follow when everything is complete. DEDUCED (log 19): a control core's pages have no entry, hence no kind. -/
def execSettle (o : OpSS) (s : State) : Out :=
  let lo := s.xn o.s1
  let n := s.xn o.s2
  rangeWord .read State.readPage lo n none (fun p s => .done (s.pieceHome p)) (fun s => settleFrames s (s.sregFrames lo (lo + n))) s.drain

/-- R262: RENEW writes back and drops. -/
def execRenew (o : OpSS) (s : State) : Out :=
  rangeWord .read State.readPage (s.xn o.s1) (s.xn o.s2) none (fun p s =>
    let h := s.hart
    let s := s.flushScalar h (fun l => p.covers l.line) true
    .done (s.flushVdc (fun l => l.core == h.coreId && p.covers l.line) true)) id s

/-- R262: SCOUNT. -/
def execScount (o : OpDS) (s : State) : Out :=
  let va := s.xn o.s1
  let answer := fun (s : State) (pa : Nat) =>
    retireX s o.d (if region pa == 0 then BitVec.ofNat 64 (s.settleOf (pa / 65536 * 65536)) else 0)
  if 2 ^ 52 ≤ va then raise s (rangeTrap .read va 4 false)
  else if !s.hart.ctl && inWindow va then retireX s o.d 0
  else match s.rangePage .read va with
    | .trap t => raise s t
    | .wait s => waitHere s false
    | .ok s pa _ => answer s pa

/-- The write-back of a release at a scope, for one piece, SWM lines included (R263, R211). -/
def State.pieceRelease (s : State) (scope : Nat) (p : Piece) : State :=
  let h := s.hart
  if scope = 1 && !h.ctl then s.pushScalar h (fun l => p.covers l.line)
  else
    let s := s.pieceHome p
    if scope = 4 then s.flushMsc (fun m => p.covers m.line && m.who.contains h.loc) else s

/-- Every write-range entry of the core is appended, those for the piece's page among them (R216, R263). -/
def State.pieceAppend (s : State) : State := s.appendRanges (fun e => e.core == s.hart.coreId)

/-- The drop of an acquire at a scope, for one piece (R263): the issuer's own dirty bytes are discarded, except in VDC lines that other harts
also dirtied, which are written back whole first, as are those whose dirty bytes another half has read (R290; log 86). -/
def State.pieceDrop (s : State) (scope : Nat) (p : Piece) : State :=
  let h := s.hart
  let s := s.updHart h.loc (fun g => { g with scache := g.scache.filter (fun l => !p.covers l.line) })
  if scope = 1 && !h.ctl then s
  else
    let mine := fun (l : VLine) => l.core == h.coreId && p.covers l.line
    let s := s.flushVdc (fun l => mine l && (l.writers &&& ~~~writerBit h.slot != 0 || l.seen != 0)) true
    let s := { s with vdc := s.vdc.filter (fun l => !mine l) }
    if scope = 4 then s.flushMsc (fun m => p.covers m.line) else s

/-- A queued store of the hart that executes fetches a line which the core's VDC does not hold, or goes past it. -/
def State.fetches (s : State) (q : QEntry) : Bool :=
  let e := s.hart.ep
  let core := s.hart.coreId
  q.stores && (match q.vmem with
    | some m => (q.todo q.vl).any (fun j => q.active e m.pm j && !s.vdc.any (fun l => l.core == core && l.line == m.line q core e j))
    | none => true)

/-- R263: RWB. DESIGN CHOICE (log 92): of the hart's earlier vector stores, with which no rule orders it (A5), it follows those that fetch a line
into the VDC, and can pass those whose lines the VDC holds. -/
def execRwb (o : OpRange) (s : State) : Out :=
  rangeWord .read State.readPage (s.xn o.s1) (s.xn o.s2) none (fun p s => .done ((s.pieceRelease o.scope.val p).pieceAppend)) id
    (s.drainTo s.fetches)

/-- R263: RINV. -/
def execRinv (o : OpRange) (s : State) : Out :=
  rangeWord .read State.readPage (s.xn o.s1) (s.xn o.s2) none (fun p s => .done (s.pieceDrop o.scope.val p)) id s

/-- R263: RWBINV is RWB and then RINV on the same range. -/
def execRwbinv (o : OpRange) (s : State) : Out :=
  rangeWord .read State.readPage (s.xn o.s1) (s.xn o.s2) none
    (fun p s => .done (((s.pieceRelease o.scope.val p).pieceAppend).pieceDrop o.scope.val p)) id (s.drainTo s.fetches)

/-- The stacks of a frame's pots are called in, and its pot lines cease to be pots (R264). -/
def State.dropPots (s : State) (frame : Nat) : State :=
  let inFrame := fun (pa : Nat) => frame ≤ pa && pa < frame + 65536
  let s := (s.potLines.filter inFrame).foldl State.callIn s
  { s with
    potLines := s.potLines.filter (fun p => !inFrame p)
    potMaps := s.potMaps.filter (fun m => !inFrame m.pa)
    ranges := s.ranges.filter (fun r => !inFrame r.pa) }

/-- DISCARD's work on one page (R264): a page that is not a 64 KiB page of class N, or is REPL, is refused. -/
def discardPage (p : Piece) (s : State) : Visit :=
  let asid := s.hart.asid
  let refuse := Visit.trap s (rangeTrap .write p.lo 0x13 (Pte.cls p.pte))
  match s.tlbFind s.hart.coreId asid p.lo with
  | none => refuse
  | some t =>
    if t.big || Pte.cls p.pte || Pte.kind p.pte == 3 then refuse
    else if Pte.dsc (readPte s t.pteAddr) then .done s
    else
      let s := (s.dropPots p.frame).loseLines asid (fun va => va / 65536 == p.lo / 65536) false
      let s := s.homeStoreNat t.pteAddr 8 (Pte.setBit (readPte s t.pteAddr) 59)
      let s := { s with discarded := (p.frame, t.pteAddr) :: s.discarded.filter (fun e => e.1 != p.frame) }
      .done (s.dropTlb asid (fun va => va / 65536 == p.lo / 65536))

/-- A page that DISCARD visits, translated as a write: a writable REPL page would collapse under a write, and is refused instead (R264). -/
def State.discardLoc (s : State) (va : Nat) : Loc :=
  match s.xlate s.ctx s.hart.coreId s.hart.slot va .write true with
  | .ok s pa pte => .ok s pa pte
  | .fault cause dev => .trap (rangeTrap .write va cause dev)
  | .replay => .wait s
  | .collapse => .trap (rangeTrap .write va 0x13 false)

/-- R264: DISCARD. DEDUCED (log 19): on a control core, whose addresses have no entry to mark, it raises protection. -/
def execDiscard (o : OpSS) (s : State) : Out :=
  let lo := s.xn o.s1
  let n := s.xn o.s2
  let pre :=
    if lo % 65536 ≠ 0 || n % 65536 ≠ 0 then some (rangeTrap .write lo 3 false)
    else if s.hart.ctl then some (rangeTrap .write lo 0x13 false)
    else none
  rangeWord .write State.discardLoc lo n pre discardPage id s

/-- R265: RTOUCH is a hint that changes no state a program can see. DESIGN CHOICE (log 91): it brings no line into a cache. -/
def execRtouch (_ : OpSS) (s : State) : Out := .next s.retire

end Sys2Proof.Machine
end

