-- ==== Sys2Proof/Machine/FarmWords.lean ====
section
/-! DEFINITION. The farm words FARM, STRIP, FEND and FQUERY (R138 to R144). -/

namespace Sys2Proof.Machine

/-- R138: FARM. The checks of the descriptor's address come first; then it is read as an ordinary load reads it, after a release at scope P. -/
def execFarm (o : OpDS) (s : State) : Out :=
  let va := s.xn o.s1
  if s.hart.ctl then illegal s (.farm o)
  else match descAddrTrap va with
    | some t => raise s t
    | none =>
      match (s.release 3).loadDesc va with
      | .trap t => raise (s.release 3) t
      | .wait s => waitHere s false
      | .ok s d =>
        match s.launch s.ctx s.hart.coreId d with
        | .wait s => waitHere s false
        | .result s w => retireX s o.d w

/-- The farm of the hart that executes. -/
def State.farmHere (s : State) : Option Farm := s.farms.find? (fun f => f.asid == s.hart.asid && f.handle == s.hart.farm)

/-- R140: STRIP. A farm without a pot has no strips. -/
def execStrip (o : OpD) (s : State) : Out :=
  if s.hart.ctl then illegal s (.strip o)
  else match s.farmHere with
    | none => .next (s.note.xw o.d (-1)).retire
    | some f => if f.pot = 0 then .next (s.note.xw o.d (-1)).retire else potAt .strip .rmw false o.d f.pot 1 s

/-- The core's stack of the farm's pot goes home with the last hart of the farm on the core (R142). -/
def State.lastOnCore (s : State) (h : Hart) (f : Farm) : State :=
  if (s.coreHarts h.coreId).any (fun g => g.loc != h.loc && g.asid == h.asid && g.farm == h.farm) then s
  else match s.stackOf h.coreId h.asid f.potPa with
    | none => s
    | some k => s.returnStack k

/-- The hart has retired (R142): its lane groups, masks and slot are free, and what it held stands until its slot is taken. -/
def Hart.ended (h : Hart) : Hart := { h with status := .retired, waiting := false, sc := { h.sc with monitor := none } }

/-- The hart has left the package, to be written to an image (R353, R356): its cache and its slot are free. -/
def Hart.leave (h : Hart) : Hart := { h with status := .retired, scache := [], ep := Exec.zero, sc := { h.sc with monitor := none } }

/-- FEND's work once nothing of the hart is incomplete (R142 steps 2 to 5). The slices of its lane groups are flushed (R212); lines of SWM pages
stay in its scalar cache until its slot is taken (R213). -/
def State.fend (s : State) : State :=
  let s := s.release 3
  let h := s.hart
  let s := (s.flushSlices h.coreId h.ep.lg).appendRanges (fun e => e.core == h.coreId && e.asid == h.asid)
  match s.farmHere with
  | none => let s := s.retire; { s with hart := s.hart.ended }
  | some f =>
    let s := (if f.pot = 0 then s else s.lastOnCore h f).retire
    let s := { s with hart := s.hart.ended }
    let s := s.updFarm f.asid f.handle (fun f => { f with retired := f.retired + 1, lastLoc := h.loc, lastPc := h.sc.pc })
    match s.farms.find? (fun g => g.asid == f.asid && g.handle == f.handle) with
    | none => s
    | some f => if f.retired = f.harts then s.completeFarm f else s

/-- R142: FEND. -/
def execFend (s : State) : Out :=
  if s.hart.ctl then illegal s .fend
  else
    let s := s.drain
    if s.copiesDone none && s.bksDone none then .next s.fend else waitHere s false

/-- What FQUERY reports of a handle (R144). -/
def State.fquery (s : State) (h : Nat) : Word :=
  match s.farms.find? (fun f => f.asid == s.hart.asid && f.handle == h) with
  | some f => BitVec.ofNat 64 ((if f.admitted = 0 then 1 else 2) * 2 ^ 62 + f.retired * 2 ^ 24 + f.admitted)
  | none => if 0 < h && h < s.ctx.farmNext then 3 <<< 62 else 0

/-- R144: FQUERY. -/
def execFquery (o : OpDS) (s : State) : Out :=
  if s.hart.ctl then illegal s (.fquery o) else retireX s o.d (s.fquery (s.xn o.s1))

end Sys2Proof.Machine
end

