-- ==== Sys2Proof/Machine/Copy.lean ====
section
/-! DEFINITION. The copy engines: issue, chunks, parking, remote copies, and the words CPY, CPYWAIT and CPYQ (R297 to R306, R376 to R378). -/

namespace Sys2Proof.Machine

/-! ### Descriptors and chunks (R301, R302) -/

/-- The second operand's fields. -/
def copyMsel (xs2 : Word) : Nat := wbits xs2 0 4
def copyIrq (xs2 : Word) : Nat := wbits xs2 4 2
def copyMbit (xs2 : Word) : Nat := wbits xs2 6 17

/-- LINK: the remote device, or 0, and the barrier's address, or 0. -/
def copyDev (d : List Byte) : Nat := bits (fieldAt d 56 8) 52 12
def copyBar (d : List Byte) : Nat := bits (fieldAt d 56 8) 6 46 * 64

/-- Bytes per row. -/
def copyRowLen (d : List Byte) : Nat := fieldAt d 48 4

/-- Chunks of one row. -/
def chunksPerRow (d : List Byte) : Nat := (copyRowLen d + 4095) / 4096

/-- The number of chunks of a copy. -/
def chunkCount (d : List Byte) : Nat := fieldAt d 54 2 * fieldAt d 52 2 * chunksPerRow d

/-- The bytes of chunk `c`. -/
def chunkLen (d : List Byte) (c : Nat) : Nat := min 4096 (copyRowLen d - c % chunksPerRow d * 4096)

/-- The address of chunk `c`'s first byte on a side: its base lies at `off` and its strides at `s1` and `s2` of the descriptor. -/
def chunkAddr (d : List Byte) (off s1 s2 c : Nat) : Nat :=
  let row := c / chunksPerRow d
  let rows := fieldAt d 52 2
  (fieldAt d off 8 + row / rows * fieldAt d s2 8 + row % rows * fieldAt d s1 8 + c % chunksPerRow d * 4096) % 2 ^ 64

def chunkSrc (d : List Byte) (c : Nat) : Nat := chunkAddr d 0 16 24 c
def chunkDst (d : List Byte) (c : Nat) : Nat := chunkAddr d 8 32 40 c

/-- The mask bits of a command overlap those of another (R302). -/
def maskOverlap (x2 : Word) (n : Nat) (c : CopyCmd) : Bool :=
  let lo := copyMbit c.xs2
  copyMsel c.xs2 == copyMsel x2 && lo < copyMbit x2 + n && copyMbit x2 < lo + chunkCount c.desc

/-- CPY writes −1 (R302). -/
def State.copyBad (s : State) (d : List Byte) (x2 : Word) : Bool :=
  let n := chunkCount d
  wbits x2 23 41 != 0 || bits (fieldAt d 56 8) 0 6 != 0 || copyIrq x2 == 3 || 8 < copyMsel x2
    || copyRowLen d == 0 || fieldAt d 52 2 == 0 || fieldAt d 54 2 == 0 || 2 ^ 32 ≤ n
    || (copyMsel x2 != 0 && (131072 < copyMbit x2 + n || s.copies.any (fun c => c.owner == s.hart.owner && maskOverlap x2 n c)))
    || (copyDev d != 0 && !s.ctx.features.getLsbD 4)

/-! ### Issue (R298) -/

/-- Incomplete copy commands of the hart that executes: each holds an entry of CPQ (R125). -/
def State.copiesOf (s : State) (o : Owner) : List CopyCmd := s.copies.filter (fun c => c.owner == o)

/-- The clear that a copy which marks a mask dispatches first (R303). -/
def State.maskClear (s : State) (d : List Byte) (x2 : Word) : QEntry :=
  { s.entry (.cpy ⟨0, 0, 0⟩) true 0 0 with word := .maskClear (copyMsel x2 - 1) (copyMbit x2) (chunkCount d) s.hart.sc.copyTag }

/-- The command is enqueued under the hart's next tag, and the clear of its mask bits is dispatched (R298, R303). -/
def State.issueCopy (s : State) (d : List Byte) (x2 : Word) : State × Word :=
  let tag := s.hart.sc.copyTag
  let masked := copyMsel x2 != 0
  let cmd : CopyCmd := ⟨s.hart.owner, s.hart.loc, tag, s.hart.sc.pc, x2, d, 0, 1, !masked, false, 0⟩
  let clear := s.maskClear d x2
  let s := { s.sc (fun c => { c with copyTag := tag + 1 }) with copies := s.copies ++ [cmd] }
  (if masked then s.send clear else s, BitVec.ofNat 64 tag)

/-- R298: CPY. A remote copy releases at scope Y (R378). -/
def execCpy (o : OpDSS) (s : State) : Out :=
  let va := s.xn o.s1
  if s.hart.ctl then illegal s (.cpy o)
  else match descAddrTrap va with
    | some t => raise s t
    | none =>
      match (s.release 3).loadDesc va with
      | .trap t => raise (s.release 3) t
      | .wait s => waitHere s false
      | .ok s d =>
        let x2 := s.xr o.s2
        if s.copyBad d x2 then retireX s o.d (-1)
        else if 16 ≤ (s.copiesOf s.hart.owner).length || (copyMsel x2 != 0 && !s.epRoom [s.maskClear d x2]) then waitHere s false
        else
          let r := (if copyDev d = 0 then s else s.release 4).issueCopy d x2
          retireX r.1 o.d r.2

/-- R299: CPYWAIT, an architected wait. -/
def execCpywait (o : OpS) (s : State) : Out :=
  if s.hart.ctl then illegal s (.cpywait o)
  else if s.copiesDone (some (s.xn o.s1)) then .next s.retire else waitHere s true

/-- What CPYQ reports of a tag (R300). -/
def State.copyState (s : State) (tag : Nat) : Word :=
  match (s.copiesOf s.hart.owner).find? (fun c => c.tag == tag) with
  | some c => BitVec.ofNat 64 (c.state * 2 ^ 62 + c.next)
  | none => if 0 < tag && tag < s.hart.sc.copyTag then 3 <<< 62 else 0

/-- R300: CPYQ. -/
def execCpyq (o : OpDS) (s : State) : Out :=
  if s.hart.ctl then illegal s (.cpyq o) else retireX s o.d (s.copyState (s.xn o.s1))

/-! ### Chunks (R304, R305) -/

/-- A run of bytes on one page, translated for an engine. -/
structure Seg where
  va : Nat
  len : Nat
  pa : Nat
  pte : Nat

/-- How an engine's checks of a run of addresses end. -/
inductive Side where
  | ok (s : State) (segs : List Seg)
  | fail (s : State) (cause tval : Nat) (dev : Bool)
  | wait (s : State)

/-- The parts of a run of addresses that lie on each page. -/
def pageRuns (va len : Nat) : List (Nat × Nat) :=
  (range (va / 65536) (if len = 0 then 0 else (va + len - 1) / 65536 - va / 65536 + 1)).map (fun p =>
    let lo := max va (p * 65536)
    (lo, min (va + len) (p * 65536 + 65536) - lo))

/-- The core of a hart's number. -/
def coreOf (hartid : Nat) : Nat := hartid / 4

/-- The page of a run as an engine finds it: translated without the clause for region 4 (R343), the window's bytes in the core's bank where
`pad`; last comes the engine's own check of the page, which answers its cause (R304, R311). -/
def State.engPage (s : State) (c : Context) (core : Nat) (k : Kind) (pad : Bool) (own : Nat → Nat → Option Nat) (va len : Nat) : Side :=
  if inWindow va then
    (if pad then .ok s [⟨va, len, padAddr core (va - windowBase), 0⟩]
     else .fail s 0x1A va false)
  else match s.xlate c core secondLevel va k false with
    | .fault cause dev => .fail s cause va dev
    | .replay => .wait s
    | .collapse => .wait (s.stall ⟨c.asid, va, core / 16⟩)
    | .ok s pa pte =>
      match own pa pte with
      | some cause => .fail s cause va (Pte.cls pte)
      | none => .ok s [⟨va, len, pa, pte⟩]

/-- The pages of runs in order; the first that fails or waits ends the checks. -/
def State.engPages (c : Context) (core : Nat) (k : Kind) (pad : Bool) (own : Nat → Nat → Option Nat) :
    List (Nat × Nat) → State → List Seg → Side
  | [], s, segs => .ok s segs
  | r :: rs, s, segs =>
    match s.engPage c core k pad own r.1 r.2 with
    | .ok s more => State.engPages c core k pad own rs s (segs ++ more)
    | other => other

/-- A whole run: an address at or above 2^52 fails first (R304). -/
def State.engRun (s : State) (c : Context) (core : Nat) (k : Kind) (pad : Bool) (own : Nat → Nat → Option Nat) (va len : Nat) : Side :=
  if 2 ^ 52 < va + len then .fail s 4 (max va (2 ^ 52)) false else State.engPages c core k pad own (pageRuns va len) s []

/-- A copy's class check: a page outside class N (R304). -/
def copyOwn (_ pte : Nat) : Option Nat := if Pte.cls pte then some 0x19 else none

/-- A way to another device (R376): the ports, the node, and the address space there. -/
structure Route where
  ports : Nat
  node : Nat
  rasid : Nat

/-- The route table's entry for a device on a die, where it is valid and open to the address space (R376, R377). -/
def State.route (s : State) (die dev asid : Nat) : Option Route :=
  let rt := (s.die die).rtbase
  let e := wbits rt 16 36 * 65536 + 16 * dev
  let w0 := s.homeNat e 8
  let w1 := s.homeNat (e + 8) 8
  if rt.getLsbD 0 && nbit w0 63 && bits w0 48 15 == 0 && bits w0 32 16 == asid && bits w1 20 44 == 0 then
    some ⟨bits w0 0 16, bits w1 0 20, bits w0 16 16⟩
  else none

/-- A copy parks with its record (R305, R336). -/
def State.parkCopy (s : State) (c : CopyCmd) (cause tval access : Nat) : State :=
  { s with
    copies := s.copies.map (fun d => if d = c then { d with state := 2, sent := false } else d)
    outbox := s.outbox.filter (fun o => !(o.owner == c.owner && o.tag == c.tag))
    faults := s.faults ++ [⟨c.hartid / 64, .copy c.owner c.tag,
      faultRecord cause 1 access c.owner.asid c.hartid c.pc tval c.next 0 0 0 0 c.tag, none⟩] }

/-- The hart that issued a command, where it is on the package. -/
def State.hartOf (s : State) (o : Owner) : Option Hart := s.allHarts.find? (fun h => h.admitted && h.owner == o)

/-- A change to the hart that issued a command. -/
def State.updOwner (s : State) (o : Owner) (f : Hart → Hart) : State :=
  s.mapHarts (fun h => if h.admitted && h.owner == o then f h else h)

/-- A set mask bit. -/
def Hart.mark (h : Hart) (m i : Nat) : Hart := { h with ep := h.ep.setMask m (setBitsAt (h.ep.mask m) i 1 1) }

/-- The marks that a hart which was away is owed by a command: the bits of its complete chunks and its events (R303, R304). -/
def CopyCmd.settleOn (c : CopyCmd) (h : Hart) : Hart :=
  let h := if copyMsel c.xs2 = 0 then h
    else
      let m := copyMsel c.xs2 - 1
      let bits := setBitsAt (h.ep.mask m) (copyMbit c.xs2) c.next (2 ^ c.next - 1)
      { h with ep := h.ep.setMask m bits }
  if c.owed = 0 then h
  else { h with sc := { h.sc with uiPend := true, uiCount := h.sc.uiCount + c.owed, uiTag := BitVec.ofNat 32 c.tag } }

/-- The chunk's mark and event, steps 6 and 7 of R304, and the command's end. The command goes behind those of other harts, which the engine
serves in turn (R306). -/
def State.chunkDone (s : State) (c : CopyCmd) : State :=
  let n := chunkCount c.desc
  let irq := copyIrq c.xs2 = 2 || (copyIrq c.xs2 = 1 && c.next + 1 = n)
  let here := (s.hartOf c.owner).isSome
  let mark := fun (h : Hart) =>
    let h := if copyMsel c.xs2 = 0 then h else h.mark (copyMsel c.xs2 - 1) (copyMbit c.xs2 + c.next)
    if irq then { h with sc := h.sc.raiseEvent c.tag } else h
  let s := s.updOwner c.owner mark
  let s := { s with outbox := s.outbox.filter (fun o => !(o.owner == c.owner && o.tag == c.tag)) }
  let c' := { c with next := c.next + 1, sent := false, owed := if irq && !here then c.owed + 1 else c.owed }
  let mine := (s.copies.map (fun d => if d = c then c' else d)).filter (fun d => d.owner == c.owner)
  let rest := s.copies.filter (fun d => d.owner != c.owner)
  let s := if c'.next = n then s.progress c.owner.asid else s
  if c'.next = n && (here || (copyMsel c.xs2 = 0 && copyIrq c.xs2 = 0)) then { s with copies := rest ++ mine.filter (fun d => d != c') }
  else { s with copies := rest ++ mine }

/-- Bytes written at home by an engine, with the write-range bits of SWM pages (R304, R216). -/
def State.engWrite (s : State) (core asid who : Nat) (g : Seg) (bs : List Byte) : State :=
  if isPad g.pa then s.homeStore g.pa bs
  else
    let s := s.mergeBytes g.pa bs who
    if Pte.kind g.pte == 1 then
      (range (g.va / 1024) ((g.va + g.len - 1) / 1024 - g.va / 1024 + 1)).foldl (fun s b => s.collect core asid (b * 1024)) s
    else s

/-- Copies of written lines in the caches of a core are dropped, dirty bytes first going home (R304). -/
def State.dropCopies (s : State) (core : Nat) (g : Seg) : State :=
  let hit := fun (line : Nat) => g.pa / 64 ≤ line && line ≤ (g.pa + g.len - 1) / 64
  let s := (s.allHarts.filter (fun h => h.coreId == core)).foldl (fun s h => s.flushScalar h (fun l => hit l.line) true) s
  s.flushVdc (fun l => l.core == core && hit l.line) true

/-- The bytes of translated runs. -/
def State.segBytes (s : State) (segs : List Seg) : List Byte := segs.flatMap (fun g => s.homeBytes g.pa g.len)

/-- Bytes laid over translated runs. -/
def State.segWrite (core asid who : Nat) : List Seg → List Byte → State → State
  | [], _, s => s
  | g :: gs, bs, s => State.segWrite core asid who gs (bs.drop g.len) (s.engWrite core asid who g (bs.take g.len))

/-- Step 5: the barrier's PENDING falls by the chunk's bytes; none where R257 or the amount forbids it. -/
def State.barPay (s : State) (pa n : Nat) : Option State :=
  if s.barOk pa && n ≤ s.barPending pa then some (s.barSet pa (s.barArrived pa) (s.barPending pa - n)) else none

/-- The barrier of a chunk, found before its bytes move. -/
inductive ChunkBar where
  | unnamed
  | found (s : State) (pa : Nat)
  | fault (s : State) (cause : Nat) (dev : Bool)
  | wait (s : State)

def State.chunkBar (s : State) (x : Context) (c : CopyCmd) : ChunkBar :=
  let va := copyBar c.desc
  if va = 0 then .unnamed
  else match s.object x (coreOf c.hartid) va 0x18 with
    | .ok s pa => .found s pa
    | .fault s cause dev => .fault s cause dev
    | .wait s => .wait s

/-- The command parks at its barrier (R305). -/
def State.parkAtBar (s : State) (c : CopyCmd) (cause : Nat) (dev : Bool) : State :=
  s.parkCopy c cause (copyBar c.desc) (accessByte .rmw 2 dev)

/-- The state after a wait, where the wait has invoked a collapse that none had invoked before (R221, R222). -/
def State.stalled (s t : State) : Option State := if t.collapses.length = s.collapses.length then none else some t

/-- Steps 5 to 7 of a chunk around the moving of its `n` bytes (R304): its barrier is found first, and judged and paid after. -/
def State.chunkSteps (s : State) (x : Context) (c : CopyCmd) (n : Nat) (move : State → State) : Option State :=
  match s.chunkBar x c with
  | .unnamed => some ((move s).chunkDone c)
  | .fault s cause dev => some (s.parkAtBar c cause dev)
  | .wait t => s.stalled t
  | .found s pa =>
    let s := (move s).barNorm pa
    match s.barPay pa n with
    | some s => some (s.chunkDone c)
    | none => some (s.parkAtBar c 0x18 false)

/-- The bytes of a local chunk move, and the core's copies of the written lines are dropped (R304 steps 2 to 4). -/
def State.chunkMove (c : CopyCmd) (src dst : List Seg) (s : State) : State :=
  let core := coreOf c.hartid
  let s := State.segWrite core c.owner.asid c.hartid dst (s.segBytes src) s
  dst.foldl (fun s g => s.dropCopies core g) s

/-- The ACCESS byte of a copy's chunk (R336). -/
def copyAccess (k : Kind) (dev : Bool) : Nat := accessByte k 0 dev

/-- A remote chunk is sent on its route; it stays until it is acknowledged (R377). -/
def State.sendChunk (s : State) (c : CopyCmd) (r : Route) (bs : List Byte) : State :=
  { s with
    copies := s.copies.map (fun d => if d = c then { d with sent := true } else d)
    outbox := s.outbox ++ [⟨c.owner, c.tag, coreOf c.hartid / 16, r.ports, r.node, r.rasid, chunkDst c.desc c.next, bs⟩] }

/-- The next chunk of a command (R304, R377): none while it waits for a migrating page. -/
def State.copyChunk (s : State) (c : CopyCmd) : Option State :=
  match s.ctxOf c.owner.asid with
  | none => none
  | some x =>
    let core := coreOf c.hartid
    let n := chunkLen c.desc c.next
    let dst := chunkDst c.desc c.next
    match s.engRun x core .read true copyOwn (chunkSrc c.desc c.next) n with
    | .fail s cause tval dev => some (s.parkCopy c cause tval (copyAccess .read dev))
    | .wait t => s.stalled t
    | .ok s src =>
      if copyDev c.desc = 0 then
        (match s.engRun x core .write true copyOwn dst n with
        | .fail s cause tval dev => some (s.parkCopy c cause tval (copyAccess .write dev))
        | .wait t => s.stalled t
        | .ok s ds => s.chunkSteps x c n (State.chunkMove c src ds))
      else if 2 ^ 52 < dst + n then some (s.parkCopy c 4 (max dst (2 ^ 52)) (copyAccess .write false))
      else match s.route (core / 16) (copyDev c.desc) x.asid with
        | none => some (s.parkCopy c 0x19 dst (copyAccess .write false))
        | some r => some (s.sendChunk c r (s.segBytes src))

/-- The causes with which another device can refuse a chunk: those of a write's page that R326 gives, and the copy's own (R377). -/
def remoteCause (cause : Nat) : Bool := [0x12, 0x13, 0x14, 0x15, 0x19].contains cause

/-- The acknowledgement of a remote chunk: 0, or the remote device's cause, the first address of the chunk on the failing page there, and whether
that page is of class D (R305, R336, R377); an address outside the chunk stands for its first. -/
def State.copyAck (s : State) (c : CopyCmd) (cause addr : Nat) (dev : Bool) : Option State :=
  let n := chunkLen c.desc c.next
  let dst := chunkDst c.desc c.next
  if cause ≠ 0 then
    (if remoteCause cause then some (s.parkCopy c cause (if dst ≤ addr && addr < dst + n then addr else dst) (copyAccess .write dev)) else none)
  else match s.ctxOf c.owner.asid with
    | none => none
    | some x => s.chunkSteps x c n id

/-- The commands whose next chunk the engines can perform: each hart's oldest unfinished command, where it has entered the engine, is not
parked, and waits for no acknowledgement (R303, R305, R306). -/
def State.copyReady (s : State) : List CopyCmd :=
  let live := s.copies.filter (fun c => c.next < chunkCount c.desc)
  live.filter (fun c => s.ctxRuns c.owner.asid && live.find? (fun d => d.owner == c.owner) == some c && c.state == 1 && c.entered && !c.sent)

/-- The next chunk that can be performed, performed: one of the engine of core `engine` − 1 where that has one (R304). DESIGN CHOICE (log 84): else
the engines are served in the order of the list. -/
def State.nextChunk (s : State) (engine : Nat) : Option State :=
  (s.copyReady.filter (fun c => coreOf c.hartid + 1 == engine) ++ s.copyReady).findSome? s.copyChunk

/-- The number under which another device's writes stand where a hart's would. -/
def remoteWho : Nat := 513

/-- A chunk that another device sends (R377), and the answer to it: it merges where its address space is that of a running context here and
every page of it is writable and of class N, and stays to be performed while a page of it migrates or is to collapse. DEDUCED (log 74): a context
that is not in STATE 1 is not found, and an address in the scratchpad window is outside class N. -/
def State.remoteWrite (s : State) (rasid va : Nat) (bs : List Byte) : Option State :=
  let answer := fun (s : State) (cause tval : Nat) (dev : Bool) => some { s with answers := s.answers ++ [⟨rasid, va, cause, tval, dev⟩] }
  match s.contexts.find? (fun c => c.asid == rasid && c.state == 1) with
  | none => answer s 0x19 va false
  | some x =>
    match s.engRun x 0 .write false copyOwn va bs.length with
    | .ok t segs => answer (State.segWrite 0 rasid remoteWho segs bs t) 0 0 false
    | .fail t cause tval dev => answer t (if cause = 0x1A then 0x19 else cause) tval dev
    | .wait t => s.stalled t

end Sys2Proof.Machine
end

