-- ==== Sys2Proof/Machine/Strelvis.lean ====
section
/-! DEFINITION. The Strelvis units: commands, checks, parts and fences, and the words BKOP, BGEMV, BATTN, BKFENCE and BKWAIT (R298, R299, R310
to R321). -/

namespace Sys2Proof.Machine

/-! ### Descriptors -/

/-- The kinds of command, by funct5. -/
def kindBkop : Nat := 2
def kindBgemv : Nat := 3
def kindBattn : Nat := 4

/-- The gate's address and the expected count (R312). -/
def bkGate (d : List Byte) : Nat := fieldAt d 40 8
def bkExpect (d : List Byte) : Nat := fieldAt d 48 4

/-- OP and TYPE of a BKOP (R314), and its element size. -/
def bkOp (d : List Byte) : Nat := fieldAt d 52 1
def bkType (d : List Byte) : Nat := fieldAt d 53 1
def bkSize (ty : Nat) : Nat := if ty = 2 then 2 else 4

/-- The operation uses its operand a, or b (R314). -/
def bkUsesA (op : Nat) : Bool := op != 6
def bkUsesB (op : Nat) : Bool := op != 4 && op != 6

/-- Two runs of n bytes overlap in part. -/
def partOverlap (a b n : Nat) : Bool := a != b && a < b + n && b < a + n

/-- BKOP writes −1 (R314). DEDUCED (log 20): also for a COUNT above 2^40, and for a GATE with EXPECT 0 (R312). -/
def bkopBad (d : List Byte) : Bool :=
  let op := bkOp d
  let ty := bkType d
  let e := bkSize ty
  let dst := fieldAt d 0 8
  let a := fieldAt d 8 8
  let b := fieldAt d 16 8
  let n := fieldAt d 24 8 * e
  6 < op || 2 < ty || fieldAt d 54 10 != 0 || dst % e != 0 || 2 ^ 40 < fieldAt d 24 8
    || (if bkUsesA op then a % e != 0 || partOverlap dst a n else a != 0)
    || (if bkUsesB op then b % e != 0 || partOverlap dst b n else b != 0)
    || (bkExpect d == 0 && bkGate d != 0)

/-- The element size of A and x of a BGEMV (R316). -/
def gemvSize (d : List Byte) : Nat := bkSize (fieldAt d 52 1)

/-- BGEMV writes −1 (R316, R317). -/
def bgemvBad (d : List Byte) : Bool :=
  let e := gemvSize d
  let rows := fieldAt d 24 4
  let cols := fieldAt d 28 4
  !(fieldAt d 52 1 == 1 || fieldAt d 52 1 == 2) || 2 ≤ fieldAt d 53 1 || fieldAt d 54 2 != 0
    || rows == 0 || 2 ^ 24 < rows || cols == 0 || 2 ^ 24 < cols || fieldAt d 32 8 < cols
    || fieldAt d 0 8 % 4 != 0 || fieldAt d 8 8 % e != 0 || fieldAt d 16 8 % e != 0 || fieldAt d 56 8 % 64 != 0
    || (bkExpect d == 0 && bkGate d != 0)

/-- The head width of a BATTN (R317). -/
def attnDh (d : List Byte) : Nat := fieldAt d 36 2

/-- BATTN writes −1 (R317). -/
def battnBad (d : List Byte) : Bool :=
  !([16, 32, 64, 128, 256, 512].contains (attnDh d)) || 2 ^ 20 < fieldAt d 32 4 || fieldAt d 38 2 != 0 || fieldAt d 56 8 != 0
    || fieldAt d 0 8 % 2 != 0 || fieldAt d 8 8 % 8 != 0 || fieldAt d 16 8 % 4 != 0 || fieldAt d 24 8 % 4 != 0
    || (bkExpect d == 0 && bkGate d != 0)

/-- The rows that the banks compute (R316). -/
def gemvRows (c : BkCmd) : Nat := fieldAt c.desc 24 4 * c.bank.getD 0 / 256

/-! ### Issue (R298) -/

/-- The incomplete Strelvis commands of a hart: each holds an entry of BKQ (R125). -/
def State.bksOf (s : State) (o : Owner) : List BkCmd := s.bks.filter (fun c => c.owner == o)

/-- The command is enqueued under the hart's next tag. -/
def State.issueBk (s : State) (kind : Nat) (d : List Byte) : State × Word :=
  let c := s.hart.sc
  let cmd : BkCmd := ⟨s.hart.owner, s.hart.loc, c.bkTag, c.pc, kind, d, some c.splitr.toNat, c.bkEpoch, 0, [], 0, 0, [], none⟩
  ({ s.sc (fun c => { c with bkTag := c.bkTag + 1 }) with bks := s.bks ++ [cmd] }, BitVec.ofNat 64 c.bkTag)

/-- The issue of a Strelvis command (R298): the checks of the descriptor's address, then the release, then its reading. -/
def bkWord (kind : Nat) (bad : List Byte → Bool) (i : Instr) (o : OpDS) (s : State) : Out :=
  let va := s.xn o.s1
  if s.hart.ctl then illegal s i
  else match descAddrTrap va with
    | some t => raise s t
    | none =>
      match (s.release 3).loadDesc va with
      | .trap t => raise (s.release 3) t
      | .wait s => waitHere s false
      | .ok s d =>
        if bad d then retireX s o.d (-1)
        else if 32 ≤ (s.bksOf s.hart.owner).length then waitHere s false
        else
          let r := s.issueBk kind d
          retireX r.1 o.d r.2

/-- R314: BKOP. -/
def execBkop (o : OpDS) (s : State) : Out := bkWord kindBkop bkopBad (.bkop o) o s

/-- R316: BGEMV. -/
def execBgemv (o : OpDS) (s : State) : Out := bkWord kindBgemv bgemvBad (.bgemv o) o s

/-- R317: BATTN. -/
def execBattn (o : OpDS) (s : State) : Out := bkWord kindBattn battnBad (.battn o) o s

/-- R318: BKFENCE parts the hart's commands into those before and those after. -/
def execBkfence (s : State) : Out :=
  if s.hart.ctl then illegal s .bkfence
  else .next (s.sc (fun c => { c with bkEpoch := c.bkEpoch + 1 })).retire

/-- R299: BKWAIT, an architected wait. -/
def execBkwait (o : OpS) (s : State) : Out :=
  if s.hart.ctl then illegal s (.bkwait o)
  else if s.bksDone (some (s.xn o.s1)) then .next s.retire else waitHere s true

/-! ### Parts (R310, R311) -/

/-- Bits [14:8] of an address: the unit within a die. -/
def unitOf (va : Nat) : Nat := va / 256 % 128

/-- The first granules of a run of granules, one for each unit that it touches. -/
def firstGranules (va len : Nat) : List Nat :=
  if len = 0 then [] else range (va / 256) (min 128 ((va + len - 1) / 256 - va / 256 + 1))

/-- A part that has not begun. -/
def newPart (u dh : Nat) : Part := ⟨0, u, 0, false, 0, 0xFF800000, 0, List.replicate dh 0⟩

/-- The address of row `r` of A. -/
def rowAddr (d : List Byte) (r : Nat) : Nat := fieldAt d 8 8 + r * fieldAt d 32 8 * gemvSize d

/-- The parts of a command, by the units of their die (R311). -/
def bkParts (c : BkCmd) : List Part :=
  let d := c.desc
  if c.kind = kindBkop then
    (firstGranules (fieldAt d 0 8) (fieldAt d 24 8 * bkSize (bkType d))).map (fun g => newPart (g % 128) 0)
  else if c.kind = kindBgemv then
    let units := (List.range (gemvRows c)).flatMap (fun r =>
      (firstGranules (rowAddr d r) (fieldAt d 28 4 * gemvSize d)).map (· % 128))
    units.eraseDups.map (fun u => newPart u 0)
  else [newPart (unitOf (fieldAt d 16 8)) (attnDh d)]

/-! ### Checks (R311, R312) -/

/-- Tokens of a key and value page (R317). -/
def attnP (d : List Byte) : Nat := 16384 / attnDh d

/-- The pages of the block table that the tokens need. -/
def attnPages (d : List Byte) : Nat := (fieldAt d 32 4 + attnP d - 1) / attnP d

/-- A Strelvis page: SREG, of class N, and homed on the command's die where one is named. -/
def bkOwn (die : Option Nat) (pa pte : Nat) : Option Nat :=
  if Pte.kind pte != 2 || Pte.cls pte || (match die with | some k => homeDie pa != k | none => false) then some 0x1A else none

/-- The operand runs whose addresses the descriptor gives: address, length, and whether the run is written. -/
def bkRuns (c : BkCmd) : List (Nat × Nat × Bool) :=
  let d := c.desc
  if c.kind = kindBkop then
    let n := fieldAt d 24 8 * bkSize (bkType d)
    [(fieldAt d 0 8, n, true)] ++ (if bkUsesA (bkOp d) then [(fieldAt d 8 8, n, false)] else [])
      ++ (if bkUsesB (bkOp d) then [(fieldAt d 16 8, n, false)] else [])
  else if c.kind = kindBgemv then
    let rb := gemvRows c
    if rb = 0 then []
    else [(fieldAt d 0 8, 4 * rb, true)] ++ (List.range rb).map (fun r => (rowAddr d r, fieldAt d 28 4 * gemvSize d, false))
      ++ [(fieldAt d 16 8, fieldAt d 28 4 * gemvSize d, false)]
  else
    [(fieldAt d 0 8, 2 * attnDh d, false), (fieldAt d 8 8, 8 * attnPages d, false), (fieldAt d 16 8, 4 * attnDh d, true)]
      ++ (if fieldAt d 24 8 = 0 then [] else [(fieldAt d 24 8, 8, true)])

/-- The keys and values of each page that the block table names. -/
def attnRuns (d : List Byte) (table : List Byte) : List (Nat × Nat × Bool) :=
  (List.range (attnPages d)).flatMap (fun i =>
    let n := min (attnP d) (fieldAt d 32 4 - i * attnP d)
    let p := fieldAt table (8 * i) 8
    [(p, 2 * attnDh d * n, false), (p + 32768, 2 * attnDh d * n, false)])

/-- The element width code in ACCESS (R336). -/
def bkWidth (c : BkCmd) : Nat :=
  if c.kind = kindBkop then (if bkType c.desc = 2 then 1 else 2)
  else if c.kind = kindBgemv then (if fieldAt c.desc 52 1 = 2 then 1 else 2)
  else 1

/-- A command parks with its record (R311, R336). -/
def State.parkBk (s : State) (c : BkCmd) (state cause tval access : Nat) : State :=
  { s with
    bks := s.bks.map (fun d => if d = c then { d with state := state } else d)
    faults := s.faults ++ [⟨c.hartid / 64, .strelvis c.owner c.tag,
      faultRecord cause 2 access c.owner.asid c.hartid c.pc tval 0 0 0 0 0 c.tag, none⟩] }

/-- The pages of segments, for a command that keeps them. -/
def keepPages (ps : List PageRef) (segs : List Seg) : List PageRef :=
  segs.foldl (fun ps g =>
    let page := g.va / 65536 * 65536
    if ps.any (fun p => p.va == page) then ps else ps ++ [⟨page, g.pa - g.va % 65536, g.pte⟩]) ps

/-- How the checks of a command end: passed with its pages and its gate's frame, a fault, or a wait. -/
inductive Checked where
  | ok (s : State) (pages : List PageRef) (gate : Option Nat)
  | fail (s : State) (cause tval access : Nat)
  | wait (s : State)

/-- Runs checked in order; an empty run has no page. -/
def checkRuns (x : Context) (core width die : Nat) : List (Nat × Nat × Bool) → List PageRef → State → Checked
  | [], ps, s => .ok s ps none
  | (va, len, wr) :: rs, ps, s =>
    let k := if wr then Kind.write else Kind.read
    if len = 0 then checkRuns x core width die rs ps s
    else match s.engRun x core k false (bkOwn (some die)) va len with
      | .ok s segs => checkRuns x core width die rs (keepPages ps segs) s
      | .fail s cause tval dev => .fail s cause tval (accessByte k width dev)
      | .wait s => .wait s

/-- The die of the first operand page, where that translates. -/
def State.bkDie (s : State) (x : Context) (core : Nat) (runs : List (Nat × Nat × Bool)) : Nat :=
  match runs.find? (fun r => r.2.1 != 0) with
  | none => 0
  | some (va, _, _) =>
    match s.xlate x core secondLevel va .read false with
    | .ok _ pa _ => homeDie pa
    | _ => 0

/-- The gate's page, checked as a read on any die, and its frame (R312). -/
def gateCheck (x : Context) (core : Nat) (d : List Byte) (ps : List PageRef) (s : State) : Checked :=
  if bkExpect d = 0 then .ok s ps none
  else match s.engRun x core .read false (bkOwn none) (bkGate d) 1 with
    | .ok s segs => .ok s ps (segs.head?.map (fun g => g.pa / 65536 * 65536))
    | .fail s cause tval dev => .fail s cause tval (accessByte .read 0 dev)
    | .wait s => .wait s

/-- The pages of a run of a command's bytes, as its checks translated them, or translated again where the translation has been invalidated since
(R321, R346); none where a page does not translate, so that the part waits. -/
def State.partPages (x : Context) (c : BkCmd) (k : Kind) : List (Nat × Nat) → State → List Seg → Option (State × List Seg)
  | [], s, segs => some (s, segs)
  | (va, len) :: rs, s, segs =>
    match c.pages.find? (fun p => p.va == va / 65536 * 65536) with
    | some p => State.partPages x c k rs s (segs ++ [⟨va, len, p.pa + va % 65536, p.pte⟩])
    | none => match s.engPage x (coreOf c.hartid) k false (fun _ _ => none) va len with
      | .ok s more => State.partPages x c k rs s (segs ++ more)
      | _ => none

/-- The bytes of a command's run at home. -/
def State.runBytes (s : State) (x : Context) (c : BkCmd) (va len : Nat) : Option (List Byte) :=
  (State.partPages x c .read (pageRuns va len) s []).map (fun r => r.1.segBytes r.2)

/-- Every page of a command checked (R311), and the die of its operands. DEDUCED (log 58): the order of the runs. -/
def State.bkCheck (s : State) (x : Context) (c : BkCmd) : Checked × Nat :=
  let core := coreOf c.hartid
  let runs := bkRuns c
  let die := s.bkDie x core runs
  let w := bkWidth c
  let first := checkRuns x core w die runs [] s
  let second := match first with
    | .ok s ps _ =>
      if c.kind = kindBattn then
        (match s.runBytes x { c with pages := ps } (fieldAt c.desc 8 8) (8 * attnPages c.desc) with
         | some table => checkRuns x core w die (attnRuns c.desc table) ps s
         | none => .wait s)
      else .ok s ps none
    | other => other
  (match second with
   | .ok s ps _ => gateCheck x core c.desc ps s
   | other => other, die)

/-- A command's checks, made once those of its hart's earlier commands have passed (R311): its parts arrive at their units. DEDUCED (log 21): a
parked command holds back its hart's later commands, which arrive in program order. -/
def State.bkAdmit (s : State) (c : BkCmd) : Option State :=
  match s.ctxOf c.owner.asid with
  | none => none
  | some x =>
    match s.bkCheck x c with
    | (.fail t cause tval access, _) => some (t.parkBk c 2 cause tval access)
    | (.wait t, _) => s.stalled t
    | (.ok t ps gate, die) =>
      let parts := (if c.parts.isEmpty then bkParts c else c.parts).map (fun (p : Part) => { p with unit := 128 * die + p.uva })
      some { t with bks := t.bks.filter (fun d => d != c) ++ [{ c with state := 1, parts := parts, pages := ps, gate := gate }] }

/-! ### Arithmetic (R313 to R317) -/

/-- The elements of `e` bytes in a run of bytes. -/
def elemsOf (e : Nat) (bs : List Byte) : List Nat := (List.range (bs.length / e)).map (fun i => fieldAt bs (e * i) e)

/-- The format of TYPE 1 and 2. -/
def bkFmt (ty : Nat) : Fmt := if ty = 2 then bf16 else fp32

/-- One element of a BKOP (R314): value and flags. -/
def bkElem (op ty sc a b : Nat) : Nat × Nat :=
  if op = 6 then (sc, 0)
  else if ty = 0 then
    let m := 2 ^ 32
    (match op with
     | 0 => (a + b) % m
     | 1 => (a + m - b) % m
     | 2 => a * b % m
     | 3 => if signed 32 a < signed 32 b then b else a
     | 4 => sc * a % m
     | _ => (sc * a + b) % m, 0)
  else
    let f := bkFmt ty
    let x := f.decode 2 a
    let y := f.decode 2 b
    let k := f.decode 2 sc
    match op with
    | 0 => f.deliver 2 0 0 (addReal 0 x y)
    | 1 => f.deliver 2 0 0 (addReal 0 x y.neg)
    | 2 => f.deliver 2 0 0 (mulReal x y)
    | 3 => f.minmax true a b
    | 4 => f.deliver 2 0 0 (mulReal k x)
    | _ => f.deliver 2 0 0 (fmaReal 0 k x y)

/-- One node of a tree of FP32 sums over exact leaves (R97, R316), with its flags. -/
def nodeSum (a b : Option FVal) (fl : Nat) : Option FVal × Nat :=
  match a, b with
  | none, b => (b, fl)
  | a, none => (a, fl)
  | some x, some y =>
    let r := fp32.deliver 2 0 0 (addReal 0 x y)
    (some (f32 r.1), fl ||| r.2)

/-- One level of the tree. -/
def sumLevel : List (Option FVal) → List (Option FVal) → Nat → List (Option FVal) × Nat
  | a :: as, b :: bs, fl =>
    let r := nodeSum a b fl
    let t := sumLevel as bs r.2
    (r.1 :: t.1, t.2)
  | _, _, fl => ([], fl)

/-- The tree over 2^k leaves. -/
def sumTree : Nat → List (Option FVal) → Nat → Option FVal × Nat
  | 0, w, fl => (w.headD none, fl)
  | k + 1, w, fl =>
    let r := sumLevel (w.take (2 ^ k)) (w.drop (2 ^ k)) fl
    sumTree k r.1 r.2

/-- The sum of products of two rows, rounded to FP32 at each node, and its flags: of rows of one element the exact product (R97). -/
def dotTree (f : Fmt) (as bs : List Nat) : FVal × Nat :=
  let leaf := fun (p : Nat × Nat) => match mulVal (f.decode 2 p.1) (f.decode 2 p.2) with
    | some v => v
    | none => FVal.nan true
  let leaves := (as.zip bs).map (fun p => some (leaf p))
  let k := log2Up leaves.length
  let t := sumTree k (leaves ++ List.replicate (2 ^ k - leaves.length) none) 0
  (t.1.getD (.fin false 0 0), t.2)

/-- The sum of products as an FP32 code. -/
def dotProduct (f : Fmt) (as bs : List Nat) : Nat × Nat :=
  let t := dotTree f as bs
  let r := fp32.deliver 2 0 0 t.1.real
  (r.1, t.2 ||| r.2)

/-! ### Running a part -/

/-- What a part reads and writes while it runs; none where a page does not translate, so that the part waits (R321). -/
structure PartRun where
  s : State
  part : Part
  flags : Nat
  shuf : Nat

/-- Bytes written by a part. -/
def State.runWrite (s : State) (x : Context) (c : BkCmd) (va : Nat) (bs : List Byte) : Option State :=
  (State.partPages x c .write (pageRuns va bs.length) s []).map (fun r => State.segWrite (coreOf c.hartid) x.asid c.hartid r.2 bs r.1)

/-- An operand's run lies in another unit than the destination's granule (R315). -/
def shuffled (u va len : Nat) : Bool := unitOf va != u || unitOf (va + len - 1) != u

/-- The granules of a part's destination: granule `j` of the part. -/
def granuleRun (d : List Byte) (u j : Nat) : Nat × Nat :=
  let dst := fieldAt d 0 8
  let n := fieldAt d 24 8 * bkSize (bkType d)
  let first := dst / 256 + (u + 128 - dst / 256 % 128) % 128
  let g := (first + 128 * j) * 256
  let lo := max dst g
  (lo, min (dst + n) (g + 256) - lo)

/-- Granules of the part. -/
def granules (d : List Byte) (u : Nat) : Nat :=
  let dst := fieldAt d 0 8
  let n := fieldAt d 24 8 * bkSize (bkType d)
  let first := (u + 128 - dst / 256 % 128) % 128
  let all := if n = 0 then 0 else (dst + n - 1) / 256 - dst / 256 + 1
  if all ≤ first then 0 else (all - 1 - first) / 128 + 1

/-- One granule of a BKOP part (R314, R315). -/
def bkopGranule (x : Context) (c : BkCmd) (r : PartRun) : Option PartRun :=
  let d := c.desc
  let e := bkSize (bkType d)
  let op := bkOp d
  let (lo, len) := granuleRun d r.part.uva r.part.prog
  let at_ := fun (base : Nat) => base + (lo - fieldAt d 0 8)
  let a := if bkUsesA op then r.s.runBytes x c (at_ (fieldAt d 8 8)) len else some (List.replicate len 0)
  let b := if bkUsesB op then r.s.runBytes x c (at_ (fieldAt d 16 8)) len else some (List.replicate len 0)
  let sh := (bkUsesA op && shuffled r.part.uva (at_ (fieldAt d 8 8)) len) || (bkUsesB op && shuffled r.part.uva (at_ (fieldAt d 16 8)) len)
  match a, b with
  | some a, some b =>
    let vs := ((elemsOf e a).zip (elemsOf e b)).map (fun p => bkElem op (bkType d) (fieldAt d 32 8 % 256 ^ e) p.1 p.2)
    (r.s.runWrite x c lo (vs.flatMap (fun v => leBytes e v.1))).map (fun s =>
      { s := s
        part := { r.part with prog := r.part.prog + 1 }
        flags := vs.foldl (fun f v => f ||| v.2) r.flags
        shuf := if sh then r.shuf + 1 else r.shuf })
  | _, _ => none

/-- The rows of a BGEMV part: those whose first byte its unit holds. DESIGN CHOICE (log 22): the spec does not say which part computes a row
that several units hold. -/
def partRows (c : BkCmd) (u : Nat) : List Nat := (List.range (gemvRows c)).filter (fun r => unitOf (rowAddr c.desc r) == u)

/-- One row of a BGEMV part (R316): the sum, under ACC rounded once more with the old value. -/
def bgemvRow (x : Context) (c : BkCmd) (r : PartRun) : Option PartRun :=
  let d := c.desc
  let e := gemvSize d
  let f := bkFmt (fieldAt d 52 1)
  match (partRows c r.part.uva)[r.part.prog]? with
  | none => none
  | some row =>
    let y := fieldAt d 0 8 + 4 * row
    match r.s.runBytes x c (rowAddr d row) (fieldAt d 28 4 * e), r.s.runBytes x c (fieldAt d 16 8) (fieldAt d 28 4 * e),
        r.s.runBytes x c y 4 with
    | some a, some v, some old =>
      let u := dotTree f (elemsOf e a) (elemsOf e v)
      let w := fp32.deliver 2 0 0 (if nbit (fieldAt d 53 1) 0 then addReal 0 (f32 (leValue old)) u.1 else u.1.real)
      (r.s.runWrite x c y (leBytes 4 w.1)).map (fun s =>
        { s := s, part := { r.part with prog := r.part.prog + 1 }, flags := r.flags ||| u.2 ||| w.2, shuf := r.shuf })
    | _, _, _ => none

/-- An FP32 operation of the attention sequence. -/
def rnFlag (r : Real) : Nat × Nat := fp32.deliver 2 0 0 r

/-- One output lane of a token: RN(RN(o × a) + RN(b × V)), with flags. -/
def attnLane (a b : Nat) (o v : Nat) : Nat × Nat :=
  let p := rnFlag (mulReal (f32 o) (f32 a))
  let q := rnFlag (mulReal (f32 b) (bf16.decode 2 v))
  let r := rnFlag (addReal 0 (f32 p.1) (f32 q.1))
  (r.1, p.2 ||| q.2 ||| r.2)

/-- The attention sequence's step for one token (R317), on the query, the key and the value. -/
def attnToken (sigma : Nat) (q k v : List Nat) (p : Part) : Part × Nat :=
  let dot := dotProduct bf16 q k
  let s := rnFlag (mulReal (f32 sigma) (f32 dot.1))
  let mn := fp32.minmax true p.m.toNat s.1
  let dm := rnFlag (addReal 0 (f32 p.m.toNat) (f32 mn.1).neg)
  let ds := rnFlag (addReal 0 (f32 s.1) (f32 mn.1).neg)
  let ea := vfexp2 dm.1
  let eb := vfexp2 ds.1
  let none_ := mn.1 = 0xFF800000
  let a := if none_ then 0x3F800000 else ea.1
  let b := if none_ then 0 else eb.1
  let la := rnFlag (mulReal (f32 p.l.toNat) (f32 a))
  let l := rnFlag (addReal 0 (f32 la.1) (f32 b))
  let os := (p.o.zip v).map (fun x => attnLane a b x.1.toNat x.2)
  let fl := dot.2 ||| s.2 ||| mn.2 ||| (if none_ then 0 else dm.2 ||| ds.2 ||| ea.2 ||| eb.2) ||| la.2 ||| l.2
  ({ p with prog := p.prog + 1, m := BitVec.ofNat 32 mn.1, l := BitVec.ofNat 32 l.1, o := os.map (fun r => BitVec.ofNat 32 r.1) },
    os.foldl (fun f r => f ||| r.2) fl)

/-- One token of a BATTN part. DESIGN CHOICE (log 85): the part reads the token's block table entry again when it needs it, and takes a page that
the entry then names as it is, with no check of its kind or class. -/
def battnToken (x : Context) (c : BkCmd) (r : PartRun) : Option PartRun :=
  let d := c.desc
  let t := r.part.prog
  let n := 2 * attnDh d
  match r.s.runBytes x c (fieldAt d 8 8 + 8 * (t / attnP d)) 8, r.s.runBytes x c (fieldAt d 0 8) n with
  | some e, some q =>
    let key := leValue e + n * (t % attnP d)
    (match r.s.runBytes x c key n, r.s.runBytes x c (key + 32768) n with
     | some k, some v =>
       let a := attnToken (fieldAt d 52 4) (elemsOf 2 q) (elemsOf 2 k) (elemsOf 2 v) r.part
       some { r with part := a.1, flags := r.flags ||| a.2 }
     | _, _ => none)
  | _, _ => none

/-- The outputs of a BATTN part (R317). -/
def battnOut (x : Context) (c : BkCmd) (r : PartRun) : Option PartRun :=
  let d := c.desc
  let l := f32 r.part.l.toNat
  let outs := r.part.o.map (fun o => if fieldAt d 32 4 = 0 then (0, 0) else rnFlag (divReal (f32 o.toNat) l))
  let fl := outs.foldl (fun f v => f ||| v.2) r.flags
  match r.s.runWrite x c (fieldAt d 16 8) (outs.flatMap (fun v => leBytes 4 v.1)) with
  | none => none
  | some s =>
    if fieldAt d 24 8 = 0 then some { r with s := s, flags := fl }
    else (s.runWrite x c (fieldAt d 24 8) (leBytes 4 r.part.m.toNat ++ leBytes 4 r.part.l.toNat)).map
      (fun s => { r with s := s, flags := fl })

/-- The units of work of a part: granules, rows or tokens. -/
def partTotal (c : BkCmd) (p : Part) : Nat :=
  if c.kind = kindBkop then granules c.desc p.uva
  else if c.kind = kindBgemv then (partRows c p.uva).length
  else fieldAt c.desc 32 4

/-- One unit of work. -/
def partStep (x : Context) (c : BkCmd) (r : PartRun) : Option PartRun :=
  if c.kind = kindBkop then bkopGranule x c r
  else if c.kind = kindBgemv then bgemvRow x c r
  else battnToken x c r

/-- `n` units of work. -/
def partSteps (x : Context) (c : BkCmd) : Nat → PartRun → Option PartRun
  | 0, r => some r
  | n + 1, r => match partStep x c r with
    | none => none
    | some r => partSteps x c n r

/-- The gate's count has been reached (R312), in the frame that the command's checks found. -/
def State.gateMet (s : State) (c : BkCmd) : Bool :=
  match c.gate with
  | none => true
  | some f => (s.settleOf f + 2 ^ 32 - bkExpect c.desc) % 2 ^ 32 < 2 ^ 31

/-- What a part adds to BKSHUF and to its command's flags; BKSHUF saturates (R315), and a hart that is away is owed it. -/
def State.partCount (s : State) (c : BkCmd) (n : Nat) : State × Nat :=
  if (s.hartOf c.owner).isSome then
    (s.updOwner c.owner (fun h => { h with sc := { h.sc with bkshuf := BitVec.ofNat 48 (min (h.sc.bkshuf.toNat + n) (2 ^ 48 - 1)) } }), 0)
  else (s, n)

/-- A part runs for at most `n` units of work, or to its end where `n` is 0 (R311, R321). A finished part leaves its command. -/
def State.runPart (s : State) (c : BkCmd) (p : Part) (n : Nat) : Option State :=
  match s.ctxOf c.owner.asid with
  | none => none
  | some x =>
    if !p.gated && !s.gateMet c then none
    else
      let left := partTotal c p - p.prog
      let k := if n = 0 then left else min n left
      let ended := fun (r : PartRun) => if k = left && c.kind = kindBattn then battnOut x c r else some r
      match (partSteps x c k { s := s, part := { p with state := 1, gated := true }, flags := c.flags.toNat, shuf := 0 }).bind ended with
      | none => none
      | some r =>
        let q := r.s.partCount c r.shuf
        let parts := if k = left then c.parts.filter (fun o => o.uva != p.uva)
          else c.parts.map (fun o => if o.uva = p.uva then r.part else o)
        let c' := { c with parts := parts, flags := BitVec.ofNat 8 r.flags, shuf := c.shuf + q.2 }
        some { q.1 with
          bks := q.1.bks.map (fun d => if d = c then c' else d)
          sleeping := q.1.sleeping.filter (fun u => u != p.unit) }

/-! ### Order and completion (R299, R311, R316, R318) -/

/-- What a hart is owed at a command's end (R313, R315). -/
def BkCmd.settleOn (c : BkCmd) (h : Hart) : Hart :=
  let n := min (h.sc.bkshuf.toNat + c.shuf) (2 ^ 48 - 1)
  { h with ep := h.ep.accrue c.flags.toNat, sc := { h.sc with bkshuf := BitVec.ofNat 48 n } }

/-- The command leaves. -/
def State.endBk (s : State) (c : BkCmd) : State :=
  let s := s.updOwner c.owner c.settleOn
  { s with bks := s.bks.filter (fun d => d != c) }

/-- A command is complete, a progress event (R147): its hart is settled with, or, being away, is owed what the command leaves (R299, R313,
R315). -/
def State.endOrOwe (s : State) (c : BkCmd) : State :=
  let s := s.progress c.owner.asid
  if (s.hartOf c.owner).isSome then s.endBk c
  else { s with bks := s.bks.map (fun d => if d = c then { d with state := 4 } else d) }

/-- A command whose parts are all complete (R299): a BGEMV that names a barrier arrives on it (R316). DEDUCED (log 21): an arrival that fails
parks the command. -/
def State.finishBk (s : State) (c : BkCmd) : Option State :=
  let bar := fieldAt c.desc 56 8
  if c.state = 4 then (if (s.hartOf c.owner).isSome then some (s.endBk c) else none)
  else if c.kind ≠ kindBgemv || bar = 0 then some (s.endOrOwe c)
  else match s.ctxOf c.owner.asid with
    | none => none
    | some x =>
      match s.object x (coreOf c.hartid) bar 0x18 with
      | .wait t => s.stalled t
      | .fault s cause dev => some (s.parkBk c 3 cause bar (accessByte .rmw 2 dev))
      | .ok s pa =>
        let s := s.barNorm pa
        match s.barArrive pa with
        | some s => some (s.endOrOwe c)
        | none => some (s.parkBk c 3 0x18 bar (accessByte .rmw 2 false))

/-- A command's checks may be made: its hart's earlier commands have passed theirs, and none of them is parked at its arrival on a barrier.
DEDUCED (log 21). -/
def State.bkCheckable (s : State) (c : BkCmd) : Bool :=
  c.state == 0 && s.ctxRuns c.owner.asid && (s.bksOf c.owner).all (fun d => c.tag ≤ d.tag || d.state == 1 || d.state == 4)

/-- A command's parts may run: no command of its hart from before a BKFENCE remains (R318). -/
def State.bkRunnable (s : State) (c : BkCmd) : Bool :=
  c.state == 1 && s.ctxRuns c.owner.asid && (s.bksOf c.owner).all (fun d => c.epoch ≤ d.epoch || d.state == 4)

/-- The first parts of each unit, in the order of their arrival (R311). -/
def State.headParts (s : State) : List (BkCmd × Part) :=
  let all := (s.bks.filter (fun c => c.state == 1)).flatMap (fun c => c.parts.map (fun p => (c, p)))
  all.filter (fun e => (all.find? (fun f => f.2.unit == e.2.unit)) == some e && s.bkRunnable e.1)

/-- The Strelvis units' next event: up to `n` units of work of a part of unit `unit` − 1 where it can run one, a command's checks, those of hart
`who` − 1 first, its completion, or `n` units of work of a part whose gate is met. Commands of different harts arrive, and parts of different units
run, in any order (R311). DESIGN CHOICE (log 84): in that of the list where the event names none. -/
def State.nextPart (s : State) (unit who n : Nat) : Option State :=
  let run := fun (e : BkCmd × Part) => s.runPart e.1 e.2 n
  let checkable := s.bks.filter s.bkCheckable
  ((((s.headParts.filter (fun e => e.2.unit + 1 == unit)).findSome? run).or
    ((checkable.filter (fun c => c.hartid + 1 == who) ++ checkable).findSome? s.bkAdmit)).or
    ((s.bks.filter (fun c => (c.state == 1 || c.state == 4) && c.parts.isEmpty && s.ctxRuns c.owner.asid)).findSome? s.finishBk)).or
    (s.headParts.findSome? run)

end Sys2Proof.Machine
end

