-- ==== Sys2Proof/Machine/System.lean ====
section
/-! DEFINITION. Returns, completion events, the resumption of parked parties and the invalidation of translations (R308, R309, R340, R346). -/

namespace Sys2Proof.Machine

/-! ### Completion events (R308, R309) -/

/-- A pending event is deliverable (R308). -/
def Hart.eventDue (h : Hart) : Bool :=
  h.runnable && !h.ctl && h.sc.uiPend && h.sc.uiEn && !h.sc.uiActive && !h.sc.lend.getLsbD 31

/-- The pending event is delivered before the next instruction: a G word under way retires or traps first, and so does an instruction for which
VSTART is armed, unless it is in an architected wait, which the event ends (R308). DEDUCED (log 23): the armed start belongs to the interrupted
code. -/
def Hart.deliverable (h : Hart) : Bool := h.eventDue && h.ep.geom.isNone && (!h.sc.vstartArmed || h.waiting)

/-- An event that was deliverable before an instruction of `h` is delivered to `g`, the hart after it: always where that instruction has retired,
since no second one retires first (R308). -/
def Hart.lateDue (h g : Hart) : Bool := h.eventDue && g.eventDue && (g.deliverable || g.sc.instret != h.sc.instret)

/-- A LEND would put off an event that is deliverable beyond the instruction that it lends to: the event comes first (R308). -/
def Hart.lendsAway (h g : Hart) : Bool := h.deliverable && g.sc.lend.getLsbD 31

/-- Delivery of the pending events to the hart's handler (R308). -/
def Hart.takeEvent (h : Hart) : Hart :=
  let c := h.sc
  { h with
    waiting := false
    mwait := none
    sc := { c.swapShadow with
      uiepc := c.pc
      uiEvents := BitVec.ofNat 16 (min c.uiCount 65535)
      uiCauseTag := c.uiTag
      uiCount := 0
      uilend := c.lend
      lend := 0
      uiActive := true
      uiPend := false
      uiRstrt := false
      pc := c.uivec } }

/-- An event that was deliverable before an instruction of `h` is delivered after it: the hart retires no second one before (R308). -/
def State.lateEvent (s : State) (h : Hart) : State := if h.lateDue s.hart then { s with hart := s.hart.takeEvent } else s

/-- The hart that executes returns from its handler (R309); a stopped instruction that is skipped leaves its indices behind (R331, R133), and so
does one of the handler. -/
def State.uiret (s : State) : State :=
  let c := s.hart.sc
  (s.retireTo c.uiepc |>.ep (fun e => { e with gpi := e.gpi.filter (fun p => c.uiRstrt && !p.inner) })).sc (fun n =>
    { n.swapShadow with
      vstartArmed := c.uiRstrt
      vstart := if c.uiRstrt then c.uiCauseTag.setWidth 18 else n.vstart
      lend := legalLend c.uilend.toNat
      uiActive := false
      uiRstrt := false })

/-- R309: UIRET, illegal outside a handler. -/
def execUiret (s : State) : Out := if s.hart.sc.uiActive then .next s.uiret else illegal s .uiret

/-! ### Parked parties (R340) -/

/-- R340: the own return of a control core. -/
def execTret (s : State) : Out := if s.hart.ctl then .next s.ownReturn else illegal s .tret

/-- The PC that a record gives a hart. DEDUCED (log 75): it has no bits [1:0] (R14); one with bits [63:52] traps at the hart's next fetch. -/
def recordPc (w : Nat) : Word := BitVec.ofNat 64 w &&& ~~~3#64

/-- A parked hart goes on as its record, edited by the supervisor, says (R340); a stopped instruction that is skipped leaves its indices behind,
and those of the code that its handler interrupted stay. -/
def Hart.unpark (h : Hart) (r : List Byte) : Hart :=
  let skip := fieldAt r 3 1 == 1
  let pc := recordPc (fieldAt r 8 8)
  let lend := legalLend (fieldAt r 28 4)
  { h with
    status := .running
    waiting := false
    ep := { h.ep with gpi := h.ep.gpi.filter (fun p => !skip || p.inner != h.sc.uiActive) }
    sc := { h.sc with
      pc := if skip then pc + 4 else pc
      lend := if skip then lend &&& 0x7FFFFFFF else lend
      vstartArmed := !skip
      vstart := if skip then h.sc.vstart else BitVec.ofNat 18 (fieldAt r 24 4) } }

/-- The party is a hart. -/
def Party.isHart : Party → Bool
  | .hart _ => true
  | _ => false

/-- A parked party is resumed (R340): a hart goes on, a copy repeats its chunk, a Strelvis command its checks or its arrival, and a farm its
completion. Those of a context that is halting stay stopped (R354). -/
def State.resumeParty (s : State) (p : Party) (r : List Byte) : State :=
  match p with
  | .hart who => s.updHart who (fun h =>
      let g := h.unpark r
      if s.ctxRuns h.asid then g else { g with status := .stopped })
  | .copy o tag => { s with copies := s.copies.map (fun c => if c.owner = o && c.tag = tag then { c with state := 1 } else c) }
  | .strelvis o tag =>
    { s with bks := s.bks.map (fun c => if c.owner = o && c.tag = tag then { c with state := if c.state = 3 then 1 else 0 } else c) }
  | .farm asid handle => (s.updFarm asid handle (fun f => { f with state := 2 })).retryFarms
  | .gone => s

/-- R340: TRET of a parked party, by the slot of its record in the die's fault queue. -/
def execTretResume (o : OpDS) (s : State) : Out :=
  if !s.hart.ctl then illegal s (.tretResume o)
  else
    let s := s.release 3
    match s.faults.find? (fun f => f.die == s.hart.die && f.slot == some (s.xn o.s1)) with
    | none => retireX s o.d (-1)
    | some f =>
      let r := s.homeBytes (s.xn o.s1) 64
      if 1 < fieldAt r 3 1 || (fieldAt r 3 1 == 1 && !f.party.isHart) then retireX s o.d (-2)
      else retireX (({ s with faults := s.faults.filter (fun g => g != f) }).resumeParty f.party r) o.d 0

/-! ### Shootdowns (R346) -/

/-- The page of an address is a 512 MiB page: by a translation that accesses have used, whatever stands in the table now, or by the entry that maps
it, whatever that permits (R343, R346). DESIGN CHOICE (log 97): where an upper level maps nothing, the largest page that it can have mapped is
meant. -/
def State.bigPage (s : State) (asid va : Nat) : Bool :=
  s.bigPages.contains (asid, va / 2 ^ 29) || s.tlb.any (fun t => t.asid == asid && t.big && t.vpn == va / 2 ^ 29) ||
  (match s.ctxOf asid with
   | none => false
   | some c => match leafOf s c.ptroot va with
     | .entry _ _ big => big
     | .notValid | .badTable => true)

/-- The context's page no longer maps the pot line, and does not migrate (R222, R246). -/
def State.unmapped (s : State) (m : PotMap) : Bool :=
  match s.ctxOf m.asid with
  | none => true
  | some c => match leafOf s c.ptroot m.va with
    | .entry _ e big => if Pte.v e then physOf e m.va big 0 .write != m.pa else !Pte.mig e
    | _ => true

/-- The line ceases to be a pot: its stacks are called in (R246). -/
def State.endPot (s : State) (pa : Nat) : State :=
  let s := s.callIn pa
  { s with potLines := s.potLines.filter (· != pa), ranges := s.ranges.filter (fun r => r.pa != pa) }

/-- The pot lines in the frame of a translation that a TLB holds, as that page's: those of a pot that no context has used are found so (R246). -/
def State.potsUnder (s : State) (t : TlbEntry) : List PotMap :=
  let size := if t.big then 2 ^ 29 else 65536
  let frame := physOf t.pte.toNat (t.vpn * size) t.big 0 .write
  (s.potLines.filter (fun pa => frame ≤ pa && pa < frame + size)).map (fun pa => ⟨t.asid, t.vpn * size + (pa - frame), pa⟩)

/-- The pot lines of a context's named pages that are unmapped cease to be pots, where no other page maps them (R246). DEDUCED (log 42): at the
shootdown of the page. -/
def State.unmapPots (s : State) (asid : Nat) (p : Nat → Bool) : State :=
  let s := (s.tlb.flatMap s.potsUnder).foldl State.usePot s
  let gone := s.potMaps.filter (fun m => m.asid == asid && p m.va && s.unmapped m)
  let s := { s with potMaps := s.potMaps.filter (fun m => !gone.contains m) }
  ((gone.map (·.pa)).filter (fun pa => !s.potMaps.any (fun m => m.pa == pa))).foldl State.endPot s

/-- Some page of the list is named. -/
def namesPage (p : Nat → Bool) (ps : List PageRef) : Bool := ps.any (fun g => p g.va)

/-- The parts of a context that run and use a named page. -/
def State.partsOn (s : State) (asid : Nat) (p : Nat → Bool) : List (BkCmd × Part) :=
  s.headParts.filter (fun e => e.1.owner.asid == asid && e.2.state == 1 && namesPage p e.1.pages)

/-- A part that runs is completed before its page's translation goes (R321, R346); one that waits for another page stays. The commands forget the
named pages: parts that have not begun translate them again. -/
def State.endParts (s : State) (asid : Nat) (p : Nat → Bool) : State :=
  let s := (s.partsOn asid p).foldl (fun s e =>
    match s.headParts.find? (fun f => f.1.owner == e.1.owner && f.1.tag == e.1.tag && f.2.uva == e.2.uva) with
    | none => s
    | some f => (s.runPart f.1 f.2 0).getD s) s
  let held := fun (c : BkCmd) => c.parts.any (fun q => q.state == 1)
  { s with bks := s.bks.map (fun (c : BkCmd) =>
      if c.owner.asid = asid && !held c then { c with pages := c.pages.filter (fun g => !p g.va) } else c) }

/-- The words of the hart that executes, up to the last that holds a translation of a named page, complete (R346). -/
def State.endWords (s : State) (p : Nat → Bool) : State :=
  s.drainTo (fun q => namesPage p q.pages)

/-- A request at its home is served, and the hart that waits for it goes on (R249), with the event that could be delivered but for the wait
(R308). -/
def State.servePot (s : State) (q : PotReq) : State :=
  let s := { s with potQueue := s.potQueue.filter (fun (r : PotReq) => r != q) }
  s.asHart q.who (fun s =>
    let s := { s with hart := { s.hart with status := .running } }
    (s.potAnswer q).lateEvent s.hart)

/-- The requests at the homes of the pots that a context reaches by the named pages are served, each home's in their order (R249, R346). -/
def State.endRequests (s : State) (asid : Nat) (p : Nat → Bool) : State :=
  let named := s.potQueue.filter (fun q => p q.va && (s.hartAt q.who).any (fun h => !h.ctl && h.asid == asid))
  (s.potQueue.filter (fun q => named.any (fun r => r.pa == q.pa))).foldl State.servePot s

/-- The execute processor of the hart is at work: it is not stopped (R353). -/
def Hart.epLive (h : Hart) : Bool :=
  match h.status with
  | .running | .trapping _ | .pot | .parked => true
  | .stopped | .rom | .retired => false

/-- Every access of a context that uses a translation of a named page completes (R346): running parts, dispatched words and pot requests. -/
def State.endAccesses (s : State) (asid : Nat) (p : Nat → Bool) : State :=
  let s := s.endParts asid p
  let s := (s.allHarts.filter (fun h => !h.ctl && h.asid == asid && h.epLive)).foldl (fun s h => s.asHart h.loc (fun s => s.endWords p)) s
  s.endRequests asid p

/-- A shootdown of the pages of a context that `p` names by address (R210, R222, R346): its accesses to them complete, the stacks of the pages' pots
are called in, dirty bytes go home, lines and translations are dropped, and the pots of unmapped pages end. -/
def State.shootdown (s : State) (asid : Nat) (p : Nat → Bool) : State :=
  let s := s.endAccesses asid p
  let s := ((s.potStacks.filter (fun k => k.asid == asid && p k.va)).map (·.pa)).foldl State.callIn s
  ((s.dropLines asid p).unmapPots asid p).dropTlb asid p

/-- R346: TLBINV, which waits while a running part that uses the pages cannot complete. -/
def execTlbinv (o : OpSS) (s : State) : Out :=
  if !s.hart.ctl then illegal s (.tlbinv o)
  else
    let va := s.xn o.s1
    let asid := wbits (s.xr o.s2) 0 16
    let all := (s.xr o.s2).getLsbD 16
    let big := s.bigPage asid va
    let p := fun (a : Nat) => all || a / 65536 == va / 65536 || (big && a / 2 ^ 29 == va / 2 ^ 29)
    let s := s.shootdown asid p
    if (s.partsOn asid p).isEmpty then .next s.retire else waitHere s false

end Sys2Proof.Machine
end

