-- ==== Sys2Proof/Machine/VectorMem.lean ====
section
/-! DEFINITION. The VM words as instructions: the access processor checks every element address before any element is performed (R229 to R245). -/

namespace Sys2Proof.Machine

/-- The trap of a failing element, with the fields of the fault record (R333, R336). -/
def VMem.trap (m : VMem) (s : State) (x1 : Word) (elem : Nat) (t : Trap) : Trap :=
  { t with
    access := t.access + 16 + m.flags
    elem := elem
    base := x1.toNat
    stride := m.stride.toNat
    remain := (s.hart.ep.vl - elem + s.hart.ep.avlrem.toNat) % 2 ^ 64 }

/-- The readable pages that the core has translated, by the word's own elements or in any of its TLBs, which a hint can name: of class N, outside
SWM, in tier 1 or tier 2 (R224). Each is an address, a size and a physical address. -/
def State.hintPages (s : State) (pages : List PageRef) : List (Nat × Nat × Nat) :=
  let ok := fun (pa pte : Nat) => Pte.r pte && !Pte.cls pte && Pte.kind pte != 1 && region pa ≤ 1
  let own := (pages.filter (fun p => ok p.pa p.pte)).map (fun p => (p.va / 65536 * 65536, 65536, p.pa))
  let mine := s.tlb.filter (fun t => t.core == s.hart.coreId && t.asid == s.hart.asid && ok (Pte.frame t.pte.toNat) t.pte.toNat)
  let held := mine.map (fun t =>
    let size := if t.big then 2 ^ 29 else 65536
    (t.vpn * size, size, physOf t.pte.toNat (t.vpn * size) t.big s.hart.die .read))
  (own ++ held).eraseDups

/-- The row activates that a unit-stride or strided load hints while AVLREM is not 0 (R224): the VL × |stride| bytes that the elements beyond the
strip span, above it or below it as the stride's sign says, on pages that are translated. A row is named by a granule of 256 bytes that it
holds. -/
def State.hint (s : State) (m : VMem) (q : QEntry) (pages : List PageRef) : State :=
  if m.kind ≠ .read || m.indexed || m.stride = 0 || s.hart.ep.avlrem = 0 then s
  else
    let size := m.stride.toInt.natAbs
    let next := m.addr q s.hart.ep q.vl
    let lo := if 0 ≤ m.stride.toInt then next else next - (q.vl - 1) * size
    let hi := lo + q.vl * size
    let rows := (s.hintPages pages).flatMap (fun p =>
      let a := max lo p.1
      let b := min hi (p.1 + p.2.1)
      if b ≤ a then [] else (range (a / 256) ((b - 1) / 256 - a / 256 + 1)).map (fun g => g * 256 - p.1 + p.2.2))
    { s with hints := s.hints ++ rows.eraseDups.filter (fun r => !s.hints.contains r) }

/-- A VM word passes its trap point: it is dispatched with its translations, performed below `limit`; a load sets VLTRIM (R230, R231). -/
def memFinish (i : Instr) (op : VOp) (m : VMem) (q : QEntry) (sh : Shape) (bs : List Binding) (pages : List PageRef) (limit : Nat) (s : State) :
    Out :=
  let s := (s.setAdvanced sh bs).hint m q pages
  let s := if m.kind = .read then s.ep (fun e => { e with vltrim := limit }) else s
  .next ((s.send { q with limit := limit, pages := pages, word := .word i, start := if op.whole then 0 else q.start }).retire)

/-- The index group and the predicate mask that the access processor needs for a word's addresses are made (R126), and the mask is read, once
(R282). -/
def State.readyIndex (s : State) (m : VMem) (q : QEntry) : State :=
  let groups := match m.index with | some r => [s.hart.ep.indexGrp r (8 * m.n)] | none => []
  s.awaitProducers groups (q.predMask m.pm).toList

/-- A VM WORD (R229 to R232): the elements are checked in ascending order. A load whose first active element fails traps and does nothing; one
whose later element fails is trimmed there. A store or a VAMO performs the elements below the failing one and traps at it, and the registers that
a VAMO writes stand there (R133). A segment store can restart partway, a segment load cannot (R236). -/
def memWord (i : Instr) (op : VOp) (m : VMem) (x1 x2 : Word) (s : State) : Out :=
  let sh := op.shape s.hart.ep
  if s.issueBad sh then illegal s i
  else match s.owed sh with
    | .trap s t => raise s t
    | .illegal s => illegal s i
    | .wait s => waitHere s false
    | .ok s' qs bs =>
      let q := s'.entry i (op.whole && m.kind == .read) x1 x2
      if !s'.epRoom (qs ++ [q]) then waitHere s false
      else
        let s1 := (qs.foldl State.send s').readyIndex m q
        let q := q.readMask s1.hart.ep m.pm
        let act := (range q.start (q.vl - q.start)).filter (q.active s1.hart.ep m.pm)
        match State.checkAll (m.addr q s1.hart.ep) m.n m.kind m.code act s1 [] with
        | .wait s2 => waitHere { s with collapses := s2.collapses } false
        | .ok s2 pages => memFinish i op m q sh bs pages q.vl s2
        | .fail s2 pages f t =>
          if m.kind = .read then
            (if act.head? = some f then raise s1 (m.trap s1 x1 (if op.whole then 0 else f) t)
             else memFinish i op m q sh bs pages f s2)
          else
            let q := { q with limit := f, pages := pages }
            let s3 := (s2.send q).ep (fun e => e.stopAt q f s.hart.sc.uiActive)
            raise s3 (m.trap s1 x1 f t)

/-- VLD (R234). -/
def execVld (o : OpV1) (s : State) : Out := memWord (.vld o) (opVld o) (memUnit .read o) (s.xr o.s1) 0 s

/-- VLDS (R234). -/
def execVlds (o : OpV) (s : State) : Out := memWord (.vlds o) (opVlds o) (memStride .read o (s.xr o.s2)) (s.xr o.s1) (s.xr o.s2) s

/-- VLDX (R234). -/
def execVldx (o : OpV) (s : State) : Out := memWord (.vldx o) (opVldx o) (memIndex .read o) (s.xr o.s1) 0 s

/-- VST (R234). -/
def execVst (o : OpV1) (s : State) : Out := memWord (.vst o) (opVst o) (memUnit .write o) (s.xr o.s1) 0 s

/-- VSTS (R234). -/
def execVsts (o : OpV) (s : State) : Out := memWord (.vsts o) (opVsts o) (memStride .write o (s.xr o.s2)) (s.xr o.s1) (s.xr o.s2) s

/-- VSTX (R234). -/
def execVstx (o : OpV) (s : State) : Out := memWord (.vstx o) (opVstx o) (memIndex .write o) (s.xr o.s1) 0 s

/-- VLSEG (R235, R236). -/
def execVlseg (o : OpVSeg) (s : State) : Out := memWord (.vlseg o) (opVlseg o) (memSeg .read o) (s.xr o.s1) 0 s

/-- VSSEG (R235, R236). -/
def execVsseg (o : OpVSeg) (s : State) : Out := memWord (.vsseg o) (opVsseg o) (memSeg .write o) (s.xr o.s1) 0 s

/-- VAMO (R237). -/
def execVamo (o : OpVAmo) (s : State) : Out := memWord (.vamo o) (opVamo o) (memAmo o) (s.xr o.s1) 0 s

/-- The registers that a view ties (R242). -/
def viewSize (view g : Nat) : Nat :=
  match view with
  | 0 => g
  | 1 => 8
  | _ => 4

/-- The checks of VBIND that need no entry (R244). -/
def bindBad (o : OpVBind) (e : Exec) : Bool :=
  let n := viewSize o.view.val e.g
  let g : Grp := ⟨o.d.val, n, true, 0⟩
  4 ≤ e.bindings.length || 32 < o.d.val + n || (o.view.val ≠ 1 && o.d.val % n ≠ 0) || e.bindings.any (fun b => g.meets b.grp)

/-- The view accepts the entry's format and ew matches (R242, R244). -/
def viewFits (view ew fmt : Nat) : Bool :=
  match view with
  | 0 => 8 * 2 ^ ew == (if isBlock fmt then 32 else if fmt = 13 then 8 else plainBits fmt)
  | 1 => (fmt == 10 || fmt == 11) && ew == 0
  | _ => (fmt == 10 || fmt == 11) && ew == 2

/-- VBIND (R242, R244). -/
def execVbind (o : OpVBind) (s : State) : Out :=
  let e := s.hart.ep
  if s.hart.ctl || bindBad o e then illegal s (.vbind o)
  else match s.tensorEntry (s.xn o.s1) with
    | .trap s t => raise s t
    | .wait => waitHere s false
    | .ok s' entry =>
      if !viewFits o.view.val o.ew.val (tFmt entry) then illegal s' (.vbind o)
      else
        let b : Binding := ⟨s.xn o.s1, o.view.val, o.ew.val, o.d.val, viewSize o.view.val e.g, s.xn o.s2, 0, entry, none⟩
        .next (s'.setBindings (e.bindings ++ [b])).retire

/-- VUNBIND (R245). -/
def execVunbind (o : OpD) (s : State) : Out :=
  if s.hart.ctl then illegal s (.vunbind o)
  else .next (s.setBindings (s.hart.ep.bindings.filter (fun b => b.reg != o.d.val))).retire

end Sys2Proof.Machine
end

