-- ==== Sys2Proof/Machine/Records.lean ====
section
/-! DEFINITION. The hart record of 136,320 bytes and more (R362): how a hart is written into one and read from one. -/

namespace Sys2Proof.Machine

/-- Zero bytes. -/
def zeros (n : Nat) : List Byte := List.replicate n 0

/-! ### Writing a record -/

/-- An entry of the queued-word slots (R362), with the VL that it read at dispatch. -/
def QEntry.bytes (q : QEntry) : List Byte :=
  let w := match q.word with
    | .word i => encode i
    | _ => 0
  leBytes 4 w ++ leBytes 4 q.start ++ leBytes 4 q.vl ++ leBytes 4 q.lend.toNat ++ leBytes 1 q.vcfg.toNat ++ leBytes 1 q.rowBase
    ++ leBytes 1 q.rows ++ [0] ++ leBytes 8 q.xs1.toNat ++ leBytes 8 q.xs2.toNat ++ zeros 4

/-- A binding's 32 bytes (R362). DEDUCED (log 77): the first reserved byte holds the number of registers of the group, which R245 saves, and the
others one more than the PC of a reader that has been given this strip, 0 where there is none. -/
def Binding.bytes (b : Binding) : List Byte :=
  leBytes 4 b.tensor ++ leBytes 1 b.view ++ leBytes 1 b.ew ++ leBytes 1 b.reg ++ [1] ++ leBytes 8 b.pos ++ leBytes 8 b.g
    ++ leBytes 1 b.n ++ leBytes 7 ((b.given.map (fun pc => pc.toNat + 1)).getD 0)

/-- The monitor's word (R362). -/
def monitorWord (m : Option Monitor) : Nat :=
  match m with
  | none => 0
  | some m => m.va / 64 * 64 + (if m.fired then 2 else 0) + 1

/-- The 29 values of a hart record (R362). -/
def Hart.values (h : Hart) : List Nat :=
  let c := h.sc
  let e := h.ep
  [c.cycle.toNat, c.instret.toNat, c.fcsr.toNat, c.tcause.toNat, c.tpc.toNat, c.tval.toNat, c.rndseed.toNat, c.lend.toNat]
    ++ [e.vtype.toNat, e.vl, e.avlrem.toNat, e.vcfg.toNat, e.vstat.toNat, e.rowBase * 256 + e.rows, e.gstat.toNat, e.vltrim]
    ++ [c.vstartWord.toNat, c.tdeleg.toNat, c.uistatus.toNat, c.uivec.toNat, c.uiepc.toNat, c.uiEvents.toNat * 2 ^ 32 + c.uiCauseTag.toNat,
        c.uilend.toNat, c.splitr.toNat, c.bkshuf.toNat, c.uiCount, c.copyTag, c.bkTag, monitorWord c.monitor]

/-- Bytes of one vector register that the hart holds (R362). -/
def Exec.regLen (e : Exec) : Nat := e.lgn * 128 * e.d

/-- SIZE of a hart record (R362). -/
def recordSize (lgn v : Nat) : Nat := 136320 + 32 * v + 131072 * lgn

/-- A hart record (R362). -/
def Hart.record (h : Hart) (hstate : Nat) (fault : List Byte) : List Byte :=
  let e := h.ep
  let v := e.regLen
  let slots := e.queue.flatMap QEntry.bytes
  let bindings := e.bindings.flatMap Binding.bytes
  let gens := (List.range 257).flatMap (fun g =>
    leBytes 4 (if hg : g < 257 then (if g ≤ 16 * e.lgn then h.sc.gens[g].toNat else 0) else 0))
  leBytes 8 (recordSize e.lgn v) ++ leBytes 1 h.loc ++ leBytes 1 hstate ++ leBytes 1 e.lgn ++ leBytes 1 e.depth.val
    ++ leBytes 1 h.reserve ++ leBytes 1 h.prio ++ leBytes 1 e.queue.length ++ [0] ++ leBytes 4 h.farm ++ leBytes 4 h.index
    ++ leBytes 8 h.sc.pc.toNat ++ (h.sc.x.toList.drop 1).flatMap (fun w => leBytes 8 w.toNat)
    ++ h.sc.shadow.toList.flatMap (fun w => leBytes 8 w.toNat) ++ h.values.flatMap (leBytes 8) ++ zeros 8
    ++ (fault ++ zeros 64).take 64 ++ gens ++ zeros 116 ++ (bindings ++ zeros 128).take 128 ++ (slots ++ zeros 3200).take 3200
    ++ (List.range 32).flatMap (fun r => leBytes 4 (e.pi r)) ++ e.m.toList.flatMap (fun m => leBytes 16384 m.toNat)
    ++ e.v.toList.flatMap (fun r => leBytes v r.toNat) ++ (e.tiles.toList.take (32 * (8 / e.d))).flatMap (fun r => leBytes (4 * v) r.toNat)

/-! ### Reading a record -/

/-- A queued word's slot: the word with its saved operands and configuration (R362, R367), in which a reserved code stands as a write of the CSR
would leave it (log 79). -/
def slotEntry (r : List Byte) : Option QEntry :=
  match decodeWord (fieldAt r 0 4) with
  | .error _ => none
  | .ok i => some { word := .word i, start := fieldAt r 4 4, vl := fieldAt r 8 4, limit := fieldAt r 8 4, lend := legalLend (fieldAt r 12 4),
                    vcfg := legalVcfg (fieldAt r 16 1), rowBase := fieldAt r 17 1 % 32,
                    rows := legalRows (fieldAt r 17 1 % 32) (fieldAt r 18 1 % 64),
                    xs1 := BitVec.ofNat 64 (fieldAt r 20 8), xs2 := BitVec.ofNat 64 (fieldAt r 28 8), pages := [] }

/-- A G word in trap mode, which is never queued (R127). -/
def trapModeG (i : Instr) : Bool := (geomOf i).any (fun g => g.2.nf.val == 0)

/-- The slot holds a word that a hart dispatches. -/
def slotOk (r : List Byte) : Bool :=
  match decodeWord (fieldAt r 0 4) with
  | .error _ => false
  | .ok i => (vopOf i).isSome && !trapModeG i

/-- The slots of a record's queued words. -/
def queueSlots (r : List Byte) : List (List Byte) := (List.range (fieldAt r 14 1)).map (fun k => (r.drop (1920 + 40 * k)).take 40)

/-- A stream binding's 32 bytes; its table entry is read again when it is next used. DEDUCED (log 77): its group is as long as the first reserved
byte says, or, where that is 0, as VTYPE.G makes it; the other reserved bytes name a reader that has been given its strip. -/
def slotBinding (g : Nat) (r : List Byte) : Option Binding :=
  let n := fieldAt r 24 1
  if fieldAt r 7 1 = 1 then
    some ⟨fieldAt r 0 4, fieldAt r 4 1, fieldAt r 5 1, fieldAt r 6 1, if n = 0 then viewSize (fieldAt r 4 1) g else n, fieldAt r 8 8,
      fieldAt r 16 8, [], let pc := fieldAt r 25 7; if pc = 0 then none else some (BitVec.ofNat 64 (pc - 1))⟩
  else none

/-- A value of a hart record, of the 29 (R362). -/
def recordValue (r : List Byte) (k : Nat) : Nat := fieldAt r (344 + 8 * k) 8

/-- The monitor of a record: an armed one counts as fired (R367). Its line at home is 2^52, no line's, since it watches no more. -/
def recordMonitor (r : List Byte) : Option Monitor :=
  let w := recordValue r 28
  if nbit w 0 then some ⟨2 ^ 52, w / 64 * 64, true⟩ else none

/-- A word at an offset of a record. -/
def recordWord (r : List Byte) (off : Nat) : Word := BitVec.ofNat 64 (fieldAt r off 8)

/-- The scalar half that a record holds (R362). The tag of its latest pending event is in no field: a free value
(DESIGN CHOICE, log 54). FCSR is loaded as a write of the CSR stores it, so that no RM of 5 to 7 is ever held (R22): DEDUCED (log 79). -/
def recordScalar (r : List Byte) (free : Nat) : Scalar :=
  let v := recordValue r
  let w := fun (k : Nat) => BitVec.ofNat 64 (v k)
  let ui := v 18
  { Scalar.zero with
    x := Vector.ofFn (fun i : Fin 32 => if i.val = 0 then 0 else recordWord r (24 + 8 * i.val))
    shadow := Vector.ofFn (fun i : Fin 8 => recordWord r (280 + 8 * i.val))
    pc := recordPc (fieldAt r 24 8)
    cycle := w 0
    instret := w 1
    fcsr := legalFcsr (v 2)
    tcause := BitVec.ofNat 8 (v 3)
    tpc := w 4
    tval := w 5
    rndseed := BitVec.ofNat 32 (v 6)
    gens := Vector.ofFn (fun g : Fin 257 => BitVec.ofNat 32 (fieldAt r (648 + 4 * g.val) 4))
    lend := legalLend (v 7)
    tdeleg := BitVec.ofNat 9 (v 17) &&& 0x182
    vstartArmed := nbit (v 16) 63
    vstart := BitVec.ofNat 18 (v 16)
    uiEn := nbit ui 0
    uiPend := nbit ui 1
    uiActive := nbit ui 2
    uiRstrt := nbit ui 3
    uivec := w 19 &&& 0xFFFFFFFFFFFFC
    uiepc := w 20 &&& 0xFFFFFFFFFFFFC
    uiEvents := BitVec.ofNat 16 (bits (v 21) 32 16)
    uiCauseTag := BitVec.ofNat 32 (v 21)
    uilend := legalLend (v 22)
    splitr := BitVec.ofNat 9 (min (bits (v 23) 0 9) 256)
    bkshuf := BitVec.ofNat 48 (v 24)
    uiCount := v 25
    uiTag := BitVec.ofNat 32 (Config.choice free)
    copyTag := v 26
    bkTag := v 27
    monitor := recordMonitor r }

/-- The lane groups that a record holds. -/
def recordLgn (r : List Byte) : Nat := fieldAt r 10 1

/-- Bytes of one of its vector registers. -/
def recordV (r : List Byte) : Nat := recordLgn r * 128 * 2 ^ fieldAt r 11 1

/-- The registers that the progress indices of a record show to stand below their end (R133, R198). DEDUCED (log 71): as of instructions that no
handler had begun, which the record does not tell. -/
def recordPi (r : List Byte) (mvl : Nat) : List StoppedPi :=
  ((List.range 32).map (fun k => (⟨k, fieldAt r (5120 + 4 * k) 4, false⟩ : StoppedPi))).filter (fun p => p.pi < mvl)

/-- The indices of the registers that the oldest word writes are that word's, which has begun; the others are those of stopped instructions (R133,
R362). -/
def Exec.givePi (e : Exec) (stood : List StoppedPi) : Exec :=
  match e.queue with
  | [] => { e with gpi := stood }
  | q :: rest =>
    let own := fun (p : StoppedPi) => (q.dsts e).any (fun d => d.meets ⟨p.reg, 1, true, 0⟩)
    { e with queue := { q with begun := stood.any own } :: rest, gpi := stood.filter (fun p => !own p) }

/-- The execute half that a record holds (R362), with lane groups 0 up until it is placed. -/
def recordExec (r : List Byte) : Exec :=
  let v := recordValue r
  let n := recordV r
  let g := bits (v 8) 4 2
  let e := { Exec.zero with
    lg := BitVec.ofNat 16 (2 ^ recordLgn r - 1)
    depth := Fin.ofNat 4 (fieldAt r 11 1)
    group := Fin.ofNat 4 g
    sew := Fin.ofNat 4 (bits (v 8) 0 2)
    vl := v 9 % 2 ^ 18
    avlrem := BitVec.ofNat 64 (v 10)
    vcfg := legalVcfg (v 11)
    vstat := BitVec.ofNat 8 (bits (v 12) 0 6)
    rowBase := bits (v 13) 8 5
    rows := legalRows (bits (v 13) 8 5) (bits (v 13) 0 6)
    gstat := BitVec.ofNat 64 (bits (v 14) 0 63)
    vltrim := v 15 % 2 ^ 18
    v := Vector.ofFn (fun i : Fin 32 => BitVec.ofNat 131072 (fieldAt r (136320 + n * i.val) n))
    m := Vector.ofFn (fun i : Fin 8 => BitVec.ofNat 131072 (fieldAt r (5248 + 16384 * i.val) 16384))
    tiles := Vector.ofFn (fun i : Fin 256 =>
      if i.val < 32 * (8 / 2 ^ fieldAt r 11 1) then BitVec.ofNat 524288 (fieldAt r (136320 + 32 * n + 4 * n * i.val) (4 * n)) else 0)
    queue := (queueSlots r).filterMap slotEntry
    bindings := (List.range 4).filterMap (fun k => slotBinding (2 ^ g) ((r.drop (1792 + 32 * k)).take 32)) }
  e.givePi (recordPi r (n / 2 ^ bits (v 8) 0 2))

/-- The hart of a record (R362, R367); until it is placed it keeps the number that it had. -/
def recordHart (asid : Nat) (r : List Byte) (free : Nat) : Hart where
  ctl := false
  die := fieldAt r 8 1 / 64
  core := fieldAt r 8 1 / 4 % 16
  slot := fieldAt r 8 1 % 4
  status := if fieldAt r 9 1 = 1 then .parked else .running
  waiting := fieldAt r 9 1 = 1
  mwait := none
  asid := asid
  farm := fieldAt r 16 4
  index := fieldAt r 20 4
  reserve := fieldAt r 12 1
  prio := fieldAt r 13 1
  sc := recordScalar r free
  ep := recordExec r
  scache := []

/-- Its fault record, where it is parked. -/
def recordFault (r : List Byte) : List Byte := if fieldAt r 9 1 = 1 then (r.drop 584).take 64 else []

/-- A hart record that is not as R362 lays it out. DEDUCED (log 28): which breaches make a record malformed. -/
def hartRecordBad (r : List Byte) : Bool :=
  let n := recordLgn r
  n == 0 || 16 < n || 3 < fieldAt r 11 1 || 2 < fieldAt r 9 1 || 80 < fieldAt r 14 1 || fieldAt r 12 1 == 0 || 16 < fieldAt r 12 1
    || 3 < fieldAt r 13 1 || fieldAt r 0 8 != recordSize n (recordV r) || r.length != recordSize n (recordV r)
    || !(queueSlots r).all slotOk

/-! ### A record whose hart is away (R356) -/

/-- Bytes of a record replaced. -/
def patchBytes (r : List Byte) (off : Nat) (bs : List Byte) : List Byte := r.take off ++ bs ++ r.drop (off + bs.length)

/-- A record with a change made to what its hart's engine commands write of it: VSTAT, UISTATUS, BKSHUF, the pending event count and the masks. -/
def settledRecord (r : List Byte) (f : Hart → Hart) : List Byte :=
  let h := f (recordHart 0 r 0)
  let r := [12, 18, 24, 25].foldl (fun r k => patchBytes r (344 + 8 * k) (leBytes 8 (h.values.getD k 0))) r
  patchBytes r 5248 (h.ep.m.toList.flatMap (fun m => leBytes 16384 m.toNat))

end Sys2Proof.Machine
end

