-- ==== Sys2Proof/Machine/Halt.lean ====
section
/-! DEFINITION. Halting, killing and pre-empting: the stop of a context's units, state images, and CTXHALT (R351 to R362). -/

namespace Sys2Proof.Machine

/-! ### Descriptors (R349) -/

/-- The hardware writes STATE and CAUSE of a context, STATE last, in its own copy and in the descriptor. -/
def State.setCtx (s : State) (asid state cause : Nat) : State :=
  match s.ctxOf asid with
  | none => s
  | some c =>
    let s := s.updCtx asid (fun c => { c with state := state, cause := cause })
    (s.homeStoreNat (c.desc + 1) 1 cause).homeStoreNat c.desc 1 state

/-- The descriptor address of a context instruction: address range, then alignment, then installed memory (R351, log 9). -/
def descTrap (s : State) (a : Nat) : Option Trap :=
  if 2 ^ 52 ≤ a then some { cause := 4, tval := a, access := 1 + 4 * 3 }
  else if a % 64 ≠ 0 then some { cause := 3, tval := a, access := 1 + 4 * 3 }
  else if !installed s a then some { cause := 0x14, tval := a, access := 1 + 4 * 3 }
  else none

/-! ### Stopping (R353) -/

/-- The entry completes at a stop, and with it every entry before it: a stream delivery, the clear of a CPY's mask bits, an X word or a trimmed
load under way, and a VAMO of which elements ahead of its index have been performed, since no record could name them (R185, R353; log 76). -/
def QEntry.mustComplete (q : QEntry) : Bool :=
  match q.word with
  | .word (.vamo _) => !q.done.isEmpty
  | .word _ => q.begun && (q.isX || decide (q.limit < q.vl))
  | _ => true

/-- Entries are performed until none that must complete is left in the queue, or every one where `all` (R329). -/
def State.settleQueue (s : State) (all : Bool) : State :=
  (List.range s.hart.ep.queue.length).foldl
    (fun s _ => if all || s.hart.ep.queue.any QEntry.mustComplete then s.completeHead else s) s

/-- A trap-mode G word is abandoned where it stands, and begins again there (R199, R353); the strips that it was delivered stay its own (R245). -/
def State.stopGeom (s : State) : State :=
  match s.hart.ep.geom with
  | none => s
  | some q =>
    let s := s.ep (fun e => { e with geom := none })
    match q.word with
    | .word i => (match geomOf i with
      | some (k, o) =>
        let srcs := ((geomOp k o).shape s.hart.ep).srcs
        let pc := s.hart.sc.pc
        let s := s.ep (fun e => { e with bindings := e.bindings.map (fun b => if b.readBy srcs then { b with given := some pc } else b) })
        if q.begun then
          (s.ep (fun e => e.stopAt q q.start s.hart.sc.uiActive)).sc
            (fun c => { c with vstartArmed := true, vstart := BitVec.ofNat 18 q.start })
        else s
      | none => s)
    | _ => s

/-- The pot request of the hart that executes is served at the home (R249). -/
def State.answerHere (s : State) : State :=
  match s.potQueue.find? (fun (q : PotReq) => q.who == s.hart.loc) with
  | none => s
  | some q => s.servePot q

/-- The hart that executes is served where its pot request is at the home, delivers a trap it has raised, and stops; its dispatched words stay
queued, those that it has still to dispatch again after them, and the oldest keeps the element at which it stands; CYCLE counts up to the stop
(R19, R353). -/
def State.stopHere (s : State) : State :=
  let s := s.stopGeom
  let s := if s.hart.status = .pot then s.answerHere else s
  let s := match s.hart.status with
    | .trapping t => (s.settleQueue true).deliver t
    | _ => s.settleQueue false
  let s := s.readCycle.1
  let h := { s.hart with ep := { s.hart.ep with queue := s.hart.ep.queue ++ s.hart.redo }, redo := [] }
  match h.status with
  | .running => { s with hart := { h with status := .stopped, mwait := none } }
  | _ => { s with hart := h }

/-- The harts of a context that are on the package. -/
def State.ctxHarts (s : State) (asid : Nat) : List Hart := s.allHarts.filter (fun h => h.admitted && h.asid == asid)

/-- A replicated page collapses (R221): its translations and lines are dropped and its entry names the primary as a normal page; a page that is
replicated no more has collapsed already. What waited for it goes on. -/
def State.collapse (s : State) (r : CollapseReq) : State :=
  match s.ctxOf r.asid with
  | none => { s with collapses := s.collapses.filter (· != r) }
  | some c =>
    let big := match leafOf s c.ptroot r.va with | .entry _ _ big => big | _ => false
    let same := fun (va : Nat) => vpnOf va big == vpnOf r.va big
    let s := { s with collapses := s.collapses.filter (fun q => !(q.asid == r.asid && same q.va)) }
    match leafOf s c.ptroot r.va with
    | .entry pteAddr e _ =>
      if Pte.v e && Pte.kind e == 3 then
        (((s.dropLines r.asid same).dropTlb r.asid same).homeStoreNat pteAddr 8 (e - 3 * 2 ^ 57)).retryDue
      else s
    | _ => s

/-- The Strelvis units stop (R321): commands whose parts are complete end, and the rest give their harts what they have so far earned, which no
record holds. DEDUCED (log 55). -/
def State.stopBks (s : State) (asid : Nat) : State :=
  let mine := fun (c : BkCmd) => c.owner.asid == asid
  let s := (s.bks.filter (fun c => mine c && c.state == 1 && c.parts.isEmpty)).foldl (fun s c => (s.finishBk c).getD s) s
  let s := (s.bks.filter (fun c => mine c && (s.hartOf c.owner).isSome)).foldl (fun s c => s.updOwner c.owner c.settleOn) s
  { s with bks := s.bks.map (fun (c : BkCmd) => if mine c && (s.hartOf c.owner).isSome then { c with flags := 0, shuf := 0 } else c) }

/-- What the commands of a hart that is away leave to it: marks, events, flags and counts, which no record of theirs holds (R303, R304, R313,
R315). -/
def State.settleAway (s : State) (o : Owner) (h : Hart) : Hart :=
  (s.bks.filter (fun c => c.owner == o)).foldl (fun h c => c.settleOn h)
    ((s.copies.filter (fun c => c.owner == o)).foldl (fun h c => c.settleOn h) h)

/-- The pots of a context: those that its pages map and those of which a core holds a stack (R246, R247). -/
def State.potsOf (s : State) (asid : Nat) : List Nat :=
  ((s.potMaps.filter (fun m => m.asid == asid)).map (·.pa) ++ (s.potStacks.filter (fun k => k.asid == asid)).map (·.pa)).eraseDups

/-- The stop of a context (R353): its harts stop, collapses and migration copies in progress complete, every pot is called in, write-range entries
are appended, dirty bytes go home, and lines and translations are dropped. -/
def State.stopCtx (s : State) (asid : Nat) : State :=
  let s := ((s.ctxHarts asid).map Hart.loc).foldl (fun s l => s.asHart l State.stopHere) s
  let s := s.stopBks asid
  let s := s.updCtx asid (fun c => { c with stopped := true })
  let s := (s.collapses.filter (fun r => r.asid == asid)).foldl State.collapse s
  let s := ((List.range 4).filter (fun k => (s.die k).migBusy)).foldl State.migComplete s
  let s := (s.potsOf asid).foldl State.callIn s
  let s := s.appendRanges (fun e => e.asid == asid)
  (s.dropLines asid (fun _ => true)).dropTlb asid (fun _ => true)

/-! ### Records (R359 to R361) -/

/-- A farm's descriptor (R136). -/
def Farm.desc (f : Farm) : List Byte :=
  leBytes 8 f.entry.toNat ++ leBytes 8 f.params.toNat ++ leBytes 8 f.pot ++ leBytes 8 f.done ++ leBytes 4 f.harts ++ leBytes 1 f.reserve
    ++ leBytes 1 f.prio0 ++ leBytes 1 f.dieMask ++ leBytes 1 f.flags ++ leBytes 8 f.strips ++ zeros 16

/-- A farm record (R361). -/
def Farm.record (f : Farm) : List Byte :=
  leBytes 4 f.handle ++ leBytes 1 f.state ++ leBytes 1 f.prio ++ zeros 2 ++ leBytes 4 f.admitted ++ leBytes 4 f.retired
    ++ leBytes 4 f.waited ++ zeros 4 ++ f.desc ++ zeros 40

/-- An issuer's eight bytes. -/
def Owner.bytes (o : Owner) : List Byte := leBytes 4 o.farm ++ leBytes 4 o.index

/-- A copy command's record (R361). -/
def CopyCmd.record (c : CopyCmd) : List Byte :=
  c.owner.bytes ++ leBytes 4 c.tag ++ leBytes 4 c.next ++ leBytes 1 c.state ++ zeros 7 ++ leBytes 8 c.xs2.toNat ++ c.desc ++ zeros 32

/-- The record of a part (R361). DEDUCED (log 27): the first two of the reserved bytes hold one more than the SPLITR that its command read at
issue, of which R316 makes the banks' share. -/
def partRecord (c : BkCmd) (p : Part) : List Byte :=
  let state := if 2 ≤ c.state then 2 else p.state
  c.owner.bytes ++ leBytes 4 c.tag ++ leBytes 1 c.kind ++ leBytes 1 p.uva ++ leBytes 1 state ++ leBytes 1 (if p.gated then 1 else 0)
    ++ leBytes 8 p.prog ++ c.desc ++ leBytes 4 p.m.toNat ++ leBytes 4 p.l.toNat ++ leBytes 4 (128 + 4 * p.o.length)
    ++ leBytes 2 ((c.bank.map (· + 1)).getD 0) ++ zeros 26
    ++ p.o.flatMap (fun w => leBytes 4 w.toNat)

/-- A part with no work left, which stands for a command of which only the checks or the arrival remain (R316). DEDUCED (log 82): its UNIT is that
of its command's first part, or of its first operand where it has none. -/
def BkCmd.restPart (c : BkCmd) : Part :=
  let p := (bkParts c).headD (newPart (unitOf (fieldAt c.desc (if c.kind = kindBgemv then 8 else 0) 8)) 0)
  { p with gated := true, prog := partTotal c p }

/-- The parts of a command that are incomplete: all of them before its checks, and one for what remains of a command with no part. -/
def BkCmd.left (c : BkCmd) : List Part :=
  let unchecked := c.state = 0 || c.state = 2
  let ps := if unchecked && c.parts.isEmpty then bkParts c else c.parts
  if c.state = 4 then []
  else if ps.isEmpty && (unchecked || (c.kind == kindBgemv && fieldAt c.desc 56 8 != 0)) then [c.restPart]
  else ps

/-- The 64 KiB pages that a context maps: virtual page number, frame and entry (R343). -/
def State.ctxPages (s : State) (c : Context) : List (Nat × Nat × Nat) :=
  (List.range 1024).flatMap (fun i =>
    let p := readPte s (c.ptroot + 8 * i)
    if !Pte.v p || !isTable s p then []
    else (List.range 8192).flatMap (fun j =>
      let q := readPte s (Pte.frame p + 8 * j)
      if !Pte.v q then []
      else if Pte.r q || Pte.w q || Pte.x q then
        (List.range 8192).map (fun k => ((i * 8192 + j) * 8192 + k, Pte.frame q + k * 65536, q))
      else if !isTable s q then []
      else (List.range 8192).filterMap (fun k =>
        let e := readPte s (Pte.frame q + 8 * k)
        if Pte.v e then some ((i * 8192 + j) * 8192 + k, Pte.frame e, e) else none)))

/-- The settle records of a context's SREG pages (R361). -/
def State.settleRecords (s : State) (pages : List (Nat × Nat × Nat)) : List (List Byte) :=
  (pages.filter (fun p => Pte.kind p.2.2 == 2)).map (fun p => leBytes 8 p.1 ++ leBytes 4 (s.settleOf p.2.1) ++ zeros 4)

/-- The index range records of a context's pots, by ascending address (R361). -/
def State.rangeRecords (s : State) (pages : List (Nat × Nat × Nat)) : List (List Byte) :=
  pages.flatMap (fun p =>
    let sets := s.ranges.filter (fun r => r.pa / 65536 * 65536 == p.2.1)
    let rising := (List.range 1024).filterMap (fun k => sets.find? (fun r => r.pa == p.2.1 + 64 * k))
    rising.flatMap (fun r => r.ranges.map (fun x => leBytes 8 (p.1 * 65536 + r.pa % 65536) ++ leBytes 8 x.1 ++ leBytes 8 x.2 ++ zeros 8)))

/-- The context record (R359). -/
def Context.record (c : Context) : List Byte :=
  leBytes 2 c.asid ++ leBytes 1 c.cause ++ zeros 5 ++ leBytes 8 c.ptroot ++ leBytes 8 c.swmring.toNat ++ leBytes 8 c.tenstab.toNat
    ++ leBytes 8 c.dirty ++ leBytes 4 c.tenscnt ++ leBytes 4 c.farmNext ++ zeros 80

/-- The fault record of a parked hart. -/
def State.faultOf (s : State) (h : Hart) : List Byte :=
  ((s.faults.find? (fun f => f.party == Party.hart h.loc)).map (·.record)).getD []

/-- A hart's record in an image, with the core it belongs to. -/
def State.imageHart (s : State) (h : Hart) : Nat × List Byte :=
  (16 * h.die + h.core, if h.status = .parked then h.record 1 (s.faultOf h) else h.record 0 [])

/-- The record at a save area, as it stands in memory (R356). -/
def State.areaRecord (s : State) (area : Nat) : List Byte := s.homeBytes area (s.homeNat area 8)

/-- The record of a pre-empted hart of a context with what its commands have left to it while it was away. -/
def State.awayRecord (s : State) (asid area : Nat) : List Byte :=
  let r := s.areaRecord area
  let o : Owner := ⟨asid, fieldAt r 16 4, fieldAt r 20 4⟩
  if s.copies.any (fun c => c.owner == o) || s.bks.any (fun c => c.owner == o) then settledRecord r (s.settleAway o) else r

/-- The groups of a context that wait for a core, pre-empted harts apart (R367). -/
def State.waitingGroups (s : State) (asid : Nat) : List Placement := s.placements.filter (fun p => p.asid == asid && !p.fixed)

/-- The cores of which a context's image has records for other reasons than waiting groups: its harts stand or stood there, or it holds the
scratchpad. -/
def State.imageCores (s : State) (c : Context) : List Nat :=
  (s.ctxHarts c.asid).map (fun h => 16 * h.die + h.core) ++ (s.holders.filter (fun h => h.2 == c.asid)).map (·.1)
    ++ c.preempted.map (fun e => e.1 / 4) ++ ((s.placements.filter (fun p => p.asid == c.asid && p.fixed)).map (·.saved)).filter (· < 64)

/-- Each waiting group is named in an image by the core it was saved on, or where another has that name by the first core that none has.
DEDUCED (log 80). -/
def nameGroups (used : List Nat) : List Placement → List (Placement × Nat)
  | [] => []
  | p :: ps =>
    let k := if used.contains p.saved then ((List.range 64).find? (fun j => !used.contains j)).getD p.saved else p.saved
    (p, k) :: nameGroups (k :: used) ps

/-- The waiting groups of a context with the cores that name them in its image. -/
def State.groupCores (s : State) (c : Context) : List (Placement × Nat) := nameGroups (s.imageCores c) (s.waitingGroups c.asid)

/-- A hart named as one of another core. -/
def Hart.ofCore (h : Hart) (core : Nat) : Hart := { h with die := core / 16, core := core % 16 }

/-- The records of the harts of a waiting group in an image, where `core` names it. -/
def State.groupRecords (s : State) (p : Placement) (core : Nat) : List (Nat × List Byte) :=
  (p.harts.zip p.records).map (fun r =>
    let h := (s.settleAway r.1.owner r.1).ofCore core
    (core, if h.status = .parked then h.record 1 r.2 else h.record (if p.fixed then 2 else 0) []))

/-- The core that names a waiting pre-empted hart in an image: its own, or that of the group which it follows. -/
def followed (gs : List (Placement × Nat)) (p : Placement) : Nat :=
  if p.saved < 64 then p.saved else ((gs.find? (fun g => g.1.saved + 64 == p.saved)).map (·.2)).getD (p.saved - 64)

/-- Every hart record of a context with its core: those on the package, those that wait for a core, and the pre-empted ones (R353, R356). -/
def State.imageHarts (s : State) (c : Context) : List (Nat × List Byte) :=
  let gs := s.groupCores c
  (s.ctxHarts c.asid).map s.imageHart ++ gs.flatMap (fun g => s.groupRecords g.1 g.2)
    ++ (s.placements.filter (fun p => p.asid == c.asid && p.fixed)).flatMap (fun p => s.groupRecords p (followed gs p))
    ++ c.preempted.map (fun e => (e.1 / 4, s.awayRecord c.asid e.2))

/-- A core record (R360). LGALLOC is that of the core at the halt; of a core that only names a waiting group it is 0, since no core has been the
group's yet. -/
def State.coreRecord (s : State) (c : Context) (harts : List (Nat × List Byte)) (core : Nat) : List Byte :=
  let waits := (s.groupCores c).findSome? (fun g => if g.2 = core then g.1.scratch else none)
  let pad := if s.holders.contains (core, c.asid) then some (Memory.readN s.mem (padAddr core 0) 393216) else waits
  let lgs := if (s.imageCores c).contains core then (s.lgalloc core).toNat else 0
  leBytes 4 core ++ leBytes 1 (if pad.isSome then 1 else 0) ++ leBytes 1 (harts.filter (fun h => h.1 == core)).length ++ zeros 2
    ++ leBytes 8 lgs ++ zeros 48 ++ pad.getD []

/-! ### The image (R358) -/

/-- A number rounded up to a multiple of 64. -/
def up64 (n : Nat) : Nat := (n + 63) / 64 * 64

/-- The sections of a context's image: type, records (R358). -/
def State.sections (s : State) (c : Context) : List (Nat × List (List Byte)) :=
  let harts := s.imageHarts c
  let pads := (s.groupCores c).filter (fun g => g.1.scratch.isSome)
  let holds := (List.range 64).filter (fun k => harts.any (fun h => h.1 == k) || s.holders.contains (k, c.asid) || pads.any (fun g => g.2 == k))
  let byCore := (List.range 64).flatMap (fun k => harts.filter (fun h => h.1 == k))
  let pages := s.ctxPages c
  [(1, [c.record]), (2, byCore.map (·.2)), (3, holds.map (s.coreRecord c harts)),
    (4, (s.copies.filter (fun d => d.owner.asid == c.asid && d.next != chunkCount d.desc)).map CopyCmd.record),
    (5, (s.bks.filter (fun d => d.owner.asid == c.asid)).flatMap (fun d => d.left.map (partRecord d))),
    (6, (s.farms.filter (fun f => f.asid == c.asid)).map Farm.record), (7, s.settleRecords pages), (8, s.rangeRecords pages)].filter
    (fun e => !e.2.isEmpty)

/-- The section table and the sections, laid out from offset `off`; the settle section is padded to 64 bytes even where it is the last (R358). -/
def laySections (off : Nat) : List (Nat × List (List Byte)) → List Byte × List Byte
  | [] => ([], [])
  | e :: es =>
    let body := e.2.flatten
    let gap := if es.isEmpty && e.1 != 7 then 0 else up64 (off + body.length) - (off + body.length)
    let rest := laySections (off + body.length + gap) es
    (leBytes 2 e.1 ++ zeros 2 ++ leBytes 4 e.2.length ++ leBytes 8 off ++ rest.1, body ++ zeros gap ++ rest.2)

/-- The eight bytes of MAGIC. -/
def imageMagic : List Byte := [0x47, 0x52, 0x48, 0x53, 0x54, 0x41, 0x54, 0x45]

/-- The header with a digest (R358). -/
def imageHeader (features total nsect : Nat) (digest : List Byte) : List Byte :=
  imageMagic ++ leBytes 4 1 ++ leBytes 4 1 ++ leBytes 8 features ++ leBytes 8 total ++ leBytes 4 nsect ++ zeros 4 ++ zeros 24
    ++ digest ++ zeros 32

/-- The state image of a stopped context (R358). -/
def State.image (s : State) (c : Context) : List Byte :=
  let es := s.sections c
  let start := up64 (128 + 16 * es.length)
  let l := laySections start es
  let body := l.1 ++ zeros (start - 128 - l.1.length) ++ l.2
  let total := 128 + body.length
  let head := imageHeader c.features.toNat total es.length
  head (sha256 (head (zeros 32) ++ body)) ++ body

/-! ### Freeing (R353 to R355) -/

/-- A party belongs to a context. -/
def State.partyOf (s : State) (asid : Nat) : Party → Bool
  | .hart who => s.allHarts.any (fun h => h.loc == who && h.admitted && h.asid == asid)
  | .copy o _ => o.asid == asid
  | .strelvis o _ => o.asid == asid
  | .farm a _ => a == asid
  | .gone => false

/-- The fault records once a context's parties are parked no more: its slots are free, and its waiting records are still appended, since none is
dropped (R338), but for a hart's that the context's image holds (R335, R367). -/
def State.leaveFaults (s : State) (asid : Nat) (killed : Bool) : List FaultRec :=
  s.faults.filterMap (fun f =>
    if !s.partyOf asid f.party then some f
    else if f.slot.isSome || (f.party.isHart && !killed) then none
    else some { f with party := .gone })

/-- Everything of a context leaves the package: harts, farms, commands, requests and holds; its scratchpads are zeroed (R353, R355), and of one
that is killed the loader's scratch image is kept no more. -/
def State.freeCtx (s : State) (asid : Nat) (killed : Bool) : State :=
  let gone := fun (h : Hart) => h.admitted && h.asid == asid
  let mine := (s.ctxHarts asid).map Hart.loc
  let faults := s.leaveFaults asid killed
  let pads := s.holders.filter (fun (h : Nat × Nat) => h.2 == asid)
  let s := { s with
    faults := faults
    farms := s.farms.filter (fun f => f.asid != asid)
    copies := s.copies.filter (fun c => c.owner.asid != asid)
    outbox := s.outbox.filter (fun c => c.owner.asid != asid)
    bks := s.bks.filter (fun c => c.owner.asid != asid)
    potQueue := s.potQueue.filter (fun q => !mine.contains q.who)
    potStacks := s.potStacks.filter (fun k => k.asid != asid)
    collapses := s.collapses.filter (fun r => r.asid != asid)
    placements := s.placements.filter (fun p => p.asid != asid)
    holds := s.holds.filter (fun h => h.asid != asid)
    holders := s.holders.filter (fun (h : Nat × Nat) => h.2 != asid)
    mem := pads.foldl (fun m (h : Nat × Nat) => Memory.clear m (padAddr h.1 0) (padAddr h.1 0 + 393216)) s.mem }
  let s := s.updCtx asid (fun c => { c with preempted := [], scratch := if killed then none else c.scratch })
  { s with hart := if gone s.hart then s.hart.leave else s.hart, others := s.others.filter (fun h => !gone h) }

/-- The image of a stopped context is written where it fits, and only then IMGLEN and STATE; else STATE 5 reports the size (R354). DESIGN CHOICE
(log 96): an image area that lies outside installed memory is written all the same. -/
def State.writeImage (s : State) (c : Context) : State :=
  let img := s.image c
  let area := s.homeNat (c.desc + 16) 8
  let room := s.homeNat (c.desc + 24) 8
  let s' := s.homeStoreNat (c.desc + 32) 8 img.length
  if room < img.length then s'.setCtx c.asid 5 c.cause
  else (((s.homeStore area img).freeCtx c.asid false).homeStoreNat (c.desc + 32) 8 img.length).setCtx c.asid 3 c.cause

/-- A context whose halt has begun (R353): no remote chunk of it waits for an acknowledgement. -/
def State.nextImage (s : State) : Option Context :=
  s.contexts.find? (fun c => c.state == 2 && !s.copies.any (fun d => d.owner.asid == c.asid && d.sent))

/-- The units of a halting context stop, where they have not yet, and its image is written (R353, R354). -/
def State.finishHalt (s : State) (c : Context) : State :=
  if c.stopped then s.writeImage c
  else
    let s := s.stopCtx c.asid
    match s.ctxOf c.asid with
    | none => s
    | some c => s.writeImage c

/-- A halt begins (R353, R357): its units stop later, at instruction boundaries of their own. -/
def State.startHalt (s : State) (asid cause : Nat) : State := s.setCtx asid 2 cause

/-- A kill (R355): the harts stop, and nothing is written back and nothing is written out. DEDUCED (log 78): the stop is made with CTXHALT. -/
def State.kill (s : State) (asid : Nat) : State :=
  let s := ((s.ctxHarts asid).map Hart.loc).foldl (fun s l => s.asHart l State.stopHere) s
  let s := s.loseLines asid (fun _ => true) true
  let s := { s with
    collector := s.collector.filter (fun e => e.asid != asid)
    potStacks := s.potStacks.filter (fun k => k.asid != asid) }
  ((s.dropTlb asid (fun _ => true)).freeCtx asid true).setCtx asid 4 3

/-! ### Pre-emption of one hart (R356) -/

/-- The hart is to be pre-empted: it stops later, at an instruction boundary, when its record is written at the area (R356). -/
def State.preempt (s : State) (loc area : Nat) : State := s.updHart loc (fun h => { h with leaving := some area })

/-- A hart that is to be pre-empted and stands at an instruction boundary, and its save area. DEDUCED (log 24): one that is parked stays so until
TRET, a halt or a kill (R335), and is pre-empted after TRET; one that waits for a trap or for a pot's home is pre-empted after it. -/
def State.nextPreempted (s : State) : Option (Hart × Nat) :=
  s.allHarts.findSome? (fun h => if !h.ctl && h.runnable && s.ctxRuns h.asid then h.leaving.map (fun area => (h, area)) else none)

/-- The hart stops and its record is written, SIZE last; its lane groups and slot are then free (R356, R212). DESIGN CHOICE (log 96): an area that
lies outside installed memory is written all the same. -/
def State.writeHart (s : State) (loc area : Nat) : State :=
  let s := s.asHart loc State.stopHere
  match s.hartAt loc with
  | none => s
  | some h =>
    let s := (s.flushScalar h (fun _ => true) true).flushSlices h.coreId h.ep.lg
    let r := h.record 2 []
    let s := (s.homeStore (area + 8) (r.drop 8)).homeStore area (r.take 8)
    let s := s.updCtx h.asid (fun c => { c with preempted := c.preempted ++ [(h.loc, area)] })
    if s.hart.loc = loc && s.hart.status != .retired then { s with hart := s.hart.leave }
    else { s with others := s.others.filter (fun g => !(g.loc == loc && g.status != .retired)) }

/-! ### CTXHALT (R351, R352) -/

/-- The fields of the second operand that a mode reserves: bits [63:52] and [3:2], and AREA and HART outside mode 1. -/
def ctxOperandBad (x : Word) : Bool :=
  let mode := wbits x 0 2
  mode == 3 || wbits x 52 12 != 0 || wbits x 2 2 != 0 || (mode != 1 && (wbits x 12 40 != 0 || wbits x 4 8 != 0))

/-- CTXHALT's mode 1 on a running context. -/
def haltOne (o : OpDSS) (asid : Nat) (x : Word) (s : State) : Out :=
  let loc := wbits x 4 8
  match (s.ctxHarts asid).find? (fun h => h.loc == loc) with
  | none => retireX s o.d (-3)
  | some h =>
    if h.leaving.isSome then retireX s o.d (-3) else retireX (s.preempt loc (wbits x 12 40 * 4096)) o.d 0

/-- CTXHALT on a known context. DEDUCED (log 30): a context that is halting, halted or killed answers −2 to every mode, but for mode 0 and mode 2
on one whose image was not written (R354, R355). -/
def haltKnown (o : OpDSS) (c : Context) (desc : Nat) (x : Word) (s : State) : Out :=
  let mode := wbits x 0 2
  let s' := s.updCtx c.asid (fun c => { c with desc := desc })
  if c.state = 1 then
    (if mode = 0 then retireX (s'.startHalt c.asid 1) o.d 0
     else if mode = 1 then haltOne o c.asid x s
     else retireX (s'.kill c.asid) o.d 0)
  else if c.state = 5 && mode = 0 then retireX (s'.setCtx c.asid 2 1) o.d 0
  else if c.state = 5 && mode = 2 then retireX (s'.kill c.asid) o.d 0
  else if c.state = 0 then retireX s o.d (-1)
  else retireX s o.d (-2)

/-- The address space of the context that a descriptor describes: that of the hardware's copy, where it knows the descriptor, else the one in
memory (R349). -/
def State.descAsid (s : State) (a : Nat) : Nat :=
  match s.contexts.find? (fun c => c.desc == a && (c.state == 1 || c.state == 2 || c.state == 5)) with
  | some c => c.asid
  | none => s.homeNat (a + 2) 2

/-- R351, R352: CTXHALT. -/
def execCtxhalt (o : OpDSS) (s : State) : Out :=
  if !s.hart.ctl then illegal s (.ctxhalt o)
  else
    let a := s.xn o.s1
    let x := s.xr o.s2
    match descTrap s a with
    | some t => raise s t
    | none =>
      let s := s.release 3
      if ctxOperandBad x then retireX s o.d (-4)
      else match s.ctxOf (s.descAsid a) with
        | none => retireX s o.d (-1)
        | some c => haltKnown o c a x s

end Sys2Proof.Machine
end

