-- ==== Sys2Proof/Machine/Resume.lean ====
section
/-! DEFINITION. Resuming a context from its image, putting a pre-empted hart back, the placing of their harts, and CTXRESUME (R356, R366 to
R368). -/

namespace Sys2Proof.Machine

/-! ### Cutting an image into records (R358 to R362) -/

/-- `n` records, each as long as `len` says of the bytes at its start; none where the bytes end too soon or a record has no length. -/
def cutRecords (len : List Byte → Nat) : Nat → List Byte → Option (List (List Byte))
  | 0, _ => some []
  | n + 1, bs =>
    let k := len bs
    if k = 0 || bs.length < k then none
    else (cutRecords len n (bs.drop k)).map (fun rs => bs.take k :: rs)

/-- The length of a record of each section type, from its first bytes. -/
def recordLen (type : Nat) (bs : List Byte) : Nat :=
  match type with
  | 1 => 128
  | 2 => fieldAt bs 0 8
  | 3 => if fieldAt bs 4 1 = 1 then 64 + 393216 else 64
  | 4 => 128
  | 5 => if fieldAt bs 12 1 = kindBattn then 128 + 4 * fieldAt bs (24 + 36) 2 else 128
  | 6 => 128
  | 7 => 16
  | _ => 32

/-- An entry of the section table. -/
structure Section where
  type : Nat
  records : List (List Byte)

/-- The `n` sections of an image from entry `k` of its table, each as its entry says; none where one is out of order, out of range or misaligned
(R366): it begins below `lo`, where the table or the section before it ends, or its type is not above `prev`. -/
def readSections (img : List Byte) : Nat → Nat → Nat → Nat → Option (List Section)
  | 0, _, _, _ => some []
  | n + 1, k, prev, lo =>
    let e := 128 + 16 * k
    let type := fieldAt img e 2
    let count := fieldAt img (e + 4) 4
    let off := fieldAt img (e + 8) 8
    if type ≤ prev || 8 < type || fieldAt img (e + 2) 2 ≠ 0 || off % 64 ≠ 0 || off < lo || img.length < off || (count = 0) then none
    else
      match cutRecords (recordLen type) count (img.drop off) with
      | none => none
      | some rs => (readSections img n (k + 1) type (off + rs.flatten.length)).map (fun more => ⟨type, rs⟩ :: more)

/-- The records of a section; none where it is absent. -/
def sectionOf (es : List Section) (type : Nat) : List (List Byte) := ((es.find? (fun e => e.type == type)).map (·.records)).getD []

/-! ### Reading records -/

/-- The issuer of an engine record. -/
def ownerOf (asid : Nat) (r : List Byte) : Owner := ⟨asid, fieldAt r 0 4, fieldAt r 4 4⟩

/-- The core records name every hart's core, each core once, and as many harts as there are (R360). -/
def coresBad (cores harts : List (List Byte)) : Bool :=
  !harts.all (fun h => cores.any (fun c => fieldAt c 0 4 == fieldAt h 8 1 / 4))
    || cores.any (fun c => (harts.filter (fun h => fieldAt h 8 1 / 4 == fieldAt c 0 4)).length != fieldAt c 5 1)
    || cores.any (fun c => 1 < fieldAt c 4 1 || 63 < fieldAt c 0 4 || (cores.filter (fun k => fieldAt k 0 4 == fieldAt c 0 4)).length != 1)

/-- An engine, farm or settle record breaks R361. DEDUCED (log 28): which breaches make a record malformed. -/
def copyRecordBad (r : List Byte) : Bool :=
  !([1, 2].contains (fieldAt r 16 1)) || chunkCount ((r.drop 32).take 64) < fieldAt r 12 4
def partRecordBad (r : List Byte) : Bool :=
  !([kindBkop, kindBgemv, kindBattn].contains (fieldAt r 12 1)) || 127 < fieldAt r 13 1 || 2 < fieldAt r 14 1 || 1 < fieldAt r 15 1
    || fieldAt r 96 4 != r.length
def State.farmRecordBad (s : State) (r : List Byte) : Bool :=
  let d := (r.drop 24).take 64
  let f := farmOf 0 d
  farmFieldsBad s { f with dieMask := 0 } d || !([1, 2, 3].contains (fieldAt r 4 1)) || 3 < fieldAt r 5 1 || f.harts < fieldAt r 8 4 || fieldAt r 8 4 < fieldAt r 12 4
    || (fieldAt r 4 1 == 3 && fieldAt r 12 4 != f.harts)
def settleRecordBad (r : List Byte) : Bool := 2 ^ 36 ≤ fieldAt r 0 8

/-- The pots of index range records, in their order, each with its ranges. -/
def potGroups : List (List Byte) → List (Nat × List (Nat × Nat))
  | [] => []
  | r :: rs =>
    let va := fieldAt r 0 8
    let x := (fieldAt r 8 8, fieldAt r 16 8)
    match potGroups rs with
    | (w, xs) :: more => if w = va then (va, x :: xs) :: more else (va, [x]) :: (w, xs) :: more
    | [] => [(va, [x])]

/-- Index range records rise by pot and, within one pot, by index, and no two ranges of a pot touch (R361). -/
def rangesRise : List (List Byte) → Bool
  | r :: q :: rs =>
    (fieldAt r 0 8 < fieldAt q 0 8 || (fieldAt r 0 8 == fieldAt q 0 8 && fieldAt r 16 8 < fieldAt q 8 8)) && rangesRise (q :: rs)
  | _ => true

/-- The address to which the page table maps an address, and the valid entry that does; none where there is no such entry. -/
def State.mapped (s : State) (ptroot va : Nat) (features : Word) : Option (Nat × Nat) :=
  match leafOf s ptroot va with
  | .entry _ e big =>
    if Pte.v e && (Pte.r e || Pte.w e || Pte.x e) && !malformed s features e big then some (physOf e va big 0 .write, e) else none
  | _ => none

/-- Index range records are malformed (R361, R366): they are empty or out of order, their pot is the address of no line, or the pot does not
translate to a pot line whose RESID is the count of its ranges. -/
def State.rangesBad (s : State) (ptroot : Nat) (features : Word) (rs : List (List Byte)) : Bool :=
  rs.any (fun r => fieldAt r 16 8 ≤ fieldAt r 8 8 || fieldAt r 0 8 % 64 != 0 || 2 ^ 52 ≤ fieldAt r 0 8) || !rangesRise rs ||
  (potGroups rs).any (fun g => match s.mapped ptroot g.1 features with
    | none => true
    | some (pa, _) => !s.isPot pa || s.potResid pa != rangeCount g.2)

/-! ### The checks of a mode 0 CTXRESUME (R366) -/

/-- The fields of a descriptor (R349); PTROOT holds bits [51:13] (R341). -/
structure CtxDesc where
  addr : Nat
  asid : Nat
  wdog : Nat
  ptroot : Nat
  image : Nat
  imgsize : Nat
  dirty : Nat
  features : Word

def State.readDesc (s : State) (a : Nat) : CtxDesc :=
  ⟨a, s.homeNat (a + 2) 2, s.homeNat (a + 4) 4, bits (s.homeNat (a + 8) 8) 13 39 * 8192, s.homeNat (a + 16) 8, s.homeNat (a + 24) 8, s.homeNat (a + 40) 8,
    BitVec.ofNat 64 (s.homeNat (a + 48) 8)⟩

/-- A mask covers another (R369). -/
def covers (part mask : Word) : Bool := mask &&& ~~~part == 0

/-- The digest field is that of the plain image. -/
def digestOk (img : List Byte) : Bool := sha256 (img.take 64 ++ zeros 32 ++ img.drop 96) == (img.drop 64).take 32

/-- The records of an image are well formed. -/
def State.recordsBad (s : State) (d : CtxDesc) (es : List Section) : Bool :=
  let harts := sectionOf es 2
  (sectionOf es 1).length != 1 || harts.any hartRecordBad || coresBad (sectionOf es 3) harts
    || (sectionOf es 4).any copyRecordBad || (sectionOf es 5).any partRecordBad || (sectionOf es 6).any s.farmRecordBad
    || (sectionOf es 7).any settleRecordBad
    || s.rangesBad d.ptroot d.features (sectionOf es 8)

/-- What the checks answer: −2, −3 or −4, or the sections. DEDUCED (log 28): the header is judged first, then the masks, then the digest, and
then the sections, which an encrypted image does not show. -/
def State.judgeImage (s : State) (d : CtxDesc) : Int ⊕ List Section :=
  let total := s.homeNat (d.image + 24) 8
  let nsect := s.homeNat (d.image + 32) 4
  let feats := BitVec.ofNat 64 (s.homeNat (d.image + 16) 8)
  let flags := s.homeNat (d.image + 36) 4
  if s.homeBytes d.image 8 ≠ imageMagic || s.homeNat (d.image + 8) 4 ≠ 1 || d.imgsize < total || total < 128 then .inl (-2)
  else if s.homeNat (d.image + 12) 4 ≠ 1 || !covers s.part.features feats || !covers s.part.features d.features then .inl (-3)
  else
    let img := s.homeBytes d.image total
    if nbit flags 0 || !digestOk img then .inl (-4)
    else if 8 < nsect || 2 ≤ flags then .inl (-2)
    else match readSections img nsect 0 0 (128 + 16 * nsect) with
      | none => .inl (-2)
      | some es => if s.recordsBad d es then .inl (-2) else .inr es

/-! ### Resuming (R366, R367) -/

/-- The descriptor is that of a context which was halted on this part, so that CTXRESUME resumes it in place (R366). -/
def State.inPlace (s : State) (old : Option Context) (d : CtxDesc) : Bool :=
  s.homeNat d.addr 1 == 3 && old.any (fun c => c.state == 3 && c.desc == d.addr)

/-- The context as its descriptor and its record give it. DEDUCED (log 29): the loader's scratch image is that of the context `old` only where
this is resumed in place; a context new to this part has none but that held scratchpads begin with zeros. -/
def resumedContext (old : Option Context) (d : CtxDesc) (r : List Byte) (pads : Bool) : Context :=
  { Context.new d.asid with
    desc := d.addr
    state := 1
    wdog := d.wdog
    ptroot := d.ptroot
    dirty := d.dirty
    features := d.features
    scratch := match old.bind (·.scratch) with
      | some img => some img
      | none => if pads then some (zeros 393216) else none
    swmring := BitVec.ofNat 64 (fieldAt r 16 8) &&& 0xFFFFFFFFFFFC1
    tenstab := BitVec.ofNat 64 (fieldAt r 24 8) &&& 0xFFFFFFFFFFFC0
    tenscnt := fieldAt r 40 4
    farmNext := fieldAt r 44 4 }

/-- Step 1: the settle counts of valid SREG pages, and the range sets of the pots. -/
def State.installCounts (s : State) (d : CtxDesc) (settle ranges : List (List Byte)) : State :=
  let s := settle.foldl (fun s r => match s.mapped d.ptroot (fieldAt r 0 8 * 65536) d.features with
    | some (pa, e) => if Pte.kind e = 2 then s.setSettle pa (fieldAt r 8 4) else s
    | none => s) s
  (potGroups ranges).foldl (fun s g => match s.mapped d.ptroot g.1 d.features with
    | some (pa, _) => s.setRanges pa g.2
    | none => s) s

/-- Step 2: a farm queued with its handle and priority; bits of dies that the part lacks are ignored, and where none remains every die is
allowed. A completion that was parked is made, and made again while its page migrates or is to collapse. DESIGN CHOICE (log 28): a farm for which no die
has a free slot takes one of every allowed die. DESIGN CHOICE (log 45): what a fault record of the completion would name and the farm record does not
hold, the die, HARTID and PC of the farm's last hart, is 0. -/
def State.requeueFarm (s : State) (c : Context) (r : List Byte) : State :=
  let f := farmOf c.asid ((r.drop 24).take 64)
  let mask := f.dieMask % 2 ^ s.part.dies
  let dies := slotDies s mask
  let pa := if f.pot = 0 then 0 else ((s.mapped c.ptroot f.pot c.features).map (·.1)).getD 0
  let f : Farm := { f with
    handle := fieldAt r 0 4
    state := if fieldAt r 4 1 = 3 then 2 else fieldAt r 4 1
    prio := fieldAt r 5 1
    admitted := fieldAt r 8 4
    retired := fieldAt r 12 4
    waited := fieldAt r 16 4
    potPa := pa
    dies := if dies.isEmpty then allowedDies s mask else dies }
  let s := { s with farms := s.farms ++ [f] }
  if fieldAt r 4 1 = 3 then s.completeFarm f else s

/-- Step 6, a copy command: it enters the engine when its hart has its place. DEDUCED (log 29): of one whose chunks are all complete the event
is still owed. -/
def resumedCopy (asid : Nat) (r : List Byte) : CopyCmd :=
  let c : CopyCmd := ⟨ownerOf asid r, 0, fieldAt r 8 4, 0, recordWord r 24, (r.drop 32).take 64, fieldAt r 12 4, 1, false, false, 0⟩
  { c with owed := if c.next = chunkCount c.desc && copyIrq c.xs2 ≠ 0 then 1 else 0 }

/-- Step 6, a part with its progress. -/
def resumedPart (r : List Byte) : Part :=
  let dh := if fieldAt r 12 1 = kindBattn then fieldAt r (24 + 36) 2 else 0
  ⟨0, fieldAt r 13 1 % 128, 0, fieldAt r 15 1 == 1, fieldAt r 16 8, BitVec.ofNat 32 (fieldAt r 88 4), BitVec.ofNat 32 (fieldAt r 92 4),
    (List.range dh).map (fun k => BitVec.ofNat 32 (fieldAt r (128 + 4 * k) 4))⟩

/-- Step 6, the parts gathered into their commands. DEDUCED (log 27): fences are in no record, so the commands of a hart follow each other. A
command waits, as parked, until its hart has its place; its share of the rows is the one that it had at issue, where the record holds it. -/
def resumedBks (asid : Nat) (rs : List (List Byte)) : List BkCmd :=
  rs.foldl (fun (cs : List BkCmd) r =>
    let o := ownerOf asid r
    let tag := fieldAt r 8 4
    if cs.any (fun c => c.owner == o && c.tag == tag) then
      cs.map (fun c => if c.owner = o && c.tag = tag then { c with parts := c.parts ++ [resumedPart r] } else c)
    else
      let bank := if fieldAt r 100 2 = 0 then none else some (min (fieldAt r 100 2 - 1) 256)
      cs ++ [⟨o, 0, tag, 0, fieldAt r 12 1, (r.drop 24).take 64, bank, tag, 2, [resumedPart r], 0, 0, [], none⟩]) []

/-- Harts of a record that fit a core together: slots and lane groups. -/
def fitCore (harts : List (List Byte)) : Bool := decide (harts.length ≤ 4) && decide ((harts.map recordLgn).foldl (· + ·) 0 ≤ 16)

/-- A group of a core record's harts that waits for its place. -/
def groupOf (asid saved : Nat) (fixed : Bool) (scratch : Option (List Byte)) (harts : List (List Byte)) (free : Nat) : Placement :=
  ⟨asid, saved, fixed, scratch, harts.map (fun h => recordHart asid h free), harts.map recordFault⟩

/-- Step 3: the harts of a core record, which go to one core together. Where pre-empted harts among them make them too many for a core, these
follow by themselves to the same core when it has room: until that core is chosen their place is named by 64 more than SAVED. DEDUCED (log 80). -/
def resumedGroups (asid : Nat) (harts : List (List Byte)) (free : Nat) (r : List Byte) : List Placement :=
  let saved := fieldAt r 0 4
  let mine := harts.filter (fun h => fieldAt h 8 1 / 4 == saved)
  let scratch := if fieldAt r 4 1 = 1 then some ((r.drop 64).take 393216) else none
  if fitCore mine then [groupOf asid saved false scratch mine free]
  else
    groupOf asid saved false scratch (mine.filter (fun h => fieldAt h 9 1 != 2)) free
      :: (mine.filter (fun h => fieldAt h 9 1 == 2)).map (fun h => groupOf asid (64 + saved) true none [h] free)

/-- The core records in ascending SAVED order. -/
def coresRising (rs : List (List Byte)) : List (List Byte) := (List.range 64).flatMap (fun k => rs.filter (fun r => fieldAt r 0 4 == k))

/-- The pot lines that the context's pages map are those of its new address space (R246). DESIGN CHOICE (log 42): of a pot whose bytes the
supervisor has moved to another frame or part, R366 asks for the pot line that the page maps now. -/
def State.movePots (s : State) (old : Nat) (c : Context) : State :=
  if old = c.asid || s.ctxRuns old then s
  else { s with potMaps := s.potMaps.map (fun m =>
      if m.asid = old && ((s.mapped c.ptroot m.va c.features).map (·.1)) == some m.pa then { m with asid := c.asid } else m) }

/-- A context resumed from the sections of its image (R366, R367). -/
def State.resumeCtx (s : State) (d : CtxDesc) (es : List Section) : State :=
  let old := s.ctxOf d.asid
  let cores := coresRising (sectionOf es 3)
  let record := (sectionOf es 1).headD []
  let c := resumedContext (if s.inPlace old d then old else none) d record (cores.any (fun r => fieldAt r 4 1 == 1))
  let s := { s with contexts := s.contexts.filter (fun (x : Context) => x.asid != d.asid) ++ [c] }
  let s := (s.movePots (fieldAt record 0 2) c).installCounts d (sectionOf es 7) (sectionOf es 8)
  let s := (sectionOf es 6).foldl (fun s r => s.requeueFarm c r) s
  let s := { s with
    copies := s.copies ++ (sectionOf es 4).map (resumedCopy d.asid)
    bks := s.bks ++ resumedBks d.asid (sectionOf es 5)
    placements := s.placements ++ cores.flatMap (resumedGroups d.asid (sectionOf es 2) s.free)
    free := s.free + 1 }
  (s.setCtx d.asid 1 0).retryDue

/-! ### Placing (R356, R367) -/

/-- The group can go to the core: its slots and lane groups, no other context's scratchpad, and none of its own where it brings one. A
pre-empted hart returns to its core only. -/
def State.canSeat (s : State) (p : Placement) (core : Nat) : Bool :=
  let need := (p.harts.map (fun h => h.ep.lgn)).foldl (· + ·) 0
  let farm := (p.harts.head?.map (·.farm)).getD 0
  core / 16 < s.part.dies && (!p.fixed || core == p.saved) && (s.coreHarts core).length + p.harts.length ≤ 4
    && need ≤ s.freeFor core p.asid farm && s.padFree core p.asid
    && (p.scratch.isNone || s.holders.all (fun h => h.1 != core))

/-- What a placed hart finds of its commands: the marks it is owed, its number in them, and their next tags' epoch. -/
def State.meetCommands (s : State) (h : Hart) : State × Hart :=
  let mine := fun (c : CopyCmd) => c.owner == h.owner
  let h' := (s.copies.filter mine).foldl (fun h c => c.settleOn h) h
  let top := (s.bksOf h.owner).foldl (fun n c => max n (c.epoch + 1)) h.sc.bkTag
  let h' := { h' with sc := { h'.sc with bkEpoch := top } }
  let copies := s.copies.map (fun (c : CopyCmd) => if mine c then { c with hartid := h.loc, entered := true, owed := 0 } else c)
  let bks := s.bks.map (fun (c : BkCmd) =>
    if c.owner = h.owner && c.hartid = 0 && c.pc = 0 && c.state = 2 then
      { c with hartid := h.loc, state := 0, bank := some (c.bank.getD h.sc.splitr.toNat) }
    else c)
  ({ s with copies := copies.filter (fun c => !(mine c && c.next == chunkCount c.desc)), bks := bks }, h')

/-- How an entry's X word accesses memory, where it does. -/
def tileWord (q : QEntry) : Option (Nat × Kind) :=
  match q.word with
  | .word i => tileAccess i
  | _ => none

/-- The oldest queued word of the resumed hart that executes is dispatched again, with its saved operands and configuration (R367): its element
addresses are translated again. One whose page migrates, or must collapse, waits (R221, R347); one whose element fails traps, and is dispatched
again after TRET; but a load that fails above its first element is trimmed there once more. DEDUCED (log 44). -/
def execRedispatch (s : State) : Out :=
  match s.hart.redo with
  | [] => .next s
  | q :: rest =>
    let sent := fun (s : State) (q : QEntry) => Host.Outcome.next ({ s with hart := { s.hart with redo := rest } }.send q)
    match q.vmem, tileWord q with
    | some m, _ =>
      let s := s.readyIndex m q
      let q := q.readMask s.hart.ep m.pm
      let act := (range q.start (q.vl - q.start)).filter (q.active s.hart.ep m.pm)
      (match State.checkAll (m.addr q s.hart.ep) m.n m.kind m.code act s [] with
       | .ok s pages => sent s { q with pages := pages }
       | .wait t => waitHere { s with collapses := t.collapses } false
       | .fail t pages f u =>
         if m.kind = .read && act.head? != some f then sent t { q with pages := pages, limit := f }
         else raise t (t.late (m.trap t q.xs1 f u)))
    | none, some (n, k) =>
      (match s.checkTile q.rows q.vl q.xs1 q.xs2 n k with
       | .ok s pages => sent s { q with pages := pages }
       | .wait t => waitHere { s with collapses := t.collapses } false
       | .fail t _ _ u => raise t (t.late u))
    | none, none => sent s q

/-- One hart takes its slot and the lowest-numbered free lane groups (R367). A parked one joins the fault buffer of its new die, its record
naming its new place (log 28). Its queued words are dispatched again, in order, before it executes (R367). -/
def State.seat (s : State) (core : Nat) (h : Hart) (record : List Byte) : State :=
  match s.freeSlot core with
  | none => s
  | some slot =>
    let lg := lowest h.ep.lgn (s.freeLgs core)
    let h := { h with die := core / 16, core := core % 16, slot := slot, ep := { h.ep with lg := lg } }
    let r := s.meetCommands h
    let s := r.1.seatHart { r.2 with ep := { r.2.ep with queue := [] }, redo := r.2.ep.queue }
    if h.status = .parked then
      { s with faults := s.faults ++ [⟨h.die, .hart h.loc, record.take 4 ++ leBytes 4 (h.asid * 65536 + h.loc) ++ record.drop 8, none⟩] }
    else s

/-- The group is placed: its scratchpad is copied in first, and its first hart acquires at scope P. -/
def State.place (s : State) (p : Placement) (core : Nat) : State :=
  let s := { s with placements := (s.placements.filter (fun q => q != p)).map (fun (q : Placement) =>
      if q.asid = p.asid && q.saved = 64 + p.saved then { q with saved := core, harts := q.harts.map (Hart.ofCore · core) } else q) }
  let s := s.cleanPad core
  let s := match p.scratch with
    | none => s.holdPad core p.asid
    | some img => { s with holders := (core, p.asid) :: s.holders, mem := Memory.writeN s.mem (padAddr core 0) img }
  let s := s.flushVdc (fun l => l.core == core && !l.swm) true
  (p.harts.zip p.records).foldl (fun s h => s.seat core h.1 h.2) s

/-- The groups that can be placed now, each with its cores: of a context only the first, in ascending order of its saved core; of pre-empted
harts each one. -/
def State.seatable (s : State) : List (Placement × List Nat) :=
  s.placements.filterMap (fun p =>
    let first := p.fixed || (s.placements.find? (fun q => !q.fixed && q.asid == p.asid)) == some p
    let cs := s.cores.filter (s.canSeat p)
    if first && !cs.isEmpty && (s.ctxOf p.asid).any (·.state == 1) then some (p, cs) else none)

/-- The next group, or the next pre-empted hart, placed on a core that the hardware chooses. -/
def State.nextPlaced (s : State) (fixed : Bool) : Option State :=
  (s.seatable.find? (fun e => e.1.fixed == fixed)).map (fun e =>
    let r := s.choose e.2.length
    r.2.place e.1 ((e.2[r.1]?).getD 0))

/-! ### CTXRESUME (R351, R356, R366) -/

/-- Mode 1: the hart of a save area. -/
def resumeOne (o : OpDSS) (asid area : Nat) (s : State) : Out :=
  match s.ctxOf asid with
  | none => retireX s o.d (-1)
  | some c =>
    if c.state ≠ 1 then retireX s o.d (-1)
    else match c.preempted.find? (fun e => e.2 == area) with
      | none => retireX s o.d (-2)
      | some e =>
        let r := s.areaRecord area
        if fieldAt r 9 1 ≠ 2 || hartRecordBad r then retireX s o.d (-2)
        else
          let h := recordHart asid r s.free
          let s := s.updCtx asid (fun c => { c with preempted := c.preempted.filter (fun x => x != e) })
          let p : Placement := ⟨asid, fieldAt r 8 1 / 4, true, none, [h], [[]]⟩
          retireX { s with placements := s.placements ++ [p], free := s.free + 1 } o.d 0

/-- Mode 0. -/
def resumeAll (o : OpDSS) (a : Nat) (s : State) : Out :=
  let d := s.readDesc a
  if (s.ctxOf d.asid).any (fun c => c.state == 1 || c.state == 2 || c.state == 5) then retireX s o.d (-1)
  else match s.judgeImage d with
    | .inl n => retireX s o.d (Word.ofInt n)
    | .inr es => retireX (s.resumeCtx d es) o.d 0

/-- R351, R356, R366: CTXRESUME. DEDUCED (log 30): MODE 2, which R351 gives no meaning here, answers as a reserved one. -/
def execCtxresume (o : OpDSS) (s : State) : Out :=
  if !s.hart.ctl then illegal s (.ctxresume o)
  else
    let a := s.xn o.s1
    let x := s.xr o.s2
    match descTrap s a with
    | some t => raise s t
    | none =>
      let s := s.release 3
      if ctxOperandBad x || wbits x 0 2 = 2 then retireX s o.d (-5)
      else if wbits x 0 2 = 1 then resumeOne o (s.descAsid a) (wbits x 12 40 * 4096) s
      else resumeAll o a s

end Sys2Proof.Machine
end

