-- ==== Sys2Proof/Machine/HartEvents.lean ====
section
/-! DEFINITION. The machine's own events that concern harts, their execute processors, contexts and engines: none of them is an instruction
word, and each one's meaning says what of `State.input` it reads. -/

namespace Sys2Proof.Machine

/-- An event that happens where `r` is a state. -/
def happens (s : State) (r : Option State) : Out :=
  match r with
  | some s => .next s
  | none => noEvent s

/-- An event of the hart `input.unit`, where it is on the package and `p` holds of it. -/
def ofHart (p : Hart → Bool) (f : State → State) (s : State) : Out :=
  match s.hartAt s.input.unit with
  | none => noEvent s
  | some h => if p h then .next (s.asHart h.loc f) else noEvent s

/-- The oldest entry of a hart's queue satisfies a test. -/
def Hart.headIs (h : Hart) (p : QWord → Bool) : Bool :=
  match h.ep.queue with
  | [] => false
  | q :: _ => h.epLive && p q.word

/-! ### The execute processor (R133, R243, R303) -/

/-- The execute processor of the hart has a word to perform: the oldest of its queue, or a trap-mode G word where the queue is empty. -/
def Hart.epWork (h : Hart) : Bool :=
  h.headIs (fun w => match w with | .word _ => true | _ => false) || (h.epLive && h.ep.queue.isEmpty && h.ep.geom.isSome)

/-- The execute processor performs `n` more elements of its word or, where `j` is not 0, element `j` − 1 ahead of those that precede it (R133). -/
def State.epTurn (s : State) (n j : Nat) : State :=
  if j ≠ 0 then (s.performAhead (j - 1)).getD s
  else if s.hart.ep.queue.isEmpty then s.advanceGeom n
  else s.advanceHead n

/-- EP_INSTRUCTION_COMPLETE (R133): the oldest word of hart `input.unit` is performed for `input.value` more elements, or its element
`input.addr` − 1 ahead of the others; a whole-result word, or one that reaches its end, completes. -/
def execEpInstructionComplete (s : State) : Out :=
  ofHart Hart.epWork (fun t => t.epTurn s.input.value s.input.addr) s

/-- STREAM_DELIVERY (R243): the oldest entry of hart `input.unit`, a delivery of a bound group, is performed. -/
def execStreamDelivery (s : State) : Out :=
  ofHart (fun h => h.headIs (fun w => match w with | .delivery _ => true | _ => false)) State.completeHead s

/-- MASK_CLEAR (R303): the oldest entry of hart `input.unit`, the clear of a CPY's mask bits, is performed, and the command enters its engine. -/
def execMaskClear (s : State) : Out :=
  ofHart (fun h => h.headIs (fun w => match w with | .maskClear .. => true | _ => false)) State.completeHead s

/-! ### Traps, completion events and waits -/

/-- A hart whose trap can be delivered: every vector word before it is complete (R329). -/
def Hart.trapReady (h : Hart) : Bool :=
  match h.status with
  | .trapping _ => h.ep.queue.isEmpty
  | _ => false

/-- The hart's trap delivered. -/
def State.deliverHere (s : State) : State :=
  match s.hart.status with
  | .trapping t => s.deliver t
  | _ => s

/-- TRAP_DELIVERY (R328, R329): the first hart whose trap can be delivered takes it. -/
def execTrapDelivery (s : State) : Out :=
  happens s ((s.allHarts.find? Hart.trapReady).map (fun h => s.asHart h.loc State.deliverHere))

/-- FAULT_RECORD_APPEND (R338): the oldest record that waits on die `input.unit` is appended where its queue has room. -/
def execFaultRecordAppend (s : State) : Out :=
  happens s ((s.nextFault s.input.unit).map (fun r => s.appendFault r.1 r.2))

/-- UI_EVENT_DELIVERY (R308): the pending events of hart `input.unit` go to its handler. -/
def execUiEventDelivery (s : State) : Out :=
  ofHart Hart.deliverable (fun s => { s with hart := s.hart.takeEvent }) s

/-- The hart waits in an MWAIT whose limit of rounds has passed without its monitor firing (R259). -/
def Hart.mwaitExpired (h : Hart) : Bool :=
  match h.mwait with
  | none => false
  | some m => h.runnable && m.limit != 0 && decide (m.limit ≤ m.rounds) && !(h.sc.monitor.any (·.fired))

/-- MWAIT_TIMEOUT (R259): the MWAIT of hart `input.unit` answers 0. -/
def execMwaitTimeout (s : State) : Out :=
  ofHart Hart.mwaitExpired (fun s => match s.hart.mwait with
    | none => s
    | some m => (s.mwaitEnd m.d false).lateEvent s.hart) s

/-- The oldest request at a pot's home: of the pot at `pa`, or of any where `pa` is 0. -/
def State.potNext (s : State) (pa : Nat) : Option PotReq := s.potQueue.find? (fun q => pa == 0 || q.pa == pa)

/-- POT_HOME_REQUEST (R249): the home of the pot at `input.addr` serves its oldest request, and the hart that waits for it goes on. -/
def execPotHomeRequest (s : State) : Out :=
  happens s ((s.potNext s.input.addr).map s.servePot)

/-! ### Farms, rounds and the watchdog (R139, R145, R147, R357, R393) -/

/-- One of a list of cores: the core `wish` − 1 where that is among them, else one that the hardware chooses. -/
def State.pickCore (s : State) (wish : Nat) (cs : List Nat) : Nat × State :=
  if 0 < wish && cs.contains (wish - 1) then (wish - 1, s) else let r := s.choose cs.length; ((cs[r.1]?).getD 0, r.2)

/-- HART_ADMISSION (R139, R145): the first waiting farm of a die that can place no hart gets its hold; else the first farm in the serving order
that can place its next hart admits it. The core is `input.value` − 1 where that is one of those it can be, else one that the hardware chooses. -/
def execHartAdmission (s : State) : Out :=
  match s.nextHold with
  | some (f, cs) =>
    let r := s.pickCore s.input.value cs
    .next (r.2.hold f r.1)
  | none =>
    match s.nextAdmission with
    | some (f, cs) =>
      let r := s.pickCore s.input.value cs
      .next (r.2.admitHart f r.1)
    | none => noEvent s

/-- A farm ages by one boundary (R145): at each multiple of 64 it rises one level, up to 3. -/
def Farm.age (f : Farm) : Farm :=
  { f with waited := f.waited + 1, prio := if (f.waited + 1) % 64 = 0 then min 3 (f.prio + 1) else f.prio }

/-- Every farm ages, and its harts with it (R145, R362). -/
def State.ageFarms (s : State) : State :=
  let s := { s with farms := s.farms.map Farm.age }
  s.farms.foldl (fun s f => s.setPrio f.asid f.handle f.prio) s

/-- An MWAIT has seen one more boundary (R259). -/
def Hart.roundPasses (h : Hart) : Hart :=
  { h with mwait := h.mwait.map (fun (m : MwaitState) => { m with rounds := m.rounds + 1 }) }

/-- The watchdog's count after a round (R147). DEDUCED (log 31): a round in which every hart waits ends the consecutive rounds, as one with a
progress event does. -/
def Context.watch (c : Context) (busy : Bool) : Context :=
  { c with count := if c.state = 1 && busy && !c.progress then c.count + 1 else 0, progress := false }

/-- The context has an admitted hart that is not in an architected wait (R147). -/
def State.busy (s : State) (asid : Nat) : Bool := (s.ctxHarts asid).any (fun h => !h.waiting)

/-- Triples of bytes as a die and the index of a record: what a round's timing has raised. -/
def recordsOf : List Byte → List (Nat × Nat)
  | k :: a :: b :: r => (k.toNat, a.toNat + 256 * b.toNat) :: recordsOf r
  | _ => []

/-- A record that rises at most once in a round: refresh postponements and budget exhaustions (R319, R397). -/
def oncePerRound (i : Nat) : Bool := (0x800 ≤ i && i ≤ 0x87F) || (0x900 ≤ i && i ≤ 0x907)

/-- The latency histogram (R397). -/
def histogram (i : Nat) : Bool := 0x1000 ≤ i && i ≤ 0x10FF

/-- The records that a round's timing raises, on the dies of the part (R397). -/
def timingRecords (dies : Nat) (bs : List Byte) : List (Nat × Nat) :=
  let rs := (recordsOf bs).filter (fun r => r.1 < dies)
  (rs.filter (fun r => oncePerRound r.2)).eraseDups ++ rs.filter (fun r => histogram r.2)

/-- The package has its supply. -/
def State.powered (s : State) : Bool := s.boot != .off

/-- Every die's lifetime records committed, indivisibly (R398). -/
def State.commitAll (s : State) : State :=
  { s with dies := s.dies.map (fun (d : Die) => { d with telStored := d.tel }) }

/-- The count of rounds spent in an excursion, on each die (R392, R397). -/
def State.countExcursions (s : State) : State :=
  (List.range 4).foldl (fun s k => if (s.die k).thermal then s.count k 0x1131 1 else s) s

/-- ROUND_BOUNDARY (R393): farms age, waiting MWAITs count, the watchdogs count, write-range entries are appended at the latest (R216), hinted
rows have closed (R224), and every 2^24 rounds the telemetry is committed. What timing adds to the records comes with the event: `input.data`
names one by each three of its bytes, the die and the index (log 32). DEDUCED (log 31): the watchdog judges a round by where the harts stand at its
end. -/
def execRoundBoundary (s : State) : Out :=
  let s := (timingRecords s.part.dies s.input.data).foldl (fun s r => s.count r.1 r.2 1) s
  let s := ((s.countExcursions.appendRanges (fun _ => true)).mapHarts Hart.roundPasses).ageFarms
  let s := { s with
    rounds := s.rounds + 1
    hints := []
    contexts := s.contexts.map (fun (c : Context) => c.watch (s.busy c.asid)) }
  .next (if s.powered && s.rounds % 2 ^ 24 = 0 then s.commitAll else s)

/-- The context's watchdog has reached its limit (R357). -/
def Context.expired (c : Context) : Bool := c.state == 1 && c.wdog != 0 && decide (c.wdog ≤ c.count)

/-- WATCHDOG_EXPIRY (R357): the first context whose count has reached WDOG is halted with CAUSE 2, and the firing is counted (log 25). -/
def execWatchdogExpiry (s : State) : Out :=
  happens s ((s.contexts.find? Context.expired).map (fun c =>
    ((s.updCtx c.asid (fun c => { c with count := 0 })).count 0 0x1110 1).startHalt c.asid 2))

/-! ### Engines (R304, R311, R319, R320, R377) -/

/-- COPY_CHUNK (R304): the next chunk that an engine can perform, of the engine of core `input.unit` − 1 where that has one. -/
def execCopyChunk (s : State) : Out := happens s (s.nextChunk s.input.unit)

/-- REMOTE_CHUNK_WRITE (R377): another device's chunk, the bytes `input.data`, arrives for address `input.addr` of address space `input.value`. -/
def execRemoteChunkWrite (s : State) : Out :=
  happens s (s.remoteWrite s.input.value s.input.addr s.input.data)

/-- REMOTE_CHUNK_ACK (R377): the answer to the sent chunk of hart `input.unit`: `input.value` is 0, or the remote device's cause with the
remote address `input.addr`; the failing page there is of class D where the first byte of `input.data` is not 0. -/
def execRemoteChunkAck (s : State) : Out :=
  happens s ((s.copies.find? (fun c => c.sent && c.hartid == s.input.unit)).bind
    (fun c => s.copyAck c s.input.value s.input.addr (s.input.data.headD 0 != 0)))

/-- STRELVIS_PART (R311): the units' next event: the part that unit `input.unit` − 1 can run, the checks of hart `input.addr` − 1, or what is next;
a part runs for `input.value` units of work, or to its end where that is 0. -/
def execStrelvisPart (s : State) : Out := happens s (s.nextPart s.input.unit s.input.addr s.input.value)

/-- HBM_REFRESH (R319): a refresh falls between row steps and changes nothing that a program or a supervisor can see. -/
def execHbmRefresh (s : State) : Out := .next s

/-- CHANNEL_POWER_DOWN_REQUEST (R320): channel `input.unit` goes to sleep, unless a BGEMV or BATTN part runs there. -/
def execChannelPowerDownRequest (s : State) : Out :=
  let u := s.input.unit
  if s.bks.any (fun c => c.kind != kindBkop && c.parts.any (fun p => p.unit == u && p.state == 1)) then
    noEvent s
  else .next { s with sleeping := u :: s.sleeping.filter (fun v => v != u) }

/-! ### Contexts (R354, R356, R367) -/

/-- CONTEXT_IMAGE_WRITE (R354): the image of a halting context, or STATE 5. -/
def execContextImageWrite (s : State) : Out := happens s (s.nextImage.map s.finishHalt)

/-- HART_RECORD_WRITE (R356): the record of a pre-empted hart. -/
def execHartRecordWrite (s : State) : Out := happens s (s.nextPreempted.map (fun r => s.writeHart r.1.loc r.2))

/-- PREEMPTED_HART_PLACEMENT (R356): a resumed pre-empted hart returns to its core. -/
def execPreemptedHartPlacement (s : State) : Out := happens s (s.nextPlaced true)

/-- RESUMED_HART_PLACEMENT (R367): the harts of a core record of a resumed context are placed. -/
def execResumedHartPlacement (s : State) : Out := happens s (s.nextPlaced false)

end Sys2Proof.Machine
end

