-- ==== Sys2Proof/Machine/Lms.lean ====
section
/-! DEFINITION. LMS signatures with SHA-256 (R5, R384, R385). PRESUMED (log 34): the spec names RFC 8554, and what follows is that document's
LMS_SHA256_M32_H20 with LMOTS_SHA256_N32_W8, types 8 and 4. -/

namespace Sys2Proof.Machine

/-- The value of bytes that stand highest first. -/
def beValue (bs : List Byte) : Nat := leValue bs.reverse

/-- The height of the tree, and the hash chains of a one-time key. -/
def lmsHeight : Nat := 20
def otsChains : Nat := 34

/-- The first 22 bytes of every hash: the key's identifier, a number, and what the hash is for. -/
def lmsPrefix (ident : List Byte) (r d : Nat) : List Byte := ident ++ beBytes 4 r ++ beBytes 2 d

/-- `n` steps of chain `i` of leaf `q`, from step `j`. -/
def otsChain (ident : List Byte) (q i : Nat) : Nat → Nat → List Byte → List Byte
  | 0, _, x => x
  | n + 1, j, x => otsChain ident q i n (j + 1) (sha256 (lmsPrefix ident q i ++ beBytes 1 j ++ x))

/-- What a one-time signature with randomiser `c` signs of a message: 32 bytes of its hash and 2 of their checksum. -/
def otsDigits (ident : List Byte) (q : Nat) (c msg : List Byte) : List Nat :=
  let h := (sha256 (lmsPrefix ident q 0x8181 ++ c ++ msg)).map BitVec.toNat
  let sum := (h.map (fun b => 255 - b)).foldl (· + ·) 0
  h ++ [sum / 256, sum % 256]

/-- The one-time public key of the ends of its chains. -/
def otsKey (ident : List Byte) (q : Nat) (ends : List (List Byte)) : List Byte := sha256 (lmsPrefix ident q 0x8080 ++ ends.flatten)

/-- A leaf of the tree. -/
def lmsLeaf (ident : List Byte) (q : Nat) (key : List Byte) : List Byte := sha256 (lmsPrefix ident (2 ^ lmsHeight + q) 0x8282 ++ key)

/-- An inner node of the tree. -/
def lmsInner (ident : List Byte) (r : Nat) (left right : List Byte) : List Byte := sha256 (lmsPrefix ident r 0x8383 ++ left ++ right)

/-- The root to which a path leads from node `r`. -/
def lmsClimb (ident : List Byte) : List (List Byte) → Nat → List Byte → List Byte
  | [], _, t => t
  | p :: ps, r, t => lmsClimb ident ps (r / 2) (if r % 2 = 1 then lmsInner ident (r / 2) p t else lmsInner ident (r / 2) t p)

/-- `n` pieces of 32 bytes. -/
def pieces32 (bs : List Byte) (n : Nat) : List (List Byte) := (List.range n).map (fun i => (bs.drop (32 * i)).take 32)

/-- The two type words of a key: 8 and 4. -/
def lmsTypeWords : List Byte := beBytes 4 8 ++ beBytes 4 4

/-- A signature of 1,772 bytes verifies under a public key of 56 bytes. -/
def lmsVerify (key msg sig : List Byte) : Bool :=
  let ident := (key.drop 8).take 16
  let q := beValue (sig.take 4)
  let c := (sig.drop 8).take 32
  let ys := pieces32 (sig.drop 40) otsChains
  let path := pieces32 (sig.drop (40 + 32 * otsChains + 4)) lmsHeight
  let ends := (List.range otsChains).zip ((otsDigits ident q c msg).zip ys) |>.map (fun x => otsChain ident q x.1 (255 - x.2.1) x.2.1 x.2.2)
  key.length == 56 && sig.length == 1772 && key.take 8 == lmsTypeWords && (sig.drop 4).take 4 == beBytes 4 4
    && (sig.drop (40 + 32 * otsChains)).take 4 == beBytes 4 8 && q < 2 ^ lmsHeight
    && lmsClimb ident path (2 ^ lmsHeight + q) (lmsLeaf ident q (otsKey ident q ends)) == key.drop 24

/-! ### The identity key (R385) -/

/-- The key's identifier, the start of chain `i` of leaf `q`, and the randomiser of its one signature: fused or drawn, and known to no party. -/
def identityId : List Byte := leBytes 16 Config.identityId.toNat
def identityStart (q i : Nat) : List Byte := leBytes 32 (Config.identitySecret q i).toNat
def identityRandom (q : Nat) : List Byte := leBytes 32 (Config.identityRandom q).toNat

/-- Leaf `q` of the identity tree. -/
def identityLeaf (q : Nat) : List Byte :=
  lmsLeaf identityId q (otsKey identityId q ((List.range otsChains).map (fun i => otsChain identityId q i 255 0 (identityStart q i))))

/-- The node `r` that stands `k` levels above the leaves. -/
def identityNode : Nat → Nat → List Byte
  | 0, r => identityLeaf (r - 2 ^ lmsHeight)
  | k + 1, r => lmsInner identityId r (identityNode k (2 * r)) (identityNode k (2 * r + 1))

/-- The identity public key, 56 bytes. -/
def identityKey : List Byte := lmsTypeWords ++ identityId ++ identityNode lmsHeight 1

/-- The other child of each node on the way from a leaf to the root. -/
def identityPath (q : Nat) : List (List Byte) :=
  (List.range lmsHeight).map (fun k =>
    let r := (2 ^ lmsHeight + q) / 2 ^ k
    identityNode k (if r % 2 = 1 then r - 1 else r + 1))

/-- The signature of a message with leaf `q`, 1,772 bytes. -/
def identitySign (q : Nat) (msg : List Byte) : List Byte :=
  let c := identityRandom q
  let ds := otsDigits identityId q c msg
  let ys := ((List.range otsChains).zip ds).map (fun x => otsChain identityId q x.1 x.2 0 (identityStart q x.1))
  beBytes 4 q ++ beBytes 4 4 ++ c ++ ys.flatten ++ beBytes 4 8 ++ (identityPath q).flatten

end Sys2Proof.Machine
end

