-- ==== Sys2Proof/Machine/DeviceEvents.lean ====
section
/-! DEFINITION. The machine's own events that concern memory, migration, tier 3, device registers, links, the host, boot, attestation,
telemetry, heat and power (R210, R216, R221 to R228, R372 to R399). Each one's meaning says what of `State.input` it reads. -/

namespace Sys2Proof.Machine

/-! ### Caches and pages -/

/-- WRITE_BACK_MERGE (R210): the dirty line `input.addr` of the vector data cache of core `input.unit` is evicted and its bytes merge at home. A
scalar line is evicted only by the access that places another line in its set (R323). -/
def execWriteBackMerge (s : State) : Out :=
  let p := fun (l : VLine) => l.core == s.input.unit && l.line == s.input.addr
  if s.vdc.any (fun l => p l && l.dirty != 0) then .next (s.flushVdc p true) else noEvent s

/-- The frame of an address is discarded (R226). -/
def State.isDiscarded (s : State) (pa : Nat) : Bool := s.discarded.any (fun e => e.1 == pa / 65536 * 65536)

/-- PAGE_REVIVAL (R226): a write of the bytes `input.data` by party `input.unit` arrives at `input.addr`, whose page is discarded. -/
def execPageRevival (s : State) : Out :=
  if s.isDiscarded s.input.addr && !s.input.data.isEmpty then .next (s.mergeBytes s.input.addr s.input.data s.input.unit)
  else noEvent s

/-- WRITE_RANGE_APPEND (R216): the oldest collector entry of core `input.unit` is appended to its ring. -/
def execWriteRangeAppend (s : State) : Out :=
  happens s ((s.collector.find? (fun e => e.core == s.input.unit)).map s.appendRange)

/-- COLLAPSE (R221): the oldest write that waits on a replicated page makes it collapse. -/
def execCollapse (s : State) : Out := happens s (s.collapses.head?.map s.collapse)

/-- HINT_ROW_CLOSE (R224): the hinted row at `input.addr` closes. -/
def execHintRowClose (s : State) : Out :=
  if s.hints.contains s.input.addr then .next { s with hints := s.hints.filter (fun r => r != s.input.addr) } else noEvent s

/-! ### Migration (R223) -/

/-- MIGCMD (R223): `input.value` is written to MIGCMD of die `input.unit`. -/
def execMigcmd (s : State) : Out := .next (s.devWrite s.input.unit 0x400 (BitVec.ofNat 64 s.input.value))

/-- MIGRATION_COMPLETE (R223): the running command of die `input.unit` ends. -/
def execMigrationComplete (s : State) : Out :=
  if (s.die s.input.unit).migBusy then .next (s.migComplete s.input.unit) else noEvent s

/-! ### Tier 3 (R227, R228, R381, R382) -/

/-- The fabric manager holds no event of the die back: a record fits its buffer of 16 (R382). -/
def State.extRoom (s : State) (k : Nat) : Bool := decide ((s.die k).extBuf.length < 16)

/-- The extents that records waiting on a die will add when they are appended (R382). -/
def Die.offered (d : Die) : List (Nat × Nat) :=
  ((d.extBuf ++ d.extHeld).filter (fun r => fieldAt r 0 1 == 1)).map (fun r => (fieldAt r 8 8, fieldAt r 16 8))

/-- A range that a port of die `k` can hold as an extent (R381): multiples of 64 KiB of region 2 of the die, apart from the others. -/
def State.extentOk (s : State) (k base size : Nat) : Bool :=
  let d := s.die k
  s.hasT3 k && base % 65536 == 0 && size % 65536 == 0 && size != 0 && region base == 2 && homeDie base == k
    && offsetOf base + size ≤ 2 ^ 46 && d.extents.length + d.offered.length < 1024
    && (d.extents.map (fun e => (e.base, e.size)) ++ d.offered).all (fun e => e.1 + e.2 ≤ base || base + size ≤ e.1)

/-- EXTENT_ADDED (R381, R382): die `input.unit` is offered the extent of `input.value` bytes at `input.addr`, which it accepts when the record
is appended. -/
def execExtentAdded (s : State) : Out :=
  let k := s.input.unit
  let base := s.input.addr
  let size := s.input.value
  if s.extentOk k base size && s.extRoom k then .next (s.addExtRecord k 1 base size) else noEvent s

/-- EXTENT_RELEASE_REQUEST (R227, R382): the extent of die `input.unit` at `input.addr` is asked for; its record's tag awaits EXTACK. -/
def execExtentReleaseRequest (s : State) : Out :=
  let k := s.input.unit
  match (s.die k).extents.find? (fun e => e.base == s.input.addr && e.releaseTag.isNone) with
  | none => noEvent s
  | some e =>
    if !s.extRoom k then noEvent s
    else
      let tag := (s.die k).extTag + 1
      let s := s.updDie k (fun d => { d with
        extents := d.extents.map (fun x => if x = e then { x with releaseTag := some tag } else x) })
      .next (s.addExtRecord k 2 e.base e.size)

/-- EXTACK (R227): `input.value` is written to EXTACK of die `input.unit`. -/
def execExtack (s : State) : Out := .next (s.devWrite s.input.unit 0x428 (BitVec.ofNat 64 s.input.value))

/-- How far two ranges lie apart. -/
def rangeGap (a b : Nat × Nat) : Nat := max (a.1 - b.2) (b.1 - a.2)

/-- The entry of the table that is nearest to a range. DESIGN CHOICE (log 88): of several the first. -/
def nearest (t : List (Nat × Nat)) (r : Nat × Nat) : Option (Nat × Nat) :=
  t.foldl (fun best e => match best with
    | none => some e
    | some b => if rangeGap e r < rangeGap b r then some e else some b) none

/-- A range enters the revoked-extent table of 256 entries; a full table widens the entry nearest to it (R228). -/
def revoke (t : List (Nat × Nat)) (r : Nat × Nat) : List (Nat × Nat) :=
  if t.length < 256 then t ++ [r]
  else match nearest t r with
    | none => t
    | some e => t.map (fun x => if x = e then (min e.1 r.1, max e.2 r.2) else x)

/-- The dirty lines of a range are dropped from every cache: the memory-side cache's bytes are again those that the device holds (R228). -/
def State.dropRange (s : State) (lo hi : Nat) : State :=
  let inside := fun (line : Nat) => lo ≤ line * 64 && line * 64 < hi
  let s := s.mapHarts (fun h => { h with scache := h.scache.filter (fun l => !inside l.line || l.dirty == 0) })
  { s with
    vdc := s.vdc.filter (fun l => !inside l.line || l.dirty == 0)
    mem := (s.msc.filter (fun m => inside m.line)).foldl (fun m l => Memory.writeN m (l.line * 64) l.old) s.mem
    msc := s.msc.filter (fun m => !inside m.line) }

/-- The addresses that a delivery reads, in their order (R243). -/
def QEntry.deliveryReads (q : QEntry) : List Nat :=
  match q.word with
  | .delivery b => ((strip b q.vl).flatMap (·.reads)).map (fun r => r.1 % 2 ^ 64)
  | _ => []

/-- The first element of a dispatched word that still accesses a range of physical memory, with its address: an active one below `limit` of a VM
word, element (j, c) of an X word in their order, or a read of a delivery (R228). -/
def QEntry.caughtIn (q : QEntry) (core : Nat) (e : Exec) (lo hi : Nat) : Option (Nat × Nat) :=
  let inside := fun (va : Nat) => let pa := (resolve q.pages core va).1; !inWindow va && lo ≤ pa && pa < hi
  match q.vmem, tileWord q with
  | some m, _ =>
    ((q.todo (min q.vl q.limit)).find? (fun j => q.active e m.pm j && inside (m.addr q e j))).map (fun j => (j, m.addr q e j))
  | none, some (n, _) => (((tileCells q.rows q.vl).map (tileAddr q.xs1 q.xs2 n)).find? inside).map (fun va => (0, va))
  | none, none => (q.deliveryReads.find? inside).map (fun va => (0, va))

/-- The access of a word that a forced release has caught is refused: the elements of a VM word below it are performed, and of any other word
nothing. DEDUCED (log 81). -/
def QEntry.cutAt (q : QEntry) (j : Nat) : Option QEntry := if q.vmem.isSome then some { q with limit := min q.limit j } else none

/-- The width code of a delivery's reads (log 36). -/
def QEntry.deliveryCode (q : QEntry) : Nat :=
  match q.word with
  | .delivery b => b.ew
  | _ => 0

/-- Cause 0x15 for a word that a forced release has caught, taken at the boundary where the hart stands (R228, R326, R336). -/
def State.caughtTrap (s : State) (q : QEntry) (j va : Nat) : Trap :=
  let t : Trap := { cause := 0x15, tval := va }
  let dev := Pte.cls (resolve q.pages s.hart.coreId va).2
  s.late (match q.vmem, tileWord q with
    | some m, _ => m.trap s q.xs1 j { t with access := accessByte m.kind m.code dev }
    | none, some (n, k) => { t with access := accessByte k (tileCode n) dev + 16, base := q.xs1.toNat }
    | none, none => { t with access := accessByte .read q.deliveryCode dev + 16 })

/-- The dispatched words of the hart that executes which a forced release has caught lose their accesses into the range, and the hart traps for the
oldest of them; whatever it waited for is made again after the trap. -/
def State.catchWords (s : State) (lo hi : Nat) : State :=
  let e := s.hart.ep
  let hit := fun (q : QEntry) => q.caughtIn s.hart.coreId e lo hi
  match e.queue.findSome? (fun q => (hit q).map (fun p => (q, p))) with
  | none => s
  | some (q, j, va) =>
    let s := s.stopGeom
    let s := s.ep (fun e => { e with queue := e.queue.filterMap (fun q => match hit q with | none => some q | some p => q.cutAt p.1) })
    let s := { s with potQueue := s.potQueue.filter (fun r => r.who != s.hart.loc) }
    match s.hart.status with
    | .running | .trapping _ | .pot => { s with hart := { s.hart with status := .trapping (s.caughtTrap q j va), waiting := false, mwait := none } }
    | _ => s

/-- The dispatched words that access a range, of every hart whose execute processor is at work (R228); a stopped hart's are dispatched again, and
refused then, when it is resumed (R367). -/
def State.catchAll (s : State) (lo hi : Nat) : State :=
  ((s.allHarts.filter (fun h => !h.ctl && h.epLive)).map Hart.loc).foldl (fun s l => s.asHart l (fun s => s.catchWords lo hi)) s

/-- FORCED_EXTENT_RELEASE (R228): the extent of die `input.unit` at `input.addr` is gone at once. -/
def execForcedExtentRelease (s : State) : Out :=
  let k := s.input.unit
  match (s.die k).extents.find? (fun e => e.base == s.input.addr) with
  | none => noEvent s
  | some e =>
    let s := ((s.catchAll e.base (e.base + e.size)).dropRange e.base (e.base + e.size)).updDie k (fun d => { d with
      extents := d.extents.filter (fun x => x != e)
      revoked := revoke d.revoked (e.base, e.base + e.size) })
    .next (s.addExtRecord k 3 e.base e.size)

/-- REVCLR (R228): `input.value` is written to REVCLR of die `input.unit`. -/
def execRevclr (s : State) : Out := .next (s.devWrite s.input.unit 0x430 (BitVec.ofNat 64 s.input.value))

/-- EXTENT_RECORD_APPEND (R382): the oldest waiting extent record of die `input.unit` is appended where its queue has room. -/
def execExtentRecordAppend (s : State) : Out :=
  happens s ((s.nextExtent s.input.unit).map (fun r => s.appendExtent s.input.unit r.1 r.2))

/-! ### Device registers (R372, R373, R386, R399) -/

/-- FDLAUNCH (R373): `input.value` is written to FDLAUNCH of die `input.unit`. -/
def execFdlaunch (s : State) : Out := .next (s.devWrite s.input.unit 0x008 (BitVec.ofNat 64 s.input.value))

/-- MEASSEL (R386): `input.value` is written to MEASSEL. -/
def execMeassel (s : State) : Out := .next (s.devWrite 0 0x220 (BitVec.ofNat 64 s.input.value))

/-- ATTREQ (R386): `input.value` is written to ATTREQ. -/
def execAttreq (s : State) : Out := .next (s.devWrite 0 0x260 (BitVec.ofNat 64 s.input.value))

/-- TELCOMMIT (R399): `input.value` is written to TELCOMMIT of die `input.unit`. -/
def execTelcommit (s : State) : Out := .next (s.devWrite s.input.unit 0x310 (BitVec.ofNat 64 s.input.value))

/-- DEVICE_REGISTER_WRITE (R372): `input.value` is written to the register at offset `input.addr` of die `input.unit`, one without a behaviour
of its own; every other offset ignores this event. -/
def execDeviceRegisterWrite (s : State) : Out :=
  let k := s.input.unit
  let off := s.input.addr
  let v := BitVec.ofNat 64 s.input.value
  if off % 8 ≠ 0 || (dieZeroOnly off && k ≠ 0) || (tier3Reg off && !s.hasT3 k) then .next s else .next (s.devPlain k off v)

/-! ### Attestation (R385, R386) -/

/-- The bytes of a report that are signed (R386). -/
def State.reportBody (s : State) : List Byte :=
  [0x47, 0x52, 0x41, 0x54, 0x54, 0x45, 0x53, 0x54] ++ leBytes 4 1 ++ leBytes 4 s.idcount ++ bytes32 s.attNonce
    ++ s.meas.toList.flatMap bytes32 ++ leBytes 4 s.svn ++ leBytes 4 0 ++ identityKey

/-- The report of 2,176 bytes, signed with leaf Q (R385, R386). -/
def State.report (s : State) : List Byte :=
  let body := s.reportBody
  body ++ identitySign s.idcount body ++ zeros 36

/-- ATTEST_REPORT_COMPLETE (R386): the report is written and RESULT set. The increment of Q comes first (R385). -/
def execAttestReportComplete (s : State) : Out :=
  if !s.attBusy then noEvent s
  else
    let done := fun (s : State) (r : Nat) => Host.Outcome.next { s with attBusy := false, attResult := r }
    if 2 ^ 20 ≤ s.idcount then done s 2
    else if region s.attBuf ≠ 0 then done s 3
    else done ({ s with idcount := s.idcount + 1 }.homeStore s.attBuf s.report) 1

/-! ### Telemetry (R397 to R399) -/

/-- TELEMETRY_COMMIT_COMPLETE (R398): the commit of die `input.unit` completes. -/
def execTelemetryCommitComplete (s : State) : Out :=
  let k := s.input.unit
  if s.powered && (s.die k).telBusy then .next (s.updDie k (fun d => { d with telStored := d.tel, telBusy := false }))
  else noEvent s

/-- TELEMETRY_PERIODIC_COMMIT (R398), due every 2^24 rounds. -/
def execTelemetryPeriodicCommit (s : State) : Out :=
  if s.powered && s.rounds % 2 ^ 24 = 0 && s.rounds ≠ 0 then .next s.commitAll else noEvent s

/-- SOFT_ERROR_CORRECTION (R397): a corrected soft error of record `input.value` of die `input.unit`: an HBM bank, the L2, the VDC, the
scratchpad or the tiles. -/
def execSoftErrorCorrection (s : State) : Out :=
  let i := s.input.value
  if i ≤ 0x7FF || (0x1140 ≤ i && i ≤ 0x1143) then .next (s.count s.input.unit i 1) else noEvent s

/-! ### Links (R374) -/

/-- The die has the link, numbered as the telemetry numbers it (R397): a die link to each other die of the part (R375), the device ports where
they are brought out (R371), the host port of die 0 where that is (R380), its tier 3 port where that is (R381), and its network port. -/
def State.hasLink (s : State) (k l : Nat) : Bool :=
  k < s.part.dies
    && (if l < 3 then l + 1 < s.part.dies
      else if l < 7 then s.part.features.getLsbD 4
      else if l = 7 then k == 0 && s.part.features.getLsbD 3
      else if l = 8 then s.hasT3 k
      else l == 9)

/-- The ends of a link, each as a die and the link's number there (R374, R397): a die link has one on each of its two dies, whose other dies are
numbered in ascending order. -/
def linkEnds (k l : Nat) : List (Nat × Nat) :=
  if l < 3 then
    let j := if l < k then l else l + 1
    [(k, l), (j, if k < j then k else k - 1)]
  else [(k, l)]

/-- One end of a link begins to retrain, and its die counts it (R374, R397). -/
def State.retrain (s : State) (e : Nat × Nat) : State :=
  (s.updDie e.1 (fun d => { d with links := e.2 :: d.links })).count e.1 (0x1120 + e.2) 1

/-- LINK_RETRAIN (R374): link `input.value` of die `input.unit` retrains, at both ends; each die that it belongs to counts it. -/
def execLinkRetrain (s : State) : Out :=
  let k := s.input.unit
  let l := s.input.value
  if !s.hasLink k l || (s.die k).links.contains l then noEvent s else .next ((linkEnds k l).foldl State.retrain s)

/-- LINK_RETRAIN_END (R374): the link comes back. -/
def execLinkRetrainEnd (s : State) : Out :=
  let k := s.input.unit
  let l := s.input.value
  if (s.die k).links.contains l then
    .next ((linkEnds k l).foldl (fun s e => s.updDie e.1 (fun d => { d with links := d.links.filter (fun x => x != e.2) })) s)
  else noEvent s

/-- FLIT_RETRANSMIT (R374): a flit is sent again, and nothing is lost (log 48). -/
def execFlitRetransmit (s : State) : Out := .next s

/-! ### Heat (R392) -/

/-- THERMAL_EXCURSION_START (R392): an excursion of die `input.unit` begins, and is counted. -/
def execThermalExcursionStart (s : State) : Out :=
  let k := s.input.unit
  if (s.die k).thermal then noEvent s
  else .next ((s.updDie k (fun d => { d with thermal := true })).count k 0x1130 1)

/-- THERMAL_EXCURSION_END (R392). -/
def execThermalExcursionEnd (s : State) : Out :=
  let k := s.input.unit
  if (s.die k).thermal then .next (s.updDie k (fun d => { d with thermal := false })) else noEvent s

/-! ### The host (R380) -/

/-- The physical address that the host's HDM window shows at an offset: tier 1 of every die, in die order. -/
def State.hdm (s : State) (off : Nat) : Nat := off / s.part.tier1 * 2 ^ 46 + off % s.part.tier1

/-- The host's window holds a run of bytes, on one die. -/
def State.hdmOk (s : State) (off n : Nat) : Bool :=
  s.part.features.getLsbD 3 && n != 0 && off + n ≤ s.part.dies * s.part.tier1 && off / s.part.tier1 == (off + n - 1) / s.part.tier1

/-- The host as a party of scope Y, above every hart and control core. -/
def hostParty : Nat := 512

/-- HOST_WRITE (R380): the host writes the bytes `input.data` at offset `input.addr` of its window; they merge at home and fire monitors. -/
def execHostWrite (s : State) : Out :=
  if s.hdmOk s.input.addr s.input.data.length then .next (s.mergeBytes (s.hdm s.input.addr) s.input.data hostParty)
  else noEvent s

/-- HOST_READ (R380): the host reads `input.value` bytes at offset `input.addr` of its window. -/
def execHostRead (s : State) : Out :=
  if s.hdmOk s.input.addr s.input.value then .next { s with hostData := s.homeBytes (s.hdm s.input.addr) s.input.value }
  else noEvent s

/-! ### Boot (R383, R384) -/

/-- The ROM waits at a source, at try `n`, and what follows an unsuccessful try: three tries, then the next source, round and round (R383). -/
def nextTry (dies src n : Nat) : BootPhase := if n < 3 then .rom src (n + 1) else .rom (if src < dies then src + 1 else 0) 1

/-- POWER_ON (R383): the boot ROM zeroes the measurement registers and fetches from the first source. The mirrors of the telemetry start from
what is stored. -/
def execPowerOn (s : State) : Out :=
  match s.boot with
  | .off => .next { s with
      boot := .rom 0 1
      meas := Vector.replicate 8 0
      dies := s.dies.map (fun (d : Die) => { d with tel := d.telStored }) }
  | _ => noEvent s

/-- The eight bytes of a boot image's MAGIC. -/
def bootMagic : List Byte := [0x47, 0x52, 0x42, 0x4F, 0x4F, 0x54, 0x00, 0x00]

/-- The key types of R384 in an LMS public key. -/
def lmsTypes (key : List Byte) : Bool := key.take 8 == lmsTypeWords

/-- LOAD, ENTRY and BODYLEN lie as R384's header table says, and the body fits tier 1 of die 0. DESIGN CHOICE (log 93): an image whose fields do
not is refused, though the list of refusals does not name it. -/
def State.bootPlaced (s : State) (h : List Byte) : Bool :=
  let load := fieldAt h 16 8
  let entry := fieldAt h 24 8
  let len := fieldAt h 32 8
  load % 65536 == 0 && load + len ≤ s.part.tier1 && entry % 4 == 0 && load ≤ entry && entry < load + len && 1 ≤ len && len ≤ 2 ^ 28

/-- The ROM accepts an image: its header and body (R384). -/
def State.bootGood (s : State) (h body : List Byte) : Bool :=
  let key := (h.drop 72).take 56
  h.length == 2048 && h.take 8 == bootMagic && fieldAt h 8 4 == 1 && (h.drop 1900).all (· == 0) && s.bootPlaced h
    && body.length == fieldAt h 32 8 && lmsTypes key && ofBytes32 (sha256 key) == Config.keyHash && Config.minSvn ≤ fieldAt h 12 4
    && lmsVerify key (h.take 128) ((h.drop 128).take 1772) && sha256 body == (h.drop 40).take 32

/-- A control core starts at ENTRY (R383). -/
def Hart.start (entry : Nat) (h : Hart) : Hart :=
  if h.ctl then { h with status := .running, sc := { h.sc with pc := BitVec.ofNat 64 entry } } else h

/-- The bytes of an image's body that have arrived are at LOAD (R383). DEDUCED (log 47): nothing is written where LOAD and BODYLEN do not fit
tier 1 of die 0. -/
def State.bootArrive (s : State) (h body : List Byte) : State :=
  let load := fieldAt h 16 8
  let len := fieldAt h 32 8
  if load + len ≤ s.part.tier1 then { s with mem := Memory.writeN s.mem load (body.take len) } else s

/-- What a network try that ends without a verdict leaves: the bytes `input.data` of its image had arrived (R383). -/
def State.bootLeft (s : State) (src : Nat) : State :=
  if src < s.part.dies then s.bootArrive (s.input.data.take 2048) (s.input.data.drop 2048) else s

/-- BOOT_TRY_TIMEOUT (R383): ten seconds have passed; the bytes `input.data` of the image had arrived. -/
def execBootTryTimeout (s : State) : Out :=
  match s.boot with
  | .rom src n => .next { s.bootLeft src with boot := nextTry s.part.dies src n }
  | _ => noEvent s

/-- A verified image is started: MEAS0 is extended with the header's hash (R383). -/
def State.bootStart (s : State) (h : List Byte) : State :=
  let s := ({ s with svn := fieldAt h 12 4, boot := .started }).extend 0 (sha256 h)
  s.mapHarts (Hart.start (fieldAt h 24 8))

/-- A refused image is zeroed and counted, and the next try begins (R383). DEDUCED (log 47): which bytes. -/
def State.bootRefuse (s : State) (h : List Byte) (src n : Nat) : State :=
  let load := fieldAt h 16 8
  let len := fieldAt h 32 8
  let mem := if load + len ≤ s.part.tier1 then Memory.clear s.mem load (load + len) else s.mem
  ({ s with mem := mem, boot := nextTry s.part.dies src n }).count 0 0x1111 1

/-- An image that has arrived whole is judged. -/
def State.bootJudge (s : State) (h body : List Byte) (src n : Nat) : State :=
  let s := s.bootArrive h body
  if s.bootGood h body then s.bootStart h else s.bootRefuse h src n

/-- BOOT_IMAGE_ARRIVAL (R384): the image `input.data` has arrived from the source that the ROM tries. -/
def execBootImageArrival (s : State) : Out :=
  match s.boot with
  | .rom src n => .next (s.bootJudge (s.input.data.take 2048) (s.input.data.drop 2048) src n)
  | _ => noEvent s

/-- The bytes at an offset of the host's window (R380); none where they do not all lie in it. -/
def State.hdmBytes (s : State) (off n : Nat) : List Byte :=
  if off + n ≤ s.part.dies * s.part.tier1 then (List.range n).flatMap (fun i => s.homeBytes (s.hdm (off + i)) 1) else []

/-- The bytes of a run of the host's window set to 0. -/
def State.hdmClear (s : State) (off n : Nat) : State :=
  let inside := fun (a : Nat) =>
    let o := homeDie a * s.part.tier1 + offsetOf a
    a < 2 ^ 52 && region a == 0 && offsetOf a < s.part.tier1 && off ≤ o && o < off + n
  { s with mem := s.mem.filter (fun c => !inside c.1) }

/-- An image that the host wrote through its window is judged, and zeroed there too where it is refused. DESIGN CHOICE (log 47): one that does
not lie whole in the window is refused; after a refusal the ROM goes on with the host's tries, whichever source it had come to. -/
def State.bootHost (s : State) (off n : Nat) : State :=
  let h := s.hdmBytes off 2048
  let len := fieldAt h 32 8
  let body := if len ≤ 2 ^ 28 then s.hdmBytes (off + 2048) len else []
  let t := s.bootJudge h body s.part.dies n
  if t.boot = .started then t else t.hdmClear off (h.length + body.length)

/-- BOOTDB (R383): the host has written the tier 1 offset `input.value` of an image to its doorbell; it comes before any network attempt, of
whose image the bytes `input.data` had arrived. After boot, and where the part has no host port, it does nothing. -/
def execBootdb (s : State) : Out :=
  match s.boot with
  | .rom src n => .next (if s.part.features.getLsbD 3 then (s.bootLeft src).bootHost s.input.value n else s)
  | _ => .next s

/-! ### Power (R385, R398) -/

/-- The package without supply: everything volatile is as at reset; the committed telemetry, the identity counter and host memory stay
(DESIGN CHOICE, log 46). -/
def State.unpowered (s : State) : State :=
  { State.resetOf s.part with
    idcount := s.idcount
    mem := s.mem.filter (fun c => region c.1 == 3 && c.1 < 2 ^ 52)
    dies := s.dies.map (fun (d : Die) => { Die.reset with telStored := d.telStored })
    agenda := s.agenda
    prompt := s.prompt
    free := s.free }

/-- POWER_DOWN (R398): an orderly power-down of a package that is on commits the counters first. -/
def execPowerDown (s : State) : Out := if s.powered then .next s.commitAll.unpowered else noEvent s

/-- POWER_LOSS (R398): the last completed commit stays. -/
def execPowerLoss (s : State) : Out := .next s.unpowered

end Sys2Proof.Machine
end

