-- ==== Sys2Proof/Machine/GeomWords.lean ====
section
/-! DEFINITION. The G words as instructions (R186 to R201). -/

namespace Sys2Proof.Machine

/-- A trap-mode G word has no element left: it retires, and the bindings it has read advance (R127, R243). -/
def State.geomDone (s : State) (sh : Shape) : Out :=
  .next ((s.ep (fun e => { e with geom := none, bindings := advanceAll sh.srcs e.vl e.bindings })).retire)

/-- A trap-mode G word stops at element `j` (R198): the indices of its destination stay there. -/
def State.geomTrap (s : State) (q : QEntry) (j : Nat) : Out :=
  raise (s.ep (fun e => { e.stopAt q j s.hart.sc.uiActive with geom := none })) { cause := 8, tval := j, elem := j }

/-- A G word. In flag mode it is dispatched; in trap mode it passes its trap point only when it completes (R127, R198): the words before it complete,
the elements below the first non-finite one are performed, and that element traps. A resumed word delivers its first element as in flag mode (R199),
and one that a halt stopped is owed no second delivery (R245). While the model is not prompt the word stands in `Exec.geom`, its elements are
performed by events, and a halt can stop it between two of them. -/
def geomWord (i : Instr) (k : GKind) (o : OpG) (s : State) : Out :=
  let op := geomOp k o
  let sh := op.shape s.hart.ep
  if o.nf.val = 1 then dispatch i op 0 0 s
  else if s.hart.ctl then illegal s i
  else match s.hart.ep.geom with
  | some q =>
    if !s.hart.ep.queue.isEmpty then waitHere s false
    else if q.vl ≤ q.start then ((op.run q q.vl s).ep (fun e => e.takePi q)).geomDone sh
    else if s.geomStops k o q q.start then s.geomTrap q q.start
    else waitHere s false
  | none =>
    if s.issueBad sh then illegal s i
    else match s.owed sh with
      | .trap s t => raise s t
      | .illegal s => illegal s i
      | .wait s => waitHere s false
      | .ok s' qs bs =>
        let q := s'.entry i false 0 0
        if !s'.epRoom (qs ++ [q]) then waitHere s false
        else
          let s := (qs.foldl State.send s').setBindings (bs.map Binding.taken)
          if !s.prompt then waitHere (s.ep (fun e => { e with geom := some q })) false
          else
            let s := s.drain.ep (fun e => e.takePi q)
            match s.geomStop k o q with
            | none => (op.run q q.vl s).geomDone sh
            | some j => (op.run { q with limit := j } j s).geomTrap q j

/-- GORI2 (R189): Exact 2-D orientation predicate per element. -/
def execGori2 (o : OpG) (s : State) : Out := geomWord (.gori2 o) gori2K o s

/-- GINC (R189): Exact in-circle predicate per element. -/
def execGinc (o : OpG) (s : State) : Out := geomWord (.ginc o) gincK o s

/-- GSEG (R190): Exact classification of two closed segments. -/
def execGseg (o : OpG) (s : State) : Out := geomWord (.gseg o) gsegK o s

/-- GORI3 (R189): Exact 3-D orientation predicate per element. -/
def execGori3 (o : OpG) (s : State) : Out := geomWord (.gori3 o) gori3K o s

/-- GINS (R189): Exact in-sphere predicate per element. -/
def execGins (o : OpG) (s : State) : Out := geomWord (.gins o) ginsK o s

/-- GSTAT (R201): waits for the earlier G words, then reads and perhaps clears a counter. -/
def execGstat (o : OpGstat) (s : State) : Out :=
  if s.hart.ctl then illegal s (.gstat o)
  else
    let s := s.drain
    let v := BitVec.ofNat 64 (wbits s.hart.ep.gstat (21 * o.stage.val) 21)
    retireX (if o.clear.val = 1 then s.ep (fun e => { e with gstat := setBits e.gstat (21 * o.stage.val) 21 0 }) else s) o.d v

end Sys2Proof.Machine
end

