-- ==== Sys2Proof/Machine/MatrixWords.lean ====
section
/-! DEFINITION. The X words as instructions (R172 to R185). -/

namespace Sys2Proof.Machine

/-- MMA (R176): Multiplies A by B, optionally scaled, and accumulates into tile rows. -/
def execMma (o : OpMma) (s : State) : Out := dispatch (.mma o) (opMma o) 0 0 s

/-- MZERO (R179): Zeroes every element of a tile. -/
def execMzero (o : OpMZero) (s : State) : Out := dispatch (.mzero o) (opMzero o) 0 0 s

/-- MTOV (R181): Copies a tile row into a vector group with conversion. -/
def execMtov (o : OpMtov) (s : State) : Out := dispatch (.mtov o) (opMtov o) (s.xr o.s1) 0 s

/-- MVTOT (R182): Copies a vector group into a tile row. -/
def execMvtot (o : OpMvtot) (s : State) : Out := dispatch (.mvtot o) (opMvtot o) 0 (s.xr o.s2) s

/-- MMOVT (R179): Copies one tile to another. -/
def execMmovt (o : OpMmovt) (s : State) : Out := dispatch (.mmovt o) (opMmovt o) 0 0 s

/-- TILESHAPE as a value (R173). -/
def Exec.tileShape (e : Exec) : Word := BitVec.ofNat 64 (256 * e.rowBase + e.rows)

/-- MSHAPE (R180): by the access processor, without waiting. -/
def execMshape (o : OpDSS) (s : State) : Out :=
  if s.hart.ctl then illegal s (.mshape o)
  else
    let base := min (s.xn o.s1) 31
    let rows := min (max (s.xn o.s2) 1) (32 - base)
    let s := s.ep (fun e => { e with rowBase := base, rows := rows })
    retireX s o.d s.hart.ep.tileShape

/-- MSTORE and MLOAD (R183, R184): every address is translated before the word is dispatched; a trap leaves nothing done but the accessed and dirty
bits of the pages that passed (R344). -/
def tileMem (i : Instr) (op : VOp) (cv : Fin 4) (k : Kind) (x1 x2 : Word) (s : State) : Out :=
  let sh := op.shape s.hart.ep
  let n := (cvFmt cv).width / 8
  let q := s.entry i op.whole x1 x2
  if s.issueBad sh then illegal s i
  else if !s.epRoom [q] then waitHere s false
  else match s.checkTile s.hart.ep.rows s.hart.ep.vl x1 x2 n k with
    | .wait s' => waitHere { s with collapses := s'.collapses } false
    | .fail s' _ _ t => raise s' t
    | .ok s pages => .next ((s.send { q with pages := pages }).retire)

/-- MSTORE (R183, R184). -/
def execMstore (o : OpMstore) (s : State) : Out := tileMem (.mstore o) (opMstore o) o.cv .write (s.xr o.s1) (s.xr o.s2) s

/-- MLOAD (R183, R184). -/
def execMload (o : OpMvtot) (s : State) : Out := tileMem (.mload o) (opMload o) o.cv .read (s.xr o.s1) (s.xr o.s2) s

end Sys2Proof.Machine
end

