-- ==== Sys2Proof/Machine/ScalarFp.lean ====
section
/-! DEFINITION. The scalar floating-point words (R108 to R114). -/

namespace Sys2Proof.Machine

/-- The operand of a format in the low bits of an x register (R108). -/
def State.fr (s : State) (f : Fmt) (r : Reg) : FVal := f.decode 2 (s.xn r % 2 ^ f.width)

/-- The exact result `r rm` delivered once into a format, written to xd, with its draw and its flags (R108). -/
def fpDeliver (f : Fmt) (rm : Fin 8) (d : Reg) (r : Nat → Real) (s : State) : Out :=
  let m := s.rmOf rm
  let dr := s.scalarDraw m
  let v := f.deliver 2 m dr.2 (r m)
  retireX (dr.1.accrue v.2) d (BitVec.ofNat 64 v.1)

/-- An integer result of a conversion (R113): 32-bit results are extended by their sign or with zeros. -/
def fpToInt (f : Fmt) (o : OpFpCvt) (s : State) : Out :=
  let m := s.rmOf o.rm
  let dr := s.scalarDraw m
  let sgn := nbit o.ty.val 0
  let v := toIntReal m dr.2 sgn (if nbit o.ty.val 1 then 64 else 32) (s.fr f o.s1).real
  retireX (dr.1.accrue v.2) o.d (Word.ofInt v.1)

/-- The integer a conversion reads (R113). -/
def State.intOperand (s : State) (ty : Fin 4) (r : Reg) : Int :=
  let w := if nbit ty.val 1 then 64 else 32
  let v := s.xn r % 2 ^ w
  if nbit ty.val 0 then signed w v else (v : Int)

/-- FADD (R109). -/
def execFadd (o : OpFp3) (s : State) : Out :=
  let f := fmtOf o.fmt.val
  fpDeliver f o.rm o.d (fun m => addReal m (s.fr f o.s1) (s.fr f o.s2)) s

/-- FSUB (R109). -/
def execFsub (o : OpFp3) (s : State) : Out :=
  let f := fmtOf o.fmt.val
  fpDeliver f o.rm o.d (fun m => addReal m (s.fr f o.s1) (s.fr f o.s2).neg) s

/-- FMUL (R109). -/
def execFmul (o : OpFp3) (s : State) : Out :=
  let f := fmtOf o.fmt.val
  fpDeliver f o.rm o.d (fun _ => mulReal (s.fr f o.s1) (s.fr f o.s2)) s

/-- FDIV (R109). -/
def execFdiv (o : OpFp3) (s : State) : Out :=
  let f := fmtOf o.fmt.val
  fpDeliver f o.rm o.d (fun _ => divReal (s.fr f o.s1) (s.fr f o.s2)) s

/-- FSQRT (R109). -/
def execFsqrt (o : OpFp2) (s : State) : Out :=
  let f := fmtOf o.fmt.val
  fpDeliver f o.rm o.d (fun _ => sqrtReal (s.fr f o.s1)) s

/-- FMIN and FMAX (R110): no rounding, no draw. -/
def fpMinMax (isMax : Bool) (o : OpFpMin) (s : State) : Out :=
  let f := fmtOf o.fmt.val
  let v := f.minmax isMax (s.xn o.s1 % 2 ^ f.width) (s.xn o.s2 % 2 ^ f.width)
  retireX (s.accrue v.2) o.d (BitVec.ofNat 64 v.1)

/-- FMIN (R110). -/
def execFmin (o : OpFpMin) (s : State) : Out := fpMinMax false o s

/-- FMAX (R110). -/
def execFmax (o : OpFpMin) (s : State) : Out := fpMinMax true o s

/-- FCMP (R111). -/
def execFcmp (o : OpFpCmp) (s : State) : Out :=
  let f := fmtOf o.fmt.val
  let v := fpCompare o.cond.val (s.fr f o.s1) (s.fr f o.s2)
  retireX (s.accrue v.2) o.d (Word.ofBool v.1)

/-- FCVT (R112, R93). -/
def execFcvt (o : OpFpCvt) (s : State) : Out := fpDeliver (fmtOf o.ty.val) o.rm o.d (fun _ => (s.fr (fmtOf o.fmt.val) o.s1).real) s

/-- FCVTI (R113, R94). -/
def execFcvti (o : OpFpCvt) (s : State) : Out := fpToInt (fmtOf o.fmt.val) o s

/-- FCVTF (R113). -/
def execFcvtf (o : OpFpCvt) (s : State) : Out := fpDeliver (fmtOf o.fmt.val) o.rm o.d (fun _ => ofIntReal (s.intOperand o.ty o.s1)) s

/-- FMA (R114): one rounding. -/
def execFma (o : OpFp4) (s : State) : Out :=
  let f := fmtOf o.fmt.val
  fpDeliver f o.rm o.d (fun m => fmaReal m (s.fr f o.s1) (s.fr f o.s2) (s.fr f o.s3)) s

end Sys2Proof.Machine
end

