-- ==== Sys2Proof/Machine/ScalarInt.lean ====
section
/-! DEFINITION. The scalar integer words: register and immediate ALU, multiply and divide, bit counts, upper immediates, branches and jumps
(R100 to R107). -/

namespace Sys2Proof.Machine

/-- DIV (R103): truncating; −1 for a divisor of 0. -/
def sdivWord (a b : Word) : Word := if b = 0 then -1 else Word.ofInt (a.toInt.tdiv b.toInt)

/-- DIVU (R103). -/
def udivWord (a b : Word) : Word := if b = 0 then -1 else a / b

/-- REM (R103): the remainder takes the sign of the dividend; a for a divisor of 0. -/
def sremWord (a b : Word) : Word := if b = 0 then a else Word.ofInt (a.toInt.tmod b.toInt)

/-- REMU (R103). -/
def uremWord (a b : Word) : Word := if b = 0 then a else a % b

/-- The high half of a signed product (R103). -/
def mulhWord (a b : Word) : Word := Word.ofInt (a.toInt * b.toInt / 2 ^ 64)

/-- The high half of an unsigned product (R103). -/
def mulhuWord (a b : Word) : Word := BitVec.ofNat 64 (a.toNat * b.toNat / 2 ^ 64)

/-- CLZ (R104): zeros above the highest 1. -/
def clzWord (a : Word) : Word := BitVec.ofNat 64 (((List.range 64).find? (fun i => a.getLsbD (63 - i))).getD 64)

/-- CTZ (R104): zeros below the lowest 1. -/
def ctzWord (a : Word) : Word := BitVec.ofNat 64 (((List.range 64).find? (fun i => a.getLsbD i)).getD 64)

/-- POPC (R104). -/
def popcWord (a : Word) : Word := BitVec.ofNat 64 ((List.range 64).filter (fun i => a.getLsbD i)).length

/-- BREV (R104): bit i takes bit 63 − i. -/
def brevWord (a : Word) : Word := a.reverse

/-- R101: ADD, a + b. -/
def execAdd (o : OpDSS) (s : State) : Out := aluDSS (fun a b => a + b) o s

/-- R101: SUB, a − b. -/
def execSub (o : OpDSS) (s : State) : Out := aluDSS (fun a b => a - b) o s

/-- R101: AND, a AND b. -/
def execAnd (o : OpDSS) (s : State) : Out := aluDSS (fun a b => a &&& b) o s

/-- R101: OR, a OR b. -/
def execOr (o : OpDSS) (s : State) : Out := aluDSS (fun a b => a ||| b) o s

/-- R101: XOR, a XOR b. -/
def execXor (o : OpDSS) (s : State) : Out := aluDSS (fun a b => a ^^^ b) o s

/-- R101: SHL, a shifted left by b[5:0]. -/
def execShl (o : OpDSS) (s : State) : Out := aluDSS (fun a b => a <<< (b.toNat % 64)) o s

/-- R101: SHR, a shifted right, zeros in. -/
def execShr (o : OpDSS) (s : State) : Out := aluDSS (fun a b => a >>> (b.toNat % 64)) o s

/-- R101: SAR, a shifted right, sign in. -/
def execSar (o : OpDSS) (s : State) : Out := aluDSS (fun a b => a.sshiftRight (b.toNat % 64)) o s

/-- R101: SLT, 1 if Signed(a) < Signed(b). -/
def execSlt (o : OpDSS) (s : State) : Out := aluDSS (fun a b => Word.ofBool (a.slt b)) o s

/-- R101: SLTU, 1 if Unsigned(a) < Unsigned(b). -/
def execSltu (o : OpDSS) (s : State) : Out := aluDSS (fun a b => Word.ofBool (a.ult b)) o s

/-- R101: MIN, the smaller, signed. -/
def execMin (o : OpDSS) (s : State) : Out := aluDSS (fun a b => if a.slt b then a else b) o s

/-- R101: MAX, the larger, signed. -/
def execMax (o : OpDSS) (s : State) : Out := aluDSS (fun a b => if a.slt b then b else a) o s

/-- R101: MINU, the smaller, unsigned. -/
def execMinu (o : OpDSS) (s : State) : Out := aluDSS (fun a b => if a.ult b then a else b) o s

/-- R101: MAXU, the larger, unsigned. -/
def execMaxu (o : OpDSS) (s : State) : Out := aluDSS (fun a b => if a.ult b then b else a) o s

/-- R103: MUL, low half of the product. -/
def execMul (o : OpDSS) (s : State) : Out := aluDSS (fun a b => a * b) o s

/-- R103: MULH, high half, signed. -/
def execMulh (o : OpDSS) (s : State) : Out := aluDSS (fun a b => mulhWord a b) o s

/-- R103: MULHU, high half, unsigned. -/
def execMulhu (o : OpDSS) (s : State) : Out := aluDSS (fun a b => mulhuWord a b) o s

/-- R103: DIV, signed quotient. -/
def execDiv (o : OpDSS) (s : State) : Out := aluDSS (fun a b => sdivWord a b) o s

/-- R103: DIVU, unsigned quotient. -/
def execDivu (o : OpDSS) (s : State) : Out := aluDSS (fun a b => udivWord a b) o s

/-- R103: REM, signed remainder. -/
def execRem (o : OpDSS) (s : State) : Out := aluDSS (fun a b => sremWord a b) o s

/-- R103: REMU, unsigned remainder. -/
def execRemu (o : OpDSS) (s : State) : Out := aluDSS (fun a b => uremWord a b) o s

/-- R104: CLZ. -/
def execClz (o : OpDS) (s : State) : Out := aluDS clzWord o s

/-- R104: CTZ. -/
def execCtz (o : OpDS) (s : State) : Out := aluDS ctzWord o s

/-- R104: POPC. -/
def execPopc (o : OpDS) (s : State) : Out := aluDS popcWord o s

/-- R104: BREV. -/
def execBrev (o : OpDS) (s : State) : Out := aluDS brevWord o s

/-- R102: ADDI, as the register form, with the sign-extended immediate. -/
def execAddi (o : OpI) (s : State) : Out := aluI (fun a b => a + b) o s

/-- R102: ANDI, as the register form, with the sign-extended immediate. -/
def execAndi (o : OpI) (s : State) : Out := aluI (fun a b => a &&& b) o s

/-- R102: ORI, as the register form, with the sign-extended immediate. -/
def execOri (o : OpI) (s : State) : Out := aluI (fun a b => a ||| b) o s

/-- R102: XORI, as the register form, with the sign-extended immediate. -/
def execXori (o : OpI) (s : State) : Out := aluI (fun a b => a ^^^ b) o s

/-- R102: SLTI, as the register form, with the sign-extended immediate. -/
def execSlti (o : OpI) (s : State) : Out := aluI (fun a b => Word.ofBool (a.slt b)) o s

/-- R102: SLTIU, as the register form, with the sign-extended immediate. -/
def execSltiu (o : OpI) (s : State) : Out := aluI (fun a b => Word.ofBool (a.ult b)) o s

/-- R102: SHLI. -/
def execShli (o : OpSh) (s : State) : Out := aluSh (fun a n => a <<< n) o s

/-- R102: SHRI. -/
def execShri (o : OpSh) (s : State) : Out := aluSh (fun a n => a >>> n) o s

/-- R102: SARI. -/
def execSari (o : OpSh) (s : State) : Out := aluSh (fun a n => a.sshiftRight n) o s

/-- R105: LUI. -/
def execLui (o : OpU) (s : State) : Out := retireX s o.d (OpU.value o)

/-- R105: AUIPC. -/
def execAuipc (o : OpU) (s : State) : Out := retireX s o.d (s.hart.sc.pc + OpU.value o)

/-- R106: BEQ. -/
def execBeq (o : OpB) (s : State) : Out := branchOn (fun a b => a == b) o s

/-- R106: BNE. -/
def execBne (o : OpB) (s : State) : Out := branchOn (fun a b => a != b) o s

/-- R106: BLT. -/
def execBlt (o : OpB) (s : State) : Out := branchOn (fun a b => a.slt b) o s

/-- R106: BGE. -/
def execBge (o : OpB) (s : State) : Out := branchOn (fun a b => !a.slt b) o s

/-- R106: BLTU. -/
def execBltu (o : OpB) (s : State) : Out := branchOn (fun a b => a.ult b) o s

/-- R106: BGEU. -/
def execBgeu (o : OpB) (s : State) : Out := branchOn (fun a b => !a.ult b) o s

/-- R107: JAL. -/
def execJal (o : OpJ) (s : State) : Out := jumpTo (s.hart.sc.pc + OpJ.value o) o.d s

/-- R107: JALR, whose target is read before xd is written. -/
def execJalr (o : OpI) (s : State) : Out := jumpTo (s.xr o.s1 + OpI.value o) o.d s

end Sys2Proof.Machine
end

