-- ==== Sys2Proof/Machine/VectorWords.lean ====
section
/-! DEFINITION. The V words as instructions (R159 to R171): each is dispatched with its operands, or waits for its value from the execute
processor. -/

namespace Sys2Proof.Machine

/-- VADD_VV (R160): Vector-vector integer add. -/
def execVaddVV (o : OpV) (s : State) : Out := dispatch (.vaddVV o) (opVaddVV o) 0 0 s

/-- VSUB_VV (R160): Vector-vector integer subtract. -/
def execVsubVV (o : OpV) (s : State) : Out := dispatch (.vsubVV o) (opVsubVV o) 0 0 s

/-- VADC_VV (R161): Vector-vector add with carry-in from a mask. -/
def execVadcVV (o : OpV) (s : State) : Out := dispatch (.vadcVV o) (opVadcVV o) 0 0 s

/-- VMADC_VV (R161): Vector-vector carry-out into a mask. -/
def execVmadcVV (o : OpV) (s : State) : Out := dispatch (.vmadcVV o) (opVmadcVV o) 0 0 s

/-- VSBC_VV (R161): Vector-vector subtract with borrow-in. -/
def execVsbcVV (o : OpV) (s : State) : Out := dispatch (.vsbcVV o) (opVsbcVV o) 0 0 s

/-- VMSBC_VV (R161): Vector-vector borrow-out into a mask. -/
def execVmsbcVV (o : OpV) (s : State) : Out := dispatch (.vmsbcVV o) (opVmsbcVV o) 0 0 s

/-- VMUL_VV (R160): Vector-vector multiply, low bits. -/
def execVmulVV (o : OpV) (s : State) : Out := dispatch (.vmulVV o) (opVmulVV o) 0 0 s

/-- VMULH_VV (R160): Vector-vector signed multiply, high bits. -/
def execVmulhVV (o : OpV) (s : State) : Out := dispatch (.vmulhVV o) (opVmulhVV o) 0 0 s

/-- VMULHU_VV (R160): Vector-vector unsigned multiply, high bits. -/
def execVmulhuVV (o : OpV) (s : State) : Out := dispatch (.vmulhuVV o) (opVmulhuVV o) 0 0 s

/-- VDIV_VV (R160): Vector-vector signed divide. -/
def execVdivVV (o : OpV) (s : State) : Out := dispatch (.vdivVV o) (opVdivVV o) 0 0 s

/-- VDIVU_VV (R160): Vector-vector unsigned divide. -/
def execVdivuVV (o : OpV) (s : State) : Out := dispatch (.vdivuVV o) (opVdivuVV o) 0 0 s

/-- VREM_VV (R160): Vector-vector signed remainder. -/
def execVremVV (o : OpV) (s : State) : Out := dispatch (.vremVV o) (opVremVV o) 0 0 s

/-- VAND_VV (R160): Vector-vector bitwise AND. -/
def execVandVV (o : OpV) (s : State) : Out := dispatch (.vandVV o) (opVandVV o) 0 0 s

/-- VOR_VV (R160): Vector-vector bitwise OR. -/
def execVorVV (o : OpV) (s : State) : Out := dispatch (.vorVV o) (opVorVV o) 0 0 s

/-- VXOR_VV (R160): Vector-vector bitwise XOR. -/
def execVxorVV (o : OpV) (s : State) : Out := dispatch (.vxorVV o) (opVxorVV o) 0 0 s

/-- VSHL_VV (R160): Vector-vector shift left. -/
def execVshlVV (o : OpV) (s : State) : Out := dispatch (.vshlVV o) (opVshlVV o) 0 0 s

/-- VSHR_VV (R160): Vector-vector logical shift right. -/
def execVshrVV (o : OpV) (s : State) : Out := dispatch (.vshrVV o) (opVshrVV o) 0 0 s

/-- VSAR_VV (R160): Vector-vector arithmetic shift right. -/
def execVsarVV (o : OpV) (s : State) : Out := dispatch (.vsarVV o) (opVsarVV o) 0 0 s

/-- VMIN_VV (R160): Vector-vector signed minimum. -/
def execVminVV (o : OpV) (s : State) : Out := dispatch (.vminVV o) (opVminVV o) 0 0 s

/-- VMAX_VV (R160): Vector-vector signed maximum. -/
def execVmaxVV (o : OpV) (s : State) : Out := dispatch (.vmaxVV o) (opVmaxVV o) 0 0 s

/-- VSADD_VV (R160): Vector-vector saturating signed add. -/
def execVsaddVV (o : OpV) (s : State) : Out := dispatch (.vsaddVV o) (opVsaddVV o) 0 0 s

/-- VWADD_VV (R160): Vector-vector widening signed add. -/
def execVwaddVV (o : OpV) (s : State) : Out := dispatch (.vwaddVV o) (opVwaddVV o) 0 0 s

/-- VNCLIP_VV (R162): Narrows a wide value by a vector shift with rounding and clamping. -/
def execVnclipVV (o : OpV) (s : State) : Out := dispatch (.vnclipVV o) (opVnclipVV o) 0 0 s

/-- VADD_VS (R160): Vector-scalar integer add. -/
def execVaddVS (o : OpV) (s : State) : Out := dispatch (.vaddVS o) (opVaddVS o) (s.xr o.s1) 0 s

/-- VSUB_VS (R160): Vector-scalar integer subtract. -/
def execVsubVS (o : OpV) (s : State) : Out := dispatch (.vsubVS o) (opVsubVS o) (s.xr o.s1) 0 s

/-- VADC_VS (R161): Vector-scalar add with carry-in. -/
def execVadcVS (o : OpV) (s : State) : Out := dispatch (.vadcVS o) (opVadcVS o) (s.xr o.s1) 0 s

/-- VMADC_VS (R161): Vector-scalar carry-out into a mask. -/
def execVmadcVS (o : OpV) (s : State) : Out := dispatch (.vmadcVS o) (opVmadcVS o) (s.xr o.s1) 0 s

/-- VSBC_VS (R161): Vector-scalar subtract with borrow-in. -/
def execVsbcVS (o : OpV) (s : State) : Out := dispatch (.vsbcVS o) (opVsbcVS o) (s.xr o.s1) 0 s

/-- VMSBC_VS (R161): Vector-scalar borrow-out into a mask. -/
def execVmsbcVS (o : OpV) (s : State) : Out := dispatch (.vmsbcVS o) (opVmsbcVS o) (s.xr o.s1) 0 s

/-- VMUL_VS (R160): Vector-scalar multiply, low bits. -/
def execVmulVS (o : OpV) (s : State) : Out := dispatch (.vmulVS o) (opVmulVS o) (s.xr o.s1) 0 s

/-- VMULH_VS (R160): Vector-scalar signed multiply, high bits. -/
def execVmulhVS (o : OpV) (s : State) : Out := dispatch (.vmulhVS o) (opVmulhVS o) (s.xr o.s1) 0 s

/-- VMULHU_VS (R160): Vector-scalar unsigned multiply, high bits. -/
def execVmulhuVS (o : OpV) (s : State) : Out := dispatch (.vmulhuVS o) (opVmulhuVS o) (s.xr o.s1) 0 s

/-- VDIV_VS (R160): Vector-scalar signed divide. -/
def execVdivVS (o : OpV) (s : State) : Out := dispatch (.vdivVS o) (opVdivVS o) (s.xr o.s1) 0 s

/-- VDIVU_VS (R160): Vector-scalar unsigned divide. -/
def execVdivuVS (o : OpV) (s : State) : Out := dispatch (.vdivuVS o) (opVdivuVS o) (s.xr o.s1) 0 s

/-- VREM_VS (R160): Vector-scalar signed remainder. -/
def execVremVS (o : OpV) (s : State) : Out := dispatch (.vremVS o) (opVremVS o) (s.xr o.s1) 0 s

/-- VAND_VS (R160): Vector-scalar bitwise AND. -/
def execVandVS (o : OpV) (s : State) : Out := dispatch (.vandVS o) (opVandVS o) (s.xr o.s1) 0 s

/-- VOR_VS (R160): Vector-scalar bitwise OR. -/
def execVorVS (o : OpV) (s : State) : Out := dispatch (.vorVS o) (opVorVS o) (s.xr o.s1) 0 s

/-- VXOR_VS (R160): Vector-scalar bitwise XOR. -/
def execVxorVS (o : OpV) (s : State) : Out := dispatch (.vxorVS o) (opVxorVS o) (s.xr o.s1) 0 s

/-- VSHL_VS (R160): Vector-scalar shift left. -/
def execVshlVS (o : OpV) (s : State) : Out := dispatch (.vshlVS o) (opVshlVS o) (s.xr o.s1) 0 s

/-- VSHR_VS (R160): Vector-scalar logical shift right. -/
def execVshrVS (o : OpV) (s : State) : Out := dispatch (.vshrVS o) (opVshrVS o) (s.xr o.s1) 0 s

/-- VSAR_VS (R160): Vector-scalar arithmetic shift right. -/
def execVsarVS (o : OpV) (s : State) : Out := dispatch (.vsarVS o) (opVsarVS o) (s.xr o.s1) 0 s

/-- VMIN_VS (R160): Vector-scalar signed minimum. -/
def execVminVS (o : OpV) (s : State) : Out := dispatch (.vminVS o) (opVminVS o) (s.xr o.s1) 0 s

/-- VMAX_VS (R160): Vector-scalar signed maximum. -/
def execVmaxVS (o : OpV) (s : State) : Out := dispatch (.vmaxVS o) (opVmaxVS o) (s.xr o.s1) 0 s

/-- VSADD_VS (R160): Vector-scalar saturating add. -/
def execVsaddVS (o : OpV) (s : State) : Out := dispatch (.vsaddVS o) (opVsaddVS o) (s.xr o.s1) 0 s

/-- VWADD_VS (R160): Vector-scalar widening add. -/
def execVwaddVS (o : OpV) (s : State) : Out := dispatch (.vwaddVS o) (opVwaddVS o) (s.xr o.s1) 0 s

/-- VNCLIP_VS (R162): Narrows a wide value by a scalar shift with rounding and clamping. -/
def execVnclipVS (o : OpV) (s : State) : Out := dispatch (.vnclipVS o) (opVnclipVS o) (s.xr o.s1) 0 s

/-- VFADD_VV (R163): Vector-vector floating-point add. -/
def execVfaddVV (o : OpV) (s : State) : Out := dispatch (.vfaddVV o) (opVfaddVV o) 0 0 s

/-- VFSUB_VV (R163): Vector-vector floating-point subtract. -/
def execVfsubVV (o : OpV) (s : State) : Out := dispatch (.vfsubVV o) (opVfsubVV o) 0 0 s

/-- VFMUL_VV (R163): Vector-vector floating-point multiply. -/
def execVfmulVV (o : OpV) (s : State) : Out := dispatch (.vfmulVV o) (opVfmulVV o) 0 0 s

/-- VFDIV_VV (R163): Vector-vector floating-point divide. -/
def execVfdivVV (o : OpV) (s : State) : Out := dispatch (.vfdivVV o) (opVfdivVV o) 0 0 s

/-- VFSQRT (R163): Vector floating-point square root. -/
def execVfsqrt (o : OpV1) (s : State) : Out := dispatch (.vfsqrt o) (opVfsqrt o) 0 0 s

/-- VFMA_VV (R163): Vector-vector fused multiply-add into vd. -/
def execVfmaVV (o : OpV) (s : State) : Out := dispatch (.vfmaVV o) (opVfmaVV o) 0 0 s

/-- VFMIN_VV (R163): Vector-vector floating-point minimum. -/
def execVfminVV (o : OpV) (s : State) : Out := dispatch (.vfminVV o) (opVfminVV o) 0 0 s

/-- VFMAX_VV (R163): Vector-vector floating-point maximum. -/
def execVfmaxVV (o : OpV) (s : State) : Out := dispatch (.vfmaxVV o) (opVfmaxVV o) 0 0 s

/-- VFCVT (R164): Converts vector elements between floating-point formats. -/
def execVfcvt (o : OpVCvt) (s : State) : Out := dispatch (.vfcvt o) (opVfcvt o) 0 0 s

/-- VFCVTI (R164): Converts vector floating-point elements to integers. -/
def execVfcvti (o : OpVCvtI) (s : State) : Out := dispatch (.vfcvti o) (opVfcvti o) 0 0 s

/-- VFCVTF (R164): Converts vector integer elements to floating point. -/
def execVfcvtf (o : OpVCvtI) (s : State) : Out := dispatch (.vfcvtf o) (opVfcvtf o) 0 0 s

/-- VFEXP2 (R99): Computes 2^x for FP32 elements, bit-exact. -/
def execVfexp2 (o : OpV1) (s : State) : Out := dispatch (.vfexp2 o) (opVfexp2 o) 0 0 s

/-- VFADD_VS (R163): Vector-scalar floating-point add. -/
def execVfaddVS (o : OpV) (s : State) : Out := dispatch (.vfaddVS o) (opVfaddVS o) (s.xr o.s1) 0 s

/-- VFSUB_VS (R163): Vector-scalar floating-point subtract. -/
def execVfsubVS (o : OpV) (s : State) : Out := dispatch (.vfsubVS o) (opVfsubVS o) (s.xr o.s1) 0 s

/-- VFMUL_VS (R163): Vector-scalar floating-point multiply. -/
def execVfmulVS (o : OpV) (s : State) : Out := dispatch (.vfmulVS o) (opVfmulVS o) (s.xr o.s1) 0 s

/-- VFDIV_VS (R163): Vector-scalar floating-point divide. -/
def execVfdivVS (o : OpV) (s : State) : Out := dispatch (.vfdivVS o) (opVfdivVS o) (s.xr o.s1) 0 s

/-- VFMA_VS (R163): Vector-scalar fused multiply-add into vd. -/
def execVfmaVS (o : OpV) (s : State) : Out := dispatch (.vfmaVS o) (opVfmaVS o) (s.xr o.s1) 0 s

/-- VFMIN_VS (R163): Vector-scalar floating-point minimum. -/
def execVfminVS (o : OpV) (s : State) : Out := dispatch (.vfminVS o) (opVfminVS o) (s.xr o.s1) 0 s

/-- VFMAX_VS (R163): Vector-scalar floating-point maximum. -/
def execVfmaxVS (o : OpV) (s : State) : Out := dispatch (.vfmaxVS o) (opVfmaxVS o) (s.xr o.s1) 0 s

/-- MAND (R166): Bitwise AND of two masks. -/
def execMand (o : OpDSS) (s : State) : Out := dispatch (.mand o) (opMand o) 0 0 s

/-- MOR (R166): Bitwise OR of two masks. -/
def execMor (o : OpDSS) (s : State) : Out := dispatch (.mor o) (opMor o) 0 0 s

/-- MXOR (R166): Bitwise XOR of two masks. -/
def execMxor (o : OpDSS) (s : State) : Out := dispatch (.mxor o) (opMxor o) 0 0 s

/-- MANDN (R166): ms1 AND NOT ms2. -/
def execMandn (o : OpDSS) (s : State) : Out := dispatch (.mandn o) (opMandn o) 0 0 s

/-- MNOT (R166): Inverts a mask. -/
def execMnot (o : OpDS) (s : State) : Out := dispatch (.mnot o) (opMnot o) 0 0 s

/-- MSHL (R166): Shifts a mask up by one bit. -/
def execMshl (o : OpDS) (s : State) : Out := dispatch (.mshl o) (opMshl o) 0 0 s

/-- MSET (R166): Sets every mask bit below VL. -/
def execMset (o : OpD) (s : State) : Out := dispatch (.mset o) (opMset o) 0 0 s

/-- VCOMPRESS (R167): Packs the active elements of vs1 to the low elements of vd. -/
def execVcompress (o : OpV1) (s : State) : Out := dispatch (.vcompress o) (opVcompress o) 0 0 s

/-- VEXPAND (R167): Spreads the elements of vs1 onto the active elements of vd. -/
def execVexpand (o : OpV1) (s : State) : Out := dispatch (.vexpand o) (opVexpand o) 0 0 s

/-- VIOTA (R167): Writes each active element's index into it. -/
def execViota (o : OpV0) (s : State) : Out := dispatch (.viota o) (opViota o) 0 0 s

/-- VCONFLICT (R168): Reports equal values within aligned blocks of W elements. -/
def execVconflict (o : OpV1) (s : State) : Out := dispatch (.vconflict o) (opVconflict o) 0 0 s

/-- VGATHER (R167): Gathers elements of vs1 by the indices in vs2. -/
def execVgather (o : OpV) (s : State) : Out := dispatch (.vgather o) (opVgather o) 0 0 s

/-- VSLIDEUP (R167): Slides the elements of vs1 up by xs2. -/
def execVslideup (o : OpV) (s : State) : Out := dispatch (.vslideup o) (opVslideup o) 0 (s.xr o.s2) s

/-- VSLIDEDN (R167): Slides the elements of vs1 down by xs2. -/
def execVslidedn (o : OpV) (s : State) : Out := dispatch (.vslidedn o) (opVslidedn o) 0 (s.xr o.s2) s

/-- VBCAST (R167): Broadcasts xs1 into every active element. -/
def execVbcast (o : OpV1) (s : State) : Out := dispatch (.vbcast o) (opVbcast o) (s.xr o.s1) 0 s

/-- VREDSUM (R169): Integer sum reduction by the fixed tree. -/
def execVredsum (o : OpV) (s : State) : Out := dispatch (.vredsum o) (opVredsum o) 0 0 s

/-- VREDMAX (R169): Signed maximum reduction. -/
def execVredmax (o : OpV) (s : State) : Out := dispatch (.vredmax o) (opVredmax o) 0 0 s

/-- VREDMIN (R169): Signed minimum reduction. -/
def execVredmin (o : OpV) (s : State) : Out := dispatch (.vredmin o) (opVredmin o) 0 0 s

/-- VREDFSUM (R169): Floating-point sum reduction, rounded at each tree node. -/
def execVredfsum (o : OpV) (s : State) : Out := dispatch (.vredfsum o) (opVredfsum o) 0 0 s

/-- VREDFMAX (R169): Floating-point maximum reduction. -/
def execVredfmax (o : OpV) (s : State) : Out := dispatch (.vredfmax o) (opVredfmax o) 0 0 s

/-- VMVSX (R170): Moves xs1 into element 0 of a vector. -/
def execVmvsx (o : OpVMv) (s : State) : Out := dispatch (.vmvsx o) (opVmvsx o) (s.xr o.s1) 0 s

/-- VCMPEQ_VV (R165): Vector-vector compare for equality into a mask. -/
def execVcmpeqVV (o : OpV) (s : State) : Out := dispatch (.vcmpeqVV o) (opVcmpeqVV o) 0 0 s

/-- VCMPNE_VV (R165): Vector-vector compare for inequality. -/
def execVcmpneVV (o : OpV) (s : State) : Out := dispatch (.vcmpneVV o) (opVcmpneVV o) 0 0 s

/-- VCMPLT_VV (R165): Vector-vector signed less-than. -/
def execVcmpltVV (o : OpV) (s : State) : Out := dispatch (.vcmpltVV o) (opVcmpltVV o) 0 0 s

/-- VCMPLE_VV (R165): Vector-vector signed less-or-equal. -/
def execVcmpleVV (o : OpV) (s : State) : Out := dispatch (.vcmpleVV o) (opVcmpleVV o) 0 0 s

/-- VCMPLTU_VV (R165): Vector-vector unsigned less-than. -/
def execVcmpltuVV (o : OpV) (s : State) : Out := dispatch (.vcmpltuVV o) (opVcmpltuVV o) 0 0 s

/-- VCMPLEU_VV (R165): Vector-vector unsigned less-or-equal. -/
def execVcmpleuVV (o : OpV) (s : State) : Out := dispatch (.vcmpleuVV o) (opVcmpleuVV o) 0 0 s

/-- VCMPGT_VV (R165): Vector-vector signed greater-than. -/
def execVcmpgtVV (o : OpV) (s : State) : Out := dispatch (.vcmpgtVV o) (opVcmpgtVV o) 0 0 s

/-- VCMPGTU_VV (R165): Vector-vector unsigned greater-than. -/
def execVcmpgtuVV (o : OpV) (s : State) : Out := dispatch (.vcmpgtuVV o) (opVcmpgtuVV o) 0 0 s

/-- VCMPFEQ_VV (R165): Vector-vector floating-point equality. -/
def execVcmpfeqVV (o : OpV) (s : State) : Out := dispatch (.vcmpfeqVV o) (opVcmpfeqVV o) 0 0 s

/-- VCMPFLT_VV (R165): Vector-vector floating-point less-than. -/
def execVcmpfltVV (o : OpV) (s : State) : Out := dispatch (.vcmpfltVV o) (opVcmpfltVV o) 0 0 s

/-- VCMPFLE_VV (R165): Vector-vector floating-point less-or-equal. -/
def execVcmpfleVV (o : OpV) (s : State) : Out := dispatch (.vcmpfleVV o) (opVcmpfleVV o) 0 0 s

/-- VCMPFUNORD_VV (R165): Vector-vector floating-point unordered test. -/
def execVcmpfunordVV (o : OpV) (s : State) : Out := dispatch (.vcmpfunordVV o) (opVcmpfunordVV o) 0 0 s

/-- VCMPEQ_VS (R165): Vector-scalar compare for equality. -/
def execVcmpeqVS (o : OpV) (s : State) : Out := dispatch (.vcmpeqVS o) (opVcmpeqVS o) (s.xr o.s1) 0 s

/-- VCMPNE_VS (R165): Vector-scalar compare for inequality. -/
def execVcmpneVS (o : OpV) (s : State) : Out := dispatch (.vcmpneVS o) (opVcmpneVS o) (s.xr o.s1) 0 s

/-- VCMPLT_VS (R165): Vector-scalar signed less-than. -/
def execVcmpltVS (o : OpV) (s : State) : Out := dispatch (.vcmpltVS o) (opVcmpltVS o) (s.xr o.s1) 0 s

/-- VCMPLE_VS (R165): Vector-scalar signed less-or-equal. -/
def execVcmpleVS (o : OpV) (s : State) : Out := dispatch (.vcmpleVS o) (opVcmpleVS o) (s.xr o.s1) 0 s

/-- VCMPLTU_VS (R165): Vector-scalar unsigned less-than. -/
def execVcmpltuVS (o : OpV) (s : State) : Out := dispatch (.vcmpltuVS o) (opVcmpltuVS o) (s.xr o.s1) 0 s

/-- VCMPLEU_VS (R165): Vector-scalar unsigned less-or-equal. -/
def execVcmpleuVS (o : OpV) (s : State) : Out := dispatch (.vcmpleuVS o) (opVcmpleuVS o) (s.xr o.s1) 0 s

/-- VCMPGT_VS (R165): Vector-scalar signed greater-than. -/
def execVcmpgtVS (o : OpV) (s : State) : Out := dispatch (.vcmpgtVS o) (opVcmpgtVS o) (s.xr o.s1) 0 s

/-- VCMPGTU_VS (R165): Vector-scalar unsigned greater-than. -/
def execVcmpgtuVS (o : OpV) (s : State) : Out := dispatch (.vcmpgtuVS o) (opVcmpgtuVS o) (s.xr o.s1) 0 s

/-- VCMPFEQ_VS (R165): Vector-scalar floating-point equality. -/
def execVcmpfeqVS (o : OpV) (s : State) : Out := dispatch (.vcmpfeqVS o) (opVcmpfeqVS o) (s.xr o.s1) 0 s

/-- VCMPFLT_VS (R165): Vector-scalar floating-point less-than. -/
def execVcmpfltVS (o : OpV) (s : State) : Out := dispatch (.vcmpfltVS o) (opVcmpfltVS o) (s.xr o.s1) 0 s

/-- VCMPFLE_VS (R165): Vector-scalar floating-point less-or-equal. -/
def execVcmpfleVS (o : OpV) (s : State) : Out := dispatch (.vcmpfleVS o) (opVcmpfleVS o) (s.xr o.s1) 0 s

/-- VCMPFUNORD_VS (R165): Vector-scalar floating-point unordered test. -/
def execVcmpfunordVS (o : OpV) (s : State) : Out := dispatch (.vcmpfunordVS o) (opVcmpfunordVS o) (s.xr o.s1) 0 s

/-- MANY (R166): 1 when any bit below VL is set. -/
def execMany (o : OpDS) (s : State) : Out :=
  brq (.many o) [] o.d (fun s => Word.ofBool (!(s.hart.ep.below o.s1.val).isEmpty)) s

/-- MPOPC (R166): the number of set bits below VL. -/
def execMpopc (o : OpDS) (s : State) : Out :=
  brq (.mpopc o) [] o.d (fun s => BitVec.ofNat 64 (s.hart.ep.below o.s1.val).length) s

/-- MFIRST (R166): the lowest set index below VL, or −1. -/
def execMfirst (o : OpDS) (s : State) : Out :=
  brq (.mfirst o) [] o.d (fun s =>
    match s.hart.ep.below o.s1.val with
    | [] => -1
    | i :: _ => BitVec.ofNat 64 i) s

/-- VMVXS (R170): element 0, sign-extended from W bits, whatever VL holds. -/
def execVmvxs (o : OpVMv) (s : State) : Out :=
  brq (.vmvxs o) [single o.s1] o.d (fun s => sext (sewBits o.sew) (s.hart.ep.elem o.s1.val (sewBits o.sew) 0)) s

end Sys2Proof.Machine
end

