-- ==== Sys2Proof/Machine/Dispatch.lean ====
section
/-! DEFINITION. The dispatcher: one arm for each constructor of Instr. -/

namespace Sys2Proof.Machine

def exec (i : Instr) (s : State) : Host.Outcome State Fault Refusal :=
  match i with
  | .add o => Sys2Proof.Machine.execAdd o s
  | .sub o => Sys2Proof.Machine.execSub o s
  | .and o => Sys2Proof.Machine.execAnd o s
  | .or o => Sys2Proof.Machine.execOr o s
  | .xor o => Sys2Proof.Machine.execXor o s
  | .shl o => Sys2Proof.Machine.execShl o s
  | .shr o => Sys2Proof.Machine.execShr o s
  | .sar o => Sys2Proof.Machine.execSar o s
  | .slt o => Sys2Proof.Machine.execSlt o s
  | .sltu o => Sys2Proof.Machine.execSltu o s
  | .min o => Sys2Proof.Machine.execMin o s
  | .max o => Sys2Proof.Machine.execMax o s
  | .minu o => Sys2Proof.Machine.execMinu o s
  | .maxu o => Sys2Proof.Machine.execMaxu o s
  | .mul o => Sys2Proof.Machine.execMul o s
  | .mulh o => Sys2Proof.Machine.execMulh o s
  | .mulhu o => Sys2Proof.Machine.execMulhu o s
  | .div o => Sys2Proof.Machine.execDiv o s
  | .divu o => Sys2Proof.Machine.execDivu o s
  | .rem o => Sys2Proof.Machine.execRem o s
  | .remu o => Sys2Proof.Machine.execRemu o s
  | .clz o => Sys2Proof.Machine.execClz o s
  | .ctz o => Sys2Proof.Machine.execCtz o s
  | .popc o => Sys2Proof.Machine.execPopc o s
  | .brev o => Sys2Proof.Machine.execBrev o s
  | .fadd o => Sys2Proof.Machine.execFadd o s
  | .fsub o => Sys2Proof.Machine.execFsub o s
  | .fmul o => Sys2Proof.Machine.execFmul o s
  | .fdiv o => Sys2Proof.Machine.execFdiv o s
  | .fsqrt o => Sys2Proof.Machine.execFsqrt o s
  | .fmin o => Sys2Proof.Machine.execFmin o s
  | .fmax o => Sys2Proof.Machine.execFmax o s
  | .fcmp o => Sys2Proof.Machine.execFcmp o s
  | .fcvt o => Sys2Proof.Machine.execFcvt o s
  | .fcvti o => Sys2Proof.Machine.execFcvti o s
  | .fcvtf o => Sys2Proof.Machine.execFcvtf o s
  | .fma o => Sys2Proof.Machine.execFma o s
  | .addi o => Sys2Proof.Machine.execAddi o s
  | .andi o => Sys2Proof.Machine.execAndi o s
  | .ori o => Sys2Proof.Machine.execOri o s
  | .xori o => Sys2Proof.Machine.execXori o s
  | .shli o => Sys2Proof.Machine.execShli o s
  | .shri o => Sys2Proof.Machine.execShri o s
  | .sari o => Sys2Proof.Machine.execSari o s
  | .slti o => Sys2Proof.Machine.execSlti o s
  | .sltiu o => Sys2Proof.Machine.execSltiu o s
  | .beq o => Sys2Proof.Machine.execBeq o s
  | .bne o => Sys2Proof.Machine.execBne o s
  | .blt o => Sys2Proof.Machine.execBlt o s
  | .bge o => Sys2Proof.Machine.execBge o s
  | .bltu o => Sys2Proof.Machine.execBltu o s
  | .bgeu o => Sys2Proof.Machine.execBgeu o s
  | .jal o => Sys2Proof.Machine.execJal o s
  | .jalr o => Sys2Proof.Machine.execJalr o s
  | .lui o => Sys2Proof.Machine.execLui o s
  | .auipc o => Sys2Proof.Machine.execAuipc o s
  | .ld o => Sys2Proof.Machine.execLd o s
  | .ldu o => Sys2Proof.Machine.execLdu o s
  | .st o => Sys2Proof.Machine.execSt o s
  | .amo o => Sys2Proof.Machine.execAmo o s
  | .cas o => Sys2Proof.Machine.execCas o s
  | .csrrw o => Sys2Proof.Machine.execCsrrw o s
  | .csrrs o => Sys2Proof.Machine.execCsrrs o s
  | .csrrc o => Sys2Proof.Machine.execCsrrc o s
  | .hint o => Sys2Proof.Machine.execHint o s
  | .lend o => Sys2Proof.Machine.execLend o s
  | .setvl o => Sys2Proof.Machine.execSetvl o s
  | .setvli o => Sys2Proof.Machine.execSetvli o s
  | .setvlc o => Sys2Proof.Machine.execSetvlc o s
  | .vaddVV o => Sys2Proof.Machine.execVaddVV o s
  | .vsubVV o => Sys2Proof.Machine.execVsubVV o s
  | .vadcVV o => Sys2Proof.Machine.execVadcVV o s
  | .vmadcVV o => Sys2Proof.Machine.execVmadcVV o s
  | .vsbcVV o => Sys2Proof.Machine.execVsbcVV o s
  | .vmsbcVV o => Sys2Proof.Machine.execVmsbcVV o s
  | .vmulVV o => Sys2Proof.Machine.execVmulVV o s
  | .vmulhVV o => Sys2Proof.Machine.execVmulhVV o s
  | .vmulhuVV o => Sys2Proof.Machine.execVmulhuVV o s
  | .vdivVV o => Sys2Proof.Machine.execVdivVV o s
  | .vdivuVV o => Sys2Proof.Machine.execVdivuVV o s
  | .vremVV o => Sys2Proof.Machine.execVremVV o s
  | .vandVV o => Sys2Proof.Machine.execVandVV o s
  | .vorVV o => Sys2Proof.Machine.execVorVV o s
  | .vxorVV o => Sys2Proof.Machine.execVxorVV o s
  | .vshlVV o => Sys2Proof.Machine.execVshlVV o s
  | .vshrVV o => Sys2Proof.Machine.execVshrVV o s
  | .vsarVV o => Sys2Proof.Machine.execVsarVV o s
  | .vminVV o => Sys2Proof.Machine.execVminVV o s
  | .vmaxVV o => Sys2Proof.Machine.execVmaxVV o s
  | .vsaddVV o => Sys2Proof.Machine.execVsaddVV o s
  | .vwaddVV o => Sys2Proof.Machine.execVwaddVV o s
  | .vnclipVV o => Sys2Proof.Machine.execVnclipVV o s
  | .vaddVS o => Sys2Proof.Machine.execVaddVS o s
  | .vsubVS o => Sys2Proof.Machine.execVsubVS o s
  | .vadcVS o => Sys2Proof.Machine.execVadcVS o s
  | .vmadcVS o => Sys2Proof.Machine.execVmadcVS o s
  | .vsbcVS o => Sys2Proof.Machine.execVsbcVS o s
  | .vmsbcVS o => Sys2Proof.Machine.execVmsbcVS o s
  | .vmulVS o => Sys2Proof.Machine.execVmulVS o s
  | .vmulhVS o => Sys2Proof.Machine.execVmulhVS o s
  | .vmulhuVS o => Sys2Proof.Machine.execVmulhuVS o s
  | .vdivVS o => Sys2Proof.Machine.execVdivVS o s
  | .vdivuVS o => Sys2Proof.Machine.execVdivuVS o s
  | .vremVS o => Sys2Proof.Machine.execVremVS o s
  | .vandVS o => Sys2Proof.Machine.execVandVS o s
  | .vorVS o => Sys2Proof.Machine.execVorVS o s
  | .vxorVS o => Sys2Proof.Machine.execVxorVS o s
  | .vshlVS o => Sys2Proof.Machine.execVshlVS o s
  | .vshrVS o => Sys2Proof.Machine.execVshrVS o s
  | .vsarVS o => Sys2Proof.Machine.execVsarVS o s
  | .vminVS o => Sys2Proof.Machine.execVminVS o s
  | .vmaxVS o => Sys2Proof.Machine.execVmaxVS o s
  | .vsaddVS o => Sys2Proof.Machine.execVsaddVS o s
  | .vwaddVS o => Sys2Proof.Machine.execVwaddVS o s
  | .vnclipVS o => Sys2Proof.Machine.execVnclipVS o s
  | .vfaddVV o => Sys2Proof.Machine.execVfaddVV o s
  | .vfsubVV o => Sys2Proof.Machine.execVfsubVV o s
  | .vfmulVV o => Sys2Proof.Machine.execVfmulVV o s
  | .vfdivVV o => Sys2Proof.Machine.execVfdivVV o s
  | .vfsqrt o => Sys2Proof.Machine.execVfsqrt o s
  | .vfmaVV o => Sys2Proof.Machine.execVfmaVV o s
  | .vfminVV o => Sys2Proof.Machine.execVfminVV o s
  | .vfmaxVV o => Sys2Proof.Machine.execVfmaxVV o s
  | .vfcvt o => Sys2Proof.Machine.execVfcvt o s
  | .vfcvti o => Sys2Proof.Machine.execVfcvti o s
  | .vfcvtf o => Sys2Proof.Machine.execVfcvtf o s
  | .vfexp2 o => Sys2Proof.Machine.execVfexp2 o s
  | .vfaddVS o => Sys2Proof.Machine.execVfaddVS o s
  | .vfsubVS o => Sys2Proof.Machine.execVfsubVS o s
  | .vfmulVS o => Sys2Proof.Machine.execVfmulVS o s
  | .vfdivVS o => Sys2Proof.Machine.execVfdivVS o s
  | .vfmaVS o => Sys2Proof.Machine.execVfmaVS o s
  | .vfminVS o => Sys2Proof.Machine.execVfminVS o s
  | .vfmaxVS o => Sys2Proof.Machine.execVfmaxVS o s
  | .mand o => Sys2Proof.Machine.execMand o s
  | .mor o => Sys2Proof.Machine.execMor o s
  | .mxor o => Sys2Proof.Machine.execMxor o s
  | .mandn o => Sys2Proof.Machine.execMandn o s
  | .mnot o => Sys2Proof.Machine.execMnot o s
  | .mshl o => Sys2Proof.Machine.execMshl o s
  | .many o => Sys2Proof.Machine.execMany o s
  | .mpopc o => Sys2Proof.Machine.execMpopc o s
  | .mfirst o => Sys2Proof.Machine.execMfirst o s
  | .mset o => Sys2Proof.Machine.execMset o s
  | .vcompress o => Sys2Proof.Machine.execVcompress o s
  | .vexpand o => Sys2Proof.Machine.execVexpand o s
  | .viota o => Sys2Proof.Machine.execViota o s
  | .vconflict o => Sys2Proof.Machine.execVconflict o s
  | .vgather o => Sys2Proof.Machine.execVgather o s
  | .vslideup o => Sys2Proof.Machine.execVslideup o s
  | .vslidedn o => Sys2Proof.Machine.execVslidedn o s
  | .vbcast o => Sys2Proof.Machine.execVbcast o s
  | .vredsum o => Sys2Proof.Machine.execVredsum o s
  | .vredmax o => Sys2Proof.Machine.execVredmax o s
  | .vredmin o => Sys2Proof.Machine.execVredmin o s
  | .vredfsum o => Sys2Proof.Machine.execVredfsum o s
  | .vredfmax o => Sys2Proof.Machine.execVredfmax o s
  | .vmvxs o => Sys2Proof.Machine.execVmvxs o s
  | .vmvsx o => Sys2Proof.Machine.execVmvsx o s
  | .vcmpeqVV o => Sys2Proof.Machine.execVcmpeqVV o s
  | .vcmpneVV o => Sys2Proof.Machine.execVcmpneVV o s
  | .vcmpltVV o => Sys2Proof.Machine.execVcmpltVV o s
  | .vcmpleVV o => Sys2Proof.Machine.execVcmpleVV o s
  | .vcmpltuVV o => Sys2Proof.Machine.execVcmpltuVV o s
  | .vcmpleuVV o => Sys2Proof.Machine.execVcmpleuVV o s
  | .vcmpgtVV o => Sys2Proof.Machine.execVcmpgtVV o s
  | .vcmpgtuVV o => Sys2Proof.Machine.execVcmpgtuVV o s
  | .vcmpfeqVV o => Sys2Proof.Machine.execVcmpfeqVV o s
  | .vcmpfltVV o => Sys2Proof.Machine.execVcmpfltVV o s
  | .vcmpfleVV o => Sys2Proof.Machine.execVcmpfleVV o s
  | .vcmpfunordVV o => Sys2Proof.Machine.execVcmpfunordVV o s
  | .vcmpeqVS o => Sys2Proof.Machine.execVcmpeqVS o s
  | .vcmpneVS o => Sys2Proof.Machine.execVcmpneVS o s
  | .vcmpltVS o => Sys2Proof.Machine.execVcmpltVS o s
  | .vcmpleVS o => Sys2Proof.Machine.execVcmpleVS o s
  | .vcmpltuVS o => Sys2Proof.Machine.execVcmpltuVS o s
  | .vcmpleuVS o => Sys2Proof.Machine.execVcmpleuVS o s
  | .vcmpgtVS o => Sys2Proof.Machine.execVcmpgtVS o s
  | .vcmpgtuVS o => Sys2Proof.Machine.execVcmpgtuVS o s
  | .vcmpfeqVS o => Sys2Proof.Machine.execVcmpfeqVS o s
  | .vcmpfltVS o => Sys2Proof.Machine.execVcmpfltVS o s
  | .vcmpfleVS o => Sys2Proof.Machine.execVcmpfleVS o s
  | .vcmpfunordVS o => Sys2Proof.Machine.execVcmpfunordVS o s
  | .vld o => Sys2Proof.Machine.execVld o s
  | .vlds o => Sys2Proof.Machine.execVlds o s
  | .vldx o => Sys2Proof.Machine.execVldx o s
  | .vlseg o => Sys2Proof.Machine.execVlseg o s
  | .vst o => Sys2Proof.Machine.execVst o s
  | .vsts o => Sys2Proof.Machine.execVsts o s
  | .vstx o => Sys2Proof.Machine.execVstx o s
  | .vsseg o => Sys2Proof.Machine.execVsseg o s
  | .vamo o => Sys2Proof.Machine.execVamo o s
  | .vbind o => Sys2Proof.Machine.execVbind o s
  | .vunbind o => Sys2Proof.Machine.execVunbind o s
  | .mma o => Sys2Proof.Machine.execMma o s
  | .mshape o => Sys2Proof.Machine.execMshape o s
  | .mzero o => Sys2Proof.Machine.execMzero o s
  | .mtov o => Sys2Proof.Machine.execMtov o s
  | .mvtot o => Sys2Proof.Machine.execMvtot o s
  | .mstore o => Sys2Proof.Machine.execMstore o s
  | .mload o => Sys2Proof.Machine.execMload o s
  | .mmovt o => Sys2Proof.Machine.execMmovt o s
  | .gori2 o => Sys2Proof.Machine.execGori2 o s
  | .ginc o => Sys2Proof.Machine.execGinc o s
  | .gseg o => Sys2Proof.Machine.execGseg o s
  | .gori3 o => Sys2Proof.Machine.execGori3 o s
  | .gins o => Sys2Proof.Machine.execGins o s
  | .gstat o => Sys2Proof.Machine.execGstat o s
  | .fence o => Sys2Proof.Machine.execFence o s
  | .qdrain o => Sys2Proof.Machine.execQdrain o s
  | .barrive o => Sys2Proof.Machine.execBarrive o s
  | .barwait o => Sys2Proof.Machine.execBarwait o s
  | .barexp o => Sys2Proof.Machine.execBarexp o s
  | .mwatchld o => Sys2Proof.Machine.execMwatchld o s
  | .mwait o => Sys2Proof.Machine.execMwait o s
  | .pottake o => Sys2Proof.Machine.execPottake o s
  | .pottakeq o => Sys2Proof.Machine.execPottakeq o s
  | .potgive o => Sys2Proof.Machine.execPotgive o s
  | .potreadx o => Sys2Proof.Machine.execPotreadx o s
  | .potread o => Sys2Proof.Machine.execPotread o s
  | .potinit o => Sys2Proof.Machine.execPotinit o s
  | .settle o => Sys2Proof.Machine.execSettle o s
  | .renew o => Sys2Proof.Machine.execRenew o s
  | .scount o => Sys2Proof.Machine.execScount o s
  | .rwb o => Sys2Proof.Machine.execRwb o s
  | .rinv o => Sys2Proof.Machine.execRinv o s
  | .rwbinv o => Sys2Proof.Machine.execRwbinv o s
  | .discard o => Sys2Proof.Machine.execDiscard o s
  | .rtouch o => Sys2Proof.Machine.execRtouch o s
  | .cpy o => Sys2Proof.Machine.execCpy o s
  | .cpywait o => Sys2Proof.Machine.execCpywait o s
  | .bkop o => Sys2Proof.Machine.execBkop o s
  | .bgemv o => Sys2Proof.Machine.execBgemv o s
  | .battn o => Sys2Proof.Machine.execBattn o s
  | .cpyq o => Sys2Proof.Machine.execCpyq o s
  | .bkwait o => Sys2Proof.Machine.execBkwait o s
  | .farm o => Sys2Proof.Machine.execFarm o s
  | .strip o => Sys2Proof.Machine.execStrip o s
  | .fquery o => Sys2Proof.Machine.execFquery o s
  | .tretResume o => Sys2Proof.Machine.execTretResume o s
  | .tlbinv o => Sys2Proof.Machine.execTlbinv o s
  | .ctxhalt o => Sys2Proof.Machine.execCtxhalt o s
  | .ctxresume o => Sys2Proof.Machine.execCtxresume o s
  | .ecall => Sys2Proof.Machine.execEcall s
  | .ebreak => Sys2Proof.Machine.execEbreak s
  | .svfence => Sys2Proof.Machine.execSvfence s
  | .vsfence => Sys2Proof.Machine.execVsfence s
  | .heartbeat => Sys2Proof.Machine.execHeartbeat s
  | .bkfence => Sys2Proof.Machine.execBkfence s
  | .fend => Sys2Proof.Machine.execFend s
  | .yield => Sys2Proof.Machine.execYield s
  | .uiret => Sys2Proof.Machine.execUiret s
  | .tret => Sys2Proof.Machine.execTret s
  | .streamDelivery => Sys2Proof.Machine.execStreamDelivery s
  | .mwaitTimeout => Sys2Proof.Machine.execMwaitTimeout s
  | .potHomeRequest => Sys2Proof.Machine.execPotHomeRequest s
  | .maskClear => Sys2Proof.Machine.execMaskClear s
  | .trapDelivery => Sys2Proof.Machine.execTrapDelivery s
  | .faultRecordAppend => Sys2Proof.Machine.execFaultRecordAppend s
  | .uiEventDelivery => Sys2Proof.Machine.execUiEventDelivery s
  | .hartAdmission => Sys2Proof.Machine.execHartAdmission s
  | .roundBoundary => Sys2Proof.Machine.execRoundBoundary s
  | .watchdogExpiry => Sys2Proof.Machine.execWatchdogExpiry s
  | .writeBackMerge => Sys2Proof.Machine.execWriteBackMerge s
  | .pageRevival => Sys2Proof.Machine.execPageRevival s
  | .writeRangeAppend => Sys2Proof.Machine.execWriteRangeAppend s
  | .collapse => Sys2Proof.Machine.execCollapse s
  | .migcmd => Sys2Proof.Machine.execMigcmd s
  | .migrationComplete => Sys2Proof.Machine.execMigrationComplete s
  | .hintRowClose => Sys2Proof.Machine.execHintRowClose s
  | .extentAdded => Sys2Proof.Machine.execExtentAdded s
  | .extentReleaseRequest => Sys2Proof.Machine.execExtentReleaseRequest s
  | .extack => Sys2Proof.Machine.execExtack s
  | .forcedExtentRelease => Sys2Proof.Machine.execForcedExtentRelease s
  | .revclr => Sys2Proof.Machine.execRevclr s
  | .extentRecordAppend => Sys2Proof.Machine.execExtentRecordAppend s
  | .copyChunk => Sys2Proof.Machine.execCopyChunk s
  | .remoteChunkWrite => Sys2Proof.Machine.execRemoteChunkWrite s
  | .remoteChunkAck => Sys2Proof.Machine.execRemoteChunkAck s
  | .strelvisPart => Sys2Proof.Machine.execStrelvisPart s
  | .hbmRefresh => Sys2Proof.Machine.execHbmRefresh s
  | .channelPowerDownRequest => Sys2Proof.Machine.execChannelPowerDownRequest s
  | .contextImageWrite => Sys2Proof.Machine.execContextImageWrite s
  | .hartRecordWrite => Sys2Proof.Machine.execHartRecordWrite s
  | .preemptedHartPlacement => Sys2Proof.Machine.execPreemptedHartPlacement s
  | .resumedHartPlacement => Sys2Proof.Machine.execResumedHartPlacement s
  | .powerOn => Sys2Proof.Machine.execPowerOn s
  | .bootTryTimeout => Sys2Proof.Machine.execBootTryTimeout s
  | .bootImageArrival => Sys2Proof.Machine.execBootImageArrival s
  | .bootdb => Sys2Proof.Machine.execBootdb s
  | .fdlaunch => Sys2Proof.Machine.execFdlaunch s
  | .meassel => Sys2Proof.Machine.execMeassel s
  | .attreq => Sys2Proof.Machine.execAttreq s
  | .attestReportComplete => Sys2Proof.Machine.execAttestReportComplete s
  | .telcommit => Sys2Proof.Machine.execTelcommit s
  | .telemetryCommitComplete => Sys2Proof.Machine.execTelemetryCommitComplete s
  | .telemetryPeriodicCommit => Sys2Proof.Machine.execTelemetryPeriodicCommit s
  | .powerDown => Sys2Proof.Machine.execPowerDown s
  | .deviceRegisterWrite => Sys2Proof.Machine.execDeviceRegisterWrite s
  | .linkRetrain => Sys2Proof.Machine.execLinkRetrain s
  | .flitRetransmit => Sys2Proof.Machine.execFlitRetransmit s
  | .thermalExcursionStart => Sys2Proof.Machine.execThermalExcursionStart s
  | .thermalExcursionEnd => Sys2Proof.Machine.execThermalExcursionEnd s
  | .hostWrite => Sys2Proof.Machine.execHostWrite s
  | .hostRead => Sys2Proof.Machine.execHostRead s
  | .softErrorCorrection => Sys2Proof.Machine.execSoftErrorCorrection s
  | .epInstructionComplete => Sys2Proof.Machine.execEpInstructionComplete s
  | .linkRetrainEnd => Sys2Proof.Machine.execLinkRetrainEnd s
  | .powerLoss => Sys2Proof.Machine.execPowerLoss s

end Sys2Proof.Machine
end

