-- ==== Sys2Proof/Machine/Fetch.lean ====
section
/-! DEFINITION. Fetching: the checks on the pc, the word's translation, its bytes, its decoding, and what a lend asks of the word (R14, R26, R31,
R46, R50, R327, R343). -/

namespace Sys2Proof.Machine

/-! ### What a word accepts from a LEND (R50) -/

/-- AcceptsLend (R49, R50): what is lent is accepted, and a word that takes a lent predicate names none of its own. The limits of the copy group
are among the word's own issue checks. -/
def acceptsLend (w : Nat) (lend : BitVec 32) : Bool :=
  (bits lend.toNat 7 4 == 0 || (takesPredicate w && pmField w == 0)) && (!lend.getLsbD 17 || takesCopy w)

/-! ### Fetching -/

/-- What fetching gives: an instruction, a trap, or a wait for a migrating page. -/
inductive Fetched where
  | word (s : State) (i : Instr)
  | trap (s : State) (t : Trap)
  | wait (s : State)

/-- The trap of an illegal word (R24, R46). -/
def illegalWord (w : Nat) : Trap := { cause := 1, tval := w }

/-- The word read at the pc is decoded and held against a pending lend; LEND after LEND is refused by LEND itself (R49). -/
def State.decoded (s : State) (w : Nat) : Fetched :=
  match decodeWord w with
  | .error _ => .trap s (illegalWord w)
  | .ok i => if s.hart.sc.lend.getLsbD 31 && !acceptsLend w s.hart.sc.lend then .trap s (illegalWord w) else .word s i

/-- FETCH (R14, R26, R343): the pc's alignment, its range, its translation, and the word there through the core's instruction cache. -/
def State.fetch (s : State) : Fetched :=
  let pc := s.hart.sc.pc.toNat
  let t := fun (cause : Nat) (dev : Bool) => ({ cause := cause, tval := pc, access := accessByte .fetch 2 dev } : Trap)
  if pc % 4 ≠ 0 then .trap s (t 2 false)
  else match s.locate pc 4 .fetch 2 with
    | .trap t => .trap s t
    | .wait s => .wait s
    | .ok s pa _ => if inWindow pc && !s.hart.ctl then .trap s (t 0x13 false)
      else let r := s.fetchWord s.hart.coreId pc pa s.hart.asid; r.1.decoded r.2

end Sys2Proof.Machine
end

