-- ==== Sys2Proof/Machine/Turns.lean ====
section
/-! DEFINITION. Whose turn it is: the agenda's turns, the events that the machine owes, and one instruction of the hart or control core that
executes. Every interleaving of the parties is some agenda (log 6). -/

namespace Sys2Proof.Machine

/-! ### One instruction -/

/-- The next hart takes the turn after an instruction. -/
def passed (o : Out) : Out :=
  match o with
  | .next s => .next s.passTurn
  | other => other

/-- An event that was deliverable in `s`, before the instruction whose outcome is given, is delivered after it, or in the place of a LEND: the
hart retires no second instruction before (R308). -/
def withEvent (s : State) (o : Out) : Out :=
  match o with
  | .next t => .next (if s.hart.lendsAway t.hart then { s with hart := s.hart.takeEvent } else t.lateEvent s.hart)
  | other => other

/-- One instruction of the hart or control core that executes, or of a resumed hart the next of its queued words; one that is parked, stopped or
waiting for a home only passes the turn. -/
def runHere (s : State) : Out :=
  if !s.hart.runnable then .next s.passTurn
  else if !s.hart.redo.isEmpty then passed (execRedispatch s)
  else passed (withEvent s (match s.fetch with
    | .trap s t => raise s t
    | .wait s => waitHere s false
    | .word s i => exec i s))

/-! ### Events that are due -/

/-- The input of an event that the machine itself brings about, for one unit. -/
def Input.of (unit : Nat) : Input := ⟨unit, 0, 0, []⟩

/-- The first die for which something holds. -/
def firstDie (p : Nat → Bool) : Option Nat := (List.range 4).find? p

/-- The event that is due next, with its input: each can happen in this state. -/
def State.pending (s : State) : Option (Instr × Input) :=
  if s.allHarts.any Hart.trapReady then some (.trapDelivery, Input.of 0)
  else if s.contexts.any Context.expired then some (.watchdogExpiry, Input.of 0)
  else if !s.collapses.isEmpty then some (.collapse, Input.of 0)
  else if s.nextPreempted.isSome then some (.hartRecordWrite, Input.of 0)
  else if s.nextImage.isSome then some (.contextImageWrite, Input.of 0)
  else if s.prompt && !s.potQueue.isEmpty then some (.potHomeRequest, Input.of 0)
  else if (s.nextChunk 0).isSome then some (.copyChunk, Input.of 0)
  else if (s.nextPart 0 0 0).isSome then some (.strelvisPart, Input.of 0)
  else if s.nextAdmission.isSome || s.nextHold.isSome then some (.hartAdmission, Input.of 0)
  else if s.seatable.any (fun e => e.1.fixed) then some (.preemptedHartPlacement, Input.of 0)
  else if s.seatable.any (fun e => !e.1.fixed) then some (.resumedHartPlacement, Input.of 0)
  else if s.attBusy then some (.attestReportComplete, Input.of 0)
  else if s.hart.deliverable then some (.uiEventDelivery, Input.of s.hart.loc)
  else match firstDie (fun k => (s.die k).migBusy) with
    | some k => some (.migrationComplete, Input.of k)
    | none => match firstDie (fun k => (s.nextFault k).isSome) with
      | some k => some (.faultRecordAppend, Input.of k)
      | none => match firstDie (fun k => (s.nextExtent k).isSome) with
        | some k => some (.extentRecordAppend, Input.of k)
        | none => (firstDie (fun k => (s.die k).telBusy)).map (fun k => (.telemetryCommitComplete, Input.of k))

/-- The event that is due, or else an instruction. -/
def State.goOn (s : State) : Out :=
  match s.pending with
  | some (i, inp) => exec i { s with input := inp }
  | none => runHere s

/-! ### The agenda -/

/-- The instruction is a machine event: it has no word. -/
def isEvent (i : Instr) : Bool := encode i == 0

/-- An agenda turn; one that names no event changes nothing. A scratch image above 384 KiB, or a second one for a context, is a load that the
loader refuses (R73): nothing is loaded. -/
def State.turn (s : State) (t : Turn) : Out :=
  match t with
  | .event i inp => if isEvent i then exec i { s with input := inp } else noEvent s
  | .run who => runHere (s.giveTurn who)
  | .evictVdc core line => .next (s.flushVdc (fun l => l.core == core && l.line == line) true)
  | .evictIcache core line => .next { s with icache := s.icache.filter (fun l => !(l.core == core && l.line == line)) }
  | .evictMsc line => .next (s.flushMsc (fun m => m.line == line))
  | .dropTlb core vpn => .next { s with tlb := s.tlb.filter (fun t => !(t.core == core && t.vpn == vpn)) }
  | .loadScratch asid image =>
    if image.length ≤ 393216 && (s.ctxOf asid).any (fun c => c.state == 1 && c.scratch.isNone) then
      .next (s.updCtx asid (fun c => { c with scratch := some ((image ++ zeros 393216).take 393216) }))
    else noEvent s
  | .loadPot asid va pa => .next (s.markPot ⟨asid, va / 64 * 64, pa / 64 * 64⟩)
  | .loadTensors asid base count =>
    .next (s.updCtx asid (fun c => { c with tenstab := BitVec.ofNat 64 base &&& 0xFFFFFFFFFFFC0, tenscnt := count % 2 ^ 32 }))

/-! ### A program placed for the next step -/

/-- A control core does not execute the word: V, VM, X and G words, and op7 0x74 and 0x75 (R370). -/
def hartOnly (w : Nat) : Bool := (0x40 ≤ w % 128 && w % 128 ≤ 0x63) || w % 128 == 0x74 || w % 128 == 0x75

/-- The farm, of one hart, of a program that is placed for a hart. -/
def placedFarm : Farm := { farmOf 1 (zeros 64) with handle := 1, harts := 1, reserve := 1, state := 2, admitted := 1, dies := [0] }

/-- The context of a program that is placed for a hart, with its tables at 512 MiB. -/
def placedContext : Context := { Context.new 1 with state := 1, ptroot := 0x20000000, features := 0x1F, farmNext := 2 }

/-- A hart of a context whose first 512 MiB are those of physical memory, readable, writable and executable. -/
def State.withHart (s : State) : State :=
  let h := freshHart { placedFarm with admitted := 0 } 0 0 1
  let s := (s.homeStoreNat 0x20000000 8 0x20010001).homeStoreNat 0x20010000 8 0xFD
  { s with boot := .started, hart := h, others := s.hart :: s.others, contexts := placedContext :: s.contexts, farms := placedFarm :: s.farms }

/-- A control core that executes: the boot is over. -/
def State.withControlCore (s : State) : State := { s with boot := .started, hart := { s.hart with status := .running } }

/-- Where the party that executes fetches. -/
def State.fetchPa (s : State) : Nat :=
  match s.locate s.hart.sc.pc.toNat 4 .fetch 2 with
  | .ok _ pa _ => pa
  | _ => s.hart.sc.pc.toNat

/-- The party that can fetch the word: the one that executes, where it is a hart that runs, or a control core for a word of its own; else the
control core started, or a hart of a context of its own. -/
def State.readyFor (s : State) (w : Nat) : State :=
  if !s.hart.ctl && s.hart.runnable then s else if hartOnly w then s.withHart else s.withControlCore

/-- The word stored where the party that executes fetches, and nothing due before it. -/
def State.placeWord (s : State) (w : Nat) : State :=
  let s := { s with agenda := [] }
  (s.homeStoreNat s.fetchPa 4 w).dropIcache s.hart.coreId

end Sys2Proof.Machine
end

