-- ==== Sys2Proof/Machine/Step.lean ====
section
/-! DEFINITION. One step of the machine, and a word placed for the next step. -/

namespace Sys2Proof.Machine

/-- One step: the next turn of the agenda; where there is none, the event that is due; where none is, one instruction. -/
def step (s : State) : Host.Outcome State Fault Refusal :=
  match s.agenda with
  | t :: rest => ({ s with agenda := rest }).turn t
  | [] => s.goOn

/-- The instruction whose bits are `w` placed where the next step fetches: every instruction is one word of 32 bits. Where no party executes, as
at reset, one is started that can execute the word (DESIGN CHOICE, log 53). -/
def State.withFetchWord (s : State) (nbits w : Nat) : State :=
  let w := w % 2 ^ min nbits 32
  (s.readyFor w).placeWord w

end Sys2Proof.Machine
end

