-- ==== Sys2Proof/Safety.lean ====
section
/-! DEFINITION. What counts as a safe run, in the terms that statements use: a run goes on, and the invariants that every step keeps. -/

namespace Sys2Proof.Safety

open Sys2Proof.Machine

/-- The step is performed: it ends neither in a fault nor in a refusal. -/
def GoesOn (s : State) : Prop := ∃ t, step s = .next t

/-- `t` can be reached from `s` by steps that are performed. -/
inductive Reaches (s : State) : State → Prop where
  | here : Reaches s s
  | next {t u : State} (h : Reaches s t) (k : step t = .next u) : Reaches s u

/-- Memory is in its canonical form. -/
def MemoryCanonical (s : State) : Prop := Memory.wf s.mem = true

/-- The fuses and the installed memory of a part (R371). -/
def SamePart (s t : State) : Prop := t.part = s.part

end Sys2Proof.Safety
end

