-- ==== Sys2Proof/Certificates/Slice0/Obligations.lean ====
section
/-! DEFINITION. What is claimed of the model: one proposition for each statement that the provers prove. `Stated` holds the words in which the
statements are said: the registers as R13 reads them, an instruction's retirement as R28 has it, and tables of the instructions that one
statement is about. -/

namespace Sys2Proof.Stated

open Sys2Proof.Machine

/-! ### Retiring -/

/-- An x register of the hart that executes: x0 reads as zero (R13). -/
def reg (s : State) (r : Reg) : Word := if r.val = 0 then 0 else s.hart.sc.x[r.val]

/-- The x registers after a write of `w` to xd: a write to x0 is discarded (R13). -/
def regs (s : State) (d : Reg) (w : Word) : Vector Word 32 := if d.val = 0 then s.hart.sc.x else s.hart.sc.x.set d.val w

/-- The state in which an instruction has retired (R28): the x registers are `x`, the pc is `pc`, INSTRET has counted, a pending lend is used
up, VSTART is not armed, the hart waits for nothing, and everything else is as it was. -/
def retired (s : State) (pc : Word) (x : Vector Word 32) : State :=
  { s with hart := { s.hart with
      waiting := false
      mwait := none
      sc := { s.hart.sc with
        x := x, pc := pc, instret := s.hart.sc.instret + 1, lend := s.hart.sc.lend &&& 0x7FFFFFFF#32, vstartArmed := false } } }

/-- An instruction whose whole effect is `w` in xd. -/
def answered (s : State) (d : Reg) (w : Word) : State := retired s (s.hart.sc.pc + 4) (regs s d w)

/-- An instruction with no effect but its retirement. -/
def passedBy (s : State) : State := retired s (s.hart.sc.pc + 4) s.hart.sc.x

/-- The signed value of a field of `n` bits. -/
def field (n v : Nat) : Int := if v < 2 ^ (n - 1) then (v : Int) else (v : Int) - 2 ^ n

/-! ### Scalar integer tables -/

/-- The register ALU and multiply words with their results on the patterns a and b (R101, R103). -/
def aluRows : List ((OpDSS → Instr) × (Word → Word → Word)) :=
  [(.add, fun a b => BitVec.ofInt 64 (a.toInt + b.toInt)),
   (.sub, fun a b => BitVec.ofInt 64 (a.toInt - b.toInt)),
   (.and, fun a b => a &&& b),
   (.or, fun a b => a ||| b),
   (.xor, fun a b => a ^^^ b),
   (.shl, fun a b => BitVec.ofNat 64 (a.toNat * 2 ^ (b.toNat % 64))),
   (.shr, fun a b => BitVec.ofNat 64 (a.toNat / 2 ^ (b.toNat % 64))),
   (.sar, fun a b => BitVec.ofInt 64 (a.toInt / 2 ^ (b.toNat % 64))),
   (.slt, fun a b => if a.toInt < b.toInt then 1 else 0),
   (.sltu, fun a b => if a.toNat < b.toNat then 1 else 0),
   (.min, fun a b => if a.toInt ≤ b.toInt then a else b),
   (.max, fun a b => if a.toInt ≤ b.toInt then b else a),
   (.minu, fun a b => if a.toNat ≤ b.toNat then a else b),
   (.maxu, fun a b => if a.toNat ≤ b.toNat then b else a),
   (.mul, fun a b => BitVec.ofInt 64 (a.toInt * b.toInt)),
   (.mulh, fun a b => BitVec.ofInt 64 (a.toInt * b.toInt / 2 ^ 64)),
   (.mulhu, fun a b => BitVec.ofNat 64 (a.toNat * b.toNat / 2 ^ 64))]

/-- The immediate words with their results on the pattern a and the signed immediate k (R102). -/
def immRows : List ((OpI → Instr) × (Word → Int → Word)) :=
  [(.addi, fun a k => BitVec.ofInt 64 (a.toInt + k)),
   (.andi, fun a k => a &&& BitVec.ofInt 64 k),
   (.ori, fun a k => a ||| BitVec.ofInt 64 k),
   (.xori, fun a k => a ^^^ BitVec.ofInt 64 k),
   (.slti, fun a k => if a.toInt < k then 1 else 0),
   (.sltiu, fun a k => if a.toNat < (BitVec.ofInt 64 k).toNat then 1 else 0)]

/-- The shifts by an immediate (R102). -/
def shiftRows : List ((OpSh → Instr) × (Word → Nat → Word)) :=
  [(.shli, fun a n => BitVec.ofNat 64 (a.toNat * 2 ^ n)),
   (.shri, fun a n => BitVec.ofNat 64 (a.toNat / 2 ^ n)),
   (.sari, fun a n => BitVec.ofInt 64 (a.toInt / 2 ^ n))]

/-- The conditional branches with their conditions (R106). -/
def branchRows : List ((OpB → Instr) × (Word → Word → Bool)) :=
  [(.beq, fun a b => decide (a = b)),
   (.bne, fun a b => decide (a ≠ b)),
   (.blt, fun a b => decide (a.toInt < b.toInt)),
   (.bge, fun a b => decide (b.toInt ≤ a.toInt)),
   (.bltu, fun a b => decide (a.toNat < b.toNat)),
   (.bgeu, fun a b => decide (b.toNat ≤ a.toNat))]

/-- The target of a branch or JAL at the pc (R36). -/
def target (s : State) (words : Int) : Word := s.hart.sc.pc + BitVec.ofInt 64 (words * 4)

/-- A target that the pc can take (R14). -/
abbrev reachable (t : Word) : Prop := t.toNat % 4 = 0 ∧ t.toNat < 2 ^ 52

/-- The trap that a jump to a target raises where the pc cannot take it (R14, R24): alignment comes before range; ACCESS says a fetch of four
bytes (R336). -/
def targetTrap (t : Word) : Trap := { cause := if t.toNat % 4 = 0 then 4 else 2, tval := t.toNat, access := 8 }

end Sys2Proof.Stated

open Sys2Proof Sys2Proof.Machine

/-! ### Scalar integer words -/

/-- R101, R103, R100, R13, R29: each register ALU and multiply word always retires with the result of its row in xd, read before xd is written,
and changes nothing else: no flag, no memory, no other register. -/
def Sys2Proof.Stated.ScalarAluResults : Prop :=
  ∀ row ∈ Stated.aluRows, ∀ (o : OpDSS) (s : State),
    exec (row.1 o) s = .next (Stated.answered s o.d (row.2 (Stated.reg s o.s1) (Stated.reg s o.s2)))

/-- R103: DIV, DIVU, REM and REMU always retire, with truncated quotients whose remainders take the dividend's sign, the results for a divisor
of 0, and the one signed overflow; nothing but xd is written. -/
def Sys2Proof.Stated.ScalarDivision : Prop :=
  ∀ (o : OpDSS) (s : State),
    let a := Stated.reg s o.s1
    let b := Stated.reg s o.s2
    ∃ q r qu ru : Word,
      exec (.div o) s = .next (Stated.answered s o.d q) ∧ exec (.rem o) s = .next (Stated.answered s o.d r)
      ∧ exec (.divu o) s = .next (Stated.answered s o.d qu) ∧ exec (.remu o) s = .next (Stated.answered s o.d ru)
      ∧ (b = 0 → q = -1 ∧ r = a ∧ qu = -1 ∧ ru = a)
      ∧ (b ≠ 0 → qu.toNat * b.toNat + ru.toNat = a.toNat ∧ ru.toNat < b.toNat)
      ∧ (a.toInt = -2 ^ 63 → b.toInt = -1 → q = a ∧ r = 0)
      ∧ (b ≠ 0 → ¬(a.toInt = -2 ^ 63 ∧ b.toInt = -1) →
          q.toInt * b.toInt + r.toInt = a.toInt ∧ r.toInt.natAbs < b.toInt.natAbs
          ∧ (0 ≤ a.toInt → 0 ≤ r.toInt) ∧ (a.toInt ≤ 0 → r.toInt ≤ 0))

/-- R104: CLZ, CTZ, POPC and BREV always retire with their counts, 64 for a zero operand of CLZ and CTZ, and the reversed pattern. -/
def Sys2Proof.Stated.ScalarBitCounts : Prop :=
  ∀ (o : OpDS) (s : State),
    let a := Stated.reg s o.s1
    (∃ n, exec (.clz o) s = .next (Stated.answered s o.d (BitVec.ofNat 64 n)) ∧ n ≤ 64
      ∧ (∀ i, 64 - n ≤ i → a.getLsbD i = false) ∧ (n < 64 → a.getLsbD (63 - n) = true))
    ∧ (∃ n, exec (.ctz o) s = .next (Stated.answered s o.d (BitVec.ofNat 64 n)) ∧ n ≤ 64
      ∧ (∀ i, i < n → a.getLsbD i = false) ∧ (n < 64 → a.getLsbD n = true))
    ∧ exec (.popc o) s
        = .next (Stated.answered s o.d (BitVec.ofNat 64 ((Finset.range 64).filter (fun i => a.getLsbD i = true)).card))
    ∧ (∃ w, exec (.brev o) s = .next (Stated.answered s o.d w) ∧ ∀ i, i < 64 → w.getLsbD i = a.getLsbD (63 - i))

/-- Divisions, remainders, counts and reversals always retire with their results (R103, R104). -/
def Obligations.DivisionsAndBitCounts : Prop := Stated.ScalarDivision ∧ Stated.ScalarBitCounts

/-- R102, R105, R36: each immediate word always retires with its row's result on the sign-extended immediate; LUI and AUIPC place their
immediate at bit 15, sign-extended. -/
def Sys2Proof.Stated.ScalarImmediateResults : Prop :=
  (∀ row ∈ Stated.immRows, ∀ (o : OpI) (s : State),
    exec (row.1 o) s = .next (Stated.answered s o.d (row.2 (Stated.reg s o.s1) (Stated.field 15 o.imm.val))))
  ∧ (∀ row ∈ Stated.shiftRows, ∀ (o : OpSh) (s : State),
    exec (row.1 o) s = .next (Stated.answered s o.d (row.2 (Stated.reg s o.s1) o.sh.val)))
  ∧ (∀ (o : OpU) (s : State),
    exec (.lui o) s = .next (Stated.answered s o.d (BitVec.ofInt 64 (Stated.field 20 o.imm.val * 2 ^ 15)))
    ∧ exec (.auipc o) s = .next (Stated.answered s o.d (s.hart.sc.pc + BitVec.ofInt 64 (Stated.field 20 o.imm.val * 2 ^ 15))))

/-- The register and the immediate words of the scalar integer unit always retire with their results (R100 to R105). -/
def Obligations.ScalarIntegerResults : Prop := Stated.ScalarAluResults ∧ Stated.ScalarImmediateResults

/-- R106: a conditional branch that is not taken passes by whatever its target; one that is taken to a reachable target retires there. No
register is written. -/
def Sys2Proof.Stated.BranchesComplete : Prop :=
  ∀ row ∈ Stated.branchRows, ∀ (o : OpB) (s : State),
    let t := Stated.target s (Stated.field 15 o.off.val)
    (row.2 (Stated.reg s o.s1) (Stated.reg s o.s2) = false → exec (row.1 o) s = .next (Stated.passedBy s))
    ∧ (row.2 (Stated.reg s o.s1) (Stated.reg s o.s2) = true → Stated.reachable t →
        exec (row.1 o) s = .next (Stated.retired s t s.hart.sc.x))

/-- R107, R29: JAL and JALR to a reachable target retire there with the address of the next word in xd; JALR's target is computed from xs1 as it
stood before xd is written. -/
def Sys2Proof.Stated.JumpsComplete : Prop :=
  (∀ (o : OpJ) (s : State), Stated.reachable (Stated.target s (Stated.field 20 o.off.val)) →
    exec (.jal o) s = .next (Stated.retired s (Stated.target s (Stated.field 20 o.off.val)) (Stated.regs s o.d (s.hart.sc.pc + 4))))
  ∧ (∀ (o : OpI) (s : State),
    let t := Stated.reg s o.s1 + BitVec.ofInt 64 (Stated.field 15 o.imm.val)
    Stated.reachable t → exec (.jalr o) s = .next (Stated.retired s t (Stated.regs s o.d (s.hart.sc.pc + 4))))

/-- R14, R24, R106, R107: a taken branch or a jump whose target is not a multiple of 4 raises the alignment trap, and one whose target is a
multiple of 4 at or above 2^52 the address-range trap, at itself, with the target in TVAL. -/
def Sys2Proof.Stated.JumpTargetTraps : Prop :=
  (∀ row ∈ Stated.branchRows, ∀ (o : OpB) (s : State),
    let t := Stated.target s (Stated.field 15 o.off.val)
    row.2 (Stated.reg s o.s1) (Stated.reg s o.s2) = true → ¬ Stated.reachable t → exec (row.1 o) s = .next (s.trap (Stated.targetTrap t)))
  ∧ (∀ (o : OpJ) (s : State),
    let t := Stated.target s (Stated.field 20 o.off.val)
    ¬ Stated.reachable t → exec (.jal o) s = .next (s.trap (Stated.targetTrap t)))
  ∧ (∀ (o : OpI) (s : State),
    let t := Stated.reg s o.s1 + BitVec.ofInt 64 (Stated.field 15 o.imm.val)
    ¬ Stated.reachable t → exec (.jalr o) s = .next (s.trap (Stated.targetTrap t)))

/-- Branches and jumps retire at targets that the pc can take and trap at themselves otherwise (R14, R106, R107). -/
def Obligations.BranchesAndJumps : Prop := Stated.BranchesComplete ∧ Stated.JumpsComplete ∧ Stated.JumpTargetTraps

namespace Sys2Proof.Stated

open Sys2Proof.Machine

/-! ### Scalar floating point -/

/-- The rounding mode of a scalar word: rm 7 takes FCSR.RM (R22, R38). -/
def modeOf (s : State) (rm : Fin 8) : Nat := if rm.val = 7 then (s.hart.sc.fcsr >>> 5).toNat else rm.val

/-- The next state of a random generator, which is also its draw (R91). -/
def nextDraw (x : BitVec 32) : BitVec 32 :=
  let a := x ^^^ (x <<< 13)
  let b := a ^^^ (a >>> 17)
  b ^^^ (b <<< 5)

/-- The generators after a scalar word of mode `mode`: generator 0 draws once in stochastic mode 4, and no other generator moves (R92). -/
def drawn (s : State) (mode : Nat) : Vector (BitVec 32) 257 :=
  if mode = 4 then s.hart.sc.gens.set 0 (nextDraw s.hart.sc.gens[0]) else s.hart.sc.gens

/-- A scalar floating-point word that has written `w` to xd, accrued the flags `fl` and left the generators as `g`. -/
def fpAnswered (s : State) (d : Reg) (w : Word) (fl : BitVec 5) (g : Vector (BitVec 32) 257) : State :=
  let t := answered s d w
  { t with hart := { t.hart with sc := { t.hart.sc with fcsr := s.hart.sc.fcsr ||| fl.setWidth 8, gens := g } } }

/-- The scalar floating-point words that round, with their destination and rounding field. -/
def roundingWord : Instr → Option (Reg × Fin 8)
  | .fadd o | .fsub o | .fmul o | .fdiv o => some (o.d, o.rm)
  | .fsqrt o => some (o.d, o.rm)
  | .fcvt o | .fcvti o | .fcvtf o => some (o.d, o.rm)
  | .fma o => some (o.d, o.rm)
  | _ => none

/-- The operand of a format in an x register (R13, R108). -/
def operand (s : State) (fmt : Fin 4) (r : Reg) : FVal := (fmtOf fmt.val).decode 2 ((reg s r).toNat % 2 ^ (fmtOf fmt.val).width)

/-- The number that a value stands for; a NaN stands for none. -/
noncomputable def number : FVal → Option EReal
  | .nan _ => none
  | .inf neg => some (if neg then ⊥ else ⊤)
  | .fin neg m e => some (((if neg then -(m : ℝ) else (m : ℝ)) * (2 : ℝ) ^ e : ℝ) : EReal)

/-- The number of a finite value. -/
noncomputable def finite : FVal → Option ℝ
  | .fin neg m e => some ((if neg then -(m : ℝ) else (m : ℝ)) * (2 : ℝ) ^ e)
  | _ => none

/-- The numbers that a format holds under a NaN mode. -/
def Holds (f : Fmt) (nan : Nat) (z : ℝ) : Prop := ∃ c < 2 ^ f.width, finite (f.decode nan c) = some z

/-- `lo` is the number nearest to `x` on the side of zero among those that `F` holds (R87). -/
def Inner (F : ℝ → Prop) (x lo : ℝ) : Prop := F lo ∧ 0 ≤ x * lo ∧ |lo| ≤ |x| ∧ ∀ z, F z → 0 ≤ x * z → |z| ≤ |x| → |z| ≤ |lo|

/-- `hi` is the next number away from zero (R87). -/
def Outer (F : ℝ → Prop) (x hi : ℝ) : Prop := F hi ∧ 0 ≤ x * hi ∧ |x| < |hi| ∧ ∀ z, F z → 0 ≤ x * z → |x| < |z| → |hi| ≤ |z|

/-- `y` is the number among those that `F` holds which a rounding mode chooses for `x` (R87); `even` says that the least significant bit of `y`
is 0. -/
def Chosen (F : ℝ → Prop) (even : Prop) (mode draw : Nat) (x y : ℝ) : Prop :=
  match mode with
  | 0 => F y ∧ (∀ z, F z → |x - y| ≤ |x - z|) ∧ ((∃ z, F z ∧ z ≠ y ∧ |x - z| = |x - y|) → even)
  | 1 => Inner F x y
  | 2 => F y ∧ y ≤ x ∧ ∀ z, F z → z ≤ x → z ≤ y
  | 3 => F y ∧ x ≤ y ∧ ∀ z, F z → x ≤ z → y ≤ z
  | _ => ∃ lo, Inner F x lo ∧ (x = lo → y = lo)
      ∧ (x ≠ lo → ∃ hi, Outer F x hi ∧ y = if (draw : Int) < ⌊2 ^ 32 * (x - lo) / (hi - lo)⌋ then hi else lo)

/-- The code `c` and the flags `fl` are what the number `x`, no larger than the format's largest, gives when it is rounded into the format (R87,
R89): NX where the number changes, and UF where it also lies below the smallest normal. -/
def Rounds (f : Fmt) (nan mode draw : Nat) (x : ℝ) (negZero : Bool) (c fl : Nat) : Prop :=
  c < 2 ^ f.width ∧ (f.decode nan c).isNeg = (if x = 0 then negZero else decide (x < 0))
  ∧ ∃ y, finite (f.decode nan c) = some y ∧ Chosen (Holds f nan) (c % 2 = 0) mode draw x y
    ∧ fl = if x = y then 0 else if |x| < (2 : ℝ) ^ (1 - (f.bias : Int)) then 3 else 1

/-- A zero of either sign. -/
def isZero : FVal → Bool
  | .fin _ m _ => m == 0
  | _ => false

/-- The sign of an exact zero sum of two addends (R77). -/
def zeroSum (mode : Nat) (a b : FVal) : Bool := if isZero a && isZero b && a.isNeg == b.isNeg then a.isNeg else mode == 2

/-- What a word with two operands computes, where both are finite: its format, rounding field, destination, exact result, and the sign that a
zero result takes. -/
noncomputable def exact2 (s : State) (o : OpFp3) (g : ℝ → ℝ → Option ℝ) (z : FVal → FVal → Bool) : Option (Fmt × Fin 8 × Reg × ℝ × Bool) :=
  let a := operand s o.fmt o.s1
  let b := operand s o.fmt o.s2
  match finite a, finite b with
  | some x, some y => (g x y).map fun r => (fmtOf o.fmt.val, o.rm, o.d, r, z a b)
  | _, _ => none

/-- The integer that FCVTF reads: type 0 U32, 1 S32, 2 U64, 3 S64 (R113). -/
def integer (ty : Fin 4) (w : Word) : Int :=
  let n := if 2 ≤ ty.val then 64 else 32
  if ty.val % 2 = 1 then field n (w.toNat % 2 ^ n) else ((w.toNat % 2 ^ n : Nat) : Int)

/-- The exact results of the scalar words that round into a format, where their operands are finite (R109, R112 to R114). -/
noncomputable def exactOf (s : State) : Instr → Option (Fmt × Fin 8 × Reg × ℝ × Bool)
  | .fadd o => exact2 s o (fun a b => some (a + b)) (zeroSum (modeOf s o.rm))
  | .fsub o => exact2 s o (fun a b => some (a - b)) (fun a b => zeroSum (modeOf s o.rm) a b.neg)
  | .fmul o => exact2 s o (fun a b => some (a * b)) (fun a b => a.isNeg != b.isNeg)
  | .fdiv o => exact2 s o (fun a b => if b = 0 then none else some (a / b)) (fun a b => a.isNeg != b.isNeg)
  | .fsqrt o => match finite (operand s o.fmt o.s1) with
    | some a => if a < 0 then none else some (fmtOf o.fmt.val, o.rm, o.d, Real.sqrt a, (operand s o.fmt o.s1).isNeg)
    | none => none
  | .fma o =>
    let a := operand s o.fmt o.s1
    let b := operand s o.fmt o.s2
    let c := operand s o.fmt o.s3
    match finite a, finite b, finite c with
    | some x, some y, some z => some (fmtOf o.fmt.val, o.rm, o.d, x * y + z,
        if (isZero a || isZero b) && isZero c && (a.isNeg != b.isNeg) == c.isNeg then c.isNeg else modeOf s o.rm == 2)
    | _, _, _ => none
  | .fcvt o => (finite (operand s o.fmt o.s1)).map fun a => (fmtOf o.ty.val, o.rm, o.d, a, (operand s o.fmt o.s1).isNeg)
  | .fcvtf o => some (fmtOf o.fmt.val, o.rm, o.d, (integer o.ty (reg s o.s1) : ℝ), false)
  | _ => none

/-- A NaN, and a signalling one. -/
def isNaN : FVal → Bool
  | .nan _ => true
  | _ => false
def signal : FVal → Bool
  | .nan sig => sig
  | _ => false

/-- What operands that are not all finite, or two zeros to divide, give without any rounding: the value, and whether the operation is invalid (R77,
R88, R93, R109, R114). A sum, a product, a quotient: -/
def sumLimit (a b : FVal) : Option (FVal × Bool) :=
  if isNaN a || isNaN b then some (.nan false, signal a || signal b)
  else match a, b with
    | .inf m, .inf n => some (if m = n then (.inf m, false) else (.nan false, true))
    | .inf m, _ => some (.inf m, false)
    | _, .inf n => some (.inf n, false)
    | _, _ => none
def productLimit (a b : FVal) : Option (FVal × Bool) :=
  if isNaN a || isNaN b then some (.nan false, signal a || signal b)
  else match a, b with
    | .inf m, b => some (if isZero b then (.nan false, true) else (.inf (m != b.isNeg), false))
    | a, .inf n => some (if isZero a then (.nan false, true) else (.inf (a.isNeg != n), false))
    | _, _ => none
def quotientLimit (a b : FVal) : Option (FVal × Bool) :=
  if isNaN a || isNaN b then some (.nan false, signal a || signal b)
  else match a, b with
    | .inf _, .inf _ => some (.nan false, true)
    | .inf m, b => some (.inf (m != b.isNeg), false)
    | a, .inf n => some (.fin (a.isNeg != n) 0 0, false)
    | a, b => if isZero a && isZero b then some (.nan false, true) else none

/-- A fused multiply-add: 0 × Inf is invalid whatever the addend is (R77). -/
def fusedLimit (a b c : FVal) : Option (FVal × Bool) :=
  match productLimit a b with
  | some (.nan _, true) => some (.nan false, true)
  | some (p, _) => sumLimit p c
  | none => if isNaN c then some (.nan false, signal c) else match c with
    | .inf n => some (.inf n, false)
    | _ => none

/-- A square root, and a conversion between formats. -/
def rootLimit : FVal → Option (FVal × Bool)
  | .nan sig => some (.nan false, sig)
  | .inf neg => some (if neg then (.nan false, true) else (.inf false, false))
  | _ => none
def sameLimit : FVal → Option (FVal × Bool)
  | .nan sig => some (.nan false, sig)
  | .inf neg => some (.inf neg, false)
  | _ => none

/-- What a scalar word delivers of such operands: its format, rounding field, destination, the value, and whether NV is raised. -/
def limitOf (s : State) (i : Instr) : Option (Fmt × Fin 8 × Reg × FVal × Bool) :=
  let at3 := fun (o : OpFp3) (g : FVal → FVal → Option (FVal × Bool)) =>
    (g (operand s o.fmt o.s1) (operand s o.fmt o.s2)).map fun v => (fmtOf o.fmt.val, o.rm, o.d, v)
  match i with
  | .fadd o => at3 o sumLimit
  | .fsub o => at3 o fun a b => sumLimit a b.neg
  | .fmul o => at3 o productLimit
  | .fdiv o => at3 o quotientLimit
  | .fsqrt o => (rootLimit (operand s o.fmt o.s1)).map fun v => (fmtOf o.fmt.val, o.rm, o.d, v)
  | .fma o => (fusedLimit (operand s o.fmt o.s1) (operand s o.fmt o.s2) (operand s o.fmt o.s3)).map fun v => (fmtOf o.fmt.val, o.rm, o.d, v)
  | .fcvt o => (sameLimit (operand s o.fmt o.s1)).map fun v => (fmtOf o.ty.val, o.rm, o.d, v)
  | _ => none

/-- The code `c` is the format's own of a value that is NaN, infinite or zero: the canonical NaN, or the one of that sign (R76, R77). -/
def IsCode (f : Fmt) (v : FVal) (c : Nat) : Prop :=
  c < 2 ^ f.width ∧ match v with
    | .nan _ => c = f.nanCode
    | .inf neg => f.decode 2 c = .inf neg
    | .fin neg _ _ => isZero (f.decode 2 c) = true ∧ (f.decode 2 c).isNeg = neg

/-- What FCMP's conditions hold on (R111). -/
def compares (cond : Fin 8) (a b : FVal) : Prop :=
  match cond.val with
  | 0 => ∃ x y, number a = some x ∧ number b = some y ∧ x = y
  | 1 => ∃ x y, number a = some x ∧ number b = some y ∧ x < y
  | 2 => ∃ x y, number a = some x ∧ number b = some y ∧ x ≤ y
  | _ => number a = none ∨ number b = none

/-- A signalling NaN. -/
def signals (v : FVal) : Prop := v = .nan true

/-! ### Scalar memory -/

/-- The address of a scalar access of `n` bytes with an 8-bit offset in units of `n` (R36, R115). -/
def address (s : State) (r : Reg) (off n : Nat) : Nat := (reg s r + BitVec.ofInt 64 (field 8 off * n)).toNat

/-- The little-endian value of `n` bytes at home, each as a read finds it (R9). -/
def valueAt (s : State) (pa : Nat) : Nat → Nat
  | 0 => 0
  | n + 1 => (s.homeByte pa).toNat + 256 * valueAt s (pa + 1) n

/-- The sign extension of the low `8 n` bits of a value. -/
def extended (n v : Nat) : Word := BitVec.ofInt 64 (if v % 256 ^ n < 256 ^ n / 2 then (v % 256 ^ n : Int) else (v % 256 ^ n : Int) - (256 ^ n : Nat))

/-- A hart's aligned access of `n` bytes to its core's scratchpad window (R202). -/
abbrev inPad (s : State) (va n : Nat) : Prop := s.hart.ctl = false ∧ 0xFFFFFFFFA0000 ≤ va ∧ va % n = 0 ∧ va < 2 ^ 52

/-- Where the scratchpad byte of a window address of the hart that executes stands. -/
def padByte (s : State) (va : Nat) : Nat := 2 ^ 52 + s.hart.coreId * 2 ^ 19 + (va - 0xFFFFFFFFA0000)

/-- A byte as the hart that executes finds it with a load of class N: in its scalar cache, else in its core's vector data cache, else at home
(R209, R217). -/
def seen (s : State) (pa : Nat) : Nat :=
  match s.hart.scache.find? (fun l => l.line == pa / 64) with
  | some l => (l.data.toNat / 256 ^ (pa % 64)) % 256
  | none => match s.vdc.find? (fun l => l.core == s.hart.coreId && l.line == pa / 64) with
    | some l => (l.data.toNat / 256 ^ (pa % 64)) % 256
    | none => (s.homeByte pa).toNat

/-- The vector data caches hold the same lines, but for the note of which harts have read them (log 86). -/
def sameLines (t s : State) : Prop := t.vdc.map (fun l => { l with seen := 0 }) = s.vdc.map (fun l => { l with seen := 0 })

/-- The scalar half but for the monitor, which a store of the hart itself may fire (R258). -/
def quiet (c : Scalar) : Scalar := { c with monitor := none }

/-- The operations of AMO on `n` bytes (R118). -/
def amoResult (aop : Fin 8) (n old b : Nat) : Nat :=
  let sgn := fun (v : Nat) => if v < 256 ^ n / 2 then (v : Int) else (v : Int) - (256 ^ n : Nat)
  match aop.val with
  | 0 => b
  | 1 => (old + b) % 256 ^ n
  | 2 => old &&& b
  | 3 => old ||| b
  | 4 => old ^^^ b
  | 5 => if sgn old ≤ sgn b then old else b
  | _ => if sgn old ≤ sgn b then b else old

/-- The release part that an ord code names (R34). -/
def released (s : State) (ord : Fin 4) (scope : Fin 8) (va : Nat) : State :=
  if ord.val = 2 ∨ ord.val = 3 then s.release (clipScope va scope.val) else s

/-- The acquire part that an ord code names (R34). -/
def acquired (s : State) (ord : Fin 4) (scope : Fin 8) (va : Nat) : State :=
  if ord.val = 1 ∨ ord.val = 3 then s.acquire (clipScope va scope.val) else s

/-- An indivisible update at a located place: release part, update, the page's block collected where the page is of KIND SWM, acquire part, and
the old value in xd (R118, R216). -/
def updatedAt (s : State) (ord : Fin 4) (scope : Fin 8) (va pa pte n : Nat) (d : Reg) (f : Nat → Nat) : State :=
  let r := (released s ord scope va).update pa n f
  let c := if Pte.kind pte = 1 then r.1.collect r.1.hart.coreId r.1.hart.asid va else r.1
  answered (acquired c ord scope va) d (extended n r.2)

/-- A hart's indivisible update of `n` bytes of its window at `va`: `xd` takes the sign-extended old value, the bytes take the value `new` where
there is one, and nothing else changes but monitors. That the scalar cache holds no byte of the scratchpad is the model's choice (log 51). -/
def updatedPad (s : State) (va n : Nat) (d : Reg) (new : Option Nat) (t : State) : Prop :=
  t.hart.sc.x = regs s d (extended n (valueAt s (padByte s va) n))
  ∧ quiet t.hart.sc = quiet (answered s d (extended n (valueAt s (padByte s va) n))).hart.sc
  ∧ t.hart.ep = s.hart.ep ∧ t.hart.scache = s.hart.scache ∧ t.vdc = s.vdc
  ∧ valueAt t (padByte s va) n = new.getD (valueAt s (padByte s va) n)
  ∧ ∀ a, a < padByte s va ∨ padByte s va + n ≤ a → t.homeByte a = s.homeByte a

end Sys2Proof.Stated

/-! ### Scalar floating-point words -/

/-- R108, R22, R92, R25: every scalar word that rounds always retires; it writes only xd, sets FCSR flags and clears none, and draws once from
generator 0 exactly in stochastic mode. -/
def Obligations.ScalarFpFrames : Prop :=
  ∀ (i : Instr) (d : Reg) (rm : Fin 8) (s : State), Stated.roundingWord i = some (d, rm) →
    ∃ (w : Word) (fl : BitVec 5), exec i s = .next (Stated.fpAnswered s d w fl (Stated.drawn s (Stated.modeOf s rm)))

/-- R111: FCMP writes 1 exactly where its condition holds of the numbers, and raises NV for a signalling NaN, or for any NaN under LT and LE;
it raises no other flag and draws nothing. -/
def Sys2Proof.Stated.FcmpResults : Prop :=
  ∀ (o : OpFpCmp) (s : State), o.cond.val ≤ 3 →
    let a := Stated.operand s o.fmt o.s1
    let b := Stated.operand s o.fmt o.s2
    ∃ (w : Word) (fl : BitVec 5), exec (.fcmp o) s = .next (Stated.fpAnswered s o.d w fl s.hart.sc.gens)
      ∧ (w = 1 ∧ Stated.compares o.cond a b ∨ w = 0 ∧ ¬ Stated.compares o.cond a b)
      ∧ (fl = 16 ∧ (Stated.signals a ∨ Stated.signals b ∨ ((o.cond.val = 1 ∨ o.cond.val = 2) ∧ (Stated.number a = none ∨ Stated.number b = none)))
        ∨ fl = 0 ∧ ¬(Stated.signals a ∨ Stated.signals b ∨ ((o.cond.val = 1 ∨ o.cond.val = 2) ∧ (Stated.number a = none ∨ Stated.number b = none))))

/-- R110: FMIN and FMAX return one of their operands unrounded: the numeric one beside a NaN, the smaller or larger of two numbers with −0 below
+0 (two equal ones have one pattern, which is returned), and the canonical NaN for two NaNs; only a signalling NaN raises a flag. -/
def Sys2Proof.Stated.FminFmaxResults : Prop :=
  ∀ (o : OpFpMin) (s : State),
    let f := fmtOf o.fmt.val
    let x := (Stated.reg s o.s1).toNat % 2 ^ f.width
    let y := (Stated.reg s o.s2).toNat % 2 ^ f.width
    let a := f.decode 2 x
    let b := f.decode 2 y
    ∃ (lo hi : Nat) (fl : BitVec 5),
      exec (.fmin o) s = .next (Stated.fpAnswered s o.d (BitVec.ofNat 64 lo) fl s.hart.sc.gens)
      ∧ exec (.fmax o) s = .next (Stated.fpAnswered s o.d (BitVec.ofNat 64 hi) fl s.hart.sc.gens)
      ∧ (fl = 16 ∧ (Stated.signals a ∨ Stated.signals b) ∨ fl = 0 ∧ ¬(Stated.signals a ∨ Stated.signals b))
      ∧ (Stated.number a = none → Stated.number b = none → lo = f.nanCode ∧ hi = f.nanCode)
      ∧ (Stated.number a = none → Stated.number b ≠ none → lo = y ∧ hi = y)
      ∧ (Stated.number a ≠ none → Stated.number b = none → lo = x ∧ hi = x)
      ∧ (∀ p q, Stated.number a = some p → Stated.number b = some q →
          (p < q → lo = x ∧ hi = y) ∧ (q < p → lo = y ∧ hi = x)
          ∧ (p = q → a.isNeg = true → b.isNeg = false → lo = x ∧ hi = y) ∧ (p = q → a.isNeg = false → b.isNeg = true → lo = y ∧ hi = x)
          ∧ (p = q → a.isNeg = b.isNeg → lo = x ∧ hi = x ∧ x = y))

/-- FCMP, FMIN and FMAX always retire with their results and flags (R110, R111). -/
def Obligations.FcompareResults : Prop := Stated.FcmpResults ∧ Stated.FminFmaxResults

/-- R87, R88, R109: where the exact sum, difference or product of two finite operands is a nonzero number that the format holds, FADD, FSUB and
FMUL deliver that number in every rounding mode and raise no flag. -/
def Sys2Proof.Stated.DeliveredExactly : Prop :=
  ∀ (row : (OpFp3 → Instr) × (ℝ → ℝ → ℝ)),
    row ∈ [((.fadd : OpFp3 → Instr), fun a b => a + b), (.fsub, fun a b => a - b), (.fmul, fun a b => a * b)] →
  ∀ (o : OpFp3) (s : State) (a b : ℝ) (c : Nat),
    let f := fmtOf o.fmt.val
    Stated.finite (Stated.operand s o.fmt o.s1) = some a → Stated.finite (Stated.operand s o.fmt o.s2) = some b →
    row.2 a b ≠ 0 → c < 2 ^ f.width → Stated.finite (f.decode 2 c) = some (row.2 a b) →
    exec (row.1 o) s = .next (Stated.fpAnswered s o.d (BitVec.ofNat 64 c) 0 (Stated.drawn s (Stated.modeOf s o.rm)))

/-- R87, R89, R93, R108, R109, R112, R113, R114: FADD, FSUB, FMUL, FDIV, FSQRT, FMA, FCVT and FCVTF of finite operands deliver their exact result
rounded once by the mode in force, where it is no larger than the format's largest number: to nearest with ties to even, toward zero, down, up, or
by the one draw of stochastic mode against the fraction; a zero result has the sign that R77 gives it, and the flags say whether the number
changed. -/
def Sys2Proof.Stated.ResultsAreRounded : Prop :=
  ∀ (i : Instr) (s : State) (f : Fmt) (rm : Fin 8) (d : Reg) (x : ℝ) (z : Bool),
    Stated.exactOf s i = some (f, rm, d, x, z) → Stated.modeOf s rm ≤ 4 → (∃ y, Stated.Holds f 2 y ∧ |x| ≤ y) →
    ∃ c fl, Stated.Rounds f 2 (Stated.modeOf s rm) (Stated.nextDraw s.hart.sc.gens[0]).toNat x z c fl
      ∧ exec i s = .next (Stated.fpAnswered s d (BitVec.ofNat 64 c) (BitVec.ofNat 5 fl) (Stated.drawn s (Stated.modeOf s rm)))

/-- R87, R88, R77, R109, R114: past the largest number a result overflows with OF and NX, to infinity or to the largest number as its mode and sign
say; between that number and the one that would follow it the mode, or the draw, chooses which of the two it is. Operands that are not all finite
give what IEEE 754 says of them, NaN of a NaN, with NV where one signals, infinities, zeros, and NaN with NV of what is invalid, 0/0 too; a nonzero
number divided by zero gives an infinity of the product's sign with DZ; the root of a number below zero is invalid. -/
def Sys2Proof.Stated.SpecialResults : Prop :=
  (∀ (i : Instr) (s : State) (f : Fmt) (rm : Fin 8) (d : Reg) (x : ℝ) (z : Bool),
    Stated.exactOf s i = some (f, rm, d, x, z) → Stated.modeOf s rm ≤ 4 → (2 : ℝ) ^ (f.bias + 1) ≤ |x| →
    ∃ c, f.decode 2 c = (if Stated.modeOf s rm = 1 ∨ Stated.modeOf s rm = 2 ∧ 0 < x ∨ Stated.modeOf s rm = 3 ∧ x < 0
          then .fin (decide (x < 0)) (2 ^ (f.p + 1) - 1) ((f.bias : Int) - f.p) else .inf (decide (x < 0)))
      ∧ c < 2 ^ f.width
      ∧ exec i s = .next (Stated.fpAnswered s d (BitVec.ofNat 64 c) 5 (Stated.drawn s (Stated.modeOf s rm))))
  ∧ (∀ (i : Instr) (s : State) (f : Fmt) (rm : Fin 8) (d : Reg) (x : ℝ) (z : Bool),
    let most := (2 : ℝ) ^ (f.bias + 1) - (2 : ℝ) ^ ((f.bias : Int) - f.p)
    let next := (2 : ℝ) ^ (f.bias + 1)
    Stated.exactOf s i = some (f, rm, d, x, z) → Stated.modeOf s rm ≤ 4 → most < |x| → |x| < next →
    let up := match Stated.modeOf s rm with
      | 0 => most + next ≤ 2 * |x|
      | 1 => False
      | 2 => x < 0
      | 3 => 0 < x
      | _ => ((Stated.nextDraw s.hart.sc.gens[0]).toNat : Int) < ⌊2 ^ 32 * (|x| - most) / (next - most)⌋
    ∃ c fl, c < 2 ^ f.width ∧ (up → f.decode 2 c = .inf (decide (x < 0)) ∧ fl = 5)
      ∧ (¬ up → Stated.finite (f.decode 2 c) = some (if x < 0 then -most else most) ∧ fl = 1)
      ∧ exec i s = .next (Stated.fpAnswered s d (BitVec.ofNat 64 c) fl (Stated.drawn s (Stated.modeOf s rm))))
  ∧ (∀ (i : Instr) (s : State) (f : Fmt) (rm : Fin 8) (d : Reg) (v : FVal) (nv : Bool), Stated.limitOf s i = some (f, rm, d, v, nv) →
    ∃ c, Stated.IsCode f v c
      ∧ exec i s = .next (Stated.fpAnswered s d (BitVec.ofNat 64 c) (if nv then 16 else 0) (Stated.drawn s (Stated.modeOf s rm))))
  ∧ (∀ (o : OpFp3) (s : State) (x : ℝ),
    Stated.finite (Stated.operand s o.fmt o.s1) = some x → x ≠ 0 → Stated.finite (Stated.operand s o.fmt o.s2) = some 0 →
    ∃ c < 2 ^ (fmtOf o.fmt.val).width,
      (fmtOf o.fmt.val).decode 2 c = .inf ((Stated.operand s o.fmt o.s1).isNeg != (Stated.operand s o.fmt o.s2).isNeg)
      ∧ exec (.fdiv o) s = .next (Stated.fpAnswered s o.d (BitVec.ofNat 64 c) 8 (Stated.drawn s (Stated.modeOf s o.rm))))
  ∧ (∀ (o : OpFp2) (s : State) (x : ℝ),
    Stated.finite (Stated.operand s o.fmt o.s1) = some x → x < 0 →
    exec (.fsqrt o) s
      = .next (Stated.fpAnswered s o.d (BitVec.ofNat 64 (fmtOf o.fmt.val).nanCode) 16 (Stated.drawn s (Stated.modeOf s o.rm))))

/-- R94, R88, R113: FCVTI rounds a finite operand to an integer by the mode in force and delivers it where its type holds it, with NX where the
number changed; beyond the type it delivers the nearer end with NV; an infinity gives an end and a NaN 0, with NV. -/
def Sys2Proof.Stated.FcvtiResults : Prop :=
  ∀ (o : OpFpCvt) (s : State), Stated.modeOf s o.rm ≤ 4 →
    let n := if 2 ≤ o.ty.val then 64 else 32
    let lo : Int := if o.ty.val % 2 = 1 then -2 ^ (n - 1) else 0
    let hi : Int := if o.ty.val % 2 = 1 then 2 ^ (n - 1) - 1 else 2 ^ n - 1
    let answer := fun (k : Int) (fl : BitVec 5) =>
      exec (.fcvti o) s = .next (Stated.fpAnswered s o.d (BitVec.ofInt 64 k) fl (Stated.drawn s (Stated.modeOf s o.rm)))
    (∀ x : ℝ, Stated.finite (Stated.operand s o.fmt o.s1) = some x →
      ∃ k : Int, Stated.Chosen (fun z => ∃ j : Int, z = j) (k % 2 = 0) (Stated.modeOf s o.rm) (Stated.nextDraw s.hart.sc.gens[0]).toNat x k
        ∧ (lo ≤ k → k ≤ hi → answer k (if x = k then 0 else 1)) ∧ (k < lo → answer lo 16) ∧ (hi < k → answer hi 16))
    ∧ (Stated.operand s o.fmt o.s1 = .inf false → answer hi 16) ∧ (Stated.operand s o.fmt o.s1 = .inf true → answer lo 16)
    ∧ (Stated.number (Stated.operand s o.fmt o.s1) = none → answer 0 16)

/-- What the scalar floating-point words deliver: exact results, rounded ones, and those beyond the numbers (R87 to R89, R109 to R114). -/
def Obligations.ExactResultsAreDelivered : Prop := Stated.DeliveredExactly ∧ Stated.ResultsAreRounded ∧ Stated.SpecialResults ∧ Stated.FcvtiResults

/-! ### Scalar memory words -/

/-- R115, R116, R40: a load that its address and translation admit completes with the value read there, sign-extended by LD and zero-extended by
LDU, after the acquire part that its ord names; the value is the model's read of the place. -/
def Sys2Proof.Stated.LoadsComplete : Prop :=
  ∀ (o : OpLd) (s s' : State) (pa pte : Nat),
    let n := 2 ^ o.width.val
    let va := Stated.address s o.s1 o.off.val n
    s.locate va n .read o.width.val = .ok s' pa pte →
    let r := s'.readLoc va pa pte n
    let t := if o.ord.val = 1 ∨ o.ord.val = 3 then r.1.acquire (clipScope va o.scope.val) else r.1
    exec (.ld o) s = .next (Stated.answered t o.d (Stated.extended n r.2))
    ∧ exec (.ldu o) s = .next (Stated.answered t o.d (BitVec.ofNat 64 r.2))

/-- R202, R203, R115, R116, R9: an aligned load of a hart from its core's scratchpad window, with no acquire part, answers the little-endian value
of the scratchpad's bytes and changes nothing but xd. That no scalar line is filled by it is the model's choice (log 51). -/
def Sys2Proof.Stated.WindowLoadsReadTheScratchpad : Prop :=
  ∀ (o : OpLd) (s : State),
    let n := 2 ^ o.width.val
    let va := Stated.address s o.s1 o.off.val n
    Stated.inPad s va n → o.ord.val = 0 →
    exec (.ld o) s = .next (Stated.answered s o.d (Stated.extended n (Stated.valueAt s (Stated.padByte s va) n)))
    ∧ exec (.ldu o) s = .next (Stated.answered s o.d (BitVec.ofNat 64 (Stated.valueAt s (Stated.padByte s va) n)))

/-- Loads complete on every location that passes its checks, and read the scratchpad through the window (R115, R202). -/
def Obligations.LoadsAnswer : Prop := Stated.LoadsComplete ∧ Stated.WindowLoadsReadTheScratchpad

/-- R117, R40: a store that its address and translation admit completes: the release part that its ord names comes first, then the low bytes of
xs2 are written at the place. -/
def Sys2Proof.Stated.StoresComplete : Prop :=
  ∀ (o : OpSt) (s s' : State) (pa pte : Nat),
    let n := 2 ^ o.width.val
    let va := Stated.address s o.s1 o.off.val n
    s.locate va n .write o.width.val = .ok s' pa pte →
    let t := if o.ord.val = 2 ∨ o.ord.val = 3 then s'.release (clipScope va o.scope.val) else s'
    exec (.st o) s = .next (Stated.passedBy (t.writeLoc va pa pte n ((Stated.reg s o.s2).toNat % 256 ^ n)))

/-- R202, R203, R117, R9: an aligned store of a hart to its core's scratchpad window, with no release part, puts the low bytes of xs2 there,
least significant first; every other byte at home, every register, every cache and the execute half stay as they are. That the
scalar cache holds no scratchpad line, and so stays, is the model's choice (log 51). -/
def Sys2Proof.Stated.WindowStoresWriteTheScratchpad : Prop :=
  ∀ (o : OpSt) (s : State),
    let n := 2 ^ o.width.val
    let va := Stated.address s o.s1 o.off.val n
    Memory.wf s.mem = true → Stated.inPad s va n → o.ord.val = 0 →
    (∀ k < n, (s.discarded.any fun e => e.1 == (Stated.padByte s va + k) / 65536 * 65536) = false) →
    ∃ t, exec (.st o) s = .next t
      ∧ Stated.quiet t.hart.sc = Stated.quiet (Stated.passedBy s).hart.sc
      ∧ t.hart.ep = s.hart.ep ∧ t.hart.scache = s.hart.scache ∧ t.vdc = s.vdc
      ∧ Stated.valueAt t (Stated.padByte s va) n = (Stated.reg s o.s2).toNat % 256 ^ n
      ∧ ∀ a, a < Stated.padByte s va ∨ Stated.padByte s va + n ≤ a → t.homeByte a = s.homeByte a

/-- R209, R210: the frame of a store to a page of class N outside SWM and the window, without a release part, whose line is in the scalar cache or
whose set has room: the bytes stored change as the hart sees them, every other byte it sees stays, every byte at home stays, and so do all
registers, the execute half and the lines of the vector data cache, but for the model's own note of which harts have read them (log 86). -/
def Sys2Proof.Stated.CachedStoreFrame : Prop :=
  ∀ (o : OpSt) (s s' : State) (pa pte : Nat),
    let n := 2 ^ o.width.val
    let va := Stated.address s o.s1 o.off.val n
    s.hart.ctl = false → s.locate va n .write o.width.val = .ok s' pa pte → o.ord.val = 0 →
    pa < 2 ^ 52 → Pte.cls pte = false → Pte.kind pte ≠ 1 →
    ((s'.hart.scache.any fun l => l.line == pa / 64) = true ∨ (s'.hart.scache.filter fun l => l.line % 128 == pa / 64 % 128).length < 8) →
    ∃ t, exec (.st o) s = .next t
      ∧ (∀ k < n, Stated.seen t (pa + k) = (Stated.reg s o.s2).toNat / 256 ^ k % 256)
      ∧ (∀ a, a < pa ∨ pa + n ≤ a → Stated.seen t a = Stated.seen s' a)
      ∧ t.mem = s'.mem ∧ Stated.sameLines t s' ∧ t.hart.sc = (Stated.passedBy s').hart.sc ∧ t.hart.ep = s'.hart.ep ∧ t.others = s'.others

/-- Stores complete on every location that passes its checks and write their bytes alone (R116, R202, R209). -/
def Obligations.StoresWrite : Prop := Stated.StoresComplete ∧ Stated.WindowStoresWriteTheScratchpad ∧ Stated.CachedStoreFrame

/-- R16, R209: a hart's store is seen by its own next load of the same place: reading the stored bytes right after a store, by way of the scalar
cache, of the window or at home, gives the value stored. The place is not a pot's, and tier 3
has not been revoked there. -/
def Obligations.StoreThenLoad : Prop :=
  ∀ (o : OpSt) (s s' t : State) (pa pte : Nat),
    let n := 2 ^ o.width.val
    let va := Stated.address s o.s1 o.off.val n
    Memory.wf s.mem = true → s.hart.ctl = false → s.locate va n .write o.width.val = .ok s' pa pte → o.ord.val = 0 →
    s'.isPot pa = false → (∀ k < n, revokedAt s' (pa + k) = false) → (pa < 2 ^ 52 ∨ s'.discarded = []) →
    exec (.st o) s = .next t → (t.readLoc va pa pte n).2 = (Stated.reg s o.s2).toNat % 256 ^ n

/-- R118, R115: an AMO that its address and translation admit completes: release part, indivisible update, acquire part, and the old value
sign-extended in xd; a write to an SWM page is collected. -/
def Sys2Proof.Stated.AmoCompletes : Prop :=
  ∀ (o : OpAmo) (s s' : State) (pa pte : Nat),
    let n := 2 ^ o.width.val
    let va := (Stated.reg s o.s1).toNat
    o.aop.val ≠ 7 → s.locate va n .rmw o.width.val = .ok s' pa pte →
    exec (.amo o) s = .next (Stated.updatedAt s' o.ord o.scope va pa pte n o.d
      (fun old => Stated.amoResult o.aop n old ((Stated.reg s o.s2).toNat % 256 ^ n)))

/-- R119, R115: a CAS that its address and translation admit compares the value at the place's home. Where it is xd's, and still is after the
release part, the CAS updates the place as an AMO does; where it is not, the CAS is a load, whose acquire part alone acts. That its page is checked
as one that is read until the comparison succeeds is the model's choice (log 52). -/
def Sys2Proof.Stated.CasCompletes : Prop :=
  ∀ (o : OpCas) (s s' : State) (pa pte : Nat),
    let n := 2 ^ o.width.val
    let va := (Stated.reg s o.s1).toNat
    s.locate va n .read o.width.val = .ok s' pa pte →
    let r := s'.homeRead pa n
    (r.2 ≠ (Stated.reg s o.d).toNat % 256 ^ n →
      exec (.cas o) s = .next (Stated.answered (Stated.acquired r.1 o.ord o.scope va) o.d (Stated.extended n r.2)))
    ∧ (r.2 = (Stated.reg s o.d).toNat % 256 ^ n → ∀ (u : State) (qa qte : Nat), r.1.locate va n .rmw o.width.val = .ok u qa qte →
      let w := (Stated.released u o.ord o.scope va).homeRead qa n
      (w.2 = (Stated.reg s o.d).toNat % 256 ^ n →
        exec (.cas o) s = .next (Stated.updatedAt u o.ord o.scope va qa qte n o.d (fun _ => (Stated.reg s o.s2).toNat % 256 ^ n)))
      ∧ (w.2 ≠ (Stated.reg s o.d).toNat % 256 ^ n →
        exec (.cas o) s = .next (Stated.answered (Stated.acquired w.1 o.ord o.scope va) o.d (Stated.extended n w.2))))

/-- R118, R119, R202: an AMO or CAS of a hart on its scratchpad window, without ordering parts, reads the old value, writes the operation's result
(CAS only where the old value is xd's), and changes no other byte. That the scalar cache stays as it is is the model's choice (log 51). -/
def Sys2Proof.Stated.AtomicsInTheWindow : Prop :=
  ∀ (s : State) (va n : Nat) (width : Fin 4), n = 2 ^ width.val → Memory.wf s.mem = true → Stated.inPad s va n →
    (∀ k < n, (s.discarded.any fun e => e.1 == (Stated.padByte s va + k) / 65536 * 65536) = false) →
    (∀ o : OpAmo, o.width = width → o.ord.val = 0 → o.aop.val ≠ 7 → va = (Stated.reg s o.s1).toNat →
      ∃ t, exec (.amo o) s = .next t
        ∧ Stated.updatedPad s va n o.d
            (some (Stated.amoResult o.aop n (Stated.valueAt s (Stated.padByte s va) n) ((Stated.reg s o.s2).toNat % 256 ^ n))) t)
    ∧ (∀ o : OpCas, o.width = width → o.ord.val = 0 → va = (Stated.reg s o.s1).toNat →
      ∃ t, exec (.cas o) s = .next t
        ∧ Stated.updatedPad s va n o.d
            (if Stated.valueAt s (Stated.padByte s va) n = (Stated.reg s o.d).toNat % 256 ^ n then some ((Stated.reg s o.s2).toNat % 256 ^ n)
             else none) t)

/-- AMO and CAS complete, and update the scratchpad indivisibly (R118, R119). -/
def Obligations.AtomicsUpdate : Prop := Stated.AmoCompletes ∧ Stated.CasCompletes ∧ Stated.AtomicsInTheWindow

namespace Sys2Proof.Stated

open Sys2Proof.Machine

/-! ### Traps -/

/-- The scalar half with the three trap CSRs written (R25). That a trap always uses up an armed VSTART, be it at a failed fetch or an illegal word,
is the model's choice (log 37). -/
def trapped (s : State) (t : Trap) : Scalar :=
  { s.hart.sc with tcause := BitVec.ofNat 8 t.cause, tpc := s.hart.sc.pc, tval := BitVec.ofNat 64 t.tval, vstartArmed := false }

/-- The hart that executes with another scalar half, in a status, waiting or not, and in no MWAIT. -/
def withScalar (s : State) (status : HartStatus) (waits : Bool) (c : Scalar) : State :=
  { s with hart := { s.hart with status := status, waiting := waits, mwait := none, sc := c } }

/-- The trap is delivered to the hart's own handler (R328, R330): one of the three causes that can be delegated, its TDELEG bit, no handler active. -/
abbrev delegates (s : State) (t : Trap) : Prop :=
  (t.cause = 1 ∨ t.cause = 7 ∨ t.cause = 8) ∧ s.hart.sc.tdeleg.getLsbD t.cause = true ∧ s.hart.sc.uiActive = false

/-- x24 to x31 have changed places with their shadow copies, and the other registers have not (R308). -/
def swapped (c d : Scalar) : Prop :=
  (∀ i (h : i < 24), d.x[i] = c.x[i]) ∧ (∀ i (h : i < 8), d.x[24 + i] = c.shadow[i] ∧ d.shadow[i] = c.x[24 + i])

/-- The fields of a hart's fault record (R336): byte offsets, sizes and values. -/
def recordFields (s : State) (t : Trap) : List (Nat × Nat × Nat) :=
  [(0, 1, t.cause), (1, 1, 0), (2, 1, t.access), (3, 1, 0), (4, 4, s.hart.asid * 65536 + s.hart.loc), (8, 8, s.hart.sc.pc.toNat), (16, 8, t.tval),
   (24, 4, t.elem), (28, 4, s.hart.sc.lend.toNat), (32, 8, t.base), (40, 8, t.stride), (48, 8, t.remain), (56, 4, 0), (60, 4, 0)]

/-- Every value of a list of fields fits its size. -/
abbrev fits (fs : List (Nat × Nat × Nat)) : Prop := ∀ f ∈ fs, f.2.2 < 256 ^ f.2.1

/-- The bytes hold the fields, little-endian. -/
abbrev holds (r : List Byte) (fs : List (Nat × Nat × Nat)) : Prop := ∀ f ∈ fs, fieldAt r f.1 f.2.1 = f.2.2

/-! ### Checks of scalar accesses -/

/-- The scalar accesses (R115, R258, R336): address, bytes, what the access does, and its width code. A CAS is first checked as a read (log 52). -/
def accessOf (s : State) : Instr → Option (Nat × Nat × Kind × Nat)
  | .ld o | .ldu o => some (address s o.s1 o.off.val (2 ^ o.width.val), 2 ^ o.width.val, .read, o.width.val)
  | .st o => some (address s o.s1 o.off.val (2 ^ o.width.val), 2 ^ o.width.val, .write, o.width.val)
  | .amo o => some ((reg s o.s1).toNat, 2 ^ o.width.val, .rmw, o.width.val)
  | .cas o => some ((reg s o.s1).toNat, 2 ^ o.width.val, .read, o.width.val)
  | .mwatchld o => some ((reg s o.s1).toNat, 8, .read, 3)
  | _ => none

/-- The object words (R248, R257, R336): address, what the access does, its width code, and the object's own fault. STRIP names its farm's pot. -/
def objectOf (s : State) : Instr → Option (Nat × Kind × Nat × Nat)
  | .pottake o | .pottakeq o | .potgive o => some ((reg s o.s1).toNat, .rmw, 3, 0x17)
  | .potreadx o => some ((reg s o.s1).toNat, .rmw, 3, 0x17)
  | .potinit o => some ((reg s o.s1).toNat, .rmw, 3, 0x17)
  | .potread o => some ((reg s o.s1).toNat, .read, 3, 0x17)
  | .strip _ => if s.hart.ctl = true then none else match s.farmHere with
    | some f => if f.pot = 0 then none else some (f.pot, .rmw, 3, 0x17)
    | none => none
  | .barrive o => some ((reg s o.s1).toNat, .rmw, 2, 0x18)
  | .barexp o => some ((reg s o.s1).toNat, .rmw, 2, 0x18)
  | .barwait o => some ((reg s o.s1).toNat, .read, 2, 0x18)
  | _ => none

/-- The trap of a failed check, with its address in TVAL and bit 7 of ACCESS for a page of class D (R326, R336). -/
def accessTrap (va : Nat) (k : Kind) (width cause : Nat) (dev : Bool) : Trap :=
  { cause := cause, tval := va, access := k.code + 4 * width + if dev = true then 128 else 0 }

/-- An entry that R208, R205 or R350 refuses. -/
def malformedEntry (s : State) (e : Nat) (big : Bool) : Prop :=
  let bit := fun i => e / 2 ^ i % 2 = 1
  let frame := e / 65536 % 2 ^ 36 * 65536
  let kind := e / 2 ^ 57 % 4
  let reg := frame / 2 ^ 48 % 16
  bit 63 ∨ e / 2 ^ 52 % 16 ≠ 0 ∨ e / 256 % 256 ≠ 0 ∨ bit 1 ∨ (bit 3 ∧ ¬ bit 2) ∨ (2 ≤ kind ∧ reg ≠ 0)
  ∨ (bit 59 ∧ (bit 56 ∨ kind = 3 ∨ big = true)) ∨ (¬ bit 56 ∧ reg = 4) ∨ (bit 60 ∧ bit 0) ∨ (big = true ∧ e / 65536 % 8192 ≠ 0)
  ∨ installed s frame = false ∨ (big = true ∧ installed s (frame + 0x1FFF0000) = false)
  ∨ (1 ≤ reg ∧ reg ≤ 3 ∧ s.ctx.features.getLsbD reg = false)

/-- The entry does not permit a hart's access (R343, R372). -/
def forbidden (e : Nat) (k : Kind) : Prop :=
  let bit := fun i => e / 2 ^ i % 2 = 1
  ¬ bit 5 ∨ e / 2 ^ 48 % 16 = 4 ∨ match k with
    | .fetch => ¬ bit 4
    | .read => ¬ bit 2
    | .write => ¬ bit 3
    | .rmw => ¬ (bit 2 ∧ bit 3)

/-- The cause with which a hart's access to a page faults, and whether the page is of class D, in the order of the walk's checks (R343, R326,
R228); a page of 512 MiB can reach a frame that is not installed (R205). A root table on a frame that R205 refuses is a malformed entry too (log 65). -/
def pageFault (s : State) (va : Nat) (k : Kind) (cause : Nat) (dev : Bool) : Prop :=
  match leafOf s s.ctx.ptroot va with
  | .notValid => cause = (if k = .fetch then 0x10 else if k = .read then 0x11 else 0x12) ∧ dev = false
  | .badTable => cause = 0x14 ∧ dev = false
  | .entry _ e big =>
    let bit := fun i => e / 2 ^ i % 2 = 1
    let at_ := e / 65536 % 2 ^ 36 * 65536 + va % if big = true then 2 ^ 29 else 65536
    (¬ bit 0 ∧ ¬ bit 60 ∧ cause = (if k = .fetch then 0x10 else if k = .read then 0x11 else 0x12) ∧ dev = false)
    ∨ (bit 0 ∧ ¬ bit 2 ∧ ¬ bit 3 ∧ ¬ bit 4 ∧ cause = 0x14 ∧ dev = decide (bit 56))
    ∨ (bit 0 ∧ (bit 2 ∨ bit 3 ∨ bit 4) ∧ malformedEntry s e big ∧ cause = 0x14 ∧ dev = decide (bit 56))
    ∨ (bit 0 ∧ (bit 2 ∨ bit 3 ∨ bit 4) ∧ ¬ malformedEntry s e big ∧ forbidden e k ∧ cause = 0x13 ∧ dev = decide (bit 56))
    ∨ (bit 0 ∧ ¬ malformedEntry s e big ∧ ¬ forbidden e k ∧ installed s (physOf e va big (s.hart.coreId / 16) k) = false ∧ cause = 0x14
        ∧ dev = decide (bit 56))
    ∨ (bit 0 ∧ ¬ malformedEntry s e big ∧ ¬ forbidden e k ∧ revokedAt s at_ = true ∧ cause = 0x15 ∧ dev = decide (bit 56))

/-- The check of an access's address and page that fails, with the trap it raises (R26, R327): address range, alignment, and where no
translation is held the page; a control core's address is physical (log 9). -/
def accessFails (s : State) (va n : Nat) (k : Kind) (cause : Nat) (dev : Bool) : Prop :=
  (2 ^ 52 ≤ va ∧ cause = 4 ∧ dev = false)
  ∨ (va < 2 ^ 52 ∧ va % n ≠ 0 ∧ cause = 3 ∧ dev = false)
  ∨ (va < 2 ^ 52 ∧ va % n = 0 ∧ s.hart.ctl = true ∧ dev = false
      ∧ (installed s va = false ∧ cause = 0x14 ∨ installed s va = true ∧ revokedAt s va = true ∧ cause = 0x15))
  ∨ (va < 0xFFFFFFFFA0000 ∧ va % n = 0 ∧ s.hart.ctl = false ∧ s.tlbHit s.hart.coreId s.hart.slot s.ctx.asid va = none
      ∧ pageFault s va k cause dev)

/-! ### CSRs -/

/-- The CSRs of harts (R17 and the maps of the chapters). -/
def hartCsrs : List Nat :=
  [0x000, 0x001, 0x010, 0x020, 0x021, 0x040, 0x041, 0x042, 0x043, 0x050, 0x060, 0x061, 0x062, 0x063, 0x064, 0x065, 0x066, 0x067, 0x068, 0x069,
   0x070, 0x071, 0x072, 0x073, 0x074, 0x080, 0x081, 0x082, 0x083, 0x084, 0x085, 0x086]

/-- The CSRs of control cores (log 14). -/
def controlCsrs : List Nat := [0x000, 0x001, 0x010, 0x020, 0x021, 0x040, 0x041, 0x042, 0x045, 0x050, 0x0A0]

/-- The CSR exists for the hart or control core that executes. -/
abbrev hasCsr (s : State) (n : Nat) : Prop := if s.hart.ctl = true then n ∈ controlCsrs else n ∈ hartCsrs

/-- The illegal-instruction trap of a word (R24). -/
def illegalTrap (i : Instr) : Trap := { cause := 1, tval := encode i }

/-- The values that writes of LENDSTATE and UILEND store (R51). -/
def lendStored (w : Word) : BitVec 32 :=
  let pmask := if w.extractLsb' 7 4 > 8 then 0 else w.extractLsb' 7 4
  let dce := w.extractLsb' 17 1
  let dc := if dce = 1 then w.extractLsb' 12 5 else 0
  let pol := if pmask = 0 then 0 else w.extractLsb' 11 1
  let pending := if pmask = 0 ∧ dce = 0 then 0 else w.extractLsb' 31 1
  pending ++ (0 : BitVec 13) ++ dce ++ dc ++ pol ++ pmask ++ (0 : BitVec 7)

/-- The CSRs of a hart's own that a write changes, with the value that a read then answers: reserved fields read zero and legalised fields hold
what their maps state. -/
def storedRows : List (Nat × (Word → Word)) :=
  [(0x020, fun w => if w.extractLsb' 5 3 > 4 then w &&& 0x1F else w &&& 0xFF),
   (0x021, fun w => w &&& 0xFFFFFFFF),
   (0x043, fun w => w &&& 0x182),
   (0x050, fun w => (lendStored w).setWidth 64),
   (0x064, fun w => (if w.extractLsb' 5 3 > 4 then 0 else w &&& 0xE0) ||| (if w.extractLsb' 3 2 = 3 then 0 else w &&& 0x18) ||| (w &&& 6)),
   (0x065, fun w => w &&& 0x3F),
   (0x066, fun w =>
     let base := (w.extractLsb' 8 5).toNat
     BitVec.ofNat 64 (base * 256 + min (max (w.extractLsb' 0 6).toNat 1) (32 - base))),
   (0x067, fun w => w &&& 0x7FFFFFFFFFFFFFFF),
   (0x069, fun w => w &&& 0x800000000003FFFF),
   (0x081, fun w => w &&& 0xFFFFFFFFFFFFC),
   (0x082, fun w => w &&& 0xFFFFFFFFFFFFC),
   (0x084, fun w => (lendStored w).setWidth 64),
   (0x085, fun w => if w.extractLsb' 0 9 > 256 then 256 else w &&& 0x1FF),
   (0x086, fun w => w &&& 0xFFFFFFFFFFFF)]

/-- The CSRs of a control core that a write changes, with the value that a read then answers (R22, R51, R91, R337, R339; log 14). -/
def controlRows : List (Nat × (Word → Word)) :=
  [(0x020, fun w => if w.extractLsb' 5 3 > 4 then w &&& 0x1F else w &&& 0xFF),
   (0x021, fun w => w &&& 0xFFFFFFFF),
   (0x045, fun w => w &&& 0xFFFFFFFFFFFFC),
   (0x050, fun w => (lendStored w).setWidth 64),
   (0x0A0, fun w => w &&& 0xFFFFFFFFFFFC1)]

/-- The CSRs that a context has once for all its harts, with what a write stores (R214, R238). -/
def contextRows : List (Nat × (Word → Word)) :=
  [(0x070, fun w => w &&& 0xFFFFFFFFFFFC1), (0x071, fun w => w &&& 0xFFFFFFFFFFFC0), (0x072, fun w => w &&& 0xFFFFFFFF)]

/-! ### Configuration -/

/-- Lane groups that the hart that executes owns. -/
def lanes (e : Exec) : Nat := ((Finset.range 16).filter (fun i => e.lg.getLsbD i = true)).card

/-- Elements of one register at the configuration's SEW: LGN × 1,024 × D / SEW (R131). -/
def perRegister (e : Exec) : Nat := lanes e * 1024 * 2 ^ e.depth.val / (8 * 2 ^ e.sew.val)

/-- What a configure word leaves of the length (R131): VL, AVLREM and xd for an application length. -/
def lengthSet (s t : State) (d : Reg) (avl : Word) : Prop :=
  t.hart.ep.vl = min avl.toNat (2 ^ t.hart.ep.group.val * perRegister t.hart.ep)
  ∧ t.hart.ep.avlrem.toNat = avl.toNat - t.hart.ep.vl
  ∧ t.hart.sc.x = regs s d (BitVec.ofNat 64 t.hart.ep.vl)
  ∧ t.hart.sc.pc = s.hart.sc.pc + 4 ∧ t.hart.sc.instret = s.hart.sc.instret + 1

/-- The lane groups that R131 grants on a request, 0 for "keep". -/
def granted (s : State) (req : Nat) : Nat :=
  if s.higherHold s.hart = true then s.hart.reserve
  else min (max (if req = 0 then lanes s.hart.ep else req) s.hart.reserve) (lanes s.hart.ep + s.freeNotHeld s.hart.coreId)

/-- No hart of the core of the hart that executes owns lane group `j` (R128). -/
def freeGroup (s : State) (j : Nat) : Bool := (s.coreHarts s.hart.coreId).all (fun g => !g.ep.lg.getLsbD j)

/-- The state of generator `g` after its seeding (R90). -/
def seeded (seed : BitVec 32) (g : Nat) : BitVec 32 :=
  let v := BitVec.ofNat 32 (seed.toNat + (g + 1) * 0x9E3779B9)
  if v = 0 then 1 else v

/-- A configuration change from `s` to `t` (R131, R90): the grant, with which the highest lane groups are released or the lowest free ones taken, the
new fields, the masks kept, the scalar generator left alone and the lane generators seeded exactly where the count or the depth changes, and registers and tiles zeroed exactly where the
lane-group count or the depth changes, with which the indices of stopped words go too (R131, R133). -/
def configured (s t : State) (req depth group sew : Nat) : Prop :=
  let e := s.hart.ep
  let f := t.hart.ep
  lanes f = granted s req ∧ f.depth.val = depth ∧ f.group.val = group ∧ f.sew.val = sew ∧ f.m = e.m ∧ f.vcfg = e.vcfg
  ∧ (lanes f = lanes e → depth = e.depth.val → f.lg = e.lg ∧ f.v = e.v ∧ f.tiles = e.tiles ∧ f.gpi = e.gpi)
  ∧ (lanes f ≠ lanes e ∨ depth ≠ e.depth.val → (∀ r : Fin 32, f.v[r.val] = 0) ∧ (∀ r : Fin 256, f.tiles[r.val] = 0) ∧ f.gpi = [])
  ∧ (∀ j < 16, f.lg.getLsbD j = true ↔
      if lanes f ≤ lanes e then e.lg.getLsbD j = true ∧ ((Finset.range j).filter (fun i => e.lg.getLsbD i = true)).card < lanes f
      else e.lg.getLsbD j = true ∨ (freeGroup s j = true ∧ ((Finset.range j).filter (fun i => freeGroup s i = true)).card < lanes f - lanes e))
  ∧ (lanes f = lanes e → depth = e.depth.val → t.hart.sc.gens = s.hart.sc.gens)
  ∧ (lanes f ≠ lanes e ∨ depth ≠ e.depth.val → t.hart.sc.gens[0] = s.hart.sc.gens[0]
      ∧ ∀ g (h : g < 257), 1 ≤ g → t.hart.sc.gens[g] = seeded s.hart.sc.rndseed g)

/-- A hart of its core that may execute a configure word with an idle execute processor: it is no control core, has not retired, and owns at
least its reservation (R131, R139). -/
abbrev configurable (s : State) : Prop :=
  s.hart.ctl = false ∧ s.hart.status = .running ∧ s.hart.ep.queue = [] ∧ s.hart.reserve ≤ lanes s.hart.ep

/-- A party of a core that can issue an instruction at its next turn. -/
abbrev readyOn (core : Nat) (h : Hart) : Prop := h.runnable = true ∧ h.waiting = false ∧ h.coreId = core

/-- The hart's instruction has passed by, and of the other parties nothing has changed but how often each has been passed over. -/
def passedOver (s u : State) : Prop :=
  ∃ n : Hart → Nat, u = passedBy { s with others := s.others.map (fun h => { h with skipped := n h }) }

end Sys2Proof.Stated

/-! ### Traps -/

/-- R25, R339, R52: a trap of a control core is taken in place: the trap CSRs are written, the pc goes to CTVEC, INSTRET does not count, its handler
begins with PENDING = 0 and with what LENDSTATE held saved for its return, and no other register and no memory changes. That it is saved where a
hart has its UILEND is the model's choice (log 63), and that an armed VSTART is used up is too (log 37). -/
def Sys2Proof.Stated.ControlCoreTraps : Prop :=
  ∀ (s : State) (t : Trap), s.hart.ctl = true → s.hart.ep.queue = [] →
    s.trap t = Stated.withScalar s .running false
      { Stated.trapped s t with pc := s.hart.sc.ctvec, lend := s.hart.sc.lend &&& 0x7FFFFFFF#32, uilend := s.hart.sc.lend }

/-- R328, R331, R25: a trap of a hart whose cause is delegated, with no handler active and every earlier vector word complete, enters the hart's
handler: UIEPC is the trapping instruction, UICAUSE names no event and holds the restart element, LENDSTATE moves to UILEND, x24 to x31 are
exchanged with their shadow copies, ACTIVE and RSTRT are set, pending events are kept, and the pc goes to UIVEC. An armed VSTART is used up by
every trap: the model's choice (log 37). -/
def Sys2Proof.Stated.DelegatedTraps : Prop :=
  ∀ (s : State) (t : Trap), s.hart.ctl = false → s.hart.ep.queue = [] → Stated.delegates s t →
    ∃ d : Scalar, Stated.swapped s.hart.sc d
      ∧ s.trap t = Stated.withScalar s .running false
          { Stated.trapped s t with
            x := d.x, shadow := d.shadow
            uiepc := s.hart.sc.pc, uiEvents := 0, uiCauseTag := BitVec.ofNat 32 t.elem, uilend := s.hart.sc.lend, lend := 0
            uiActive := true, uiRstrt := true, pc := s.hart.sc.uivec }

/-- R25, R328, R335, R336, R338: every other trap of a hart parks it: the trap CSRs are written, it fetches nothing and counts as waiting, nothing
else of it changes, and a record of 64 bytes with the fields of R336 waits for its die's fault queue. An armed VSTART is used up by every trap: the
model's choice (log 37). -/
def Sys2Proof.Stated.ParkingTraps : Prop :=
  ∀ (s : State) (t : Trap), s.hart.ctl = false → s.hart.ep.queue = [] → ¬ Stated.delegates s t → Stated.fits (Stated.recordFields s t) →
    ∃ r : List Byte, r.length = 64 ∧ Stated.holds r (Stated.recordFields s t)
      ∧ s.trap t = { Stated.withScalar s .parked true (Stated.trapped s t) with faults := s.faults ++ [⟨s.hart.die, .hart s.hart.loc, r, none⟩] }

/-- R329: a trap waits while any vector word before it is incomplete: the hart stands at its instruction, with no register written, and once the
queue is empty TRAP_DELIVERY delivers the trap that waits. -/
def Sys2Proof.Stated.TrapsWaitForEarlierWords : Prop :=
  (∀ (s : State) (t : Trap), s.hart.ep.queue ≠ [] → s.trap t = { s with hart := { s.hart with status := .trapping t } })
  ∧ (∀ (s : State) (t : Trap), s.hart.status = .trapping t → s.hart.ep.queue = [] → exec .trapDelivery s = .next (s.trap t))

/-- R115, R116, R26, R326, R336, R343: LD, LDU, ST, AMO, CAS and MWATCHLD, the pot words, STRIP and the barrier words whose address or page fails a
check trap with the cause of the first check that fails, their address in TVAL and the access in ACCESS; the trap is taken in the state before the
word, so no register and no byte is changed. A CAS is checked as a read first (log 52), and a control core's address is physical (log 9). -/
def Sys2Proof.Stated.ScalarAccessTraps : Prop :=
  (∀ (i : Instr) (s : State) (va n : Nat) (k : Kind) (width cause : Nat) (dev : Bool), Stated.accessOf s i = some (va, n, k, width) →
    (∀ o, i = .amo o → o.aop.val ≠ 7) → Stated.accessFails s va n k cause dev →
    exec i s = .next (s.trap (Stated.accessTrap va k width cause dev)))
  ∧ (∀ (i : Instr) (s : State) (va : Nat) (k : Kind) (width own cause : Nat) (dev : Bool), Stated.objectOf s i = some (va, k, width, own) →
    Stated.accessFails s va 64 k cause dev → exec i s = .next (s.trap (Stated.accessTrap va k width cause dev)))

/-- R248, R250, R257: a pot or barrier word on a 64-byte address of the scratchpad window, or whose place passes its page's checks but lies outside
tier 1 or on a page of class D, raises the object's own fault, the page's entry marked as for an access (R344); so does a pot word on a line that is no pot, and POTINIT on the pot of a farm that has
not completed. -/
def Sys2Proof.Stated.ObjectTraps : Prop :=
  ∀ (i : Instr) (s : State) (va : Nat) (k : Kind) (width own : Nat), Stated.objectOf s i = some (va, k, width, own) →
    (s.hart.ctl = false → va % 64 = 0 → 0xFFFFFFFFA0000 ≤ va → va < 2 ^ 52 → exec i s = .next (s.trap (Stated.accessTrap va k width own false)))
    ∧ (∀ (s' : State) (pa pte : Nat), s.locate va 64 k width = .ok s' pa pte → (s.hart.ctl = false → va < 0xFFFFFFFFA0000) →
      (region pa ≠ 0 ∨ pte / 2 ^ 56 % 2 = 1) → exec i s = .next (s'.trap (Stated.accessTrap va k width own (decide (pte / 2 ^ 56 % 2 = 1)))))
    ∧ (∀ (s' : State) (pa pte : Nat), s.objectAt va k width own = .ok s' pa pte → own = 0x17 →
      ((∃ o, i = .potinit o) ∧ s'.farmPot pa = true ∨ (¬ ∃ o, i = .potinit o) ∧ s'.isPot pa = false) →
      exec i s = .next (s'.trap (Stated.accessTrap va k 3 0x17 false)))

/-- Each of the ways in which a trap is taken, and the failed checks of scalar accesses and objects that raise one (R25, R115, R248, R257, R326 to R343). -/
def Obligations.TrapsAreTaken : Prop :=
  Stated.ControlCoreTraps ∧ Stated.DelegatedTraps ∧ Stated.ParkingTraps ∧ Stated.TrapsWaitForEarlierWords ∧ Stated.ScalarAccessTraps ∧ Stated.ObjectTraps

/-- R24, R122: ECALL raises the environment call and EBREAK the breakpoint, with TVAL 0. With every vector word complete, a control core then
stands at its handler, and a hart is parked, both causes being ones that cannot be delegated (R330). -/
def Sys2Proof.Stated.CallsAndBreakpoints : Prop :=
  ∀ row ∈ [(Instr.ecall, 6), (Instr.ebreak, 5)], ∀ s : State,
    exec row.1 s = .next (s.trap { cause := row.2, tval := 0 })
    ∧ (s.hart.ep.queue = [] → ∃ t, exec row.1 s = .next t ∧ t.hart.sc.tcause.toNat = row.2 ∧ t.hart.sc.tval = 0 ∧ t.hart.sc.tpc = s.hart.sc.pc
        ∧ t.hart.sc.x = s.hart.sc.x ∧ t.hart.sc.instret = s.hart.sc.instret ∧ t.mem = s.mem ∧ t.hart.ep = s.hart.ep
        ∧ (s.hart.ctl = true → t.hart.status = .running ∧ t.hart.sc.pc = s.hart.sc.ctvec)
        ∧ (s.hart.ctl = false → t.hart.status = .parked ∧ t.hart.sc.pc = s.hart.sc.pc))

/-- R309, R51, R340: UIRET in a handler returns: x24 to x31 and their shadows change places, LENDSTATE takes UILEND as a write would store it, VSTART
is armed with UICAUSE.TAG exactly where RSTRT is set, ACTIVE and RSTRT clear, and the pc is UIEPC; of the indices at which
stopped words have left registers, those of the handler's words go, and all where none restarts; outside a handler it is illegal. TRET without a record returns a control core to TPC with the LENDSTATE that its trap saved (R52;
where it is saved is the model's choice, log 63), and is illegal on a hart. -/
def Sys2Proof.Stated.ReturnsComplete : Prop :=
  (∀ s : State, s.hart.sc.uiActive = true → ∃ d : Scalar, Stated.swapped s.hart.sc d
    ∧ exec .uiret s = .next (
        let u := Stated.retired s s.hart.sc.uiepc d.x
        { u with hart := { u.hart with ep := { s.hart.ep with gpi := s.hart.ep.gpi.filter (fun p => s.hart.sc.uiRstrt && !p.inner) }, sc := { u.hart.sc with
          shadow := d.shadow
          vstartArmed := s.hart.sc.uiRstrt
          vstart := if s.hart.sc.uiRstrt then s.hart.sc.uiCauseTag.setWidth 18 else s.hart.sc.vstart
          lend := Stated.lendStored (s.hart.sc.uilend.setWidth 64)
          uiActive := false
          uiRstrt := false } } }))
  ∧ (∀ s : State, s.hart.sc.uiActive = false → exec .uiret s = .next (s.trap (Stated.illegalTrap .uiret)))
  ∧ (∀ s : State, s.hart.ctl = true → exec .tret s = .next (
        let u := Stated.retired s s.hart.sc.tpc s.hart.sc.x
        { u with hart := { u.hart with sc := { u.hart.sc with lend := s.hart.sc.uilend } } }))
  ∧ (∀ s : State, s.hart.ctl = false → exec .tret s = .next (s.trap (Stated.illegalTrap .tret)))

/-- Environment calls, breakpoints and returns (R122, R309, R340). -/
def Obligations.CallsAndReturns : Prop := Stated.CallsAndBreakpoints ∧ Stated.ReturnsComplete

/-- R46 items 5 and 6, R370, R24: a word that its party does not execute raises the illegal-instruction trap with the word in TVAL and has no other
effect: on a control core every V, VM, X and G word and every word of op7 0x74 and 0x75; on a hart
the supervisor's own. -/
def Obligations.WrongPartyIsIllegal : Prop :=
  ∀ (i : Instr) (s : State),
    (s.hart.ctl = true → (0x40 ≤ encode i % 128 ∧ encode i % 128 ≤ 0x63 ∨ encode i % 128 = 0x74 ∨ encode i % 128 = 0x75) →
      exec i s = .next (s.trap (Stated.illegalTrap i)))
    ∧ (s.hart.ctl = false → (∃ o, i = .tlbinv o ∨ ∃ q, i = .ctxhalt q ∨ i = .ctxresume q ∨ ∃ p, i = .tretResume p) →
      exec i s = .next (s.trap (Stated.illegalTrap i)))

/-! ### Control and status registers -/

/-- R17, R121: an access to a CSR number that the party does not have is illegal, whether or not it would write. Which numbers a control core has
is the model's reading (log 14). -/
def Sys2Proof.Stated.UndefinedCsrsAreIllegal : Prop :=
  ∀ (o : OpCsr) (s : State), ¬ Stated.hasCsr s o.csr.val →
    exec (.csrrw o) s = .next (s.trap (Stated.illegalTrap (.csrrw o)))
    ∧ exec (.csrrs o) s = .next (s.trap (Stated.illegalTrap (.csrrs o)))
    ∧ exec (.csrrc o) s = .next (s.trap (Stated.illegalTrap (.csrrc o)))

/-- R121, R29: an access to a CSR that the party has completes: xd takes the old value; CSRRW then writes xs1, CSRRS sets and CSRRC clears the bits
of xs1, both writing nothing where the s1 field is 0, with xs1 as it stood before xd was written. -/
def Sys2Proof.Stated.CsrAccessesComplete : Prop :=
  ∀ (o : OpCsr) (s : State), Stated.hasCsr s o.csr.val → ∃ (u : State) (w : Word), s.csrRead o.csr.val = some (u, w)
    ∧ exec (.csrrw o) s = .next ((Stated.answered u o.d w).csrWrite o.csr.val (Stated.reg s o.s1))
    ∧ exec (.csrrs o) s = .next
        (if o.s1.val = 0 then Stated.answered u o.d w else (Stated.answered u o.d w).csrWrite o.csr.val (w ||| Stated.reg s o.s1))
    ∧ exec (.csrrc o) s = .next
        (if o.s1.val = 0 then Stated.answered u o.d w else (Stated.answered u o.d w).csrWrite o.csr.val (w &&& ~~~(Stated.reg s o.s1)))

/-- R19, R20, R21, R23, R128, R149, R307, R341: what a party's read-only CSRs answer, and that a write of one changes nothing: CYCLE advances by a number
of clocks that is free (log 8), INSTRET counts the instructions retired before the reading one, HARTID is the hart's place in the package, LGALLOC its
core's lane allocation table, VTYPE the configuration that stands. -/
def Sys2Proof.Stated.ReadOnlyCsrsAnswer : Prop :=
  (∀ s : State,
    s.csrRead 0x001 = some (s, s.hart.sc.instret) ∧ s.csrRead 0x040 = some (s, s.hart.sc.tcause.setWidth 64)
    ∧ s.csrRead 0x041 = some (s, s.hart.sc.tpc) ∧ s.csrRead 0x042 = some (s, s.hart.sc.tval)
    ∧ ∃ n : Word, s.csrRead 0x000 =
        some ({ s with free := s.free + 1, hart := { s.hart with sc := { s.hart.sc with cycle := s.hart.sc.cycle + n } } }, s.hart.sc.cycle + n))
  ∧ (∀ s : State, s.hart.ctl = false → s.hart.die < 4 → s.hart.core < 16 → s.hart.slot < 4 →
    s.csrRead 0x010 = some (s, BitVec.ofNat 64 (64 * s.hart.die + 4 * s.hart.core + s.hart.slot)))
  ∧ (∀ s : State, s.hart.ctl = false →
    let e := s.hart.ep
    s.csrRead 0x061 = some (s, BitVec.ofNat 64 (Stated.lanes e * 256 + e.depth.val * 64 + e.group.val * 16 + e.sew.val))
    ∧ s.csrRead 0x062 = some (s, BitVec.ofNat 64 e.vl) ∧ s.csrRead 0x063 = some (s, e.avlrem) ∧ s.csrRead 0x068 = some (s, BitVec.ofNat 64 e.vltrim)
    ∧ s.csrRead 0x073 = some (s, BitVec.ofNat 64 s.ctx.ptroot) ∧ s.csrRead 0x074 = some (s, BitVec.ofNat 64 s.hart.asid)
    ∧ s.csrRead 0x083 = some (s, BitVec.ofNat 64 (s.hart.sc.uiEvents.toNat * 2 ^ 32 + s.hart.sc.uiCauseTag.toNat)))
  ∧ (∀ s : State, s.hart.ctl = false → (∀ h ∈ s.coreHarts s.hart.coreId, h.slot < 4) → ∃ w : Word, s.csrRead 0x060 = some (s, w)
    ∧ ∀ j < 16, (Stated.freeGroup s j = true → w.toNat / 16 ^ j % 16 = 0)
      ∧ ∀ h ∈ s.coreHarts s.hart.coreId, h.ep.lg.getLsbD j = true →
        (∀ g ∈ s.coreHarts s.hart.coreId, g.ep.lg.getLsbD j = true → g = h) →
        w.toNat / 16 ^ j % 16 = 8 + h.slot
          + 4 * if ((Finset.range j).filter (fun i => h.ep.lg.getLsbD i = true)).card < h.reserve then 1 else 0)
  ∧ ∀ n ∈ [0x000, 0x001, 0x010, 0x040, 0x041, 0x042, 0x060, 0x061, 0x062, 0x063, 0x068, 0x073, 0x074, 0x083], ∀ (s : State) (w : Word),
    s.csrWrite n w = s

/-- CSR words complete on the CSRs that a party has, with the values that its read-only ones answer, and are illegal on every other number (R17 to R23, R121). -/
def Obligations.CsrAccesses : Prop :=
  Stated.UndefinedCsrsAreIllegal ∧ Stated.CsrAccessesComplete ∧ Stated.ReadOnlyCsrsAnswer

/-- R10, R22, R51, R91, R151, R152, R173, R307, R315, R316, R330, R332: what a hart reads from each writable CSR after writing it: reserved bits read
zero, an illegal value of a legalised field is replaced as its map states, UISTATUS keeps its read-only ACTIVE, and the CSRs of a context are
written for all its harts. A control core reads back what it writes to FCSR, RNDSEED, LENDSTATE, CTVEC and its die's FQDESC in the same way (R337,
R339; that it has the first three is the model's reading, log 14). No x register, pc or byte of memory changes. -/
def Obligations.CsrWritesAreLegalised : Prop :=
  (∀ (s : State) (w : Word), s.hart.ctl = false →
    (s.csrWrite 0x080 w).csrRead 0x080 = some (s.csrWrite 0x080 w, (w &&& 0xB) ||| (if s.hart.sc.uiActive then 4 else 0))
    ∧ (s.csrWrite 0x080 w).hart.sc.x = s.hart.sc.x ∧ (s.csrWrite 0x080 w).hart.sc.pc = s.hart.sc.pc ∧ (s.csrWrite 0x080 w).mem = s.mem)
  ∧ (∀ row ∈ Stated.contextRows, ∀ (s : State) (w : Word), s.hart.ctl = false → (s.ctxOf s.hart.asid).isSome = true →
    (s.csrWrite row.1 w).csrRead row.1 = some (s.csrWrite row.1 w, row.2 w)
    ∧ (∀ h : Hart, h.ctl = false → h.asid = s.hart.asid → (State.csrRead { s.csrWrite row.1 w with hart := h } row.1).map (fun r => r.2) = some (row.2 w))
    ∧ (s.csrWrite row.1 w).hart = s.hart ∧ (s.csrWrite row.1 w).mem = s.mem)
  ∧ (∀ row ∈ Stated.storedRows, ∀ (s : State) (w : Word), s.hart.ctl = false → s.hart.ep.queue = [] →
    (∃ u, (s.csrWrite row.1 w).csrRead row.1 = some (u, row.2 w))
    ∧ (s.csrWrite row.1 w).hart.sc.x = s.hart.sc.x ∧ (s.csrWrite row.1 w).hart.sc.pc = s.hart.sc.pc ∧ (s.csrWrite row.1 w).mem = s.mem)
  ∧ ∀ row ∈ Stated.controlRows, ∀ (s : State) (w : Word), s.hart.ctl = true → s.hart.die < 4 → s.hart.ep.queue = [] →
    (∃ u, (s.csrWrite row.1 w).csrRead row.1 = some (u, row.2 w))
    ∧ (s.csrWrite row.1 w).hart.sc.x = s.hart.sc.x ∧ (s.csrWrite row.1 w).hart.sc.pc = s.hart.sc.pc ∧ (s.csrWrite row.1 w).mem = s.mem

/-! ### Words that direct the hart -/

/-- R47, R265: a hint word, whatever its bits hold, changes nothing but what retiring changes. RTOUCH does not either: that it brings no line is the
model's choice (log 91), since R265 and R323 let the device bring lines. -/
def Sys2Proof.Stated.HintsChangeNothing : Prop :=
  ∀ s : State, (∀ o, exec (.hint o) s = .next (Stated.passedBy s)) ∧ (∀ o, exec (.rtouch o) s = .next (Stated.passedBy s))

/-- R48, R49: LEND retires with its fields in LENDSTATE and PENDING set; after a pending LEND it is illegal and PENDING stays. -/
def Sys2Proof.Stated.LendCompletes : Prop :=
  ∀ (o : OpLend) (s : State),
    (s.hart.sc.lend.getLsbD 31 = false → exec (.lend o) s = .next
      (let t := Stated.passedBy s
       { t with hart := { t.hart with sc := { t.hart.sc with
         lend := (1 : BitVec 1) ++ (0 : BitVec 13) ++ BitVec.ofNat 1 o.dce.val ++ BitVec.ofNat 5 o.dc.val ++ BitVec.ofNat 1 o.pol.val
           ++ BitVec.ofNat 4 o.pmask.val ++ (0 : BitVec 7) } } }))
    ∧ (s.hart.sc.lend.getLsbD 31 = true → exec (.lend o) s = .next (s.trap (Stated.illegalTrap (.lend o))))

/-- Hints change nothing, nor does RTOUCH, by the model's choice (log 91), and LEND lends (R47 to R49, R265). -/
def Obligations.HintsAndLends : Prop := Stated.HintsChangeNothing ∧ Stated.LendCompletes

/-- R131, R90: SETVL and SETVLI with an idle execute processor complete: the grant and its lane groups, VL, AVLREM, xd, the zeroing of registers and
tiles and the seeding of the lane generators exactly where the lane-group count or the depth changes, the masks kept. SETVL's request is xs2, of which more than 16 asks for 16; SETVLI's is its count plus one. -/
def Sys2Proof.Stated.ConfigureWordsComplete : Prop :=
  (∀ (o : OpSetvl) (s : State), Stated.configurable s → ∃ t, exec (.setvl o) s = .next t
    ∧ Stated.configured s t (min (Stated.reg s o.s2).toNat 16) o.depth.val o.group.val o.sew.val
    ∧ Stated.lengthSet s t o.d (Stated.reg s o.s1))
  ∧ (∀ (o : OpSetvli) (s : State), Stated.configurable s → o.count.val ≤ 15 → ∃ t, exec (.setvli o) s = .next t
    ∧ Stated.configured s t (o.count.val + 1) o.depth.val o.group.val o.sew.val
    ∧ Stated.lengthSet s t o.d (Stated.reg s o.s1))

/-- R131: SETVLC sets VL, AVLREM and xd by the configuration that stands, without waiting, and changes nothing else. -/
def Sys2Proof.Stated.SetvlcCompletes : Prop :=
  ∀ (o : OpDS) (s : State), s.hart.ctl = false →
    let avl := Stated.reg s o.s1
    let vl := min avl.toNat (2 ^ s.hart.ep.group.val * Stated.perRegister s.hart.ep)
    exec (.setvlc o) s = .next
      (let t := Stated.answered s o.d (BitVec.ofNat 64 vl)
       { t with hart := { t.hart with ep := { s.hart.ep with vl := vl, avlrem := BitVec.ofNat 64 (avl.toNat - vl) } } })

/-- R143, R131: YIELD under a hold of higher priority cuts a hart that owns more than its reservation to it, as R131 reconfigures, leaving VL and
AVLREM (log 17); otherwise it changes no state but whose turn it is: with another ready party on its core, none of those passed over long, the next
one in the core's order issues first, whatever the ranks; with none, nothing changes. -/
def Sys2Proof.Stated.YieldCompletes : Prop :=
  ∀ s : State, Stated.configurable s →
    (¬(s.higherHold s.hart = true ∧ s.hart.reserve < Stated.lanes s.hart.ep) →
      ((∀ g ∈ s.others, ¬ Stated.readyOn s.hart.coreId g) → exec .yield s = .next (Stated.passedBy s))
      ∧ ∃ u, exec .yield s = .next u ∧ Stated.passedOver s u
        ∧ ∀ g, s.others.find? Hart.runnable = some g → Stated.readyOn s.hart.coreId g → (∀ k ∈ s.others, k.loc = g.loc → k = g) →
            g.loc ≠ s.hart.loc → (∀ k ∈ s.hart :: s.others, k.skipped < 60) → u.passTurn.hart.loc = g.loc)
    ∧ (s.higherHold s.hart = true → s.hart.reserve < Stated.lanes s.hart.ep → ∃ t, exec .yield s = .next t
        ∧ Stated.lanes t.hart.ep = s.hart.reserve
        ∧ Stated.configured s t s.hart.reserve s.hart.ep.depth.val s.hart.ep.group.val s.hart.ep.sew.val
        ∧ t.hart.ep.vl = s.hart.ep.vl ∧ t.hart.ep.avlrem = s.hart.ep.avlrem ∧ t.hart.sc.x = s.hart.sc.x)

/-- The words that configure the execute processor (R131, R143). -/
def Obligations.ConfigurationWords : Prop := Stated.ConfigureWordsComplete ∧ Stated.SetvlcCompletes ∧ Stated.YieldCompletes

namespace Sys2Proof.Stated

open Sys2Proof.Machine

/-! ### The execute processor -/

/-- A hart whose execute processor is idle and prompt, with no stream bound: what a word does is then done when it retires. -/
abbrev idle (s : State) : Prop := s.hart.ctl = false ∧ s.hart.ep.queue = [] ∧ s.hart.ep.bindings = [] ∧ s.prompt = true

/-- MVL at a width: LGN × 1,024 × D / W (R153). -/
def perAt (e : Exec) (w : Nat) : Nat := lanes e * 1024 * 2 ^ e.depth.val / w

/-- Element `i`, at width `w`, of the group that starts at register `r`: little-endian bits of the group's registers (R132). -/
def element (e : Exec) (r w i : Nat) : Nat :=
  let k := r + i / perAt e w
  (if h : k < 32 then e.v[k].toNat else 0) / 2 ^ (i % perAt e w * w) % 2 ^ w

/-- A bit of a mask register (R157). -/
def maskBit (e : Exec) (m i : Nat) : Bool := if h : m < 8 then e.m[m].getLsbD i else false

/-- The mask that a pending LEND lends, 0 for none, its polarity, and its copy register (R48). -/
def lentMask (s : State) : Nat := if s.hart.sc.lend.getLsbD 31 then s.hart.sc.lend.toNat / 128 % 16 else 0
def lentCopy (s : State) : Option Nat :=
  if s.hart.sc.lend.getLsbD 31 ∧ s.hart.sc.lend.getLsbD 17 then some (s.hart.sc.lend.toNat / 4096 % 32) else none

/-- Active(i) of a word whose pm field is `pm` (R49, R154). -/
def isActive (s : State) (pm i : Nat) : Bool :=
  if lentMask s ≠ 0 then maskBit s.hart.ep (lentMask s - 1) i != s.hart.sc.lend.getLsbD 11
  else if pm = 0 then true else maskBit s.hart.ep pm i

/-- IZ and TZ (R151). -/
def izOf (s : State) : Bool := s.hart.ep.vcfg.getLsbD 2
def tzOf (s : State) : Bool := s.hart.ep.vcfg.getLsbD 1

/-- The start element of an element-wise word (R332). -/
def startOf (s : State) : Nat := if s.hart.sc.vstartArmed then s.hart.sc.vstart.toNat else 0

/-- What a word of the execute processor leaves alone: the x registers, the CSRs of the scalar half, the configuration, and all that is not the
hart's; it retires. Generators move only where `draws`, and the G words' counters only where `counts`. Of the indices at which stopped words
have left registers, the word may drop some. -/
def executes (draws counts : Bool) (s t : State) : Prop :=
  let u := passedBy s
  let e := t.hart.ep
  t = { u with hart := { u.hart with
      sc := { u.hart.sc with gens := if draws then t.hart.sc.gens else s.hart.sc.gens }
      ep := { s.hart.ep with
        v := e.v, m := e.m, tiles := e.tiles, vstat := e.vstat, gpi := e.gpi, gstat := if counts then e.gstat else s.hart.ep.gstat } } }
  ∧ e.gpi.Sublist s.hart.ep.gpi

/-- What every other word leaves alone: it moves no generator and no counter. -/
def onlyExecutes (s t : State) : Prop := executes false false s t

/-- The words that round in the mode of VCFG, and so draw in stochastic mode (R87, R163, R164, R169, R181). -/
def rounds (i : Instr) : Bool :=
  match i with
  | .vfaddVV _ | .vfsubVV _ | .vfmulVV _ | .vfdivVV _ | .vfmaVV _ | .vfsqrt _ | .vfcvt _ | .vfcvti _ | .vfcvtf _ => true
  | .vfaddVS _ | .vfsubVS _ | .vfmulVS _ | .vfdivVS _ | .vfmaVS _ | .vredfsum _ | .mtov _ => true
  | _ => false

/-- The destination element `i` of an element-wise word (R154): its value where it is active, 0 or its old value otherwise. -/
def elementAfter (s : State) (d w pm : Nat) (f : Nat → Nat) (i : Nat) : Nat :=
  if i < s.hart.ep.vl then
    (if i < startOf s then element s.hart.ep d w i
     else if isActive s pm i = true then f i else if izOf s = true then 0 else element s.hart.ep d w i)
  else if tzOf s = true ∧ s.hart.ep.vl ≠ 0 then 0 else element s.hart.ep d w i

/-- A copy element: what its destination element receives, where that is written (R49, R154). -/
def copyAfter (s : State) (c w pm : Nat) (f : Nat → Nat) (i : Nat) : Nat := elementAfter s c w pm f i

/-- An element-wise word has written the group of `n` registers at `d`, and its lent copy, with elements `f i` of width `w`; every other vector
register, every mask and every tile is as it was. -/
def elementsWritten (s t : State) (d w n pm : Nat) (f : Nat → Nat) : Prop :=
  (∀ i < n * perAt s.hart.ep w, element t.hart.ep d w i = elementAfter s d w pm f i)
  ∧ (∀ c, lentCopy s = some c → ∀ i < n * perAt s.hart.ep w, element t.hart.ep c w i = copyAfter s c w pm f i)
  ∧ (∀ r : Fin 32, ¬(d ≤ r.val ∧ r.val < d + n) → (∀ c, lentCopy s = some c → ¬(c ≤ r.val ∧ r.val < c + n)) →
      t.hart.ep.v[r.val] = s.hart.ep.v[r.val])
  ∧ t.hart.ep.m = s.hart.ep.m ∧ t.hart.ep.tiles = s.hart.ep.tiles

/-- Mask `md` after a word that writes it with bits `f i` (R154, R157, R158): whole, from bit 0. -/
def maskWritten (s t : State) (md pm : Nat) (f : Nat → Bool) : Prop :=
  (∀ i < 131072, maskBit t.hart.ep md i =
    if i < s.hart.ep.vl then
      (if isActive s pm i = true then f i else if izOf s = true then false else maskBit s.hart.ep md i)
    else if tzOf s = true ∧ s.hart.ep.vl ≠ 0 then false else maskBit s.hart.ep md i)
  ∧ (∀ m : Fin 8, m.val ≠ md → t.hart.ep.m[m.val] = s.hart.ep.m[m.val])
  ∧ t.hart.ep.v = s.hart.ep.v ∧ t.hart.ep.tiles = s.hart.ep.tiles

/-- VSTAT after a word that raises flag bit `b` where some active element meets `p`. -/
def flagged (s t : State) (pm first : Nat) (p : Nat → Prop) (b : BitVec 8) : Prop :=
  ((∃ i, first ≤ i ∧ i < s.hart.ep.vl ∧ isActive s pm i = true ∧ p i) → t.hart.ep.vstat = s.hart.ep.vstat ||| b)
  ∧ ((¬∃ i, first ≤ i ∧ i < s.hart.ep.vl ∧ isActive s pm i = true ∧ p i) → t.hart.ep.vstat = s.hart.ep.vstat)

/-- The issue checks of a word pass: the groups exist, are aligned and do not overlap where they must not, VL is held, no mask is held by a copy,
and a lent copy meets its limits (R46 items 6 to 8, R50, R153, R156, R303). -/
def issues (i : Instr) (s : State) : Prop := ∃ op, vopOf i = some op ∧ s.issueBad (op.shape s.hart.ep) = false

/-! ### Integer elements -/

/-- A signed pattern of `n` bits, an integer as a pattern of `n` bits, and a clamp to the signed range of `n` bits with its saturation. -/
def sg (n v : Nat) : Int := if v % 2 ^ n < 2 ^ (n - 1) then ((v % 2 ^ n : Nat) : Int) else ((v % 2 ^ n : Nat) : Int) - (2 ^ n : Nat)
def wrap (n : Nat) (z : Int) : Nat := (z % (2 ^ n : Nat)).toNat
def clamp (n : Nat) (z : Int) : Nat × Bool :=
  let r := max (-(2 ^ (n - 1) : Nat) : Int) (min ((2 ^ (n - 1) : Nat) - 1 : Int) z)
  (wrap n r, decide (r ≠ z))

/-- z / 2^k to the nearest integer, ties to even (R87). -/
def nearestEven (z : Int) (k : Nat) : Int :=
  let lo := z / (2 ^ k : Nat)
  let r := z % (2 ^ k : Nat)
  if 2 * r < (2 ^ k : Nat) then lo else if (2 ^ k : Nat) < 2 * r then lo + 1 else if lo % 2 = 0 then lo else lo + 1

/-- An integer word of op7 0x40 or 0x41: its two forms, the width of its destination and of its vs2 group for an instruction width, whether pm
names a carry mask, and its result on a, b and the carry, with SAT. In the vector-vector form a is an element of vs1 and b of vs2; in the
vector-scalar form a is an element of vs2 and b the scalar. -/
structure IntRow where
  vv : OpV → Instr
  vs : OpV → Instr
  wd : Nat → Nat
  w2 : Nat → Nat
  carries : Bool
  fv : Nat → Nat → Nat → Nat → Nat × Bool
  fs : Nat → Nat → Nat → Nat → Nat × Bool

/-- A row of one width, without carry, whose two forms compute the same. -/
def plain (vv vs : OpV → Instr) (f : Nat → Nat → Nat → Nat) : IntRow :=
  ⟨vv, vs, id, id, false, fun n a b _ => (f n a b, false), fun n a b _ => (f n a b, false)⟩

/-- The narrowing of a wide value by a shift (R162). -/
def clip (n wide sh : Nat) : Nat × Bool := clamp n (nearestEven (sg (2 * n) wide) (sh % (2 * n)))

/-- R160 to R162. -/
def intRows : List IntRow :=
  [plain .vaddVV .vaddVS (fun n a b => wrap n (a + b)),
   plain .vsubVV .vsubVS (fun n a b => wrap n (a - b)),
   plain .vmulVV .vmulVS (fun n a b => wrap n (a * b)),
   plain .vmulhVV .vmulhVS (fun n a b => wrap n (sg n a * sg n b / (2 ^ n : Nat))),
   plain .vmulhuVV .vmulhuVS (fun n a b => a * b / 2 ^ n),
   plain .vdivVV .vdivVS (fun n a b => if b = 0 then 2 ^ n - 1 else wrap n ((sg n a).tdiv (sg n b))),
   plain .vdivuVV .vdivuVS (fun n a b => if b = 0 then 2 ^ n - 1 else a / b),
   plain .vremVV .vremVS (fun n a b => if b = 0 then a else wrap n ((sg n a).tmod (sg n b))),
   plain .vandVV .vandVS (fun _ a b => a &&& b),
   plain .vorVV .vorVS (fun _ a b => a ||| b),
   plain .vxorVV .vxorVS (fun _ a b => a ^^^ b),
   plain .vshlVV .vshlVS (fun n a b => a * 2 ^ (b % n) % 2 ^ n),
   plain .vshrVV .vshrVS (fun n a b => a / 2 ^ (b % n)),
   plain .vsarVV .vsarVS (fun n a b => wrap n (sg n a / (2 ^ (b % n) : Nat))),
   plain .vminVV .vminVS (fun n a b => if sg n a ≤ sg n b then a else b),
   plain .vmaxVV .vmaxVS (fun n a b => if sg n a ≤ sg n b then b else a),
   ⟨.vsaddVV, .vsaddVS, id, id, false, fun n a b _ => clamp n (sg n a + sg n b), fun n a b _ => clamp n (sg n a + sg n b)⟩,
   ⟨.vwaddVV, .vwaddVS, fun n => 2 * n, id, false, fun n a b _ => (wrap (2 * n) (sg n a + sg n b), false),
     fun n a b _ => (wrap (2 * n) (sg n a + sg n b), false)⟩,
   ⟨.vnclipVV, .vnclipVS, id, fun n => 2 * n, false, fun n a b _ => clip n b a, fun n a b _ => clip n a b⟩,
   ⟨.vadcVV, .vadcVS, id, id, true, fun n a b c => (wrap n (a + b + c), false), fun n a b c => (wrap n (a + b + c), false)⟩,
   ⟨.vsbcVV, .vsbcVS, id, id, true, fun n a b c => (wrap n (a - b - c), false), fun n a b c => (wrap n (a - b - c), false)⟩]

/-- The carry into element `i` (R161). -/
def carryOf (s : State) (pm i : Nat) : Nat := if pm ≠ 0 ∧ maskBit s.hart.ep pm i = true then 1 else 0

/-- An integer compare or carry-out word: its two forms, whether pm names a carry mask, and its condition (R161, R165). -/
structure CmpRow where
  vv : OpV → Instr
  vs : OpV → Instr
  carries : Bool
  holds : Nat → Nat → Nat → Nat → Bool

def cmpRows : List CmpRow :=
  [⟨.vcmpeqVV, .vcmpeqVS, false, fun _ a b _ => decide (a = b)⟩, ⟨.vcmpneVV, .vcmpneVS, false, fun _ a b _ => decide (a ≠ b)⟩,
   ⟨.vcmpltVV, .vcmpltVS, false, fun n a b _ => decide (sg n a < sg n b)⟩, ⟨.vcmpleVV, .vcmpleVS, false, fun n a b _ => decide (sg n a ≤ sg n b)⟩,
   ⟨.vcmpltuVV, .vcmpltuVS, false, fun _ a b _ => decide (a < b)⟩, ⟨.vcmpleuVV, .vcmpleuVS, false, fun _ a b _ => decide (a ≤ b)⟩,
   ⟨.vcmpgtVV, .vcmpgtVS, false, fun n a b _ => decide (sg n b < sg n a)⟩, ⟨.vcmpgtuVV, .vcmpgtuVS, false, fun _ a b _ => decide (b < a)⟩,
   ⟨.vmadcVV, .vmadcVS, true, fun n a b c => decide (2 ^ n ≤ a + b + c)⟩, ⟨.vmsbcVV, .vmsbcVS, true, fun _ a b c => decide (a < b + c)⟩]

/-- The mask words with the bit they write (R166). -/
def maskRows : List ((OpDSS → Instr) × (Bool → Bool → Bool)) :=
  [(.mand, fun a b => a && b), (.mor, fun a b => a || b), (.mxor, fun a b => xor a b), (.mandn, fun a b => a && !b)]

/-! ### Floating-point elements -/

/-- A vector floating-point word beside the scalar word that computes the same (R163): both forms as instructions, and the scalar word on x1 and x2
into x3, with x3 as its third operand, under a rounding mode. -/
structure FpRow where
  vv : OpV → Instr
  vs : OpV → Instr
  scalar : Fin 4 → Fin 8 → Instr

def fpRows : List FpRow :=
  [⟨.vfaddVV, .vfaddVS, fun f rm => .fadd ⟨3, 1, 2, f, rm⟩⟩, ⟨.vfsubVV, .vfsubVS, fun f rm => .fsub ⟨3, 1, 2, f, rm⟩⟩,
   ⟨.vfmulVV, .vfmulVS, fun f rm => .fmul ⟨3, 1, 2, f, rm⟩⟩, ⟨.vfdivVV, .vfdivVS, fun f rm => .fdiv ⟨3, 1, 2, f, rm⟩⟩,
   ⟨.vfmaVV, .vfmaVS, fun f rm => .fma ⟨3, 1, 2, 3, f, rm⟩⟩, ⟨.vfminVV, .vfminVS, fun f _ => .fmin ⟨3, 1, 2, f⟩⟩,
   ⟨.vfmaxVV, .vfmaxVS, fun f _ => .fmax ⟨3, 1, 2, f⟩⟩]

/-- What a scalar word leaves in x3, and the flags that it adds to FCSR, when x1, x2 and x3 hold the patterns a, b and c. -/
def scalarAnswer (i : Instr) (a b c r fl : Nat) : Prop :=
  ∀ s : State, reg s 1 = BitVec.ofNat 64 a → reg s 2 = BitVec.ofNat 64 b → reg s 3 = BitVec.ofNat 64 c →
    ∃ t, exec i s = .next t ∧ reg t 3 = BitVec.ofNat 64 r ∧ t.hart.sc.fcsr = s.hart.sc.fcsr ||| BitVec.ofNat 8 fl

/-- The same with generator 0 in a given state, which a stochastic word draws from. -/
def scalarDrawAnswer (i : Instr) (a b c : Nat) (g : BitVec 32) (r fl : Nat) : Prop :=
  ∀ s : State, reg s 1 = BitVec.ofNat 64 a → reg s 2 = BitVec.ofNat 64 b → reg s 3 = BitVec.ofNat 64 c → s.hart.sc.gens[0] = g →
    ∃ t, exec i s = .next t ∧ reg t 3 = BitVec.ofNat 64 r ∧ t.hart.sc.fcsr = s.hart.sc.fcsr ||| BitVec.ofNat 8 fl

/-- The bits of the format that a sew field codes in the floating-point classes (R153). -/
def fpWidth (sew : Fin 4) : Nat := match sew.val with | 0 => 64 | 1 => 32 | _ => 16

/-- A floating-point compare beside FCMP's condition (R165). -/
def fcmpRows : List ((OpV → Instr) × (OpV → Instr) × Fin 8) :=
  [(.vcmpfeqVV, .vcmpfeqVS, 0), (.vcmpfltVV, .vcmpfltVS, 1), (.vcmpfleVV, .vcmpfleVS, 2), (.vcmpfunordVV, .vcmpfunordVS, 3)]

/-- The lane of element `i` of a register group written at width `w` (R92): position 16 j + l of the hart's j-th lane group. For an element beyond
its group's first register it is the model's reading (log 11) that the lane is that of its place within its own register. -/
def laneOf (e : Exec) (w i : Nat) : Nat :=
  let per := 1024 * 2 ^ e.depth.val / w
  let j := i % perAt e w
  16 * (j / per) + j % per * (w / 8) % 128 / 8

/-- The active elements of a word below `hi` that draw from lane `p`. -/
def drawsBelow (s : State) (pm w hi p : Nat) : Nat :=
  ((List.range hi).filter fun j => startOf s ≤ j && isActive s pm j && laneOf s.hart.ep w j == p).length

/-- Generator `g` after `n` draws (R90). -/
def drawnTimes (s : State) (g n : Nat) : BitVec 32 := if h : g < 257 then nextDraw^[n] s.hart.sc.gens[g] else 0

/-- The draw of element `i` in stochastic mode: the elements that share a lane draw in ascending order (R92). -/
def drawOf (s : State) (pm w i : Nat) : Nat := (drawnTimes s (1 + laneOf s.hart.ep w i) (drawsBelow s pm w i (laneOf s.hart.ep w i) + 1)).toNat

/-- A word that writes elements of width `w` and rounds has moved each lane's generator once for each active element that it holds, in stochastic
mode, and no generator otherwise (R92). -/
def lanesDrawn (s t : State) (pm w : Nat) : Prop :=
  t.hart.sc.gens[0] = s.hart.sc.gens[0]
  ∧ ∀ p (h : p < 256), t.hart.sc.gens[1 + p] =
      if (s.hart.ep.vcfg >>> 5).toNat = 4 then drawnTimes s (1 + p) (drawsBelow s pm w s.hart.ep.vl p) else s.hart.sc.gens[1 + p]

/-- VSTAT after a word whose active element `i` raises the flags `fl i` (R152). -/
def accrued (s t : State) (pm : Nat) (fl : Nat → Nat) : Prop :=
  ∀ k < 8, t.hart.ep.vstat.getLsbD k = true ↔
    s.hart.ep.vstat.getLsbD k = true ∨ ∃ i, startOf s ≤ i ∧ i < s.hart.ep.vl ∧ isActive s pm i = true ∧ (fl i).testBit k = true

/-- The code `c` and flags `fl` that a value gives in a format (R87 to R89, R93): rounded where the format reaches it, the overflow of its mode far
beyond, and the format's own answer to infinities and NaNs. -/
def Converts (f : Fmt) (nan mode draw : Nat) (v : FVal) (c fl : Nat) : Prop :=
  let m := if f.narrow then nan else 2
  match v with
  | .nan sig => if m = 0 then c = 0 ∧ fl = 16 else c = f.nanCode ∧ fl = if sig then 16 else 0
  | .inf neg =>
    if m = 2 then f.decode nan c = .inf neg ∧ fl = 0
    else if m = 1 then c = f.nanCode ∧ fl = 16
    else (∃ y, finite (f.decode nan c) = some (if neg then -y else y) ∧ 0 < y ∧ ∀ z, Holds f nan z → z ≤ y) ∧ fl = 16
  | .fin neg _ _ => ∀ x, finite v = some x →
    ((∃ y, Holds f nan y ∧ |x| ≤ y) → Rounds f nan mode draw x neg c fl)
    ∧ (∀ y, Holds f nan y → (∀ z, Holds f nan z → z ≤ y) → 2 * y ≤ |x| →
        fl = 5 ∧ if m = 2 ∧ ¬(mode = 1 ∨ mode = 2 ∧ 0 < x ∨ mode = 3 ∧ x < 0) then f.decode nan c = .inf neg
          else finite (f.decode nan c) = some (if neg then -y else y))

/-- The pattern and flags that a value gives in an integer of `n` bits (R94, R88). -/
def ConvertsInt (n : Nat) (sgd : Bool) (mode draw : Nat) (v : FVal) (c fl : Nat) : Prop :=
  let lo : Int := if sgd then -2 ^ (n - 1) else 0
  let hi : Int := if sgd then 2 ^ (n - 1) - 1 else 2 ^ n - 1
  match v with
  | .nan _ => c = 0 ∧ fl = 16
  | .inf neg => c = wrap n (if neg then lo else hi) ∧ fl = 16
  | .fin _ _ _ => ∀ x, finite v = some x → ∃ k : Int, Chosen (fun z => ∃ j : Int, z = j) (k % 2 = 0) mode draw x k
    ∧ (lo ≤ k → k ≤ hi → c = wrap n k ∧ (x = k ∧ fl = 0 ∨ x ≠ k ∧ fl = 1)) ∧ (k < lo → c = wrap n lo ∧ fl = 16) ∧ (hi < k → c = wrap n hi ∧ fl = 16)

/-- What a reduction carries from one combination to the next: the generators, and the flags raised so far. -/
abbrev Carried : Type := (Nat → BitVec 32) × Nat

/-- A combination of R97, whose rounding, where it makes one, draws from generator `g` in stochastic mode (R92); an absent operand passes the other
on, with no draw and no flag. `f` is the operation on the draw's generator, with its flags. -/
def combined (f : BitVec 32 → Nat → Nat → Nat × Nat) (draws : Bool) (g : Nat) (a b : Option Nat) (c : Carried) : Option Nat × Carried :=
  match a, b with
  | none, b => (b, c)
  | a, none => (a, c)
  | some x, some y =>
    let r := f (c.1 g) x y
    (some r.1, if draws then Function.update c.1 g (nextDraw (c.1 g)) else c.1, c.2 ||| r.2)

/-- What is carried once the first `n` combinations of a level of `half` have been made: each draws from the lane of its lower-indexed operand (R92).
-/
def levelTo (f : BitVec 32 → Nat → Nat → Nat × Nat) (draws : Bool) (lane : Nat → Nat) (half : Nat) (w : Nat → Option Nat) (c : Carried) : Nat → Carried
  | 0 => c
  | n + 1 => (combined f draws (lane n) (w n) (w (n + half)) (levelTo f draws lane half w c n)).2

/-- The tree of R97 over 2^k leaves. -/
def treeOf (f : BitVec 32 → Nat → Nat → Nat × Nat) (draws : Bool) (lane : Nat → Nat) : Nat → (Nat → Option Nat) → Carried → Option Nat × Carried
  | 0, w, c => (w 0, c)
  | k + 1, w, c => treeOf f draws lane k (fun i => (combined f draws (lane i) (w i) (w (i + 2 ^ k)) (levelTo f draws lane (2 ^ k) w c i)).1)
      (levelTo f draws lane (2 ^ k) w c (2 ^ k))

/-- `y` is the FP32 number nearest to `x`, ties to even (R87, R99). -/
def Near (x y : ℝ) : Prop := ∃ neg c fl, Rounds fp32 2 0 0 x neg c fl ∧ finite (fp32.decode 2 c) = some y

end Sys2Proof.Stated

/-! ### Vector words -/

/-- R154 to R162, R49: an integer word that issues on an idle hart completes: each active element of its destination group holds the row's result
on its operands as they stood before, inactive elements and the tail follow IZ and TZ, a lent copy receives the same, SAT is accrued exactly where
an active element is clamped, nothing is drawn, and nothing else changes. -/
def Obligations.VectorIntegerResults : Prop :=
  ∀ row ∈ Stated.intRows, ∀ (o : OpV) (s : State), Stated.idle s →
    let w := 8 * 2 ^ o.sew.val
    let n := max 1 (2 ^ s.hart.ep.group.val * row.wd w / w)
    let pm := if row.carries then 0 else o.pm.val
    let c := fun i => if row.carries then Stated.carryOf s o.pm.val i else 0
    let fv := fun i => row.fv w (Stated.element s.hart.ep o.s1.val w i) (Stated.element s.hart.ep o.s2.val (row.w2 w) i) (c i)
    let fs := fun i => row.fs w (Stated.element s.hart.ep o.s2.val (row.w2 w) i) ((Stated.reg s o.s1).toNat % 2 ^ w) (c i)
    (Stated.issues (row.vv o) s → ∃ t, exec (row.vv o) s = .next t ∧ Stated.onlyExecutes s t ∧ t.hart.sc.gens = s.hart.sc.gens
      ∧ Stated.elementsWritten s t o.d.val (row.wd w) n pm (fun i => (fv i).1)
      ∧ Stated.flagged s t pm (Stated.startOf s) (fun i => (fv i).2 = true) 0x20)
    ∧ (Stated.issues (row.vs o) s → ∃ t, exec (row.vs o) s = .next t ∧ Stated.onlyExecutes s t ∧ t.hart.sc.gens = s.hart.sc.gens
      ∧ Stated.elementsWritten s t o.d.val (row.wd w) n pm (fun i => (fs i).1)
      ∧ Stated.flagged s t pm (Stated.startOf s) (fun i => (fs i).2 = true) 0x20)

/-- R161, R165, R157, R158: an integer compare or carry-out word that issues on an idle hart completes: each active bit of its mask holds the row's
condition, other bits follow IZ and TZ, no flag is raised, nothing is drawn, and nothing else changes. -/
def Sys2Proof.Stated.VectorCompareResults : Prop :=
  ∀ row ∈ Stated.cmpRows, ∀ (o : OpV) (s : State), Stated.idle s → o.d.val ≤ 7 →
    let w := 8 * 2 ^ o.sew.val
    let pm := if row.carries then 0 else o.pm.val
    let c := fun i => if row.carries then Stated.carryOf s o.pm.val i else 0
    (Stated.issues (row.vv o) s → ∃ t, exec (row.vv o) s = .next t ∧ Stated.onlyExecutes s t
      ∧ t.hart.sc.gens = s.hart.sc.gens ∧ t.hart.ep.vstat = s.hart.ep.vstat
      ∧ Stated.maskWritten s t o.d.val pm
          (fun i => row.holds w (Stated.element s.hart.ep o.s1.val w i) (Stated.element s.hart.ep o.s2.val w i) (c i)))
    ∧ (Stated.issues (row.vs o) s → ∃ t, exec (row.vs o) s = .next t ∧ Stated.onlyExecutes s t
      ∧ t.hart.sc.gens = s.hart.sc.gens ∧ t.hart.ep.vstat = s.hart.ep.vstat
      ∧ Stated.maskWritten s t o.d.val pm
          (fun i => row.holds w (Stated.element s.hart.ep o.s2.val w i) ((Stated.reg s o.s1).toNat % 2 ^ w) (c i)))

/-- R165, R111: a floating-point compare that issues on an idle hart completes: each active bit says whether FCMP's condition holds of its operands,
and NV is accrued exactly where FCMP would raise it for an active element. -/
def Sys2Proof.Stated.VectorFpCompareResults : Prop :=
  ∀ row ∈ Stated.fcmpRows, ∀ (o : OpV) (s : State), Stated.idle s → o.d.val ≤ 7 →
    let f := fmtOf o.sew.val
    let w := Stated.fpWidth o.sew
    let nv := fun (a b : FVal) => Stated.signals a ∨ Stated.signals b
      ∨ ((row.2.2.val = 1 ∨ row.2.2.val = 2) ∧ (Stated.number a = none ∨ Stated.number b = none))
    let el := fun (r : Reg) i => f.decode 2 (Stated.element s.hart.ep r.val w i)
    let sc := f.decode 2 ((Stated.reg s o.s1).toNat % 2 ^ w)
    (Stated.issues (row.1 o) s → ∃ (t : State) (g : Nat → Bool), exec (row.1 o) s = .next t ∧ Stated.onlyExecutes s t
      ∧ (∀ i, g i = true ↔ Stated.compares row.2.2 (el o.s1 i) (el o.s2 i)) ∧ Stated.maskWritten s t o.d.val o.pm.val g
      ∧ Stated.flagged s t o.pm.val 0 (fun i => nv (el o.s1 i) (el o.s2 i)) 0x10)
    ∧ (Stated.issues (row.2.1 o) s → ∃ (t : State) (g : Nat → Bool), exec (row.2.1 o) s = .next t ∧ Stated.onlyExecutes s t
      ∧ (∀ i, g i = true ↔ Stated.compares row.2.2 (el o.s2 i) sc) ∧ Stated.maskWritten s t o.d.val o.pm.val g
      ∧ Stated.flagged s t o.pm.val 0 (fun i => nv (el o.s2 i) sc) 0x10)

/-- Integer and floating-point compares (R161, R165). -/
def Obligations.VectorCompares : Prop := Stated.VectorCompareResults ∧ Stated.VectorFpCompareResults

/-- R163, R152: outside stochastic mode, each active element of a vector floating-point word that issues on an idle hart is what the scalar word of
the same name leaves for the same operands in the mode of VCFG; other elements follow IZ and TZ, registers outside the destination stay, and VSTAT
accrues the flags that the scalar words raise. -/
def Sys2Proof.Stated.VectorFpElements : Prop :=
  (∀ row ∈ Stated.fpRows, ∀ (o : OpV) (s : State), Stated.idle s → ∀ rm : Fin 8, rm.val = (s.hart.ep.vcfg >>> 5).toNat → rm.val < 4 →
    let w := Stated.fpWidth o.sew
    let n := 2 ^ s.hart.ep.group.val
    let el := fun (r : Reg) i => Stated.element s.hart.ep r.val w i
    (Stated.issues (row.vv o) s → ∃ (t : State) (f fl : Nat → Nat), exec (row.vv o) s = .next t ∧ Stated.onlyExecutes s t
      ∧ (∀ i, Stated.scalarAnswer (row.scalar o.sew rm) (el o.s1 i) (el o.s2 i) (el o.d i) (f i) (fl i))
      ∧ Stated.elementsWritten s t o.d.val w n o.pm.val f ∧ Stated.accrued s t o.pm.val fl)
    ∧ (Stated.issues (row.vs o) s → ∃ (t : State) (f fl : Nat → Nat), exec (row.vs o) s = .next t ∧ Stated.onlyExecutes s t
      ∧ (∀ i, Stated.scalarAnswer (row.scalar o.sew rm) (el o.s2 i) ((Stated.reg s o.s1).toNat % 2 ^ w) (el o.d i) (f i) (fl i))
      ∧ Stated.elementsWritten s t o.d.val w n o.pm.val f ∧ Stated.accrued s t o.pm.val fl))
  ∧ (∀ (o : OpV1) (s : State), Stated.idle s → ∀ rm : Fin 8, rm.val = (s.hart.ep.vcfg >>> 5).toNat → rm.val < 4 →
    Stated.issues (.vfsqrt o) s → ∃ (t : State) (f fl : Nat → Nat), exec (.vfsqrt o) s = .next t ∧ Stated.onlyExecutes s t
      ∧ (∀ i, Stated.scalarAnswer (.fsqrt ⟨3, 1, o.sew, rm⟩) (Stated.element s.hart.ep o.s1.val (Stated.fpWidth o.sew) i) 0 0 (f i) (fl i))
      ∧ Stated.elementsWritten s t o.d.val (Stated.fpWidth o.sew) (2 ^ s.hart.ep.group.val) o.pm.val f ∧ Stated.accrued s t o.pm.val fl)

/-- R163, R92, R87, R152: in stochastic mode each active element is what the scalar word of the same name leaves when it draws from the lane's
generator as the elements below it have left it, each generator has moved once for each active element of its lane, and VSTAT accrues the flags.
VFMIN and VFMAX round nothing, and are in that mode as in any other. -/
def Sys2Proof.Stated.VectorFpStochastic : Prop :=
  (∀ row ∈ Stated.fpRows.take 5, ∀ (o : OpV) (s : State), Stated.idle s → (s.hart.ep.vcfg >>> 5).toNat = 4 →
    let w := Stated.fpWidth o.sew
    let n := 2 ^ s.hart.ep.group.val
    let el := fun (r : Reg) i => Stated.element s.hart.ep r.val w i
    let before := fun i => Stated.drawnTimes s (1 + Stated.laneOf s.hart.ep w i)
      (Stated.drawsBelow s o.pm.val w i (Stated.laneOf s.hart.ep w i))
    (Stated.issues (row.vv o) s → ∃ (t : State) (f fl : Nat → Nat), exec (row.vv o) s = .next t ∧ Stated.executes true false s t
      ∧ (∀ i, Stated.scalarDrawAnswer (row.scalar o.sew 4) (el o.s1 i) (el o.s2 i) (el o.d i) (before i) (f i) (fl i))
      ∧ Stated.elementsWritten s t o.d.val w n o.pm.val f ∧ Stated.accrued s t o.pm.val fl ∧ Stated.lanesDrawn s t o.pm.val w)
    ∧ (Stated.issues (row.vs o) s → ∃ (t : State) (f fl : Nat → Nat), exec (row.vs o) s = .next t ∧ Stated.executes true false s t
      ∧ (∀ i, Stated.scalarDrawAnswer (row.scalar o.sew 4) (el o.s2 i) ((Stated.reg s o.s1).toNat % 2 ^ w) (el o.d i) (before i) (f i) (fl i))
      ∧ Stated.elementsWritten s t o.d.val w n o.pm.val f ∧ Stated.accrued s t o.pm.val fl ∧ Stated.lanesDrawn s t o.pm.val w))
  ∧ (∀ (o : OpV1) (s : State), Stated.idle s → (s.hart.ep.vcfg >>> 5).toNat = 4 →
    let w := Stated.fpWidth o.sew
    let before := fun i => Stated.drawnTimes s (1 + Stated.laneOf s.hart.ep w i)
      (Stated.drawsBelow s o.pm.val w i (Stated.laneOf s.hart.ep w i))
    Stated.issues (.vfsqrt o) s → ∃ (t : State) (f fl : Nat → Nat), exec (.vfsqrt o) s = .next t ∧ Stated.executes true false s t
      ∧ (∀ i, Stated.scalarDrawAnswer (.fsqrt ⟨3, 1, o.sew, 4⟩) (Stated.element s.hart.ep o.s1.val w i) 0 0 (before i) (f i) (fl i))
      ∧ Stated.elementsWritten s t o.d.val w (2 ^ s.hart.ep.group.val) o.pm.val f ∧ Stated.accrued s t o.pm.val fl
      ∧ Stated.lanesDrawn s t o.pm.val w)
  ∧ (∀ row ∈ Stated.fpRows.drop 5, ∀ (o : OpV) (s : State), Stated.idle s → (s.hart.ep.vcfg >>> 5).toNat = 4 →
    let w := Stated.fpWidth o.sew
    let n := 2 ^ s.hart.ep.group.val
    let el := fun (r : Reg) i => Stated.element s.hart.ep r.val w i
    (Stated.issues (row.vv o) s → ∃ (t : State) (f fl : Nat → Nat), exec (row.vv o) s = .next t ∧ Stated.onlyExecutes s t
      ∧ (∀ i, Stated.scalarAnswer (row.scalar o.sew 0) (el o.s1 i) (el o.s2 i) 0 (f i) (fl i))
      ∧ Stated.elementsWritten s t o.d.val w n o.pm.val f ∧ Stated.accrued s t o.pm.val fl)
    ∧ (Stated.issues (row.vs o) s → ∃ (t : State) (f fl : Nat → Nat), exec (row.vs o) s = .next t ∧ Stated.onlyExecutes s t
      ∧ (∀ i, Stated.scalarAnswer (row.scalar o.sew 0) (el o.s2 i) ((Stated.reg s o.s1).toNat % 2 ^ w) 0 (f i) (fl i))
      ∧ Stated.elementsWritten s t o.d.val w n o.pm.val f ∧ Stated.accrued s t o.pm.val fl))

/-- R164, R87 to R94: VFCVT, VFCVTI and VFCVTF of a hart where they issue convert each active element, as its own format and NaN mode have it, in the
mode of VCFG with the draw of its lane; other elements follow IZ and TZ, and the flags are accrued. -/
def Sys2Proof.Stated.VectorConversions : Prop :=
  (∀ (o : OpVCvt) (s : State), Stated.idle s → (s.hart.ep.vcfg >>> 5).toNat ≤ 4 →
    let own := fmtOf o.sew.val
    let other := fmtOf o.other.val
    let src := if o.dir.val = 0 then own else other
    let dst := if o.dir.val = 0 then other else own
    let nan := (s.hart.ep.vcfg.extractLsb' 3 2).toNat
    nan ≤ 2 → Stated.issues (.vfcvt o) s → ∃ (t : State) (f fl : Nat → Nat), exec (.vfcvt o) s = .next t ∧ Stated.executes true false s t
      ∧ (∀ i, Stated.Converts dst nan (s.hart.ep.vcfg >>> 5).toNat (Stated.drawOf s o.pm.val dst.width i)
          (src.decode nan (Stated.element s.hart.ep o.s1.val src.width i)) (f i) (fl i))
      ∧ Stated.elementsWritten s t o.d.val dst.width (max 1 (2 ^ s.hart.ep.group.val * dst.width / own.width)) o.pm.val f
      ∧ Stated.accrued s t o.pm.val fl ∧ Stated.lanesDrawn s t o.pm.val dst.width)
  ∧ (∀ (o : OpVCvtI) (s : State), Stated.idle s → (s.hart.ep.vcfg >>> 5).toNat ≤ 4 →
    let own := fmtOf o.sew.val
    let n := 8 * 2 ^ o.iw.val
    (Stated.issues (.vfcvti o) s → ∃ (t : State) (f fl : Nat → Nat), exec (.vfcvti o) s = .next t ∧ Stated.executes true false s t
      ∧ (∀ i, Stated.ConvertsInt n (o.signed.val == 1) (s.hart.ep.vcfg >>> 5).toNat (Stated.drawOf s o.pm.val n i)
          (own.decode 2 (Stated.element s.hart.ep o.s1.val own.width i)) (f i) (fl i))
      ∧ Stated.elementsWritten s t o.d.val n (max 1 (2 ^ s.hart.ep.group.val * n / own.width)) o.pm.val f
      ∧ Stated.accrued s t o.pm.val fl ∧ Stated.lanesDrawn s t o.pm.val n)
    ∧ (Stated.issues (.vfcvtf o) s → ∃ (t : State) (f fl : Nat → Nat), exec (.vfcvtf o) s = .next t ∧ Stated.executes true false s t
      ∧ (∀ i, let e := Stated.element s.hart.ep o.s1.val n i
          let z : Int := if o.signed.val = 1 then Stated.sg n e else e
          Stated.Converts own 2 (s.hart.ep.vcfg >>> 5).toNat (Stated.drawOf s o.pm.val own.width i) (.fin (decide (z < 0)) z.natAbs 0) (f i) (fl i))
      ∧ Stated.elementsWritten s t o.d.val own.width (2 ^ s.hart.ep.group.val) o.pm.val f
      ∧ Stated.accrued s t o.pm.val fl ∧ Stated.lanesDrawn s t o.pm.val own.width))

/-- R98, R99, R163: VFEXP2 of a hart where it issues is exact on whole numbers of the normal range, gives infinity and zero beyond 128 and below −160
with their flags, and the canonical NaN for a NaN; between, it is the product of 2^(j/64), rounded, and of the polynomial of R98's coefficients, each
step rounded to nearest, scaled with one more rounding, whose flags are its own. It draws nothing. -/
def Sys2Proof.Stated.VectorExp2 : Prop :=
  ∀ (o : OpV1) (s : State), Stated.idle s → Stated.issues (.vfexp2 o) s →
    ∃ (t : State) (f fl : Nat → Nat), exec (.vfexp2 o) s = .next t ∧ Stated.onlyExecutes s t
      ∧ Stated.elementsWritten s t o.d.val 32 (2 ^ s.hart.ep.group.val) o.pm.val f ∧ Stated.accrued s t o.pm.val fl
      ∧ ∀ i, let v := fp32.decode 2 (Stated.element s.hart.ep o.s1.val 32 i)
        (∀ k : Int, -126 ≤ k → k ≤ 127 → Stated.finite v = some (k : ℝ) →
          Stated.finite (fp32.decode 2 (f i)) = some ((2 : ℝ) ^ k) ∧ fl i = 0)
        ∧ (∀ x, Stated.finite v = some x → (128 ≤ x → f i = 0x7F800000 ∧ fl i = 5) ∧ (x < -160 → f i = 0 ∧ fl i = 3)
          ∧ (-160 ≤ x → x < 128 → ∃ (j : Nat) (m : Int) (a1 a2 a3 a4 a5 a6 t b : ℝ), j < 64 ∧ ⌊x * 64⌋ = 64 * m + j
            ∧ let r := x - (⌊x * 64⌋ : ℝ) / 64
              Stated.Near (r * (0xE35847 / 2 ^ 28)) a1 ∧ Stated.Near (a1 + 0xF5FDF0 / 2 ^ 26) a2 ∧ Stated.Near (r * a2) a3
              ∧ Stated.Near (a3 + 0xB17218 / 2 ^ 24) a4 ∧ Stated.Near (r * a4) a5 ∧ Stated.Near (a5 + 1) a6
              ∧ Stated.Near ((2 : ℝ) ^ ((j : ℝ) / 64)) t ∧ Stated.Near (t * a6) b ∧ Stated.Rounds fp32 2 0 0 (b * (2 : ℝ) ^ m) false (f i) (fl i)))
        ∧ (v = .inf false → f i = 0x7F800000 ∧ fl i = 0) ∧ (v = .inf true → f i = 0 ∧ fl i = 0)
        ∧ (Stated.number v = none → f i = 0x7FC00000 ∧ (fl i = 16 ↔ Stated.signals v))

/-- R97, R169, R92: VREDFSUM and VREDFMAX of a hart where they issue leave in element 0 the start value combined with the tree of the active elements,
each node as FADD or FMAX would answer it. In stochastic mode each node of VREDFSUM draws from the lane of its lower-indexed operand, and the start
value's combination from lane 0; VSTAT accrues the nodes' flags. That a node whose lower-indexed operand was passed up draws from the lane of its
place is the model's reading (log 11). -/
def Sys2Proof.Stated.VectorFpReductions : Prop :=
  ∀ (o : OpV) (s : State), Stated.idle s → s.hart.ep.vl ≠ 0 → ∀ rm : Fin 8, rm.val = (s.hart.ep.vcfg >>> 5).toNat → rm.val ≤ 4 →
    let w := Stated.fpWidth o.sew
    let lane := fun i => 1 + Stated.laneOf s.hart.ep w i
    let gens : Nat → BitVec 32 := fun g => if h : g < 257 then s.hart.sc.gens[g] else 0
    let start := Stated.element s.hart.ep o.s2.val w 0
    let leaf := fun i => if i < s.hart.ep.vl ∧ Stated.isActive s o.pm.val i = true then some (Stated.element s.hart.ep o.s1.val w i) else none
    ∀ k, s.hart.ep.vl ≤ 2 ^ k → (k = 0 ∨ 2 ^ (k - 1) < s.hart.ep.vl) →
    ∀ row ∈ [(Instr.vredfsum o, Instr.fadd ⟨3, 1, 2, o.sew, rm⟩, rm.val == 4), (Instr.vredfmax o, Instr.fmax ⟨3, 1, 2, o.sew⟩, false)],
    Stated.issues row.1 s → ∃ (t : State) (f : BitVec 32 → Nat → Nat → Nat × Nat), exec row.1 s = .next t ∧ Stated.executes row.2.2 false s t
      ∧ (∀ a b g, Stated.scalarDrawAnswer row.2.1 a b 0 g (f g a b).1 (f g a b).2)
      ∧ (let tree := Stated.treeOf f row.2.2 lane k leaf (gens, 0)
         let done := Stated.combined f row.2.2 1 (some start) tree.1 tree.2
         Stated.element t.hart.ep o.d.val w 0 = done.1.getD 0 ∧ t.hart.ep.vstat = s.hart.ep.vstat ||| BitVec.ofNat 8 done.2.2
         ∧ ∀ g (h : g < 257), t.hart.sc.gens[g] = done.2.1 g)
      ∧ (∀ i, 1 ≤ i → i < Stated.perAt s.hart.ep w →
          Stated.element t.hart.ep o.d.val w i = if Stated.tzOf s = true then 0 else Stated.element s.hart.ep o.d.val w i)
      ∧ (∀ r : Fin 32, r ≠ o.d → t.hart.ep.v[r.val] = s.hart.ep.v[r.val]) ∧ t.hart.ep.m = s.hart.ep.m ∧ t.hart.ep.tiles = s.hart.ep.tiles

/-- Vector floating-point words: their elements beside the scalar words, their draws, conversions, powers of two and reductions (R92, R97, R99, R163, R164, R169). -/
def Obligations.VectorFpElementsAreScalarResults : Prop :=
  Stated.VectorFpElements ∧ Stated.VectorFpStochastic ∧ Stated.VectorConversions ∧ Stated.VectorExp2 ∧ Stated.VectorFpReductions

/-- R166, R157: a mask word that issues on an idle hart with no lend pending completes: bits 0 to VL − 1 of its mask hold the bitwise result, bits
above follow TZ, and nothing else changes. MSHL's bit 0 is 0. -/
def Sys2Proof.Stated.MaskWordResults : Prop :=
  (∀ row ∈ Stated.maskRows, ∀ (o : OpDSS) (s : State), Stated.idle s → s.hart.sc.lend.getLsbD 31 = false → o.d.val ≤ 7 → Stated.issues (row.1 o) s →
    ∃ t, exec (row.1 o) s = .next t ∧ Stated.onlyExecutes s t ∧ t.hart.ep.vstat = s.hart.ep.vstat
      ∧ Stated.maskWritten s t o.d.val 0 (fun i => row.2 (Stated.maskBit s.hart.ep o.s1.val i) (Stated.maskBit s.hart.ep o.s2.val i)))
  ∧ (∀ (o : OpDS) (s : State), Stated.idle s → s.hart.sc.lend.getLsbD 31 = false → o.d.val ≤ 7 →
    (Stated.issues (.mnot o) s → ∃ t, exec (.mnot o) s = .next t ∧ Stated.onlyExecutes s t ∧ t.hart.ep.vstat = s.hart.ep.vstat
      ∧ Stated.maskWritten s t o.d.val 0 (fun i => !Stated.maskBit s.hart.ep o.s1.val i))
    ∧ (Stated.issues (.mshl o) s → ∃ t, exec (.mshl o) s = .next t ∧ Stated.onlyExecutes s t ∧ t.hart.ep.vstat = s.hart.ep.vstat
      ∧ Stated.maskWritten s t o.d.val 0 (fun i => decide (i ≠ 0) && Stated.maskBit s.hart.ep o.s1.val (i - 1))))
  ∧ (∀ (o : OpD) (s : State), Stated.idle s → s.hart.sc.lend.getLsbD 31 = false → o.d.val ≤ 7 → Stated.issues (.mset o) s →
    ∃ t, exec (.mset o) s = .next t ∧ Stated.onlyExecutes s t ∧ t.hart.ep.vstat = s.hart.ep.vstat
      ∧ Stated.maskWritten s t o.d.val 0 (fun _ => true))

/-- R166, R170, R126: the words that return a value complete on an idle hart and change only xd: MANY whether a bit below VL is set, MPOPC how many
are, MFIRST the lowest or −1, and VMVXS the sign-extended element 0, whatever VL is. -/
def Obligations.AnswersOfTheExecuteProcessor : Prop :=
  (∀ (o : OpDS) (s : State), Stated.idle s →
    let set := (Finset.range s.hart.ep.vl).filter (fun i => Stated.maskBit s.hart.ep o.s1.val i = true)
    exec (.many o) s = .next (Stated.answered s o.d (if set.Nonempty then 1 else 0))
    ∧ exec (.mpopc o) s = .next (Stated.answered s o.d (BitVec.ofNat 64 set.card))
    ∧ (∀ k ∈ set, (∀ j ∈ set, k ≤ j) → exec (.mfirst o) s = .next (Stated.answered s o.d (BitVec.ofNat 64 k)))
    ∧ (set = ∅ → exec (.mfirst o) s = .next (Stated.answered s o.d (-1))))
  ∧ (∀ (o : OpVMv) (s : State), Stated.idle s → exec (.vmvxs o) s = .next
      (Stated.answered s o.d (BitVec.ofInt 64 (Stated.sg (8 * 2 ^ o.sew.val) (Stated.element s.hart.ep o.s1.val (8 * 2 ^ o.sew.val) 0)))))

/-- The words of the V families that the execute processor performs and that touch no memory (R159 to R170), and those of the X and G families, the
G words in flag mode (R176 to R182, R189, R190). -/
def Sys2Proof.Stated.performed (i : Instr) : Bool :=
  match i with
  | .gori2 o | .ginc o | .gseg o | .gori3 o | .gins o => o.nf.val = 1
  | .mstore _ | .mload _ => false
  | _ => (0x40 ≤ encode i % 128 ∧ encode i % 128 ≤ 0x4A ∨ encode i % 128 = 0x60 ∨ encode i % 128 = 0x61) ∧ (vopOf i).isSome

/-- R127, R153, R156, R25: every V word, X word and flag-mode G word that touches no memory completes where it issues on an idle hart; of the vector
registers it changes at most its destination groups and their lent copies, of the masks at most those it writes, and only X words change tiles;
the scalar half, memory, the configuration and every other hart stay as they are; a generator moves only where a
rounding word is in stochastic mode, and the counters of exact predicates, GSTAT's and their dies', only by G words. -/
def Obligations.PerformedWordsTouchOnlyTheirDestinations : Prop :=
  ∀ (i : Instr) (op : VOp) (s : State), Stated.performed i = true → vopOf i = some op → Stated.idle s → s.issueBad (op.shape s.hart.ep) = false →
    ∃ t, exec i s = .next t
      ∧ Stated.executes (Stated.rounds i && (s.hart.ep.vcfg >>> 5).toNat == 4) (encode i % 128 = 0x62 ∨ encode i % 128 = 0x63) s { t with dies := s.dies }
      ∧ (encode i % 128 ≠ 0x62 → encode i % 128 ≠ 0x63 → t.dies = s.dies)
      ∧ (∀ r : Fin 32, (∀ d ∈ (op.shape s.hart.ep).dsts, ¬(d.reg ≤ r.val ∧ r.val < d.reg + d.size)
          ∧ ∀ c, Stated.lentCopy s = some c → ¬(c ≤ r.val ∧ r.val < c + d.size)) → t.hart.ep.v[r.val] = s.hart.ep.v[r.val])
      ∧ (∀ m : Fin 8, m.val ∉ (op.shape s.hart.ep).masks → t.hart.ep.m[m.val] = s.hart.ep.m[m.val])
      ∧ (encode i % 128 ≠ 0x60 → encode i % 128 ≠ 0x61 → t.hart.ep.tiles = s.hart.ep.tiles)

/-- R155: with VL = 0 every V word retires, uses up a pending lend, and changes no element, no tail, no mask bit, no flag and no generator (of the
indices at which stopped words have left registers, it may drop some); MANY and
MPOPC return 0, MFIRST returns −1, and VMVXS returns element 0 all the same. -/
def Obligations.NothingIsDoneAtLengthZero : Prop :=
  (∀ (i : Instr) (s : State), Stated.performed i = true → 0x40 ≤ encode i % 128 → encode i % 128 ≤ 0x4A → Stated.idle s → Stated.issues i s →
    s.hart.ep.vl = 0 → ∃ g, g.Sublist s.hart.ep.gpi
      ∧ exec i s = .next { Stated.passedBy s with hart := { (Stated.passedBy s).hart with ep := { s.hart.ep with gpi := g } } })
  ∧ (∀ (o : OpDS) (s : State), Stated.idle s → s.hart.ep.vl = 0 →
    exec (.many o) s = .next (Stated.answered s o.d 0) ∧ exec (.mpopc o) s = .next (Stated.answered s o.d 0)
    ∧ exec (.mfirst o) s = .next (Stated.answered s o.d (-1)))
  ∧ (∀ (o : OpVMv) (s : State), Stated.idle s → s.hart.ep.vl = 0 → exec (.vmvxs o) s = .next
      (Stated.answered s o.d (BitVec.ofInt 64 (Stated.sg (8 * 2 ^ o.sew.val) (Stated.element s.hart.ep o.s1.val (8 * 2 ^ o.sew.val) 0)))))

/-- R170, R167: VMVSX writes xs1 into element 0 of its register where VL is above 0, and VIOTA and VBCAST write each active element's index and the
scalar. -/
def Sys2Proof.Stated.MovesAndBroadcasts : Prop :=
  (∀ (o : OpVMv) (s : State), Stated.idle s → s.hart.sc.vstartArmed = false → Stated.issues (.vmvsx o) s → s.hart.ep.vl ≠ 0 →
    ∃ t, exec (.vmvsx o) s = .next t ∧ Stated.onlyExecutes s t
      ∧ Stated.element t.hart.ep o.d.val (8 * 2 ^ o.sew.val) 0 = (Stated.reg s o.s1).toNat % 2 ^ (8 * 2 ^ o.sew.val)
      ∧ (∀ i < Stated.perAt s.hart.ep (8 * 2 ^ o.sew.val), i ≠ 0 →
          Stated.element t.hart.ep o.d.val (8 * 2 ^ o.sew.val) i = Stated.element s.hart.ep o.d.val (8 * 2 ^ o.sew.val) i)
      ∧ (∀ r : Fin 32, r ≠ o.d → t.hart.ep.v[r.val] = s.hart.ep.v[r.val]) ∧ t.hart.ep.m = s.hart.ep.m ∧ t.hart.ep.tiles = s.hart.ep.tiles)
  ∧ (∀ (o : OpV0) (s : State), Stated.idle s → Stated.issues (.viota o) s → ∃ t, exec (.viota o) s = .next t ∧ Stated.onlyExecutes s t
      ∧ Stated.elementsWritten s t o.d.val (8 * 2 ^ o.sew.val) (2 ^ s.hart.ep.group.val) o.pm.val (fun i => i % 2 ^ (8 * 2 ^ o.sew.val)))
  ∧ (∀ (o : OpV1) (s : State), Stated.idle s → Stated.issues (.vbcast o) s → ∃ t, exec (.vbcast o) s = .next t ∧ Stated.onlyExecutes s t
      ∧ Stated.elementsWritten s t o.d.val (8 * 2 ^ o.sew.val) (2 ^ s.hart.ep.group.val) o.pm.val
          (fun _ => (Stated.reg s o.s1).toNat % 2 ^ (8 * 2 ^ o.sew.val)))

/-- R167, R168, R169, R97: what the permutes leave in their destination group, and the integer reductions in element 0 of theirs, on an idle hart
where they issue: a gather by its indices, slides by xs2, packing and spreading of active elements, the conflicts of aligned blocks, and the sum,
largest or smallest of the active elements and the start value. -/
def Sys2Proof.Stated.PermutesAndReductions : Prop :=
  (∀ (o : OpV) (s : State), Stated.idle s →
    let w := 8 * 2 ^ o.sew.val
    let n := 2 ^ s.hart.ep.group.val * Stated.perAt s.hart.ep w
    let a := Stated.element s.hart.ep o.s1.val w
    let x := Stated.element s.hart.ep o.s2.val w
    let f := (Stated.reg s o.s2).toNat
    (Stated.issues (.vgather o) s → ∃ t, exec (.vgather o) s = .next t ∧ Stated.onlyExecutes s t
      ∧ Stated.elementsWritten s t o.d.val w (2 ^ s.hart.ep.group.val) o.pm.val (fun i => if x i < n then a (x i) else 0))
    ∧ (Stated.issues (.vslidedn o) s → ∃ t, exec (.vslidedn o) s = .next t ∧ Stated.onlyExecutes s t
      ∧ Stated.elementsWritten s t o.d.val w (2 ^ s.hart.ep.group.val) o.pm.val (fun i => if i + f < n then a (i + f) else 0))
    ∧ (Stated.issues (.vslideup o) s → ∃ t, exec (.vslideup o) s = .next t ∧ Stated.onlyExecutes s t
      ∧ ∀ i < n, Stated.element t.hart.ep o.d.val w i =
          if i < f ∧ i < s.hart.ep.vl then Stated.element s.hart.ep o.d.val w i else Stated.elementAfter s o.d.val w o.pm.val (fun i => a (i - f)) i))
  ∧ (∀ (o : OpV1) (s : State), Stated.idle s → s.hart.ep.vl ≠ 0 →
    let w := 8 * 2 ^ o.sew.val
    let n := 2 ^ s.hart.ep.group.val * Stated.perAt s.hart.ep w
    let a := Stated.element s.hart.ep o.s1.val w
    let old := Stated.element s.hart.ep o.d.val w
    let active := (List.range s.hart.ep.vl).filter (Stated.isActive s o.pm.val)
    (Stated.issues (.vconflict o) s → ∃ t, exec (.vconflict o) s = .next t ∧ Stated.onlyExecutes s t
      ∧ Stated.elementsWritten s t o.d.val w (2 ^ s.hart.ep.group.val) o.pm.val (fun i =>
          ((Finset.range (i % w)).filter (fun k => Stated.isActive s o.pm.val (i - i % w + k) = true ∧ a (i - i % w + k) = a i)).sum (fun k => 2 ^ k)))
    ∧ (Stated.issues (.vcompress o) s → ∃ t, exec (.vcompress o) s = .next t ∧ Stated.onlyExecutes s t
      ∧ (∀ k (h : k < active.length), Stated.element t.hart.ep o.d.val w k = a active[k])
      ∧ (∀ i < n, active.length ≤ i → Stated.element t.hart.ep o.d.val w i = if Stated.tzOf s = true then 0 else old i))
    ∧ (Stated.issues (.vexpand o) s → ∃ t, exec (.vexpand o) s = .next t ∧ Stated.onlyExecutes s t
      ∧ ∀ i < n, Stated.element t.hart.ep o.d.val w i =
          if i < s.hart.ep.vl then
            (if Stated.isActive s o.pm.val i = true then a ((List.range i).filter (Stated.isActive s o.pm.val)).length
             else if Stated.izOf s = true then 0 else old i)
          else if Stated.tzOf s = true then 0 else old i))
  ∧ (∀ (o : OpV) (s : State), Stated.idle s → s.hart.ep.vl ≠ 0 →
    let w := 8 * 2 ^ o.sew.val
    let vals := Stated.element s.hart.ep o.s2.val w 0
      :: ((List.range s.hart.ep.vl).filter (Stated.isActive s o.pm.val)).map (Stated.element s.hart.ep o.s1.val w)
    let out := fun (t : State) => Stated.element t.hart.ep o.d.val w 0
    (Stated.issues (.vredsum o) s → ∃ t, exec (.vredsum o) s = .next t ∧ Stated.onlyExecutes s t ∧ out t = vals.sum % 2 ^ w)
    ∧ (Stated.issues (.vredmax o) s → ∃ t, exec (.vredmax o) s = .next t ∧ Stated.onlyExecutes s t
        ∧ out t ∈ vals ∧ ∀ v ∈ vals, Stated.sg w v ≤ Stated.sg w (out t))
    ∧ (Stated.issues (.vredmin o) s → ∃ t, exec (.vredmin o) s = .next t ∧ Stated.onlyExecutes s t
        ∧ out t ∈ vals ∧ ∀ v ∈ vals, Stated.sg w (out t) ≤ Stated.sg w v))

/-- Mask words, moves, permutes and integer reductions (R166 to R170). -/
def Obligations.MasksMovesAndPermutes : Prop := Stated.MaskWordResults ∧ Stated.MovesAndBroadcasts ∧ Stated.PermutesAndReductions

namespace Sys2Proof.Stated

open Sys2Proof.Machine

/-! ### Vector memory -/

/-- Bytes of a segment (R235). -/
def segmentBytes (o : OpVSeg) : Nat :=
  if o.kind.val = 0 then (o.nf.val + 1) * 2 ^ o.ew.val else if o.kind.val = 1 then [33, 25].getD o.nf.val 17 else 33

/-- Bytes of a segment's slot: the least power of two that holds it (R235). -/
def slotBytes (o : OpVSeg) : Nat := 2 ^ Nat.clog 2 (segmentBytes o)

/-- How a VM word reaches memory: its kind, the width code of ACCESS, the bytes that its addresses are aligned to, its pm field, the bits of ACCESS
that say strided or indexed, STRIDE of a fault record, and the addresses of its elements modulo 2^64 (R234 to R237, R336). -/
structure Reach where
  kind : Kind
  code : Nat
  bytes : Nat
  pm : Nat
  bits : Nat
  stride : Nat
  address : Nat → Nat

/-- The address of element `i` at a base and a distance. -/
def spaced (b step : Word) (i : Nat) : Nat := (b.toNat + i * step.toNat) % 2 ^ 64

/-- The address of element `i` at a base and an index group, read at VTYPE.SEW. -/
def indexed (s : State) (b : Word) (r i : Nat) : Nat := (b.toNat + element s.hart.ep r (8 * 2 ^ s.hart.ep.sew.val) i) % 2 ^ 64

/-- The words of op7 0x50 to 0x58. -/
def reach (i : Instr) (s : State) : Option Reach :=
  match i with
  | .vld o => some ⟨.read, o.sew.val, 2 ^ o.sew.val, o.pm.val, 0, 2 ^ o.sew.val, spaced (reg s o.s1) (BitVec.ofNat 64 (2 ^ o.sew.val))⟩
  | .vst o => some ⟨.write, o.sew.val, 2 ^ o.sew.val, o.pm.val, 0, 2 ^ o.sew.val, spaced (reg s o.s1) (BitVec.ofNat 64 (2 ^ o.sew.val))⟩
  | .vlds o => some ⟨.read, o.sew.val, 2 ^ o.sew.val, o.pm.val, 64, (reg s o.s2).toNat, spaced (reg s o.s1) (reg s o.s2)⟩
  | .vsts o => some ⟨.write, o.sew.val, 2 ^ o.sew.val, o.pm.val, 64, (reg s o.s2).toNat, spaced (reg s o.s1) (reg s o.s2)⟩
  | .vldx o => some ⟨.read, o.sew.val, 2 ^ o.sew.val, o.pm.val, 32, 0, indexed s (reg s o.s1) o.s2.val⟩
  | .vstx o => some ⟨.write, o.sew.val, 2 ^ o.sew.val, o.pm.val, 32, 0, indexed s (reg s o.s1) o.s2.val⟩
  | .vamo o => some ⟨.rmw, o.ew.val, 2 ^ o.ew.val, o.pm.val, 32, 0, indexed s (reg s o.s1) o.s2.val⟩
  | .vlseg o => some ⟨.read, if o.kind.val = 0 then o.ew.val else 0, slotBytes o, o.pm.val, 0, 0,
      spaced (reg s o.s1) (BitVec.ofNat 64 (slotBytes o))⟩
  | .vsseg o => some ⟨.write, if o.kind.val = 0 then o.ew.val else 0, slotBytes o, o.pm.val, 0, 0,
      spaced (reg s o.s1) (BitVec.ofNat 64 (slotBytes o))⟩
  | _ => none

/-- The base register of a VM word. -/
def baseOf (i : Instr) : Reg :=
  match i with
  | .vld o | .vst o => o.s1
  | .vlds o | .vsts o | .vldx o | .vstx o => o.s1
  | .vamo o => o.s1
  | .vlseg o | .vsseg o => o.s1
  | _ => 0

/-- The start element of a VM word: a segment load always starts at 0 (R236). -/
def firstOf (i : Instr) (s : State) : Nat := match i with | .vlseg _ => 0 | _ => startOf s

/-- The restart element of a load that fails at `f`: a segment load restarts at 0 (R236). -/
def restartOf (i : Instr) (f : Nat) : Nat := match i with | .vlseg _ => 0 | _ => f

/-- The active elements that a VM word checks, in ascending order (R230, R232). -/
def checked (i : Instr) (s : State) (r : Reach) : List Nat :=
  (List.range' (firstOf i s) (s.hart.ep.vl - firstOf i s)).filter (isActive s r.pm)

/-- What checking the elements gives. -/
def checks (i : Instr) (s : State) (r : Reach) : Checks := State.checkAll r.address r.bytes r.kind r.code (checked i s r) s []

/-- What a VM word that completes leaves alone of its hart, VLTRIM apart, and that it retires. -/
def memoryRetired (s t : State) : Prop :=
  t.hart.sc.x = s.hart.sc.x ∧ t.hart.sc.pc = s.hart.sc.pc + 4 ∧ t.hart.sc.instret = s.hart.sc.instret + 1 ∧ t.hart.sc.fcsr = s.hart.sc.fcsr
  ∧ t.hart.sc.lend.getLsbD 31 = false ∧ t.hart.sc.gens = s.hart.sc.gens ∧ t.hart.status = s.hart.status
  ∧ t.hart.ep = { s.hart.ep with v := t.hart.ep.v, vltrim := t.hart.ep.vltrim, gpi := t.hart.ep.gpi }
  ∧ t.hart.ep.gpi.Sublist s.hart.ep.gpi

/-- The vector registers outside the destination groups of a word and their lent copies are as they were. -/
def othersKept (i : Instr) (s t : State) : Prop :=
  ∀ op, vopOf i = some op → ∀ r : Fin 32, (∀ d ∈ (op.shape s.hart.ep).dsts, ¬(d.reg ≤ r.val ∧ r.val < d.reg + d.size)
    ∧ ∀ c, lentCopy s = some c → ¬(c ≤ r.val ∧ r.val < c + d.size)) → t.hart.ep.v[r.val] = s.hart.ep.v[r.val]

/-- The trap of a VM word at element `f` (R333, R336): what its check gave, with the vector bits of ACCESS, the restart element, BASE, STRIDE and
REMAIN. -/
def elementTrap (i : Instr) (s : State) (r : Reach) (f : Nat) (t : Trap) : Trap :=
  { t with
    access := t.access + 16 + r.bits
    elem := f
    base := (reg s (baseOf i)).toNat
    stride := r.stride
    remain := (s.hart.ep.vl - f + s.hart.ep.avlrem.toNat) % 2 ^ 64 }

/-! ### What vector memory words move -/

/-- Where element `j` of a VM word stands, by the pages that its checks have translated: physical address and entry. -/
def place (s : State) (r : Reach) (pages : List PageRef) (j : Nat) : Nat × Nat := resolve pages s.hart.coreId (r.address j)

/-- Byte `k` of a place as the hart's execute processor finds it: at its bank or, in a page of class D, at its home, else in its core's vector data
cache, else at home (R204, R208, R229). -/
def found (s : State) (x : Nat × Nat) (k : Nat) : Nat :=
  if uncached x.1 x.2 then (s.homeByte (x.1 + k)).toNat
  else match s.vdc.find? (fun l => l.core == s.hart.coreId && l.line == (x.1 + k) / 64) with
    | some l => l.data.toNat / 256 ^ ((x.1 + k) % 64) % 256
    | none => (s.homeByte (x.1 + k)).toNat

/-- The little-endian value of `n` bytes of a place from byte `k`. -/
def foundValue (s : State) (x : Nat × Nat) : Nat → Nat → Nat
  | _, 0 => 0
  | k, n + 1 => found s x k + 256 * foundValue s x (k + 1) n

/-- The elements that a word performs below `limit`. -/
def done (i : Instr) (s : State) (r : Reach) (limit : Nat) : List Nat := (checked i s r).filter (fun j => decide (j < limit))

/-- The lines of the hart's core that the places `ps` would newly fill find room: no line leaves the vector data cache on their account (R129,
R204). -/
abbrev linesFit (s : State) (ps : List (Nat × Nat)) : Prop :=
  ∀ j < 16,
    (s.vdc.filter fun l => l.core == s.hart.coreId && sliceOf l.line == j).length
      + (((ps.filter fun x => !uncached x.1 x.2).map fun x => x.1 / 64).dedup.filter fun n =>
          sliceOf n == j && !s.vdc.any (fun l => l.core == s.hart.coreId && l.line == n)).length
      ≤ s.sliceLines s.hart.coreId j

/-- Element `i` of the group at `d` after a word has brought it elements `f` below `limit`, from `first` up: those at or above the limit keep their
values, the inactive ones follow IZ and, where the word reaches its end, the tail follows TZ (R154, R230, R232). -/
def moved (s : State) (first limit d w pm : Nat) (ends : Bool) (f : Nat → Nat) (i : Nat) : Nat :=
  let old := element s.hart.ep d w i
  if i < s.hart.ep.vl then
    (if i < first ∨ limit ≤ i then old else if isActive s pm i = true then f i else if izOf s = true then 0 else old)
  else if ends = true ∧ tzOf s = true ∧ s.hart.ep.vl ≠ 0 then 0 else old

/-- The group of `n` registers at `d` and its lent copy hold what a word has brought them. -/
def groupMoved (s t : State) (first limit d w n pm : Nat) (ends : Bool) (f : Nat → Nat) : Prop :=
  ∀ i < n * perAt s.hart.ep w,
    element t.hart.ep d w i = moved s first limit d w pm ends f i
    ∧ ∀ c, lentCopy s = some c → element t.hart.ep c w i = moved s first limit c w pm ends f i

/-- What a vector load leaves in its destination, from the bytes that its execute processor found after the checks (R230, R234 to R236). -/
def loaded (i : Instr) (s s' t : State) (r : Reach) (pages : List PageRef) (limit : Nat) : Prop :=
  let x := place s r pages
  let g := 2 ^ s.hart.ep.group.val
  match i with
  | .vld o => groupMoved s t (startOf s) limit o.d.val (8 * r.bytes) g r.pm true (fun j => foundValue s' (x j) 0 r.bytes)
  | .vlds o | .vldx o => groupMoved s t (startOf s) limit o.d.val (8 * r.bytes) g r.pm true (fun j => foundValue s' (x j) 0 r.bytes)
  | .vlseg o =>
    if o.kind.val = 0 then
      ∀ f ≤ o.nf.val, ∀ j < g * perAt s.hart.ep (8 * 2 ^ o.ew.val),
        element t.hart.ep (o.d.val + f * g) (8 * 2 ^ o.ew.val) j
          = moved s 0 limit (o.d.val + f * g) (8 * 2 ^ o.ew.val) r.pm true (fun j => foundValue s' (x j) (f * 2 ^ o.ew.val) (2 ^ o.ew.val)) j
    else
      let b := segmentBytes o - 1
      (∀ j k, k < b → j * b + k < g * perAt s.hart.ep 8 →
        element t.hart.ep o.d.val 8 (j * b + k)
          = if j < s.hart.ep.vl ∧ j < limit ∧ isActive s r.pm j = true then found s' (x j) k else element s.hart.ep o.d.val 8 (j * b + k))
      ∧ (∀ j < perAt s.hart.ep 8, element t.hart.ep (o.d.val + g) 8 j
          = if j < s.hart.ep.vl ∧ j < limit ∧ isActive s r.pm j = true then found s' (x j) b else element s.hart.ep (o.d.val + g) 8 j)
  | _ => True

/-- Writes of `n` bytes of a value at an address, one after the other: the byte that they leave at `a`, where `old` stood. -/
def leftBy (ws : List (Nat × Nat × Nat)) (a old : Nat) : Nat :=
  ws.foldl (fun b w => if w.1 ≤ a ∧ a < w.1 + w.2.1 then w.2.2 / 256 ^ (a - w.1) % 256 else b) old

/-- The value that element or segment `j` of a vector store writes, with its bytes (R234, R235). -/
def storedValue (i : Instr) (s : State) (j : Nat) : Nat × Nat :=
  let e := s.hart.ep
  let g := 2 ^ e.group.val
  match i with
  | .vst o => (2 ^ o.sew.val, element e o.d.val (8 * 2 ^ o.sew.val) j)
  | .vsts o | .vstx o => (2 ^ o.sew.val, element e o.d.val (8 * 2 ^ o.sew.val) j)
  | .vsseg o =>
    if o.kind.val = 0 then
      (segmentBytes o, (Finset.range (o.nf.val + 1)).sum fun f =>
        element e (o.d.val + f * g) (8 * 2 ^ o.ew.val) j * 256 ^ (f * 2 ^ o.ew.val))
    else
      let b := segmentBytes o - 1
      (segmentBytes o, ((Finset.range b).sum fun k => element e o.d.val 8 (j * b + k) * 256 ^ k) + element e (o.d.val + g) 8 j * 256 ^ b)
  | _ => (0, 0)

/-- What writes at some places leave: in the vector data cache of the hart's core where they are cached, and at home where they are not; every
other byte that the execute processor finds is as it was. The places are all cached, or none is and no page among them is a pot's, revoked or
discarded. -/
def written (s t : State) (ps : List (Nat × Nat)) (ws : List (Nat × Nat × Nat)) : Prop :=
  ((∀ x ∈ ps, uncached x.1 x.2 = false) → linesFit s ps →
    ((∀ x ∈ ps, Pte.kind x.2 ≠ 1) ∨ (s.collector.filter fun c => c.core == s.hart.coreId).length + ps.length ≤ 16) →
    t.mem = s.mem ∧ t.hart.scache = s.hart.scache ∧ ∀ a, found t (a, 0) 0 = leftBy ws a (found s (a, 0) 0) ∨ isPad a = true)
  ∧ ((∀ x ∈ ps, uncached x.1 x.2 = true ∧ ∀ k < 64, s.isPot (x.1 + k) = false ∧ revokedAt s (x.1 + k) = false) → s.discarded = [] →
    Memory.wf s.mem = true → t.vdc = s.vdc ∧ ∀ a, (t.homeByte a).toNat = leftBy ws a (s.homeByte a).toNat)

/-- What a vector store leaves in memory, of its elements below `limit`: where two of them write one byte, the higher one's is left (R232). -/
def stored (i : Instr) (s s' t : State) (r : Reach) (pages : List PageRef) (limit : Nat) : Prop :=
  let l := done i s r limit
  written s' t (l.map (place s r pages)) (l.map fun j => ((place s r pages j).1, storedValue i s j))

/-- The elements of a VAMO below `limit` that address what element `j` does. -/
def sharers (i : Instr) (s : State) (r : Reach) (limit j : Nat) : List Nat := (done i s r limit).filter fun k => r.address k == r.address j

/-- What a VAMO leaves, of its elements below `limit`, where no line is dirty in its core, two addresses are never one place, and no page is of
KIND SWM, a pot's, revoked or discarded (R237): elements of one address follow each other in ascending order, each receives the value before its
own operation, and the last value is left; every other byte at home is as it was. -/
def amoDone (o : OpVAmo) (s s' t : State) (r : Reach) (pages : List PageRef) (limit : Nat) : Prop :=
  let n := r.bytes
  let at_ := fun j => (place s r pages j).1
  let op := fun (v k : Nat) => amoResult o.aop n v (element s.hart.ep o.d.val (8 * n) k)
  let home := fun (u : State) (a : Nat) => valueAt u a n
  (∀ l ∈ s'.vdc, l.core = s'.hart.coreId → l.dirty = 0) → (∀ h ∈ s'.allHarts, h.coreId = s'.hart.coreId → ∀ l ∈ h.scache, l.dirty = 0) →
  (∀ j ∈ done (.vamo o) s r limit, ∀ k ∈ done (.vamo o) s r limit, at_ j = at_ k → r.address j = r.address k) →
  (∀ j ∈ done (.vamo o) s r limit, Pte.kind (place s r pages j).2 ≠ 1 ∧ ∀ k < n, s'.isPot (at_ j + k) = false ∧ revokedAt s' (at_ j + k) = false) →
  s'.discarded = [] → Memory.wf s'.mem = true →
  groupMoved s t (startOf s) limit o.d.val (8 * n) (2 ^ s.hart.ep.group.val) r.pm (decide (s.hart.ep.vl ≤ limit))
    (fun j => ((sharers (.vamo o) s r limit j).filter fun k => decide (k < j)).foldl op (home s' (at_ j)))
  ∧ (∀ j ∈ done (.vamo o) s r limit, home t (at_ j) = (sharers (.vamo o) s r limit j).foldl op (home s' (at_ j)))
  ∧ (∀ a, (∀ j ∈ done (.vamo o) s r limit, a < at_ j ∨ at_ j + n ≤ a) → t.homeByte a = s'.homeByte a)

/-- What a VM word leaves where its checks have left `s'` and its pages, and elements at or above `limit` are not performed. -/
def moves (i : Instr) (s s' t : State) (r : Reach) (pages : List PageRef) (limit : Nat) : Prop :=
  match i with
  | .vamo o => amoDone o s s' t r pages limit
  | _ =>
    if r.kind = .read then
      linesFit s' ((done i s r limit).map (place s r pages)) →
        loaded i s s' t r pages limit ∧ t.mem = s'.mem ∧ t.hart.scache = s'.hart.scache
    else stored i s s' t r pages limit

/-! ### Tiles -/

/-- The tile is usable at the hart's depth: its index is below 8 / D (R129, R179). -/
abbrev tileOk (s : State) (t : Nat) : Prop := t < 8 / 2 ^ s.hart.ep.depth.val

/-- Element (r, c) of tile `t`: an FP32 pattern (R172). -/
def tileElement (e : Exec) (t r c : Nat) : Nat := if h : 32 * t + r < 256 then e.tiles[32 * t + r].toNat / 2 ^ (32 * c) % 2 ^ 32 else 0

/-- Every row of every other tile is as it was. -/
def otherTiles (s t : State) (td : Nat) : Prop := ∀ k : Fin 256, k.val / 32 ≠ td → t.hart.ep.tiles[k.val] = s.hart.ep.tiles[k.val]

/-- The formats of MMA's A and B by type, whether B holds QN4 codes, and whether a column scale is read (R174). -/
def mmaTypes : List (Fmt × Fmt × Bool × Bool) :=
  [(bf16, bf16, false, false), (fp16, fp16, false, false), (e4m3, e4m3, false, false), (e5m2, e5m2, false, false), (e4m3, e5m2, false, false),
   (e5m2, e4m3, false, false), (bf16, e2m1, true, true), (bf16, e2m1, false, true), (e4m3, e2m1, true, true), (e4m3, e2m1, false, true)]

/-- NANMODE of VCFG (R151). -/
def nanOf (s : State) : Nat := (s.hart.ep.vcfg.extractLsb' 3 2).toNat

/-- A QN4 code read as its signed magnitude (R83, R176); code 8 and index 7 are no numbers under the modes that say so. -/
def qn4Value (nan code : Nat) : FVal :=
  if code = 8 ∧ nan ≠ 0 then .nan false
  else if code % 8 = 7 ∧ nan = 2 then .inf (decide (8 ≤ code))
  else .fin (decide (8 ≤ code)) ([0, 22, 46, 73, 104, 141, 189, 256].getD (code % 8) 0) (-8)

/-- A[r][k], B[k][c] and the column scale of an MMA, 1 where its type has none (R175, R176). -/
def mmaA (o : OpMma) (s : State) (r k : Nat) : FVal :=
  let f := (mmaTypes.getD o.type.val (bf16, bf16, false, false)).1
  f.decode (nanOf s) (element s.hart.ep o.vA.val f.width (8 * r + k))
def mmaB (o : OpMma) (s : State) (k c : Nat) : FVal :=
  let ty := mmaTypes.getD o.type.val (bf16, bf16, false, false)
  let code := element s.hart.ep (o.vB.val + k) ty.2.1.width c
  if ty.2.2.1 then qn4Value (nanOf s) code else ty.2.1.decode (nanOf s) code
def mmaScale (o : OpMma) (s : State) (c : Nat) : FVal := if o.type.val < 6 then .fin false 1 0 else fp32.decode 2 (element s.hart.ep o.vS.val 32 c)

/-- What a sum of eight products is where they are not all numbers, with whether it is invalid (R96, R177). -/
def productsLimit (a b : Nat → FVal) : Option (FVal × Bool) :=
  let is := fun (v : FVal × Bool) => (List.range 8).any fun k => productLimit (a k) (b k) == some v
  let both := is (.inf true, false) && is (.inf false, false)
  if is (.nan false, true) || is (.nan false, false) then some (.nan false, is (.nan false, true) || both)
  else if both then some (.nan false, true)
  else if is (.inf true, false) then some (.inf true, false)
  else if is (.inf false, false) then some (.inf false, false)
  else none

/-- What an MMA writes over `old`, and whether NV is raised, where a product, the column's scale or `old` is no number; `x` is the sum of the products
where they are (R96, R176, R177). -/
noncomputable def mmaLimit (a b : Nat → FVal) (x : ℝ) (scale old : FVal) : Option (FVal × Bool) :=
  let scaled : Option (FVal × Bool) :=
    if isNaN scale then some (.nan false, true)
    else match productsLimit a b, scale with
      | some (w, nv), _ => (productLimit w scale).map fun v => (v.1, nv || v.2)
      | none, .inf n => some (if x = 0 then (.nan false, true) else (.inf (decide (x < 0) != n), false))
      | none, _ => none
  match scaled with
  | some (w, nv) => (sumLimit w old).map fun v => (v.1, nv || v.2)
  | none => sumLimit (.fin false 0 0) old

/-- What an MMA leaves over `old` with its flags (R96, R176, R177): the exact sum of the eight products times the scale added to `old` and rounded
once to nearest; infinity with OF and NX from halfway beyond FP32's largest number on, and up to there that number with NX; and what is no number as
`mmaLimit` says. -/
def MmaCell (a b : Nat → FVal) (scale old : FVal) (z fl : Nat) : Prop :=
  (∀ (p q : Nat → ℝ) (c d : ℝ), (∀ k < 8, finite (a k) = some (p k) ∧ finite (b k) = some (q k)) → finite scale = some c → finite old = some d →
    let x := d + (Finset.range 8).sum (fun k => p k * q k) * c
    ((∃ y, Holds fp32 2 y ∧ |x| ≤ y) → ∃ neg, Rounds fp32 2 0 0 x neg z fl)
    ∧ ((2 : ℝ) ^ 128 - 2 ^ 104 < |x| → |x| < 2 ^ 128 - 2 ^ 103 → fp32.decode 2 z = .fin (decide (x < 0)) (2 ^ 24 - 1) 104 ∧ fl = 1)
    ∧ ((2 : ℝ) ^ 128 - 2 ^ 103 ≤ |x| → fp32.decode 2 z = .inf (decide (x < 0)) ∧ fl = 5))
  ∧ (∀ (x : ℝ) (v : FVal) (nv : Bool),
    (∀ p q : Nat → ℝ, (∀ k < 8, finite (a k) = some (p k) ∧ finite (b k) = some (q k)) → x = (Finset.range 8).sum (fun k => p k * q k)) →
    mmaLimit a b x scale old = some (v, nv) → IsCode fp32 v z ∧ fl = if nv then 16 else 0)

/-- The format of a cv code (R179). -/
def cvFormat (cv : Fin 4) : Fmt := [fp32, bf16, fp16, e4m3].getD cv.val fp32

/-- Rows of A and B that MMA takes: M = 8, 16 or 32 (R174). -/
def mmaRows (o : OpMma) : Nat := 8 * 2 ^ o.g.val

/-- Element (j, c) of MSTORE and MLOAD lies here (R183). -/
def cellAddress (x1 x2 : Word) (n : Nat) (p : Nat × Nat) : Nat := (x1.toNat + p.1 * x2.toNat + p.2 * n) % 2 ^ 64

/-- The elements of MSTORE and MLOAD in ascending (j, c) (R183). -/
def cells (s : State) : List (Nat × Nat) := (List.range s.hart.ep.rows).flatMap fun j => (List.range s.hart.ep.vl).map fun c => (j, c)

/-! ### Exact predicates -/

/-- O2 and L in the plane, O3 and L in space, of points moved to the origin `o` (R189). -/
def det2 (P : Nat → Nat → ℝ) (o u v : Nat) : ℝ := (P u 0 - P o 0) * (P v 1 - P o 1) - (P u 1 - P o 1) * (P v 0 - P o 0)
def lift2 (P : Nat → Nat → ℝ) (o u : Nat) : ℝ := (P u 0 - P o 0) ^ 2 + (P u 1 - P o 1) ^ 2
def lift3 (P : Nat → Nat → ℝ) (o u : Nat) : ℝ := (P u 0 - P o 0) ^ 2 + (P u 1 - P o 1) ^ 2 + (P u 2 - P o 2) ^ 2
def det3 (P : Nat → Nat → ℝ) (o u v w : Nat) : ℝ :=
  let d := fun (p j : Nat) => P p j - P o j
  d u 0 * (d v 1 * d w 2 - d v 2 * d w 1) - d u 1 * (d v 0 * d w 2 - d v 2 * d w 0) + d u 2 * (d v 0 * d w 1 - d v 1 * d w 0)

/-- The permanents of O2 and O3: every product by its absolute value, and every product added (R191). -/
def per2 (P : Nat → Nat → ℝ) (o u v : Nat) : ℝ := |P u 0 - P o 0| * |P v 1 - P o 1| + |P u 1 - P o 1| * |P v 0 - P o 0|
def per3 (P : Nat → Nat → ℝ) (o u v w : Nat) : ℝ :=
  let d := fun (p j : Nat) => |P p j - P o j|
  d u 0 * (d v 1 * d w 2 + d v 2 * d w 1) + d v 0 * (d u 1 * d w 2 + d u 2 * d w 1) + d w 0 * (d u 1 * d v 2 + d u 2 * d v 1)

/-- A sign predicate: the word, its points and dimension, its exact value D (R189), and its permanent P (R191). -/
structure Predicate where
  word : OpG → Instr
  points : Nat
  dim : Nat
  value : (Nat → Nat → ℝ) → ℝ
  permanent : (Nat → Nat → ℝ) → ℝ

noncomputable def predicates : List Predicate :=
  [⟨.gori2, 3, 2, fun P => det2 P 2 0 1, fun P => per2 P 2 0 1⟩,
   ⟨.ginc, 4, 2, fun P => lift2 P 3 0 * det2 P 3 1 2 - lift2 P 3 1 * det2 P 3 0 2 + lift2 P 3 2 * det2 P 3 0 1,
      fun P => lift2 P 3 0 * per2 P 3 1 2 + lift2 P 3 1 * per2 P 3 0 2 + lift2 P 3 2 * per2 P 3 0 1⟩,
   ⟨.gori3, 4, 3, fun P => det3 P 3 0 1 2, fun P => per3 P 3 0 1 2⟩,
   ⟨.gins, 5, 3, fun P => -lift3 P 4 0 * det3 P 4 1 2 3 + lift3 P 4 1 * det3 P 4 0 2 3 - lift3 P 4 2 * det3 P 4 0 1 3
      + lift3 P 4 3 * det3 P 4 0 1 2,
      fun P => lift3 P 4 0 * per3 P 4 1 2 3 + lift3 P 4 1 * per3 P 4 0 2 3 + lift3 P 4 2 * per3 P 4 0 1 3 + lift3 P 4 3 * per3 P 4 0 1 2⟩]

/-- Coordinate `j` of point `p` of element `i` in dimension `dim` (R187). -/
def coordinate (o : OpG) (s : State) (dim i p j : Nat) : FVal :=
  let f := if o.pf.val = 0 then fp32 else fp64
  f.decode 2 (element s.hart.ep (o.vp.val + p * dim + j) f.width i)

/-- The coordinates of element `i`, where they are all finite. -/
def pointsAre (o : OpG) (s : State) (points dim i : Nat) (P : Nat → Nat → ℝ) : Prop :=
  ∀ p < points, ∀ j < dim, finite (coordinate o s dim i p j) = some (P p j)

/-- The points of element `i` moved by an infinitesimal: coordinate j of the point of rank r by ε^(2^(dim (m − 1 − r) + j)), the ranks those of the
ids among the `m` points (R197). -/
def nudged (o : OpG) (s : State) (m dim i : Nat) (P : Nat → Nat → ℝ) (ε : ℝ) (p j : Nat) : ℝ :=
  let w := if o.pf.val = 0 then 32 else 64
  let id := fun q => element s.hart.ep (o.vs.val + q) w i
  let rank := ((Finset.range m).filter fun q => id q < id p ∨ id q = id p ∧ q < p).card
  P p j + ε ^ (2 ^ (dim * (m - 1 - rank) + j))

/-- The sign of a number. -/
noncomputable def signOf (x : ℝ) : Int := if x = 0 then 0 else if x < 0 then -1 else 1

/-- What holds for every small enough positive ε. -/
def eventually (p : ℝ → Prop) : Prop := ∃ δ > 0, ∀ ε, 0 < ε → ε < δ → p ε

/-- A G word has left elements `f` and bits `g` of m0, and everything else of the registers as it was (R189, R198). That at VL = 0 under TZ the tails
of its destination and of m0 stay is the model's choice (log 70): R154 would make every element tail, and R155 speaks of V words. -/
def geomWritten (o : OpG) (s t : State) (f : Nat → Int) (g : Nat → Bool) : Prop :=
  let w := 8 * 2 ^ s.hart.ep.sew.val
  (∀ i < perAt s.hart.ep w, element t.hart.ep o.d.val w i = elementAfter s o.d.val w o.pm.val (fun i => wrap w (f i)) i)
  ∧ (∀ c, lentCopy s = some c → ∀ i < perAt s.hart.ep w, element t.hart.ep c w i = elementAfter s c w o.pm.val (fun i => wrap w (f i)) i)
  ∧ (∀ i < 131072, maskBit t.hart.ep 0 i =
      if i < s.hart.ep.vl then
        (if i < startOf s then maskBit s.hart.ep 0 i
         else if isActive s o.pm.val i = true then g i else if izOf s = true then false else maskBit s.hart.ep 0 i)
      else if tzOf s = true ∧ s.hart.ep.vl ≠ 0 then false else maskBit s.hart.ep 0 i)
  ∧ (∀ m : Fin 8, m ≠ 0 → t.hart.ep.m[m.val] = s.hart.ep.m[m.val]) ∧ t.hart.ep.tiles = s.hart.ep.tiles
  ∧ (∀ r : Fin 32, r ≠ o.d → (∀ c, lentCopy s = some c → r.val ≠ c) → t.hart.ep.v[r.val] = s.hart.ep.v[r.val])

/-- A G word that resolves or delivers every active element: it is in flag mode, or no active element has a coordinate that is not finite. -/
def delivers (k : GKind) (o : OpG) (s : State) : Prop :=
  o.nf.val = 1 ∨ s.hart.ep.geom = none ∧ ∀ i < s.hart.ep.vl, isActive s o.pm.val i = true → nonFinite k o s.hart.ep i = false

/-! ### Dispatch -/

/-- The values of x registers that a word takes along (R126). -/
def xsOf (i : Instr) (s : State) : Word × Word :=
  match i with
  | .vaddVS o | .vsubVS o | .vadcVS o | .vmadcVS o | .vsbcVS o | .vmsbcVS o | .vmulVS o | .vmulhVS o | .vmulhuVS o | .vdivVS o | .vdivuVS o
  | .vremVS o | .vandVS o | .vorVS o | .vxorVS o | .vshlVS o | .vshrVS o | .vsarVS o | .vminVS o | .vmaxVS o | .vsaddVS o | .vwaddVS o
  | .vnclipVS o | .vfaddVS o | .vfsubVS o | .vfmulVS o | .vfdivVS o | .vfmaVS o | .vfminVS o | .vfmaxVS o | .vcmpeqVS o | .vcmpneVS o
  | .vcmpltVS o | .vcmpleVS o | .vcmpltuVS o | .vcmpleuVS o | .vcmpgtVS o | .vcmpgtuVS o | .vcmpfeqVS o | .vcmpfltVS o | .vcmpfleVS o
  | .vcmpfunordVS o => (reg s o.s1, 0)
  | .vbcast o => (reg s o.s1, 0)
  | .vmvsx o => (reg s o.s1, 0)
  | .mtov o => (reg s o.s1, 0)
  | .vslideup o | .vslidedn o => (0, reg s o.s2)
  | .mvtot o => (0, reg s o.s2)
  | _ => (0, 0)

/-- The entry that a dispatched word leaves in the queue: what the access processor read (R126), and nothing performed. -/
def carries (i : Instr) (s : State) (q : QEntry) : Prop :=
  q.xs1 = (xsOf i s).1 ∧ q.xs2 = (xsOf i s).2 ∧ q.pred = none ∧ q.done = [] ∧ q.begun = false ∧ q.word = .word i ∧ q.vl = s.hart.ep.vl ∧ q.limit = s.hart.ep.vl ∧ q.vcfg = s.hart.ep.vcfg ∧ q.rowBase = s.hart.ep.rowBase
  ∧ q.rows = s.hart.ep.rows ∧ q.pages = [] ∧ (q.start = 0 ∨ q.start = startOf s)
  ∧ q.lend = (if s.hart.sc.lend.getLsbD 31 then s.hart.sc.lend else 0)

/-- Queues with room for a word of any family (R125, R126): fewer than 64 words in VIQ, 16 of them vector memory words or deliveries, and 16 X words
in MXQ. -/
abbrev room (s : State) : Prop :=
  (s.hart.ep.queue.filter fun q => !q.isX).length < 64 ∧ (s.hart.ep.queue.filter QEntry.isVm).length < 16
  ∧ (s.hart.ep.queue.filter QEntry.isX).length < 16

end Sys2Proof.Stated

/-! ### Dispatch -/

/-- R126, R127: on a hart whose execute processor runs behind, a V or X word or flag-mode G word that issues, with room in the queues and no stream
bound, retires at once and joins the queue with what was read at its dispatch; no register, mask, tile, flag or byte of memory changes yet. That VIQ
and MXQ are one list in program order is the model's choice (log 41). -/
def Sys2Proof.Stated.DispatchedWordsJoinTheQueue : Prop :=
  ∀ (i : Instr) (s : State), Stated.performed i = true → s.hart.ctl = false → s.prompt = false → s.hart.ep.bindings = [] → Stated.issues i s →
    Stated.room s →
    ∃ (q : QEntry) (g : List StoppedPi), Stated.carries i s q ∧ g.Sublist s.hart.ep.gpi
      ∧ exec i s = .next (let t := Stated.passedBy s
         { t with hart := { t.hart with ep := { s.hart.ep with queue := s.hart.ep.queue ++ [q], gpi := g } } })

/-- R133, R158: EP_INSTRUCTION_COMPLETE of the hart that executes performs its oldest word for `n` more elements: an element-wise word that does not
reach its end stays oldest with its start raised, every other one leaves the queue. A vector memory word may have performed further elements of
the lines that it has reached, and the index of a G word jumps past the elements that have finished before it (R195). -/
def Sys2Proof.Stated.TheOldestWordIsPerformed : Prop :=
  ∀ (s : State) (q : QEntry) (rest : List QEntry) (i : Instr), s.hart.ep.queue = q :: rest → q.word = .word i → s.hart.status = .running →
    s.hart.ctl = false → s.input.unit = s.hart.loc → s.input.addr = 0 →
    ∃ t, exec .epInstructionComplete s = .next t ∧ t.hart.sc.x = s.hart.sc.x ∧ t.hart.sc.pc = s.hart.sc.pc
      ∧ t.hart.sc.instret = s.hart.sc.instret
      ∧ (q.elementwise = true → q.start + s.input.value < q.vl → q.vmem.isNone = true → q.done = [] →
          ∃ p, t.hart.ep.queue = { q with start := q.start + s.input.value, pred := p, begun := true } :: rest)
      ∧ (q.elementwise = true → q.start + s.input.value < q.vl → t.hart.ep.queue = rest ∨ ∃ q', t.hart.ep.queue = q' :: rest
          ∧ q'.word = q.word ∧ q'.vl = q.vl ∧ q'.limit = q.limit ∧ q'.begun = true ∧ q.start + s.input.value ≤ q'.start)
      ∧ (¬(q.elementwise = true ∧ q.start + s.input.value < q.vl) → t.hart.ep.queue = rest)

/-- R126, R127, R133: what the performed elements leave. A word that joins an empty queue and is then performed to its end leaves what it leaves on a
hart whose execute processor keeps up, of which the other statements tell; and an element-wise word performed in two pieces leaves what it leaves
performed at once. -/
def Sys2Proof.Stated.PerformingInPiecesIsPerforming : Prop :=
  (∀ (i : Instr) (s : State), Stated.performed i = true → s.hart.ctl = false → s.hart.status = .running → s.prompt = false →
    s.hart.ep.bindings = [] → s.hart.ep.queue = [] → Stated.issues i s →
    ∃ a t, exec i s = .next a
      ∧ exec .epInstructionComplete { a with input := ⟨s.hart.loc, 0, s.hart.ep.vl, []⟩ } = .next t
      ∧ exec i { s with prompt := true } = .next { t with prompt := true, input := s.input })
  ∧ (∀ (s : State) (q : QEntry) (rest : List QEntry) (n : Nat), s.hart.ep.queue = q :: rest → q.elementwise = true → q.vmem.isNone = true →
    q.done = [] → s.hart.ctl = false → s.hart.status = .running → q.start + n < q.vl →
    let turn := fun (u : State) (k : Nat) => exec .epInstructionComplete { u with input := ⟨s.hart.loc, 0, k, []⟩ }
    ∃ a t, turn s n = .next a ∧ turn a q.vl = .next t ∧ turn s q.vl = .next t)

/-- Words are dispatched in order, and the oldest is performed first (R126, R127, R133). -/
def Obligations.DispatchAndPerformance : Prop :=
  Stated.DispatchedWordsJoinTheQueue ∧ Stated.TheOldestWordIsPerformed ∧ Stated.PerformingInPiecesIsPerforming

/-! ### Vector memory words -/

/-- R229 to R237, R231: a VM word that issues on an idle hart and whose active elements all pass their checks completes: a load writes at most its
destination groups and sets VLTRIM to VL, a store writes no register, VAMO writes at most its destination group; the scalar half, the masks, the
tiles and the configuration stay as they are. A load's elements hold the bytes that the execute processor finds at their places, a store's bytes
stand there, and a VAMO updates each place by its elements in turn. -/
def Sys2Proof.Stated.VectorMemoryWordsComplete : Prop :=
  ∀ (i : Instr) (s s' : State) (r : Stated.Reach) (pages : List PageRef), Stated.reach i s = some r → Stated.idle s → Stated.issues i s →
    Stated.checks i s r = .ok s' pages →
    ∃ t, exec i s = .next t ∧ Stated.memoryRetired s t ∧ Stated.othersKept i s t
      ∧ t.hart.ep.vltrim = (if r.kind = .read then s.hart.ep.vl else s.hart.ep.vltrim)
      ∧ Stated.moves i s s' t r pages s.hart.ep.vl

/-- R230, R231, R333, R336: a vector load whose lowest active element fails its check traps there with nothing performed; one whose failing element
is not the lowest completes, with VLTRIM at that element, the elements below it loaded, the others of the strip kept, and no register outside its
destination changed. -/
def Sys2Proof.Stated.LoadsAreFaultOnlyFirst : Prop :=
  ∀ (i : Instr) (s s' : State) (r : Stated.Reach) (pages : List PageRef) (f : Nat) (t : Trap), Stated.reach i s = some r → r.kind = .read →
    Stated.idle s → Stated.issues i s → Stated.checks i s r = .fail s' pages f t →
    ((Stated.checked i s r).head? = some f →
      exec i s = .next (s.trap (Stated.elementTrap i s r (Stated.restartOf i f) t)))
    ∧ ((Stated.checked i s r).head? ≠ some f →
      ∃ u, exec i s = .next u ∧ Stated.memoryRetired s u ∧ Stated.othersKept i s u ∧ u.hart.ep.vltrim = f
        ∧ Stated.moves i s s' u r pages f)

/-- R232, R333, R336, R133: a vector store or VAMO whose lowest failing active element is `f` traps there after the elements below it are performed;
the trap finds their bytes in memory, the x registers, the pc, INSTRET and every mask as they were, and a store leaves every vector register as it
was. The progress index of a VAMO's destination, which is incomplete, stands at `f` within its register. -/
def Sys2Proof.Stated.StoresTrapAtTheFailingElement : Prop :=
  ∀ (i : Instr) (s s' : State) (r : Stated.Reach) (pages : List PageRef) (f : Nat) (t : Trap), Stated.reach i s = some r → r.kind ≠ .read →
    Stated.idle s → Stated.issues i s → Stated.checks i s r = .fail s' pages f t →
    ∃ u : State, exec i s = .next (u.trap (Stated.elementTrap i s r f t))
      ∧ u.hart.sc.x = s.hart.sc.x ∧ u.hart.sc.pc = s.hart.sc.pc ∧ u.hart.sc.instret = s.hart.sc.instret
      ∧ u.hart.ep.m = s.hart.ep.m ∧ u.hart.ep.queue = [] ∧ (r.kind = .write → u.hart.ep.v = s.hart.ep.v)
      ∧ Stated.moves i s s' u r pages f
      ∧ (∀ o, i = .vamo o → s.hart.ep.geom = none →
          u.hart.ep.pi o.d.val = min f (min (Stated.perAt s.hart.ep (8 * r.bytes)) (Stated.perAt s.hart.ep (8 * 2 ^ s.hart.ep.sew.val))))

/-- Vector memory words complete, are trimmed, or trap (R229 to R237). -/
def Obligations.VectorMemoryWords : Prop := Stated.VectorMemoryWordsComplete ∧ Stated.LoadsAreFaultOnlyFirst ∧ Stated.StoresTrapAtTheFailingElement

/-- R202, R203, R234: a unit-stride load whose active elements all lie in the hart's scratchpad window completes with each of them holding the
little-endian bytes of its place, and leaves memory as it was. That no scratchpad line stands in a cache is the model's choice (log 51). -/
def Sys2Proof.Stated.WindowVectorLoads : Prop :=
  ∀ (o : OpV1) (s : State) (r : Stated.Reach), Stated.reach (.vld o) s = some r → Stated.idle s → Stated.issues (.vld o) s →
    (∀ i ∈ Stated.checked (.vld o) s r, Stated.inPad s (r.address i) r.bytes) →
    ∃ t, exec (.vld o) s = .next t ∧ t.mem = s.mem ∧ t.hart.scache = s.hart.scache ∧ t.vdc = s.vdc
      ∧ Stated.elementsWritten s t o.d.val (8 * 2 ^ o.sew.val) (2 ^ s.hart.ep.group.val) o.pm.val
          (fun i => Stated.valueAt s (Stated.padByte s (r.address i)) r.bytes)

/-- R202, R203, R234: a unit-stride store whose active elements all lie in the window puts each of them there, and changes no other byte at home. That
the scalar cache, which R203 and R323 make drop a line of the written bank, holds no scratchpad line and so stays is the model's choice (log 51). -/
def Sys2Proof.Stated.WindowVectorStores : Prop :=
  ∀ (o : OpV1) (s : State) (r : Stated.Reach), Stated.reach (.vst o) s = some r → Stated.idle s → Stated.issues (.vst o) s →
    Memory.wf s.mem = true → s.discarded = [] →
    (∀ i ∈ Stated.checked (.vst o) s r, Stated.inPad s (r.address i) r.bytes) →
    ∃ t, exec (.vst o) s = .next t ∧ t.hart.scache = s.hart.scache ∧ t.vdc = s.vdc ∧ t.hart.ep.v = s.hart.ep.v
      ∧ (∀ i ∈ Stated.checked (.vst o) s r,
          Stated.valueAt t (Stated.padByte s (r.address i)) r.bytes = Stated.element s.hart.ep o.d.val (8 * 2 ^ o.sew.val) i)
      ∧ (∀ a, (∀ i ∈ Stated.checked (.vst o) s r, a < Stated.padByte s (r.address i) ∨ Stated.padByte s (r.address i) + r.bytes ≤ a) →
          t.homeByte a = s.homeByte a)

/-- Vector loads and stores of the scratchpad window (R202, R229). -/
def Obligations.VectorScratchpadAccesses : Prop := Stated.WindowVectorLoads ∧ Stated.WindowVectorStores

/-- The position of a binding after a delivery at length `vl` (R243), in the 64 bits that R362 keeps of it: p moves by VL; K-group g moves by one
until 8 g reaches DIM1, and then starts again with the columns moved by VL. -/
def Sys2Proof.Stated.stepped (b : Binding) (vl : Nat) : Binding :=
  if b.view = 0 then { b with pos := (b.pos + vl) % 2 ^ 64, given := none }
  else if 8 * (b.g + 1) < fieldAt b.entry 20 4 then { b with g := b.g + 1, given := none }
  else { b with g := 0, pos := (b.pos + vl) % 2 ^ 64, given := none }

/-- R242, R243, R244, R245: VBIND completes where its registers are free, whole and in range, fewer than four bindings stand, and the tensor's entry
is valid and fits the view: the binding joins the others. VUNBIND completes and ends the bindings that start at its register. A word that reads bound
groups, once its deliveries have passed their checks, joins the queue behind one delivery, at its own VL, for each group that it reads and whose strip
no halt has left delivered; the positions of those bindings then step. -/
def Obligations.BindingsComplete : Prop :=
  (∀ (o : OpVBind) (s s' : State) (entry : List Byte), s.hart.ctl = false → bindBad o s.hart.ep = false →
    s.tensorEntry (Stated.reg s o.s1).toNat = .ok s' entry → viewFits o.view.val o.ew.val (fieldAt entry 28 1) = true →
    ∃ b : Binding, b.tensor = (Stated.reg s o.s1).toNat ∧ b.view = o.view.val ∧ b.ew = o.ew.val ∧ b.reg = o.d.val
      ∧ b.pos = (Stated.reg s o.s2).toNat ∧ b.g = 0 ∧ b.entry = entry
      ∧ b.n = (if o.view.val = 0 then 2 ^ s.hart.ep.group.val else if o.view.val = 1 then 8 else 4)
      ∧ exec (.vbind o) s = .next (let t := Stated.passedBy s'
         { t with hart := { t.hart with ep := { t.hart.ep with bindings := s.hart.ep.bindings ++ [b] } } }))
  ∧ (∀ (o : OpD) (s : State), s.hart.ctl = false → exec (.vunbind o) s = .next (let t := Stated.passedBy s
      { t with hart := { t.hart with ep := { t.hart.ep with bindings := s.hart.ep.bindings.filter (fun b => decide (b.reg ≠ o.d.val)) } } }))
  ∧ (∀ (i : Instr) (op : VOp) (s u : State) (ds : List QEntry) (bs : List Binding), Stated.performed i = true → s.hart.ctl = false → s.prompt = false →
    vopOf i = some op → s.issueBad (op.shape s.hart.ep) = false → s.owed (op.shape s.hart.ep) = .ok u ds bs →
    s.hart.ep.queue.length + ds.length < 16 →
    let reads := fun (b : Binding) => b.readBy (op.shape s.hart.ep).srcs
    ∃ t q, exec i s = .next t ∧ t.hart.ep.queue = s.hart.ep.queue ++ ds ++ [q] ∧ q.word = .word i
      ∧ (∃ given, ds.map (fun d => (d.word, d.vl)) = given.map (fun b => (.delivery b, s.hart.ep.vl))
          ∧ given = bs.filter (fun b => reads b && b.given != some s.hart.sc.pc))
      ∧ bs.map (fun b => { b with entry := [] }) = s.hart.ep.bindings.map (fun b => { b with entry := [] })
      ∧ t.hart.ep.bindings = bs.map (fun b => if reads b = true then Stated.stepped b s.hart.ep.vl else b))

/-! ### Matrix and geometric words -/

/-- R179, R172: MZERO makes every element of its tile 0 and MMOVT makes its tile a copy of the other; every other tile, every vector register and
every mask stays as it was. -/
def Sys2Proof.Stated.TileMovesAreWhole : Prop :=
  (∀ (o : OpMZero) (s : State), Stated.idle s → Stated.tileOk s o.td.val → ∃ t, exec (.mzero o) s = .next t ∧ Stated.onlyExecutes s t
    ∧ (∀ r < 32, ∀ c, Stated.tileElement t.hart.ep o.td.val r c = 0) ∧ Stated.otherTiles s t o.td.val
    ∧ t.hart.ep.v = s.hart.ep.v ∧ t.hart.ep.m = s.hart.ep.m ∧ t.hart.ep.vstat = s.hart.ep.vstat)
  ∧ (∀ (o : OpMmovt) (s : State), Stated.idle s → Stated.tileOk s o.td.val → Stated.tileOk s o.ts.val →
    ∃ t, exec (.mmovt o) s = .next t ∧ Stated.onlyExecutes s t
    ∧ (∀ r < 32, ∀ c, Stated.tileElement t.hart.ep o.td.val r c = Stated.tileElement s.hart.ep o.ts.val r c) ∧ Stated.otherTiles s t o.td.val
    ∧ t.hart.ep.v = s.hart.ep.v ∧ t.hart.ep.m = s.hart.ep.m ∧ t.hart.ep.vstat = s.hart.ep.vstat)

/-- R180, R173: MSHAPE always completes on a hart: ROWBASE is xs1 up to 31, ROWS is xs2 clamped to 1 and to the rows above ROWBASE, xd is the
TILESHAPE that stands, and nothing else changes. -/
def Sys2Proof.Stated.MshapeCompletes : Prop :=
  ∀ (o : OpDSS) (s : State), s.hart.ctl = false →
    let base := min (Stated.reg s o.s1).toNat 31
    let rows := max 1 (min (Stated.reg s o.s2).toNat (32 - base))
    exec (.mshape o) s = .next (let t := Stated.answered s o.d (BitVec.ofNat 64 (base * 256 + rows))
      { t with hart := { t.hart with ep := { s.hart.ep with rowBase := base, rows := rows } } })

/-- R181, R182, R87, R93, R172: MTOV that issues on an idle hart completes with row xs1 mod 32 of its tile, each element rounded to its format, in its
group, and MVTOT with its group, exactly, in row xs2 mod 32; the rest of the group follows TZ, and every other tile, row and column stays. That MVTOT
draws nothing in stochastic mode is the model's choice (log 73). -/
def Sys2Proof.Stated.RowsAndGroupsAreMoved : Prop :=
  (∀ (o : OpMtov) (s : State), Stated.idle s → (s.hart.ep.vcfg >>> 5).toNat ≤ 4 → Stated.nanOf s ≤ 2 → Stated.issues (.mtov o) s →
    let f := Stated.cvFormat o.cv
    ∃ (t : State) (c fl : Nat → Nat), exec (.mtov o) s = .next t ∧ Stated.executes true false s t
      ∧ (∀ i, Stated.Converts f (Stated.nanOf s) (s.hart.ep.vcfg >>> 5).toNat (Stated.drawOf s 0 f.width i)
          (fp32.decode 2 (Stated.tileElement s.hart.ep o.ts.val ((Stated.reg s o.s1).toNat % 32) i)) (c i) (fl i))
      ∧ Stated.elementsWritten s t o.d.val f.width (2 ^ s.hart.ep.group.val) 0 c
      ∧ Stated.accrued s t 0 fl ∧ Stated.lanesDrawn s t 0 f.width)
  ∧ (∀ (o : OpMvtot) (s : State), Stated.idle s → Stated.nanOf s ≤ 2 → Stated.issues (.mvtot o) s →
    let f := Stated.cvFormat o.cv
    let row := (Stated.reg s o.s2).toNat % 32
    let el := fun c => f.decode (Stated.nanOf s) (Stated.element s.hart.ep o.s1.val f.width c)
    ∃ t, exec (.mvtot o) s = .next t ∧ Stated.onlyExecutes s t ∧ t.hart.ep.v = s.hart.ep.v ∧ t.hart.ep.m = s.hart.ep.m
      ∧ Stated.otherTiles s t o.td.val
      ∧ (∀ c < s.hart.ep.vl, Stated.number (fp32.decode 2 (Stated.tileElement t.hart.ep o.td.val row c)) = Stated.number (el c)
          ∧ (el c).isNeg = (fp32.decode 2 (Stated.tileElement t.hart.ep o.td.val row c)).isNeg)
      ∧ (∀ r < 32, ∀ c < 16384, ¬(r = row ∧ c < s.hart.ep.vl) →
          Stated.tileElement t.hart.ep o.td.val r c = Stated.tileElement s.hart.ep o.td.val r c))

/-- MSHAPE, MZERO and the moves between tiles and vector registers (R173, R179 to R182). -/
def Obligations.TileMoves : Prop := Stated.TileMovesAreWhole ∧ Stated.MshapeCompletes ∧ Stated.RowsAndGroupsAreMoved

/-- R96, R174 to R177: an MMA that issues on an idle hart leaves in row ROWBASE + r and column c the exact sum of the eight products of A and B,
times the column's scale where its type has one, added to the old element or to 0 and rounded once to nearest, and what infinities and NaNs make of
it; VSTAT accrues the flags of every element. -/
def Sys2Proof.Stated.MmaSums : Prop :=
  ∀ (o : OpMma) (s : State), Stated.idle s → Stated.nanOf s ≤ 2 → o.type.val < 10 → Stated.issues (.mma o) s →
    ∃ (t : State) (fl : Nat → Nat → Nat), exec (.mma o) s = .next t
      ∧ (∀ k < 8, t.hart.ep.vstat.getLsbD k = true ↔
          s.hart.ep.vstat.getLsbD k = true ∨ ∃ r < Stated.mmaRows o, ∃ c < s.hart.ep.vl, (fl r c).testBit k = true)
      ∧ ∀ r < Stated.mmaRows o, ∀ c < s.hart.ep.vl,
          Stated.MmaCell (Stated.mmaA o s r) (fun k => Stated.mmaB o s k c) (Stated.mmaScale o s c)
            (if o.acc.val = 0 then .fin false 0 0 else fp32.decode 2 (Stated.tileElement s.hart.ep o.td.val (s.hart.ep.rowBase + r) c))
            (Stated.tileElement t.hart.ep o.td.val (s.hart.ep.rowBase + r) c) (fl r c)

/-- R176: MMA that issues on an idle hart completes and changes only elements of its tile in rows ROWBASE to ROWBASE + M − 1 and columns below VL,
and the flags of VSTAT; no vector register, no mask, no generator. -/
def Sys2Proof.Stated.MmaKeepsTheRest : Prop :=
  ∀ (o : OpMma) (s : State), Stated.idle s → Stated.issues (.mma o) s →
    ∃ t, exec (.mma o) s = .next t ∧ Stated.onlyExecutes s t ∧ t.hart.ep.v = s.hart.ep.v ∧ t.hart.ep.m = s.hart.ep.m
      ∧ t.hart.sc.gens = s.hart.sc.gens ∧ Stated.otherTiles s t o.td.val
      ∧ (∀ r < 32, ∀ c, ¬(s.hart.ep.rowBase ≤ r ∧ r < s.hart.ep.rowBase + Stated.mmaRows o ∧ c < s.hart.ep.vl) → c < 16384 →
          Stated.tileElement t.hart.ep o.td.val r c = Stated.tileElement s.hart.ep o.td.val r c)

/-- MMA sums its products into its rows and touches nothing else (R174 to R177). -/
def Obligations.MmaTouchesItsRows : Prop := Stated.MmaSums ∧ Stated.MmaKeepsTheRest

/-- R182, R183, R184: MSTORE and MLOAD that issue on an idle hart and whose elements all pass their checks complete: MSTORE changes no register and
no tile, MLOAD no vector register and no other tile; both retire. -/
def Sys2Proof.Stated.TileMemoryCompletes : Prop :=
  (∀ (o : OpMstore) (s s' : State) (pages : List PageRef), Stated.idle s → Stated.issues (.mstore o) s →
    (let n := [4, 2, 2, 1].getD o.cv.val 0
     s.checkTile s.hart.ep.rows s.hart.ep.vl (Stated.reg s o.s1) (Stated.reg s o.s2) n .write = .ok s' pages) →
    ∃ t, exec (.mstore o) s = .next t ∧ t.hart.sc.x = s.hart.sc.x ∧ t.hart.sc.pc = s.hart.sc.pc + 4
      ∧ t.hart.sc.instret = s.hart.sc.instret + 1 ∧ t.hart.ep.v = s.hart.ep.v ∧ t.hart.ep.m = s.hart.ep.m ∧ t.hart.ep.tiles = s.hart.ep.tiles
      ∧ t.hart.ep.queue = [])
  ∧ (∀ (o : OpMvtot) (s s' : State) (pages : List PageRef), Stated.idle s → Stated.issues (.mload o) s →
    (let n := [4, 2, 2, 1].getD o.cv.val 0
     s.checkTile s.hart.ep.rows s.hart.ep.vl (Stated.reg s o.s1) (Stated.reg s o.s2) n .read = .ok s' pages) →
    ∃ t, exec (.mload o) s = .next t ∧ t.hart.sc.x = s.hart.sc.x ∧ t.hart.sc.pc = s.hart.sc.pc + 4
      ∧ t.hart.sc.instret = s.hart.sc.instret + 1 ∧ t.hart.ep.v = s.hart.ep.v ∧ t.hart.ep.m = s.hart.ep.m
      ∧ Stated.otherTiles s t o.td.val ∧ t.hart.ep.queue = [])

/-- R184, R336: what a failed check of a word that moves `n`-byte elements between a tile and memory raises, with nothing performed: an address at or
above 2^52, the lowest in ascending (j, c); xs1, then xs2, off the elements' alignment; the page that an element's check finds. Which of several
failing elements is named is the model's reading (log 72). -/
def Sys2Proof.Stated.tileTraps (i : Instr) (x1 x2 : Word) (n : Nat) (k : Kind) (s : State) : Prop :=
  let at_ := Stated.cellAddress x1 x2 n
  let trap := fun (cause va : Nat) => ({ cause := cause, tval := va, access := k.code + 4 * Nat.log2 n + 16, base := x1.toNat } : Trap)
  (∀ p, (Stated.cells s).find? (fun p => 2 ^ 52 ≤ at_ p) = some p → exec i s = .next (s.trap (trap 4 (at_ p))))
  ∧ ((∀ p ∈ Stated.cells s, at_ p < 2 ^ 52) →
      (x1.toNat % n ≠ 0 → exec i s = .next (s.trap (trap 3 x1.toNat)))
      ∧ (x1.toNat % n = 0 → x2.toNat % n ≠ 0 → exec i s = .next (s.trap (trap 3 (x1 + x2).toNat)))
      ∧ (∀ (u : State) (pages : List PageRef) (f : Nat) (t : Trap), x1.toNat % n = 0 → x2.toNat % n = 0 →
          State.checkAll (fun j => at_ ((Stated.cells s).getD j (0, 0))) n k (Nat.log2 n) (List.range (Stated.cells s).length) s [] = .fail u pages f t →
          exec i s = .next (u.trap { t with access := t.access + 16, base := x1.toNat })
          ∧ u.hart.sc.x = s.hart.sc.x ∧ u.hart.sc.pc = s.hart.sc.pc ∧ u.hart.sc.instret = s.hart.sc.instret ∧ u.hart.ep = s.hart.ep))

/-- R183, R184: an MSTORE or MLOAD that issues on an idle hart and whose address checks fail traps by the first check that does, in R184's order. -/
def Sys2Proof.Stated.TileMemoryTraps : Prop :=
  (∀ (o : OpMstore) (s : State), Stated.idle s → Stated.issues (.mstore o) s →
    Stated.tileTraps (.mstore o) (Stated.reg s o.s1) (Stated.reg s o.s2) ((Stated.cvFormat o.cv).width / 8) .write s)
  ∧ (∀ (o : OpMvtot) (s : State), Stated.idle s → Stated.issues (.mload o) s →
    Stated.tileTraps (.mload o) (Stated.reg s o.s1) (Stated.reg s o.s2) ((Stated.cvFormat o.cv).width / 8) .read s)

/-- The lane from which MSTORE draws for an element, and how many elements of its rows draw there before it (R183). -/
def Sys2Proof.Stated.cellLane (s : State) (p : Nat × Nat) : Nat := 16 * (p.2 / (128 * 2 ^ s.hart.ep.depth.val)) + p.2 % 16
def Sys2Proof.Stated.cellsBefore (s : State) (p : Nat × Nat) : Nat :=
  ((Stated.cells s).filter fun q => (q.1 < p.1 || (q.1 == p.1 && q.2 < p.2)) && Stated.cellLane s q == Stated.cellLane s p).length

/-- R183, R87, R92: MSTORE leaves each element of its rows and columns, rounded to its format, with a draw of its column's lane in stochastic mode,
at the element's place, the later element winning where two overlap; its lanes' generators move by their elements, and its flags are accrued; MLOAD
leaves in each the number that it finds there, and every other element of the tile as it was. -/
def Sys2Proof.Stated.TileMemoryMovesElements : Prop :=
  (∀ (o : OpMstore) (s s' : State) (pages : List PageRef), Stated.idle s → (s.hart.ep.vcfg >>> 5).toNat ≤ 4 → Stated.nanOf s ≤ 2 →
    Stated.issues (.mstore o) s →
    let f := Stated.cvFormat o.cv
    let n := f.width / 8
    s.checkTile s.hart.ep.rows s.hart.ep.vl (Stated.reg s o.s1) (Stated.reg s o.s2) n .write = .ok s' pages →
    let at_ := fun p => resolve pages s.hart.coreId (Stated.cellAddress (Stated.reg s o.s1) (Stated.reg s o.s2) n p)
    ∃ (t : State) (c fl : Nat × Nat → Nat), exec (.mstore o) s = .next t
      ∧ (∀ p ∈ Stated.cells s, Stated.Converts f (Stated.nanOf s) (s.hart.ep.vcfg >>> 5).toNat
          (Stated.drawnTimes s (1 + Stated.cellLane s p) (Stated.cellsBefore s p + 1)).toNat
          (fp32.decode 2 (Stated.tileElement s.hart.ep o.ts.val (s.hart.ep.rowBase + p.1) p.2)) (c p) (fl p))
      ∧ (∀ b < 8, t.hart.ep.vstat.getLsbD b = true ↔ s.hart.ep.vstat.getLsbD b = true ∨ ∃ p ∈ Stated.cells s, (fl p).testBit b = true)
      ∧ t.hart.sc.gens[0] = s.hart.sc.gens[0]
      ∧ (∀ l (h : l < 256), t.hart.sc.gens[1 + l] = if (s.hart.ep.vcfg >>> 5).toNat = 4
          then Stated.drawnTimes s (1 + l) ((Stated.cells s).filter fun p => Stated.cellLane s p == l).length else s.hart.sc.gens[1 + l])
      ∧ Stated.written s' t ((Stated.cells s).map at_) ((Stated.cells s).map fun p => ((at_ p).1, n, c p)))
  ∧ (∀ (o : OpMvtot) (s s' : State) (pages : List PageRef), Stated.idle s → Stated.nanOf s ≤ 2 → s.hart.ep.rowBase + s.hart.ep.rows ≤ 32 →
    Stated.issues (.mload o) s →
    let f := Stated.cvFormat o.cv
    let n := f.width / 8
    s.checkTile s.hart.ep.rows s.hart.ep.vl (Stated.reg s o.s1) (Stated.reg s o.s2) n .read = .ok s' pages →
    let at_ := fun p => resolve pages s.hart.coreId (Stated.cellAddress (Stated.reg s o.s1) (Stated.reg s o.s2) n p)
    Stated.linesFit s' ((Stated.cells s).map at_) →
    ∃ t, exec (.mload o) s = .next t ∧ t.mem = s'.mem
      ∧ (∀ j < s.hart.ep.rows, ∀ c < s.hart.ep.vl,
          let v := f.decode (Stated.nanOf s) (Stated.foundValue s' (at_ (j, c)) 0 n)
          let z := fp32.decode 2 (Stated.tileElement t.hart.ep o.td.val (s.hart.ep.rowBase + j) c)
          Stated.number z = Stated.number v ∧ z.isNeg = v.isNeg)
      ∧ (∀ r < 32, ∀ c < 16384, ¬(s.hart.ep.rowBase ≤ r ∧ r < s.hart.ep.rowBase + s.hart.ep.rows ∧ c < s.hart.ep.vl) →
          Stated.tileElement t.hart.ep o.td.val r c = Stated.tileElement s.hart.ep o.td.val r c))

/-- MSTORE and MLOAD complete, trap where their addresses fail their checks, and move the elements of their rows (R183, R184). -/
def Obligations.TileMemoryWordsComplete : Prop := Stated.TileMemoryCompletes ∧ Stated.TileMemoryTraps ∧ Stated.TileMemoryMovesElements

/-- The geometric words, their kind, and the word of a row. -/
def Sys2Proof.Stated.geomRows : List ((OpG → Instr) × GKind) := [(.gori2, gori2K), (.ginc, gincK), (.gseg, gsegK), (.gori3, gori3K), (.gins, ginsK)]

/-- R198, R199, R127: in trap mode a G word that issues on an idle hart completes where no active element it performs has a non-finite coordinate, but
for the one it restarts at; otherwise it raises the geometric-operand trap at the lowest such element, with that index in TVAL, as restart
element and as the progress index of its destination, and neither retires nor changes an x register. -/
def Sys2Proof.Stated.GeometricTrapMode : Prop :=
  ∀ row ∈ Stated.geomRows, ∀ (o : OpG) (s : State), o.nf.val = 0 → Stated.idle s → s.hart.ep.geom = none → Stated.issues (row.1 o) s →
    let bad := fun i => Stated.startOf s ≤ i ∧ i < s.hart.ep.vl ∧ Stated.isActive s o.pm.val i = true ∧ nonFinite row.2 o s.hart.ep i = true
      ∧ ¬(s.hart.sc.vstartArmed = true ∧ i = Stated.startOf s)
    ((∀ i, ¬bad i) → ∃ t, exec (row.1 o) s = .next t ∧ Stated.executes false true s { t with dies := s.dies }
      ∧ (∀ r : Fin 32, r ≠ o.d → (∀ c, Stated.lentCopy s = some c → r.val ≠ c) → t.hart.ep.v[r.val] = s.hart.ep.v[r.val]))
    ∧ (∀ i, bad i → (∀ j, bad j → i ≤ j) → ∃ u : State, exec (row.1 o) s = .next (u.trap { cause := 8, tval := i, elem := i })
      ∧ u.hart.sc = s.hart.sc ∧ u.mem = s.mem ∧ u.hart.ep.queue = [] ∧ u.hart.ep.pi o.d.val = i
      ∧ (∀ r : Fin 32, r ≠ o.d → (∀ c, Stated.lentCopy s = some c → r.val ≠ c) → u.hart.ep.v[r.val] = s.hart.ep.v[r.val]))

/-- R187, R189, R193, R197, R198: GORI2, GINC, GORI3 and GINS on an idle hart leave in each active element the sign of the exact value of their
points, and in its bit of m0 whether that is zero; with tie-break by index a zero takes the sign that the value has when the points are moved by
every small enough ε; in flag mode an element with a coordinate that is not finite takes the least integer and a clear bit. At VL = 0 no tail is
written: the model's choice (log 70). -/
def Sys2Proof.Stated.PredicatesAreExact : Prop :=
  ∀ row ∈ Stated.predicates, ∀ (o : OpG) (s : State) (k : GKind),
    (row.word, k) ∈ Stated.geomRows → Stated.idle s → Stated.issues (row.word o) s → Stated.delivers k o s →
    ∃ (t : State) (f : Nat → Int) (g : Nat → Bool), exec (row.word o) s = .next t ∧ Stated.executes false true s { t with dies := s.dies }
      ∧ Stated.geomWritten o s t f g
      ∧ ∀ i, (nonFinite k o s.hart.ep i = true → f i = -2 ^ (8 * 2 ^ s.hart.ep.sew.val - 1) ∧ g i = false)
        ∧ ∀ P, Stated.pointsAre o s row.points row.dim i P →
          (g i = true ↔ row.value P = 0)
          ∧ (o.tb.val = 0 ∨ row.value P ≠ 0 → f i = Stated.signOf (row.value P))
          ∧ (o.tb.val = 1 → row.value P = 0 →
              Stated.eventually fun ε => Stated.signOf (row.value (Stated.nudged o s row.points row.dim i P ε)) = f i)

/-- R190, R197, R198: GSEG on an idle hart leaves in each active element 1 for a proper crossing and otherwise, without tie-break, 2 or 0 as an end of
one segment lies on the other or, for four points on one line, 3, 2 or 0 as the closed segments have many, one or no common points; its bit of m0
says whether an orientation is zero. With tie-break it leaves 1 exactly where the moved points cross properly. At VL = 0 no tail is written: the
model's choice (log 70). -/
def Sys2Proof.Stated.SegmentsAreClassified : Prop :=
  ∀ (o : OpG) (s : State), Stated.idle s → Stated.issues (.gseg o) s → Stated.delivers gsegK o s →
    ∃ (t : State) (f : Nat → Int) (g : Nat → Bool), exec (.gseg o) s = .next t ∧ Stated.executes false true s { t with dies := s.dies }
      ∧ Stated.geomWritten o s t f g
      ∧ ∀ i, (nonFinite gsegK o s.hart.ep i = true → f i = -2 ^ (8 * 2 ^ s.hart.ep.sew.val - 1) ∧ g i = false)
        ∧ ∀ P, Stated.pointsAre o s 4 2 i P →
          let turns := fun (Q : Nat → Nat → ℝ) => (Stated.det2 Q 2 0 1, Stated.det2 Q 3 0 1, Stated.det2 Q 0 2 3, Stated.det2 Q 1 2 3)
          let crosses := fun (Q : Nat → Nat → ℝ) => (turns Q).1 * (turns Q).2.1 < 0 ∧ (turns Q).2.2.1 * (turns Q).2.2.2 < 0
          let onLine := (turns P).1 = 0 ∧ (turns P).2.1 = 0 ∧ (turns P).2.2.1 = 0 ∧ (turns P).2.2.2 = 0
          let point := fun (p : Nat) => (P p 0, P p 1)
          let common := segment ℝ (point 0) (point 1) ∩ segment ℝ (point 2) (point 3)
          let box := fun (x u v : Nat) => ∀ j < 2, min (P u j) (P v j) ≤ P x j ∧ P x j ≤ max (P u j) (P v j)
          let touches := (turns P).1 = 0 ∧ box 2 0 1 ∨ (turns P).2.1 = 0 ∧ box 3 0 1 ∨ (turns P).2.2.1 = 0 ∧ box 0 2 3
            ∨ (turns P).2.2.2 = 0 ∧ box 1 2 3
          (g i = true ↔ (turns P).1 = 0 ∨ (turns P).2.1 = 0 ∨ (turns P).2.2.1 = 0 ∨ (turns P).2.2.2 = 0)
          ∧ (o.tb.val = 0 →
              (crosses P → f i = 1)
              ∧ (onLine → (common.Subsingleton → common.Nonempty → f i = 2) ∧ (¬common.Nonempty → f i = 0) ∧ (¬common.Subsingleton → f i = 3))
              ∧ (¬crosses P → ¬onLine → (touches → f i = 2) ∧ (¬touches → f i = 0)))
          ∧ (o.tb.val = 1 → Stated.eventually fun ε => (f i = 1 ↔ crosses (Stated.nudged o s 4 2 i P ε)))

/-- The elements of a G word below `limit` that resolve: active ones with finite coordinates, from its start (R194). -/
def Sys2Proof.Stated.resolved (k : GKind) (o : OpG) (s : State) (limit : Nat) : Finset Nat :=
  (Finset.range limit).filter fun i => Stated.startOf s ≤ i ∧ Stated.isActive s o.pm.val i = true ∧ nonFinite k o s.hart.ep i = false

/-- The counters of GSTAT and of the die's lifetime histogram have advanced by the elements that resolve below `limit`, each at its stage (R200,
R397). -/
def Sys2Proof.Stated.resolutionsCounted (k : GKind) (o : OpG) (s t : State) (limit : Nat) : Prop :=
  ∀ j < 3,
    let n := ((Stated.resolved k o s limit).filter fun i => (geomResolved k o s.hart.ep i).2.2 = j).card
    t.hart.ep.gstat.toNat / 2 ^ (21 * j) % 2 ^ 21 = min (s.hart.ep.gstat.toNat / 2 ^ (21 * j) % 2 ^ 21 + n) (2 ^ 21 - 1)
    ∧ (s.hart.die < 4 → telGet (t.die s.hart.die).tel (0x1100 + j) = min (telGet (s.die s.hart.die).tel (0x1100 + j) + n) (2 ^ 64 - 1))

/-- The points of an element are small whole numbers, of which every stage computes D and the permanent exactly. -/
def Sys2Proof.Stated.smallPoints (P : Nat → Nat → ℝ) : Prop := ∀ p j, ∃ z : Int, P p j = z ∧ |z| ≤ 64

/-- R191 to R194, R198, R200: a G word on an idle hart counts each element that it resolves once, at one stage of three, in GSTAT and in the lifetime
histogram; in trap mode, where it stops at an element, it has counted those below. Of points that are small whole numbers stage 0 resolves an element
whose D is not 0, or whose permanent is 0, and stage 2 every other; GSEG takes the highest stage of its four orientations. -/
def Sys2Proof.Stated.ResolutionsAreCounted : Prop :=
  (∀ row ∈ Stated.geomRows, ∀ (o : OpG) (s : State), Stated.idle s → Stated.issues (row.1 o) s →
    (Stated.delivers row.2 o s → ∃ t, exec (row.1 o) s = .next t ∧ Stated.resolutionsCounted row.2 o s t s.hart.ep.vl)
    ∧ (∀ i, o.nf.val = 0 → s.hart.ep.geom = none → Stated.startOf s ≤ i → i < s.hart.ep.vl → Stated.isActive s o.pm.val i = true →
        nonFinite row.2 o s.hart.ep i = true → ¬(s.hart.sc.vstartArmed = true ∧ i = Stated.startOf s) →
        (∀ j, Stated.startOf s ≤ j → j < i → Stated.isActive s o.pm.val j = true → nonFinite row.2 o s.hart.ep j = true →
          s.hart.sc.vstartArmed = true ∧ j = Stated.startOf s) →
        ∃ u : State, exec (row.1 o) s = .next (u.trap { cause := 8, tval := i, elem := i }) ∧ Stated.resolutionsCounted row.2 o s u i))
  ∧ (∀ row ∈ Stated.predicates, ∀ (o : OpG) (s : State) (k : GKind) (i : Nat) (P : Nat → Nat → ℝ), (row.word, k) ∈ Stated.geomRows →
    Stated.pointsAre o s row.points row.dim i P → Stated.smallPoints P →
    (geomResolved k o s.hart.ep i).2.2 = if row.value P ≠ 0 ∨ row.permanent P = 0 then 0 else 2)
  ∧ (∀ (o : OpG) (s : State) (i : Nat) (P : Nat → Nat → ℝ), Stated.pointsAre o s 4 2 i P → Stated.smallPoints P →
    let sure := ∀ r ∈ [(0, 1, 2), (0, 1, 3), (2, 3, 0), (2, 3, 1)], Stated.det2 P r.2.2 r.1 r.2.1 ≠ 0 ∨ Stated.per2 P r.2.2 r.1 r.2.1 = 0
    (sure → (geomResolved gsegK o s.hart.ep i).2.2 = 0) ∧ (¬ sure → (geomResolved gsegK o s.hart.ep i).2.2 = 2))

/-- R201: GSTAT answers the 21-bit counter of its stage and, with clear, makes that counter 0 and no other. -/
def Sys2Proof.Stated.GstatCompletes : Prop :=
  ∀ (o : OpGstat) (s : State), s.hart.ctl = false → s.hart.ep.queue = [] → o.stage.val ≠ 3 →
    ∃ g : Word, (∀ k < 3, (g >>> (21 * k)) &&& 0x1FFFFF = if k = o.stage.val ∧ o.clear.val = 1 then 0 else (s.hart.ep.gstat >>> (21 * k)) &&& 0x1FFFFF)
      ∧ exec (.gstat o) s = .next (let t := Stated.answered s o.d ((s.hart.ep.gstat >>> (21 * o.stage.val)) &&& 0x1FFFFF)
         { t with hart := { t.hart with ep := { s.hart.ep with gstat := g } } })

/-- G words in trap mode, what they leave, what they count, and GSTAT (R187 to R201). -/
def Obligations.GeometricWords : Prop :=
  Stated.GeometricTrapMode ∧ Stated.PredicatesAreExact ∧ Stated.SegmentsAreClassified ∧ Stated.ResolutionsAreCounted ∧ Stated.GstatCompletes

namespace Sys2Proof.Stated

open Sys2Proof.Machine

/-! ### Pots, fences, barriers and monitors -/

/-- The pot words with their request, the address, the amount and the access that they make (R248 to R250). -/
structure PotRow where
  op : PotOp
  kind : Kind
  address : Word
  amount : Word
  d : Reg

def potOf (i : Instr) (s : State) : Option PotRow :=
  match i with
  | .pottake o => some ⟨.take, .rmw, reg s o.s1, reg s o.s2, o.d⟩
  | .pottakeq o => some ⟨.takeq, .rmw, reg s o.s1, reg s o.s2, o.d⟩
  | .potgive o => some ⟨.give, .rmw, reg s o.s1, reg s o.s2, o.d⟩
  | .potreadx o => some ⟨.readx, .rmw, reg s o.s1, 0, o.d⟩
  | .potread o => some ⟨.read, .read, reg s o.s1, 0, o.d⟩
  | .potinit o => some ⟨.init o.policy.val o.scope.val, .rmw, reg s o.s1, reg s o.s2, 0⟩
  | _ => none

/-- The pot words other than POTINIT need a pot, and POTINIT is refused on the pot of a farm that has not completed (R248, R250). -/
abbrev potAllowed (i : Instr) (s : State) (pa : Nat) : Prop := match i with | .potinit _ => s.farmPot pa = false | _ => s.isPot pa = true

/-- An instruction that has retired with some value in xd (none written for x0) and a context's progress noted: what else its operation does is
stated elsewhere. -/
def retiredWith (s t : State) (d : Reg) : Prop :=
  (∃ w, t.hart.sc.x = regs s d w) ∧ t.hart.sc.pc = s.hart.sc.pc + 4 ∧ t.hart.sc.instret = s.hart.sc.instret + 1
  ∧ t.hart.sc.fcsr = s.hart.sc.fcsr ∧ t.hart.ep = s.hart.ep ∧ t.hart.status = s.hart.status

/-- The page of a physical address has not been discarded (R226). -/
abbrev kept (s : State) (pa : Nat) : Prop := ∀ e ∈ s.discarded, e.1 ≠ pa / 65536 * 65536

/-- RESID of a pot line, and the amount of a pot: RESID and every stack of it (R246, R247). -/
def resid (s : State) (pa : Nat) : Nat := valueAt s pa 8
def potValue (s : State) (pa : Nat) : Nat := resid s pa + ((s.potStacks.filter (fun k => k.pa == pa)).map (·.amount)).sum

/-- The pot table is as the operations keep it: one stack for a core, context and pot, each of a line of its own in a page that stands (R246,
R247). -/
abbrev tableOk (s : State) : Prop :=
  (s.potStacks.map (fun k => (k.core, k.asid, k.pa))).Nodup ∧ ∀ k ∈ s.potStacks, k.pa % 64 = 0 ∧ kept s k.pa

/-- A pot's line at home, where the model serves requests at once and none waits there (R246, R249). -/
abbrev potReady (s : State) (pa : Nat) : Prop :=
  s.prompt = true ∧ (∀ q ∈ s.potQueue, q.pa ≠ pa) ∧ pa % 64 = 0 ∧ Memory.wf s.mem = true ∧ kept s pa ∧ tableOk s

/-- The fields of a pot line (R246): HOLDERS, POLICY, SCOPE, KIND and FLAGS. -/
def holders (s : State) (pa : Nat) : Nat := valueAt s (pa + 8) 8
def policy (s : State) (pa : Nat) : Nat := valueAt s (pa + 16) 1
def scopeOf (s : State) (pa : Nat) : Nat := valueAt s (pa + 17) 1
def kindOf (s : State) (pa : Nat) : Nat := valueAt s (pa + 18) 1
def flagsOf (s : State) (pa : Nat) : Nat := valueAt s (pa + 19) 1

/-- Nothing of any pot has changed. -/
def potsStand (s t : State) : Prop := t.mem = s.mem ∧ t.potStacks = s.potStacks ∧ t.ranges = s.ranges ∧ t.potLines = s.potLines

/-- How many places of an index-valued pot hold index `i`: ranges at its home and stacks of its cores (R141). -/
def places (s : State) (pa i : Nat) : Nat :=
  ((s.ranges.filter (fun r => r.pa == pa)).flatMap (·.ranges)).countP (fun r => r.1 ≤ i && i < r.2)
  + s.potStacks.countP (fun k => k.pa == pa && k.lo ≤ i && i < k.hi)

/-- An index-valued pot as its operations keep it: RESID counts the indices at home, whose ranges rise, and every index has one place (R141). -/
abbrev indexOk (s : State) (pa : Nat) : Prop :=
  let home := (s.ranges.filter (fun r => r.pa == pa)).flatMap (·.ranges)
  kindOf s pa = 1 ∧ (s.ranges.map (·.pa)).Nodup ∧ (∀ i, places s pa i ≤ 1) ∧ resid s pa = (home.map (fun x => x.2 - x.1)).sum
  ∧ (∀ x ∈ home, x.1 < x.2) ∧ home.Pairwise (fun x y => x.2 ≤ y.1)

/-- The fields of a barrier (R255). -/
def barrier (s : State) (pa : Nat) : Nat × Nat × Nat × Nat :=
  (valueAt s pa 4, valueAt s (pa + 4) 4, valueAt s (pa + 8) 4, valueAt s (pa + 12) 4)

/-- An object that is no barrier: its COUNT is 0, or a reserved byte is not 0 (R257). -/
def noBarrier (s : State) (pa : Nat) : Prop := valueAt s pa 4 = 0 ∨ ∃ i, 16 ≤ i ∧ i < 64 ∧ s.homeByte (pa + i) ≠ 0

/-- The barrier fault of a word whose address is in xs1 (R257, R336). -/
def barrierFault (s : State) (va : Word) (k : Kind) : State := s.trap { cause := 0x18, tval := va.toNat, access := k.code + 8 }

/-- The barrier after ARRIVED and PENDING take new values: a phase that is complete begins the next (R255). -/
def barrierAfter (count arrived pending phase : Nat) : Nat × Nat × Nat × Nat :=
  if arrived = count ∧ pending = 0 then (count, 0, 0, (phase + 1) % 2 ^ 32) else (count, arrived, pending, phase)

/-- A barrier as its next operation finds it: a phase whose condition ordinary stores have made true is complete (R255; that the object's next
operation brings this about is the model's choice, log 90). -/
def barrierNow (s : State) (pa : Nat) : Nat × Nat × Nat × Nat :=
  let b := barrier s pa
  barrierAfter b.1 b.2.1 b.2.2.1 b.2.2.2

/-- No dirty byte is left in the scalar lines of the hart that executes, but for pages of KIND SWM (R211, R213). -/
def scalarClean (s : State) : Prop := ∀ l ∈ s.hart.scache, l.swm = true ∨ l.dirty = 0

/-- No scalar line is left but those of SWM pages. -/
def scalarDropped (s : State) : Prop := ∀ l ∈ s.hart.scache, l.swm = true

/-- No line of the core's vector data cache that `p` names has dirty bytes for which the hart `h` answers (R211; log 64). -/
def vectorClean (s : State) (h : Hart) (p : VLine → Prop) : Prop := ∀ l ∈ s.vdc, l.core = h.coreId → p l → l.answers h.slot = false

/-- The bytes that the hart has written are at home: those of its scalar line `line`, each line standing once in its cache (R258). -/
def broughtHome (s u : State) (line : Nat) : Prop :=
  (s.hart.scache.map (·.line)).Nodup → s.isPot (line * 64) = false → revokedAt s (line * 64) = false → Memory.wf s.mem = true →
  ∀ l ∈ s.hart.scache, l.line = line → ∀ i, i < 64 → l.dirty.getLsbD i = true → (u.homeByte (line * 64 + i)).toNat = l.data.toNat / 256 ^ i % 256

/-! ### Ranges -/

/-- A range of at least one byte within one page, below 2^52 and, for a hart, below the window. -/
abbrev onePage (s : State) (lo n : Nat) : Prop :=
  0 < n ∧ lo / 65536 = (lo + n - 1) / 65536 ∧ lo + n ≤ 2 ^ 52 ∧ (s.hart.ctl = false → lo < 0xFFFFFFFFA0000)

/-- The physical lines of `n` bytes from `pa`. -/
abbrev lineIn (pa n line : Nat) : Prop := pa / 64 ≤ line ∧ line ≤ (pa + n - 1) / 64

/-- A range word that has retired: no x register changes. -/
def rangeRetired (s t : State) : Prop :=
  t.hart.sc.x = s.hart.sc.x ∧ t.hart.sc.pc = s.hart.sc.pc + 4 ∧ t.hart.sc.instret = s.hart.sc.instret + 1 ∧ t.hart.ep = s.hart.ep

/-- The settle count of a frame (R219). -/
def settleCount (s : State) (frame : Nat) : Nat := ((s.settle.find? (fun e => e.1 == frame)).map (·.2)).getD 0

/-! ### Engines and farms -/

/-- The engine words of Strelvis commands with their kind and their check (R310, R314, R316, R317). -/
def strelvisRows : List ((OpDS → Instr) × Nat × (List Byte → Bool)) := [(.bkop, 2, bkopBad), (.bgemv, 3, bgemvBad), (.battn, 4, battnBad)]

/-- The trap of a descriptor's address, which comes before the release of the word that names it (R138, R298). -/
def descriptorTrap (va : Word) : Option Trap :=
  if 2 ^ 52 ≤ va.toNat then some { cause := 4, tval := va.toNat, access := 13 }
  else if va.toNat % 64 ≠ 0 then some { cause := 3, tval := va.toNat, access := 13 }
  else none

/-- The descriptor at an address is read as `d`, in the state that a release at scope P leaves (R138, R298). -/
abbrev descriptorRead (s : State) (va : Word) (u : State) (d : List Byte) : Prop :=
  descriptorTrap va = none ∧ (s.release 3).loadDesc va.toNat = .ok u d

/-- The second operand of a context word breaks R352: MODE 3, bits [63:52] or [3:2], or AREA and HART outside mode 1. -/
abbrev ctxReserved (x : Nat) : Prop := x % 4 = 3 ∨ x / 2 ^ 52 ≠ 0 ∨ x / 4 % 4 ≠ 0 ∨ (x % 4 ≠ 1 ∧ x / 16 % 2 ^ 48 ≠ 0)

/-- A command of the hart is incomplete among those of tag up to `n` (R299). -/
abbrev copiesLeft (s : State) (n : Nat) : Prop := ∃ c ∈ s.copies, c.owner = s.hart.owner ∧ c.tag ≤ n
abbrev strelvisLeft (s : State) (n : Nat) : Prop := ∃ c ∈ s.bks, c.owner = s.hart.owner ∧ c.tag ≤ n

end Sys2Proof.Stated

/-! ### Pots, fences, barriers and monitors -/

/-- R248 to R251: a pot word whose object passes its checks, on a prompt machine with no request waiting at the pot's home, completes: it writes at
most xd, retires, and leaves the execute half and the hart's status. -/
def Sys2Proof.Stated.PotsComplete : Prop :=
  ∀ (i : Instr) (s s' : State) (r : Stated.PotRow) (pa pte : Nat), Stated.potOf i s = some r →
    s.objectAt r.address.toNat r.kind 3 0x17 = .ok s' pa pte → Stated.potAllowed i s' pa →
    s'.prompt = true → (∀ q ∈ s'.potQueue, q.pa ≠ pa) →
    ∃ t, exec i s = .next t ∧ Stated.retiredWith s t r.d

/-- R249, R247: a POTTAKE or POTTAKEQ on an amount-valued pot, answered at once, takes exactly its amount where it answers 1 and nothing where it
answers 0, over RESID and all stacks; a POTTAKE answers 0 only where the pot holds less than its amount. -/
def Obligations.TakesConserveThePot : Prop :=
  ∀ (s s' t : State) (o : OpDSS) (pa pte : Nat) (quick : Bool), o.d.val ≠ 0 →
    s.objectAt (Stated.reg s o.s1).toNat .rmw 3 0x17 = .ok s' pa pte → s'.isPot pa = true → Stated.kindOf s' pa ≠ 1 →
    Stated.potReady s' pa → Stated.potValue s' pa < 2 ^ 64 →
    exec (if quick then .pottakeq o else .pottake o) s = .next t →
    let n := (Stated.reg s o.s2).toNat
    (Stated.reg t o.d = 1 ∧ Stated.potValue t pa + n = Stated.potValue s' pa)
    ∨ (Stated.reg t o.d = 0 ∧ Stated.potValue t pa = Stated.potValue s' pa ∧ (quick = false → Stated.potValue s' pa < n))

/-- R250, R249: what POTGIVE leaves. Where the pot can hold the amount it grows by it and the answer is 1. At home (under the homegive policy, or from
a control core: log 18) RESID saturates, a cut amount sets SAT and answers 0, and no stack changes. Takes and gives on an index-valued pot answer 0
and change no pot. -/
def Sys2Proof.Stated.PotsAreGiven : Prop :=
  ∀ (s s' : State) (o : OpDSS) (pa pte : Nat), s.objectAt (Stated.reg s o.s1).toNat .rmw 3 0x17 = .ok s' pa pte → s'.isPot pa = true →
    Stated.potReady s' pa →
    let n := (Stated.reg s o.s2).toNat
    (Stated.kindOf s' pa ≠ 1 → Stated.potValue s' pa + n < 2 ^ 64 →
      ∃ t, exec (.potgive o) s = .next t ∧ t.hart.sc.x = Stated.regs s o.d 1 ∧ Stated.potValue t pa = Stated.potValue s' pa + n)
    ∧ (Stated.kindOf s' pa ≠ 1 → (Stated.policy s' pa ≠ 0 ∨ 64 ≤ s'.hart.coreId) → ∃ t, exec (.potgive o) s = .next t
      ∧ t.hart.sc.x = Stated.regs s o.d (if Stated.resid s' pa + n < 2 ^ 64 then 1 else 0)
      ∧ Stated.resid t pa = min (Stated.resid s' pa + n) (2 ^ 64 - 1) ∧ t.potStacks = s'.potStacks
      ∧ Stated.flagsOf t pa = if Stated.resid s' pa + n < 2 ^ 64 then Stated.flagsOf s' pa else Stated.flagsOf s' pa / 2 * 2 + 1)
    ∧ (Stated.kindOf s' pa = 1 → ∀ row ∈ [(.potgive : OpDSS → Instr), .pottake, .pottakeq],
      ∃ t, exec (row o) s = .next t ∧ t.hart.sc.x = Stated.regs s o.d 0 ∧ Stated.potsStand s' t)

/-- R250, R247: POTREAD answers RESID as the home holds it and changes no pot. POTREADX calls every stack home and answers all that the pot holds, up
to 2^64 − 1. POTINIT makes the line a pot whose RESID is xs2, with no holder, its policy and scope, KIND 0, no flag and no stack. -/
def Sys2Proof.Stated.PotsAreRead : Prop :=
  (∀ (s s' : State) (o : OpDS) (pa pte : Nat), s.objectAt (Stated.reg s o.s1).toNat .read 3 0x17 = .ok s' pa pte → s'.isPot pa = true →
    Stated.potReady s' pa → ∃ t, exec (.potread o) s = .next t ∧ t.hart.sc.x = Stated.regs s o.d (BitVec.ofNat 64 (Stated.resid s' pa))
      ∧ Stated.potsStand s' t)
  ∧ (∀ (s s' : State) (o : OpDS) (pa pte : Nat), s.objectAt (Stated.reg s o.s1).toNat .rmw 3 0x17 = .ok s' pa pte → s'.isPot pa = true →
    Stated.potReady s' pa → s'.discarded = [] → ∃ t, exec (.potreadx o) s = .next t ∧ Stated.holders t pa = 0 ∧ (∀ k ∈ t.potStacks, k.pa ≠ pa)
      ∧ (Stated.kindOf s' pa ≠ 1 → let v := min (Stated.potValue s' pa) (2 ^ 64 - 1)
          Stated.resid t pa = v ∧ t.hart.sc.x = Stated.regs s o.d (BitVec.ofNat 64 v)))
  ∧ (∀ (s s' : State) (o : OpPotinit) (pa pte : Nat), s.objectAt (Stated.reg s o.s1).toNat .rmw 3 0x17 = .ok s' pa pte → s'.farmPot pa = false →
    Stated.potReady s' pa → ∃ t, exec (.potinit o) s = .next t ∧ t.hart.sc.x = s.hart.sc.x ∧ t.isPot pa = true
      ∧ Stated.resid t pa = (Stated.reg s o.s2).toNat ∧ Stated.holders t pa = 0 ∧ Stated.policy t pa = o.policy.val
      ∧ Stated.scopeOf t pa = o.scope.val ∧ (∀ i, 18 ≤ i → i < 64 → t.homeByte (pa + i) = 0) ∧ ∀ k ∈ t.potStacks, k.pa ≠ pa)

/-- The pot words complete, and what gives, reads and initialisations leave (R246 to R251). -/
def Obligations.PotWordsComplete : Prop := Stated.PotsComplete ∧ Stated.PotsAreGiven ∧ Stated.PotsAreRead

/-- R252, R211, R31: FENCE always completes. Its release part at scope C and above leaves no dirty scalar byte outside SWM pages, and at scope D and
above no dirty byte of theirs in the core's vector data cache for which the hart answers (log 64); its acquire part at scope C and above leaves no
scalar line outside SWM pages, and at scope D and above no vector line of the core outside them, each written back first; with the fetch flag no
dirty byte of the hart is left in either cache and the core's instruction cache is empty. No x register and nothing of the execute half changes. -/
def Sys2Proof.Stated.FencesComplete : Prop :=
  ∀ (o : OpFence) (s : State), ∃ t, exec (.fence o) s = .next t ∧ Stated.rangeRetired s t
    ∧ ((o.ord.val = 2 ∨ o.ord.val = 3) → 1 ≤ o.scope.val → Stated.scalarClean t)
    ∧ ((o.ord.val = 2 ∨ o.ord.val = 3) → 2 ≤ o.scope.val → Stated.vectorClean t s.hart (fun l => l.swm = false))
    ∧ ((o.ord.val = 1 ∨ o.ord.val = 3) → 1 ≤ o.scope.val → Stated.scalarDropped t)
    ∧ ((o.ord.val = 1 ∨ o.ord.val = 3) → 2 ≤ o.scope.val → ∀ l ∈ t.vdc, l.core = s.hart.coreId → l.swm = true)
    ∧ (o.fetch.val = 1 → (∀ l ∈ t.hart.scache, l.dirty = 0) ∧ Stated.vectorClean t s.hart (fun _ => True)
      ∧ ∀ l ∈ t.icache, l.core ≠ s.hart.coreId)

/-- R253, R254, R272: SVFENCE completes and leaves no dirty scalar byte, on a hart not even of SWM pages; VSFENCE, with the execute processor idle,
completes and leaves no scalar line at all; QDRAIN completes where every queue that it names is drained, drops no scalar line (R323), and on a hart
waits, in an architected wait, while a copy or Strelvis command of its own that it names is incomplete. -/
def Sys2Proof.Stated.JoinsAndDrains : Prop :=
  (∀ s : State, ∃ t, exec .svfence s = .next t ∧ Stated.rangeRetired s t ∧ Stated.scalarClean t
    ∧ (s.hart.ctl = false → ∀ l ∈ t.hart.scache, l.dirty = 0))
  ∧ (∀ s : State, s.hart.ep.queue = [] → ∃ t, exec .vsfence s = .next t ∧ Stated.rangeRetired s t ∧ t.hart.scache = [])
  ∧ (∀ (o : OpQdrain) (s : State), s.hart.ep.queue = [] →
      (o.set.val / 32 % 2 = 1 → ∀ c ∈ s.copies, c.owner ≠ s.hart.owner) → (o.set.val / 64 % 2 = 1 → ∀ c ∈ s.bks, c.owner ≠ s.hart.owner) →
      ∃ t, exec (.qdrain o) s = .next t ∧ Stated.rangeRetired s t
        ∧ t.hart.scache.map (fun l => (l.line, l.dirty)) = s.hart.scache.map (fun l => (l.line, l.dirty)))
  ∧ (∀ (o : OpQdrain) (s : State), s.hart.ctl = false → o.set.val % 32 = 0 →
      (o.set.val / 32 % 2 = 1 ∧ (∃ c ∈ s.copies, c.owner = s.hart.owner) ∨ o.set.val / 64 % 2 = 1 ∧ ∃ c ∈ s.bks, c.owner = s.hart.owner) →
      exec (.qdrain o) s = .next { s with hart := { s.hart with waiting := true } })

/-- FENCE, SVFENCE, VSFENCE and QDRAIN (R252 to R254). -/
def Obligations.FencesAndDrains : Prop := Stated.FencesComplete ∧ Stated.JoinsAndDrains

/-- R255, R256, R257: on a barrier that passes its checks, judged after a release part, BARRIVE answers PHASE and counts one arrival, BAREXP raises
PENDING, and a phase that becomes complete begins the next, as one does whose condition an ordinary store has made true (at the next operation: the
model's choice, log 90); BARWAIT answers PHASE where it differs from xs2, its acquire part following, and otherwise
waits. A COUNT of 0, a nonzero reserved byte, an arrival beyond COUNT and a PENDING above 2^28 − 1 raise the barrier fault. -/
def Obligations.BarrierWords : Prop :=
  (∀ (o : OpBar) (s s' : State) (pa pte : Nat), s.objectAt (Stated.reg s o.s1).toNat .rmw 2 0x18 = .ok s' pa pte → pa % 64 = 0 →
    Memory.wf s'.mem = true →
    let u := Stated.released s' o.ord o.scope 0
    let b := Stated.barrierNow u pa
    (¬ Stated.noBarrier u pa → b.2.1 < b.1 → ∃ t, exec (.barrive o) s = .next t ∧ t.hart.sc.x = Stated.regs s o.d (BitVec.ofNat 64 b.2.2.2)
      ∧ t.hart.sc.pc = s.hart.sc.pc + 4 ∧ t.hart.sc.instret = s.hart.sc.instret + 1 ∧ t.hart.ep = s.hart.ep
      ∧ Stated.barrier t pa = Stated.barrierAfter b.1 (b.2.1 + 1) b.2.2.1 b.2.2.2
      ∧ ∀ a, a < pa + 4 ∨ pa + 16 ≤ a → t.homeByte a = u.homeByte a)
    ∧ (Stated.noBarrier u pa ∨ b.1 ≤ b.2.1 → exec (.barrive o) s = .next (Stated.barrierFault u (Stated.reg s o.s1) .rmw)))
  ∧ (∀ (o : OpSS) (s s' : State) (pa pte : Nat), s.objectAt (Stated.reg s o.s1).toNat .rmw 2 0x18 = .ok s' pa pte → pa % 64 = 0 →
    Memory.wf s'.mem = true →
    let b := Stated.barrierNow s' pa
    let n := b.2.2.1 + (Stated.reg s o.s2).toNat
    (¬ Stated.noBarrier s' pa → n < 2 ^ 28 → ∃ t, exec (.barexp o) s = .next t ∧ Stated.rangeRetired s t
      ∧ Stated.barrier t pa = Stated.barrierAfter b.1 b.2.1 n b.2.2.2 ∧ ∀ a, a < pa + 4 ∨ pa + 16 ≤ a → t.homeByte a = s'.homeByte a)
    ∧ (Stated.noBarrier s' pa ∨ 2 ^ 28 ≤ n → exec (.barexp o) s = .next (Stated.barrierFault (s'.barNorm pa) (Stated.reg s o.s1) .rmw)))
  ∧ (∀ (o : OpBarwait) (s s' : State) (pa pte : Nat), s.objectAt (Stated.reg s o.s1).toNat .read 2 0x18 = .ok s' pa pte →
    let phase := (Stated.barrierNow s' pa).2.2.2
    let acquires := o.ord.val = 1 ∨ o.ord.val = 3
    (¬ Stated.noBarrier s' pa → phase ≠ (Stated.reg s o.s2).toNat % 2 ^ 32 →
      (¬ acquires → exec (.barwait o) s = .next (Stated.answered (s'.barNorm pa) o.d (BitVec.ofNat 64 phase)))
      ∧ ∃ t, exec (.barwait o) s = .next t ∧ t.hart.sc.x = Stated.regs s o.d (BitVec.ofNat 64 phase) ∧ t.hart.sc.pc = s.hart.sc.pc + 4
        ∧ t.hart.sc.instret = s.hart.sc.instret + 1 ∧ t.hart.ep = s.hart.ep ∧ (acquires → 1 ≤ o.scope.val → Stated.scalarDropped t))
    ∧ (¬ Stated.noBarrier s' pa → phase = (Stated.reg s o.s2).toNat % 2 ^ 32 →
      exec (.barwait o) s = .next { s'.barNorm pa with hart := { (s'.barNorm pa).hart with waiting := true } })
    ∧ (Stated.noBarrier s' pa → exec (.barwait o) s = .next (Stated.barrierFault s' (Stated.reg s o.s1) .read)))
  ∧ (∀ (s : State) (pa : Nat),
      (pa % 64 = 0 → Memory.wf s.mem = true → ¬ Stated.noBarrier s pa → Stated.barrier (s.barNorm pa) pa = Stated.barrierNow s pa
        ∧ (∀ a, a < pa + 4 ∨ pa + 16 ≤ a → (s.barNorm pa).homeByte a = s.homeByte a))
      ∧ (Stated.noBarrier s pa ∨ Stated.barrierNow s pa = Stated.barrier s pa → s.barNorm pa = s))

/-- R258, R259, R260, R213: MWATCHLD on a located place outside the register block puts the hart's own dirty bytes of the line home, answers the 8
bytes there and arms the hart's monitor on the line, not fired but by its own acquire part, which follows. MWAIT answers 1 where the monitor has
fired, 0 where none is armed or its limit of rounds has passed, and disarms it; otherwise it waits. HEARTBEAT notes its context's progress and no
more. -/
def Obligations.MonitorWords : Prop :=
  (∀ (o : OpBar) (s s' : State) (pa pte : Nat), s.locate (Stated.reg s o.s1).toNat 8 .read 3 = .ok s' pa pte → (s.hart.ctl = true → region pa ≠ 4) →
    let u := if 2 ^ 52 ≤ pa then s' else s'.ownHome (pa / 64)
    let acquires := o.ord.val = 1 ∨ o.ord.val = 3
    ∃ t, exec (.mwatchld o) s = .next t ∧ t.hart.sc.x = Stated.regs s o.d (BitVec.ofNat 64 (Stated.valueAt u pa 8))
      ∧ t.hart.sc.pc = s.hart.sc.pc + 4 ∧ t.hart.sc.instret = s.hart.sc.instret + 1 ∧ t.hart.ep = s.hart.ep
      ∧ (∃ fired, t.hart.sc.monitor = some ⟨pa / 64, (Stated.reg s o.s1).toNat, fired⟩ ∧ (¬ acquires → fired = false))
      ∧ (pa < 2 ^ 52 → Stated.broughtHome s' u (pa / 64) ∧ (∀ l ∈ t.hart.scache, l.line = pa / 64 → l.dirty = 0)
        ∧ (¬ acquires → Stated.vectorClean t s.hart (fun l => l.line = pa / 64)))
      ∧ (acquires → 1 ≤ clipScope (Stated.reg s o.s1).toNat o.scope.val → Stated.scalarDropped t))
  ∧ (∀ (o : OpDS) (s : State),
    let done := fun (w : Word) => let t := Stated.answered s o.d w
      { t with hart := { t.hart with sc := { t.hart.sc with monitor := none } } }
    (s.hart.sc.monitor = none → exec (.mwait o) s = .next (done 0))
    ∧ (∀ m, s.hart.sc.monitor = some m → m.fired = true → exec (.mwait o) s = .next (done 1))
    ∧ (∀ m w, s.hart.sc.monitor = some m → m.fired = false → s.hart.mwait = some w → w.limit ≠ 0 → w.limit ≤ w.rounds →
        exec (.mwait o) s = .next (done 0))
    ∧ (∀ m, s.hart.sc.monitor = some m → m.fired = false → s.hart.mwait = none → exec (.mwait o) s = .next
        { s with hart := { s.hart with waiting := true, mwait := some ⟨(Stated.reg s o.s1).toNat, 0, o.d⟩ } }))
  ∧ (∀ s : State, (s.hart.ctl = true → exec .heartbeat s = .next (Stated.passedBy s))
    ∧ (s.hart.ctl = false → exec .heartbeat s = .next { Stated.passedBy s with
        contexts := s.contexts.map (fun c => if c.asid = s.hart.asid then { c with progress := true } else c) }))

/-! ### Range and image words -/

/-- R261: an empty range retires at once, whatever its address; a range that passes 2^52 raises the address-range trap at its first such address,
before any page is visited. That an empty range comes before every other check, DISCARD's alignment among them, and the address range before any
page is the model's reading (log 40). -/
def Sys2Proof.Stated.RangeLimits : Prop :=
  (∀ row ∈ [((.renew : OpSS → Instr), Kind.read), (.settle, .read), (.discard, .write)], ∀ (o : OpSS) (s : State), s.hart.ep.queue = [] →
    ((Stated.reg s o.s2).toNat = 0 → exec (row.1 o) s = .next (Stated.passedBy s))
    ∧ ((Stated.reg s o.s2).toNat ≠ 0 → 2 ^ 52 < (Stated.reg s o.s1).toNat + (Stated.reg s o.s2).toNat →
        exec (row.1 o) s = .next (s.trap { cause := 4, tval := max (Stated.reg s o.s1).toNat (2 ^ 52), access := row.2.code })))
  ∧ ∀ row ∈ [(.rwb : OpRange → Instr), .rinv, .rwbinv], ∀ (o : OpRange) (s : State), s.hart.ep.queue = [] →
    ((Stated.reg s o.s2).toNat = 0 → exec (row o) s = .next (Stated.passedBy s))
    ∧ ((Stated.reg s o.s2).toNat ≠ 0 → 2 ^ 52 < (Stated.reg s o.s1).toNat + (Stated.reg s o.s2).toNat →
        exec (row o) s = .next (s.trap { cause := 4, tval := max (Stated.reg s o.s1).toNat (2 ^ 52), access := 1 }))

/-- R262, R219: on a range within one page that translates, SETTLE leaves every scalar line of the range clean and no vector line of it that names
the hart as one that answers for it, and counts one settlement of the frame exactly where its page is an SREG page of tier 1; RENEW leaves no line of
the range in the hart's scalar cache or its core's vector data cache; SCOUNT answers the settle count of the frame, 0 outside tier 1. That on a
control core, whose addresses have no entry, SETTLE counts nothing and SCOUNT answers the count of the physical frame is the model's reading (log
19). -/
def Sys2Proof.Stated.ImageWords : Prop :=
  (∀ (o : OpSS) (s s' : State) (pa pte : Nat), s.hart.ep.queue = [] → Stated.onePage s (Stated.reg s o.s1).toNat (Stated.reg s o.s2).toNat →
    s.readPage (Stated.reg s o.s1).toNat = .ok s' pa pte →
    (∃ t, exec (.settle o) s = .next t ∧ Stated.rangeRetired s t
      ∧ (∀ l ∈ t.hart.scache, Stated.lineIn pa (Stated.reg s o.s2).toNat l.line → l.dirty = 0)
      ∧ Stated.vectorClean t s.hart (fun l => Stated.lineIn pa (Stated.reg s o.s2).toNat l.line)
      ∧ (∀ f, Stated.settleCount t f =
          if s.hart.ctl = false ∧ Pte.kind pte = 2 ∧ region pa = 0 ∧ f = pa / 65536 * 65536 then (Stated.settleCount s f + 1) % 2 ^ 32
          else Stated.settleCount s f))
    ∧ (∃ t, exec (.renew o) s = .next t ∧ Stated.rangeRetired s t
      ∧ (∀ l ∈ t.hart.scache, ¬ Stated.lineIn pa (Stated.reg s o.s2).toNat l.line)
      ∧ (∀ l ∈ t.vdc, l.core = s.hart.coreId → ¬ Stated.lineIn pa (Stated.reg s o.s2).toNat l.line)))
  ∧ (∀ (o : OpDS) (s s' : State) (pa pte : Nat), (Stated.reg s o.s1).toNat < 2 ^ 52 →
    (s.hart.ctl = false → (Stated.reg s o.s1).toNat < 0xFFFFFFFFA0000) → s.readPage (Stated.reg s o.s1).toNat = .ok s' pa pte →
    exec (.scount o) s = .next (Stated.answered s' o.d
      (if region pa = 0 then BitVec.ofNat 64 (Stated.settleCount s' (pa / 65536 * 65536)) else 0)))

/-- The checks of range words, and the words that settle images (R261, R262). -/
def Obligations.RangeChecksAndImages : Prop := Stated.RangeLimits ∧ Stated.ImageWords

/-- R263, R211, R216: on a range within one page that translates, RWB leaves the hart's scalar lines of the range clean, above scope C also the
core's vector lines of it for which the hart answers, and at scope Y no line of it that the hart has dirtied in a memory-side cache; the core's
write-range entries are appended; RWB and RWBINV first perform the queue as far as its last store to a line that the core's VDC does not
hold, and can pass later ones, the model's choice (log 92). RINV drops the hart's
scalar lines of the range with their dirty bytes; on a hart at scope C no vector line changes, and above it none of the range is left in the core,
nor at scope Y in a memory-side cache, and memory keeps its bytes where no other hart has written in those lines or read them dirty (log 86). RWBINV
leaves what both leave. No x register changes. -/
def Sys2Proof.Stated.RangeWritesAndDrops : Prop :=
  (∀ s : State, (∀ q ∈ s.hart.ep.queue, s.fetches q = false) → s.drainTo s.fetches = s)
  ∧ ∀ (o : OpRange) (s : State),
    let far := s.hart.ctl = true ∨ o.scope.val ≠ 1
    (∀ (s' : State) (pa pte : Nat), Stated.onePage s (Stated.reg s o.s1).toNat (Stated.reg s o.s2).toNat →
      s.readPage (Stated.reg s o.s1).toNat = .ok s' pa pte →
      let hit := fun (line : Nat) => Stated.lineIn pa (Stated.reg s o.s2).toNat line
      ∃ t, exec (.rinv o) s = .next t ∧ Stated.rangeRetired s t ∧ (∀ l ∈ t.hart.scache, ¬ hit l.line)
        ∧ (¬ far → t.vdc = s'.vdc ∧ t.mem = s'.mem) ∧ (far → ∀ l ∈ t.vdc, l.core = s.hart.coreId → ¬ hit l.line)
        ∧ (far → (∀ l ∈ s'.vdc, l.core = s.hart.coreId → hit l.line → l.seen = 0 ∧ ∀ i < 4, i ≠ s.hart.slot → l.hasWriter i = false) →
            t.mem = s'.mem)
        ∧ (o.scope.val = 4 → ∀ m ∈ t.msc, ¬ hit m.line))
    ∧ (∀ (s' : State) (pa pte : Nat),
      let v := s.drainTo s.fetches
      Stated.onePage v (Stated.reg s o.s1).toNat (Stated.reg s o.s2).toNat → v.readPage (Stated.reg s o.s1).toNat = .ok s' pa pte →
      let hit := fun (line : Nat) => Stated.lineIn pa (Stated.reg s o.s2).toNat line
      (∃ t, exec (.rwb o) s = .next t ∧ Stated.rangeRetired v t ∧ (∀ l ∈ t.hart.scache, hit l.line → l.dirty = 0)
        ∧ (far → Stated.vectorClean t s.hart (fun l => hit l.line))
        ∧ (o.scope.val = 4 → ∀ m ∈ t.msc, hit m.line → s.hart.loc ∉ m.who) ∧ ∀ e ∈ t.collector, e.core ≠ s.hart.coreId)
      ∧ (∃ t, exec (.rwbinv o) s = .next t ∧ Stated.rangeRetired v t ∧ (∀ l ∈ t.hart.scache, ¬ hit l.line)
        ∧ (far → ∀ l ∈ t.vdc, l.core = s.hart.coreId → ¬ hit l.line)
        ∧ (o.scope.val = 4 → ∀ m ∈ t.msc, ¬ hit m.line) ∧ ∀ e ∈ t.collector, e.core ≠ s.hart.coreId))

/-- R264, R226: DISCARD of one 64 KiB page of class N that translates as a write, is no REPL page and is not discarded completes: DSC is set in its
entry, every byte of its frame reads as zero, its translation and the lines that the context reaches by it are dropped, its pots are pots no more,
and no x register changes. -/
def Sys2Proof.Stated.DiscardEmptiesItsPage : Prop :=
  ∀ (o : OpSS) (s s' : State) (pa pte : Nat) (e : TlbEntry),
    let va := (Stated.reg s o.s1).toNat
    s.hart.ctl = false → va % 65536 = 0 → (Stated.reg s o.s2).toNat = 65536 → va < 0xFFFFFFFFA0000 → va + 65536 ≤ 2 ^ 52 →
    Memory.wf s'.mem = true → s'.discarded = [] → s.discardLoc va = .ok s' pa pte → s'.tlbFind s.hart.coreId s.hart.asid va = some e →
    e.big = false → Pte.cls pte = false → Pte.kind pte ≠ 3 → Pte.dsc (readPte s' e.pteAddr) = false →
    pa % 65536 = 0 → e.pteAddr % 8 = 0 → e.pteAddr / 65536 ≠ pa / 65536 →
    ∃ t, exec (.discard o) s = .next t ∧ Stated.rangeRetired s t ∧ Pte.dsc (readPte t e.pteAddr) = true
      ∧ (∀ a, pa ≤ a → a < pa + 65536 → t.homeByte a = 0) ∧ (∀ x ∈ t.tlb, x.asid = s.hart.asid → x.big = false → x.vpn ≠ va / 65536)
      ∧ (∀ l ∈ t.hart.scache, ∀ g ∈ l.tags, g.1 = s.hart.asid → g.2 / 65536 ≠ va / 65536)
      ∧ (∀ l ∈ t.vdc, ∀ g ∈ l.tags, g.1 = s.hart.asid → g.2 / 65536 ≠ va / 65536)
      ∧ ∀ p ∈ t.potLines, ¬(pa ≤ p ∧ p < pa + 65536)

/-- Range write-backs, invalidations and discards (R263, R264). -/
def Obligations.RangesWrittenAndDiscarded : Prop := Stated.RangeWritesAndDrops ∧ Stated.DiscardEmptiesItsPage

/-! ### Engines -/

/-- R298, R302: CPY on a hart traps on a descriptor's address above 2^52 or off 64 bytes before its release; once its descriptor is read it answers −1
and queues nothing where the descriptor or xs2 breaks R302; otherwise, with an entry of CPQ free, a local copy without a mask answers the hart's next
tag and joins the commands under it. -/
def Sys2Proof.Stated.CopiesAreIssued : Prop :=
  ∀ (o : OpDSS) (s u : State) (d : List Byte), s.hart.ctl = false →
    (∀ t, Stated.descriptorTrap (Stated.reg s o.s1) = some t → exec (.cpy o) s = .next (s.trap t))
    ∧ (Stated.descriptorRead s (Stated.reg s o.s1) u d →
      (u.copyBad d (Stated.reg s o.s2) = true → exec (.cpy o) s = .next (Stated.answered u o.d (-1)))
      ∧ (u.copyBad d (Stated.reg s o.s2) = false → (u.copies.filter (fun c => c.owner == u.hart.owner)).length < 16 →
        (Stated.reg s o.s2).toNat % 16 = 0 → copyDev d = 0 → ∃ c : CopyCmd, c.owner = u.hart.owner ∧ c.hartid = u.hart.loc ∧ c.tag = u.hart.sc.copyTag
          ∧ c.pc = u.hart.sc.pc ∧ c.xs2 = Stated.reg s o.s2 ∧ c.desc = d ∧ c.next = 0 ∧ c.state = 1 ∧ c.entered = true
          ∧ exec (.cpy o) s = .next (let t := Stated.answered u o.d (BitVec.ofNat 64 u.hart.sc.copyTag)
             { t with copies := u.copies ++ [c], hart := { t.hart with sc := { t.hart.sc with copyTag := u.hart.sc.copyTag + 1 } } })))

/-- R298, R314, R316, R317, R318: BKOP, BGEMV and BATTN trap on their descriptor's address as CPY does; they answer −1 where their descriptor breaks
their rule (log 20 for what breaks BKOP's), and otherwise, with an entry of BKQ free, the hart's next tag, under which the command joins the others,
after every BKFENCE that the hart has executed; BKFENCE itself only parts the commands before it from those after it. -/
def Sys2Proof.Stated.StrelvisCommandsAreIssued : Prop :=
  (∀ row ∈ Stated.strelvisRows, ∀ (o : OpDS) (s u : State) (d : List Byte), s.hart.ctl = false →
    (∀ t, Stated.descriptorTrap (Stated.reg s o.s1) = some t → exec (row.1 o) s = .next (s.trap t))
    ∧ (Stated.descriptorRead s (Stated.reg s o.s1) u d →
      (row.2.2 d = true → exec (row.1 o) s = .next (Stated.answered u o.d (-1)))
      ∧ (row.2.2 d = false → (u.bks.filter (fun c => c.owner == u.hart.owner)).length < 32 →
        ∃ c : BkCmd, c.owner = u.hart.owner ∧ c.tag = u.hart.sc.bkTag ∧ c.kind = row.2.1 ∧ c.desc = d ∧ c.bank = u.hart.sc.splitr.toNat
          ∧ c.epoch = u.hart.sc.bkEpoch ∧ c.state = 0 ∧ c.parts = []
          ∧ exec (row.1 o) s = .next (let t := Stated.answered u o.d (BitVec.ofNat 64 u.hart.sc.bkTag)
             { t with bks := u.bks ++ [c], hart := { t.hart with sc := { t.hart.sc with bkTag := u.hart.sc.bkTag + 1 } } }))))
  ∧ (∀ s : State, s.hart.ctl = false → exec .bkfence s = .next (let t := Stated.passedBy s
      { t with hart := { t.hart with sc := { t.hart.sc with bkEpoch := s.hart.sc.bkEpoch + 1 } } }))

/-- R299, R300: CPYWAIT and BKWAIT retire where no command of the hart of a tag up to xs1 is incomplete, and otherwise wait in an architected wait;
CPYQ answers 0 for a tag never issued, 3 in the two highest bits for a complete one, and the state and next chunk of an incomplete one. -/
def Sys2Proof.Stated.WaitsForCommands : Prop :=
  (∀ (o : OpS) (s : State), s.hart.ctl = false →
    (¬ Stated.copiesLeft s (Stated.reg s o.s1).toNat → exec (.cpywait o) s = .next (Stated.passedBy s))
    ∧ (Stated.copiesLeft s (Stated.reg s o.s1).toNat → exec (.cpywait o) s = .next { s with hart := { s.hart with waiting := true } })
    ∧ (¬ Stated.strelvisLeft s (Stated.reg s o.s1).toNat → exec (.bkwait o) s = .next (Stated.passedBy s))
    ∧ (Stated.strelvisLeft s (Stated.reg s o.s1).toNat → exec (.bkwait o) s = .next { s with hart := { s.hart with waiting := true } }))
  ∧ (∀ (o : OpDS) (s : State), s.hart.ctl = false →
    let tag := (Stated.reg s o.s1).toNat
    ((∀ c ∈ s.copies, c.owner = s.hart.owner → c.tag ≠ tag) → exec (.cpyq o) s = .next (Stated.answered s o.d
      (if 0 < tag ∧ tag < s.hart.sc.copyTag then 0xC000000000000000 else 0)))
    ∧ (∀ c ∈ s.copies, c.owner = s.hart.owner → c.tag = tag → (∀ e ∈ s.copies, e.owner = s.hart.owner → e.tag = tag → e = c) →
      exec (.cpyq o) s = .next (Stated.answered s o.d (BitVec.ofNat 64 (c.state * 2 ^ 62 + c.next)))))

/-- Engine commands are issued, waited for and asked after (R298 to R302, R310 to R318). -/
def Obligations.EngineCommands : Prop := Stated.CopiesAreIssued ∧ Stated.StrelvisCommandsAreIssued ∧ Stated.WaitsForCommands

/-! ### Farms -/

/-- R138, R137, R141: FARM on a hart traps on its descriptor's address before its release; once its descriptor is read it completes with what the
launch of it answers: −1 for a descriptor that breaks R137 or names the pot of a farm of the context that is not complete, and otherwise, with a
farm slot free on a die that it allows, the context's next handle, under which the farm is queued; its pot, where it has one, then holds every index
below its strips at home, once each, and is index-valued. With no farm slot free on such a die it answers −2, and nothing is launched. -/
def Sys2Proof.Stated.FarmsAreLaunched : Prop :=
  ∀ (o : OpDS) (s u : State) (d : List Byte), s.hart.ctl = false →
    (∀ t, Stated.descriptorTrap (Stated.reg s o.s1) = some t → exec (.farm o) s = .next (s.trap t))
    ∧ (Stated.descriptorRead s (Stated.reg s o.s1) u d →
      let f := farmOf u.ctx.asid d
      (∀ t w, u.launch u.ctx u.hart.coreId d = .result t w → exec (.farm o) s = .next (Stated.answered t o.d w))
      ∧ (farmFieldsBad u f d = true → exec (.farm o) s = .next (Stated.answered u o.d (-1)))
      ∧ (farmFieldsBad u f d = false → f.pot = 0 → slotDies u f.dieMask ≠ [] →
        ∃ t, exec (.farm o) s = .next t ∧ t.hart.sc.x = Stated.regs u o.d (BitVec.ofNat 64 u.ctx.farmNext)
          ∧ t.farms = u.farms ++ [{ f with handle := u.ctx.farmNext, dies := slotDies u f.dieMask }])
      ∧ (farmFieldsBad u f d = false → f.pot = 0 → slotDies u f.dieMask = [] → exec (.farm o) s = .next (Stated.answered u o.d (-2)))
      ∧ (∀ v pa, farmFieldsBad u f d = false → f.pot ≠ 0 → u.object u.ctx u.hart.coreId f.pot 0x17 = .ok v pa →
        ((∃ g ∈ v.farms, g.asid = u.ctx.asid ∧ g.pot ≠ 0 ∧ g.potPa = pa) → exec (.farm o) s = .next (Stated.answered v o.d (-1)))
        ∧ ((∀ g ∈ v.farms, g.asid = u.ctx.asid → g.pot ≠ 0 → g.potPa ≠ pa) → slotDies v f.dieMask = [] →
          exec (.farm o) s = .next (Stated.answered v o.d (-2)))
        ∧ ((∀ g ∈ v.farms, g.asid = u.ctx.asid → g.pot ≠ 0 → g.potPa ≠ pa) → slotDies v f.dieMask ≠ [] → pa % 64 = 0 → Memory.wf v.mem = true →
          ∃ t, exec (.farm o) s = .next t ∧ t.hart.sc.x = Stated.regs u o.d (BitVec.ofNat 64 u.ctx.farmNext)
            ∧ t.farms = v.farms ++ [{ f with handle := u.ctx.farmNext, potPa := pa, dies := slotDies v f.dieMask }]
            ∧ t.isPot pa = true ∧ Stated.resid t pa = f.strips ∧ Stated.holders t pa = 0 ∧ Stated.kindOf t pa = 1
            ∧ ∀ i, Stated.places t pa i = if i < f.strips then 1 else 0)))

/-- R140, R141, R144: STRIP on a hart whose farm has no pot answers −1; on one whose farm's pot passes its checks it completes with a value in xd, and
takes one index that the pot held from the one place that held it, every other index keeping a place, or answers −1 where no place holds any. FQUERY
answers the state and the counts of a live farm, 3 in the two highest bits for one that has completed, and 0 for a handle never given. -/
def Sys2Proof.Stated.StripsAndQueries : Prop :=
  (∀ (o : OpD) (s : State) (f : Farm), s.hart.ctl = false → s.farmHere = some f → f.pot = 0 →
    ∃ t, exec (.strip o) s = .next t ∧ t.hart.sc.x = Stated.regs s o.d (-1) ∧ t.hart.sc.pc = s.hart.sc.pc + 4 ∧ t.hart.ep = s.hart.ep)
  ∧ (∀ (o : OpD) (s s' : State) (f : Farm) (pa pte : Nat), s.hart.ctl = false → s.farmHere = some f → f.pot ≠ 0 →
    s.objectAt f.pot .rmw 3 0x17 = .ok s' pa pte → s'.isPot pa = true → s'.prompt = true → (∀ q ∈ s'.potQueue, q.pa ≠ pa) →
    ∃ t, exec (.strip o) s = .next t ∧ Stated.retiredWith s t o.d
      ∧ (Stated.potReady s' pa → Stated.indexOk s' pa → s'.hart.coreId < 64 →
        (t.hart.sc.x = Stated.regs s o.d (-1) ∧ ∀ i, Stated.places s' pa i = 0)
        ∨ ∃ i, t.hart.sc.x = Stated.regs s o.d (BitVec.ofNat 64 i) ∧ Stated.places s' pa i = 1 ∧ Stated.places t pa i = 0
          ∧ ∀ j, j ≠ i → Stated.places t pa j = Stated.places s' pa j))
  ∧ (∀ (o : OpDS) (s : State), s.hart.ctl = false →
    let h := (Stated.reg s o.s1).toNat
    (∀ f, s.farms.find? (fun f => f.asid == s.hart.asid && f.handle == h) = some f → exec (.fquery o) s = .next (Stated.answered s o.d
      (BitVec.ofNat 64 ((if f.admitted = 0 then 1 else 2) * 2 ^ 62 + f.retired * 2 ^ 24 + f.admitted))))
    ∧ (s.farms.find? (fun f => f.asid == s.hart.asid && f.handle == h) = none → exec (.fquery o) s = .next (Stated.answered s o.d
      (if 0 < h ∧ h < s.ctx.farmNext then 0xC000000000000000 else 0))))

/-- FARM, STRIP and FQUERY (R137 to R141, R144). -/
def Obligations.FarmWords : Prop := Stated.FarmsAreLaunched ∧ Stated.StripsAndQueries

/-- A hart that FEND has retired, from `s` to `t` (R142, R212, R213, R216). -/
def Sys2Proof.Stated.hartEnded (s t : State) : Prop :=
  t.hart.status = .retired ∧ t.hart.waiting = false ∧ t.hart.sc.monitor = none ∧ t.hart.sc.x = s.hart.sc.x
  ∧ t.hart.ep = s.hart.ep ∧ t.hart.sc.instret = s.hart.sc.instret + 1 ∧ Stated.scalarClean t
  ∧ (∀ l ∈ t.vdc, l.core = s.hart.coreId → s.hart.ep.lg.getLsbD (sliceOf l.line) = false)
  ∧ (∀ e ∈ t.collector, e.core = s.hart.coreId → e.asid ≠ s.hart.asid)

/-- R142, R212, R213, R216: FEND of a hart with nothing incomplete completes: the hart is retired, its slot and lane groups being free, and keeps its
x registers and its execute half; its scalar lines are clean but for those of SWM pages, no vector line is left in the slices of its lane groups, and
no write-range entry of its core for its context; its farm counts one more retired hart, and with its last one it completes, where the hart and its
FEND are noted. While an engine command of the hart is incomplete it waits, and that is no architected wait. -/
def Sys2Proof.Stated.FendRetiresItsHart : Prop :=
  (∀ s : State, s.hart.ctl = false → s.hart.ep.queue = [] → (∀ c ∈ s.copies, c.owner ≠ s.hart.owner) → (∀ c ∈ s.bks, c.owner ≠ s.hart.owner) →
    (s.farms.map (fun f => (f.asid, f.handle))).Nodup →
    ((∀ f, s.farmHere = some f → f.retired + 1 < f.harts) → ∃ t, exec .fend s = .next t ∧ Stated.hartEnded s t
      ∧ ∀ f, s.farmHere = some f → ∃ g ∈ t.farms, g.asid = f.asid ∧ g.handle = f.handle ∧ g.retired = f.retired + 1)
    ∧ (∀ f, s.farmHere = some f → f.retired + 1 = f.harts → ∃ u, Stated.hartEnded s u
      ∧ let g := { f with retired := f.harts, lastLoc := s.hart.loc, lastPc := s.hart.sc.pc }
        g ∈ u.farms ∧ exec .fend s = .next (u.completeFarm g) ∧ (u.completeFarm g).hart = u.hart))
  ∧ (∀ s : State, s.hart.ctl = false → s.hart.ep.queue = [] → ((∃ c ∈ s.copies, c.owner = s.hart.owner) ∨ ∃ c ∈ s.bks, c.owner = s.hart.owner) →
    exec .fend s = .next { s with hart := { s.hart with waiting := false } })

/-- The farm has completed and its farm slots are free (R142): no farm has its handle any more, and the others stand. -/
def Sys2Proof.Stated.farmGone (s t : State) (f : Farm) : Prop :=
  t.farms = s.farms.filter (fun g => ¬(g.asid = f.asid ∧ g.handle = f.handle))

/-- The fields of a parked completion's record (R142, R336): SOURCE 3, a read-modify-write of its object, the farm's last hart and its FEND. -/
def Sys2Proof.Stated.completionFields (f : Farm) (cause : Nat) (dev : Bool) : List (Nat × Nat × Nat) :=
  [(0, 1, cause), (1, 1, 3), (2, 1, 3 + 4 * (if f.flags % 2 = 1 then 3 else 2) + if dev = true then 128 else 0), (3, 1, 0),
   (4, 4, f.asid * 65536 + f.lastLoc), (8, 8, f.lastPc.toNat), (16, 8, f.done), (24, 4, 0), (28, 4, 0), (32, 8, 0), (40, 8, 0), (48, 8, 0),
   (56, 4, f.handle), (60, 4, 0)]

/-- The completion has parked, with nothing of its object changed (R142): the farm keeps its slots, and a record waits for the queue of the die of
its last hart. -/
def Sys2Proof.Stated.completionParked (s t : State) (f : Farm) (cause : Nat) (dev : Bool) : Prop :=
  ∃ r : List Byte, r.length = 64 ∧ (Stated.fits (Stated.completionFields f cause dev) → Stated.holds r (Stated.completionFields f cause dev))
    ∧ t = { s with
        farms := s.farms.map (fun g => if g.asid = f.asid ∧ g.handle = f.handle then { g with state := 3 } else g)
        faults := s.faults ++ [⟨f.lastLoc / 64, .farm f.asid f.handle, r, none⟩] }

/-- R142, R250, R255, R257: a farm that names no object completes at once. An object that its context's translation, made for the die of the farm's
last hart, finds outside tier 1, in the window or on a page that faults parks the completion with that cause; a DONE of 2^52 or more parks it with
the object's own, the model's reading (log 67). On a barrier that keeps R257 the farm is one arrival, which can end the phase; on a pot that is not
index-valued it gives 1, which saturates; either frees the farm's slots. Any other object parks the completion with its own fault. A page that
migrates or collapses leaves it due. -/
def Sys2Proof.Stated.FarmsComplete : Prop :=
  ∀ (s : State) (f : Farm) (c : Context), s.ctxOf f.asid = some c →
    let t := s.completeFarm f
    let own := if f.flags % 2 = 1 then 0x17 else 0x18
    (f.done = 0 → Stated.farmGone s t f)
    ∧ (2 ^ 52 ≤ f.done → Stated.completionParked s t f own false)
    ∧ (f.done ≠ 0 → f.done < 2 ^ 52 →
      (∀ u cause dev, s.object c (16 * (f.lastLoc / 64)) f.done own = .fault u cause dev → Stated.completionParked u t f cause dev)
      ∧ (∀ u, s.object c (16 * (f.lastLoc / 64)) f.done own = .wait u → t = u)
      ∧ (∀ u pa, s.object c (16 * (f.lastLoc / 64)) f.done own = .ok u pa → pa % 64 = 0 → pa < 2 ^ 52 → Stated.kept u pa → Memory.wf u.mem = true →
        (f.flags % 2 = 0 → let b := Stated.barrierNow u pa
          (¬ Stated.noBarrier u pa → b.2.1 < b.1 → Stated.farmGone u t f ∧ Stated.barrier t pa = Stated.barrierAfter b.1 (b.2.1 + 1) b.2.2.1 b.2.2.2)
          ∧ (Stated.noBarrier u pa ∨ b.1 ≤ b.2.1 → Stated.completionParked u t f 0x18 false))
        ∧ (f.flags % 2 = 1 →
          (u.isPot pa = true → Stated.kindOf u pa = 0 → Stated.farmGone u t f ∧ Stated.resid t pa = min (Stated.resid u pa + 1) (2 ^ 64 - 1)
            ∧ t.potStacks = u.potStacks)
          ∧ (u.isPot pa = false ∨ Stated.kindOf u pa ≠ 0 → Stated.completionParked u t f 0x17 false))))

/-- FEND retires its hart, and with the last hart its farm completes (R142, R212, R213). -/
def Obligations.FendsAndCompletions : Prop := Stated.FendRetiresItsHart ∧ Stated.FarmsComplete

/-! ### Supervisor words -/

/-- R346, R210: after TLBINV on a control core no translation of the page it names is left in any TLB, be it of 64 KiB or of 512 MiB, nor any of the
address space where its bit 16 is set; it retires where no part of a Strelvis command of the context runs, and can otherwise wait for one. -/
def Sys2Proof.Stated.TlbinvDropsTranslations : Prop :=
  ∀ (o : OpSS) (s : State), s.hart.ctl = true →
    let asid := (Stated.reg s o.s2).toNat % 2 ^ 16
    let va := (Stated.reg s o.s1).toNat
    ∃ t, exec (.tlbinv o) s = .next t
      ∧ (∀ e ∈ t.tlb, e.asid = asid → (Stated.reg s o.s2).getLsbD 16 = false ∧ e.vpn ≠ if e.big = true then va / 2 ^ 29 else va / 65536)
      ∧ ((∀ c ∈ s.bks, c.owner.asid = asid → ∀ p ∈ c.parts, p.state ≠ 1) →
        t.hart.sc.pc = s.hart.sc.pc + 4 ∧ t.hart.sc.instret = s.hart.sc.instret + 1 ∧ t.hart.sc.x = s.hart.sc.x)

/-- R351, R352, R353, R355, R356: CTXHALT on a control core with a descriptor that it can read (log 9), once its release is made, answers −4 for an
operand that breaks R352 and −1 for a context that the hardware does not know; on a running context mode 0 starts its halt, mode 2 kills it, both
answering 0, and mode 1 marks a hart to be pre-empted and answers 0, or −3 where the context has no such hart or it is marked already; a context whose
image could not be written takes modes 0 and 2 as a running one, and answers −2 to mode 1, as one that is halting, halted or killed does to every mode
(log 30). A halt that starts leaves STATE 2 and CAUSE 1, in the hardware's copy and in the descriptor, and every hart as it was; a kill leaves STATE 4
and CAUSE 3 and nothing of the context on the package, its scratchpads zeroed. That a kill is done whole in its own step is the model's choice
(log 78). -/
def Sys2Proof.Stated.CtxhaltAnswers : Prop :=
  ∀ (o : OpDSS) (s : State), s.hart.ctl = true → descTrap s (Stated.reg s o.s1).toNat = none →
    let u := s.release 3
    let x := (Stated.reg s o.s2).toNat
    let desc := (Stated.reg s o.s1).toNat
    let known := fun (c : Context) => u.updCtx c.asid (fun c => { c with desc := desc })
    (Stated.ctxReserved x → exec (.ctxhalt o) s = .next (Stated.answered u o.d (-4)))
    ∧ (¬ Stated.ctxReserved x → u.ctxOf (u.descAsid desc) = none → exec (.ctxhalt o) s = .next (Stated.answered u o.d (-1)))
    ∧ ∀ c, ¬ Stated.ctxReserved x → u.ctxOf (u.descAsid desc) = some c →
      (c.state = 2 ∨ c.state = 3 ∨ c.state = 4 ∨ c.state = 5 ∧ x % 4 = 1 → exec (.ctxhalt o) s = .next (Stated.answered u o.d (-2)))
      ∧ (c.state = 5 → x % 4 = 0 → ∃ t, exec (.ctxhalt o) s = .next t ∧ t.hart.sc.x = Stated.regs u o.d 0
        ∧ (t.ctxOf c.asid).map (fun k => (k.state, k.cause, k.stopped)) = some (2, 1, c.stopped)
        ∧ t.others.map (fun h => (h.loc, h.status, h.sc.pc)) = u.others.map (fun h => (h.loc, h.status, h.sc.pc))
        ∧ (Memory.wf u.mem = true → Stated.kept u desc → t.homeByte desc = 2 ∧ t.homeByte (desc + 1) = 1))
      ∧ (c.state = 1 → x % 4 = 0 → ∃ t, exec (.ctxhalt o) s = .next t ∧ t = Stated.answered ((known c).startHalt c.asid 1) o.d 0
        ∧ (t.ctxOf c.asid).map (fun k => (k.state, k.cause, k.stopped)) = some (2, 1, c.stopped)
        ∧ t.others.map (fun h => (h.loc, h.status, h.sc.pc)) = u.others.map (fun h => (h.loc, h.status, h.sc.pc))
        ∧ (Memory.wf u.mem = true → Stated.kept u desc → t.homeByte desc = 2 ∧ t.homeByte (desc + 1) = 1))
      ∧ (c.state = 1 ∨ c.state = 5 → x % 4 = 2 → ∃ t, exec (.ctxhalt o) s = .next t ∧ t = Stated.answered ((known c).kill c.asid) o.d 0
        ∧ (t.ctxOf c.asid).map (fun k => (k.state, k.cause)) = some (4, 3)
        ∧ (∀ h ∈ t.allHarts, h.admitted = true → h.asid ≠ c.asid) ∧ (∀ f ∈ t.farms, f.asid ≠ c.asid)
        ∧ (∀ k ∈ t.copies, k.owner.asid ≠ c.asid) ∧ (∀ k ∈ t.bks, k.owner.asid ≠ c.asid) ∧ (∀ k ∈ t.potStacks, k.asid ≠ c.asid)
        ∧ (∀ e ∈ t.collector, e.asid ≠ c.asid) ∧ (∀ e ∈ t.tlb, e.asid ≠ c.asid) ∧ (∀ h ∈ t.holders, h.2 ≠ c.asid)
        ∧ ∀ h ∈ u.holders, h.2 = c.asid → ∀ i < 393216, t.homeByte (padAddr h.1 i) = 0)
      ∧ (c.state = 1 → x % 4 = 1 →
        ((∀ h ∈ u.ctxHarts c.asid, h.loc = x / 16 % 256 → h.leaving ≠ none) → exec (.ctxhalt o) s = .next (Stated.answered u o.d (-3)))
        ∧ ((∃ h ∈ u.ctxHarts c.asid, h.loc = x / 16 % 256) → (∀ h ∈ u.ctxHarts c.asid, h.loc = x / 16 % 256 → h.leaving = none) →
          ∃ t, exec (.ctxhalt o) s = .next t ∧ t.hart.sc.x = Stated.regs u o.d 0
            ∧ ∀ h ∈ t.others, h.loc = x / 16 % 256 → h.leaving = some (x / 4096 * 4096)))

/-- R351, R366, R367: CTXRESUME on a control core with a descriptor that it can read (log 9; the order of its checks, log 28), once its release is
made, answers −5 for a reserved mode (MODE 2 among them, log 30) or operand, and in mode 0 −1 for a context that runs, halts or could not be written,
the code of the first check that its image fails, or else 0 with the context resumed: it runs, with the fields that the descriptor and its record
give it, every copy record is at work again, every farm record is queued again with its handle and counts (said where none of them and no other farm
or launch is due to complete in the same step), and every hart of the image waits for its place. In mode 1 it answers −1 for a context that does not
run, −2 for an area that is none of its pre-empted harts' or holds no such record, and otherwise 0, the hart then waiting for a place on its core. -/
def Sys2Proof.Stated.CtxresumeAnswers : Prop :=
  ∀ (o : OpDSS) (s : State), s.hart.ctl = true → descTrap s (Stated.reg s o.s1).toNat = none →
    let u := s.release 3
    let x := (Stated.reg s o.s2).toNat
    let d := u.readDesc (Stated.reg s o.s1).toNat
    let live := (u.ctxOf d.asid).any (fun c => c.state == 1 || c.state == 2 || c.state == 5)
    (Stated.ctxReserved x ∨ x % 4 = 2 → exec (.ctxresume o) s = .next (Stated.answered u o.d (-5)))
    ∧ (x = 0 → live = true → exec (.ctxresume o) s = .next (Stated.answered u o.d (-1)))
    ∧ (∀ n, x = 0 → live = false → u.judgeImage d = .inl n → exec (.ctxresume o) s = .next (Stated.answered u o.d (BitVec.ofInt 64 n)))
    ∧ (∀ es, x = 0 → live = false → u.judgeImage d = .inr es →
      ∃ t, exec (.ctxresume o) s = .next t ∧ t = Stated.answered (u.resumeCtx d es) o.d 0
        ∧ (∃ c, t.ctxOf d.asid = some c ∧ c.state = 1 ∧ c.cause = 0 ∧ c.desc = (Stated.reg s o.s1).toNat ∧ c.ptroot = d.ptroot ∧ c.wdog = d.wdog
          ∧ c.dirty = d.dirty ∧ c.features = d.features
          ∧ let r := (sectionOf es 1).headD []
            c.swmring.toNat = fieldAt r 16 8 ∧ c.tenstab.toNat = fieldAt r 24 8 ∧ c.tenscnt = fieldAt r 40 4)
        ∧ (∃ more, t.copies = u.copies ++ more
          ∧ more.map (fun c => (c.owner, c.tag, c.next, c.xs2.toNat, c.desc))
            = (sectionOf es 4).map (fun r => (⟨d.asid, fieldAt r 0 4, fieldAt r 4 4⟩, fieldAt r 8 4, fieldAt r 12 4, fieldAt r 24 8, (r.drop 32).take 64)))
        ∧ ((∀ r ∈ sectionOf es 6, fieldAt r 4 1 ≠ 3 ∧ ¬(fieldAt r 4 1 = 2 ∧ fieldAt r 12 4 = fieldAt r 56 4)) →
          (∀ f ∈ u.farms, ¬(f.state = 2 ∧ f.retired = f.harts)) → (∀ e ∈ u.dies, e.fdBusy = false) →
          ∃ more, t.farms = u.farms ++ more
            ∧ more.map (fun f => { f with potPa := 0, dies := [] }) = (sectionOf es 6).map (fun r => { farmOf d.asid ((r.drop 24).take 64) with
              handle := fieldAt r 0 4, state := fieldAt r 4 1, prio := fieldAt r 5 1
              admitted := fieldAt r 8 4, retired := fieldAt r 12 4, waited := fieldAt r 16 4 }))
        ∧ (∃ more, t.placements = u.placements ++ more ∧ (∀ p ∈ more, p.asid = d.asid)
          ∧ (more.map (fun p => p.harts.length)).sum = (sectionOf es 2).length))
    ∧ (¬ Stated.ctxReserved x → x % 4 = 1 →
      let asid := u.descAsid (Stated.reg s o.s1).toNat
      let area := x / 4096 * 4096
      ((∀ c, u.ctxOf asid = some c → c.state ≠ 1) → exec (.ctxresume o) s = .next (Stated.answered u o.d (-1)))
      ∧ ∀ c, u.ctxOf asid = some c → c.state = 1 →
        ((∀ e ∈ c.preempted, e.2 ≠ area) → exec (.ctxresume o) s = .next (Stated.answered u o.d (-2)))
        ∧ ∀ e, c.preempted.find? (fun e => e.2 == area) = some e →
          let r := u.areaRecord area
          (fieldAt r 9 1 ≠ 2 ∨ hartRecordBad r = true → exec (.ctxresume o) s = .next (Stated.answered u o.d (-2)))
          ∧ (fieldAt r 9 1 = 2 → hartRecordBad r = false → ∃ t, exec (.ctxresume o) s = .next t ∧ t.hart.sc.x = Stated.regs u o.d 0
            ∧ t.placements = u.placements ++ [⟨asid, fieldAt r 8 1 / 4, true, none, [recordHart asid r u.free], [[]]⟩]
            ∧ (t.ctxOf asid).map (·.preempted) = some (c.preempted.filter (fun x => x ≠ e))))

/-- CTXHALT and CTXRESUME (R351 to R366). -/
def Obligations.ContextWords : Prop := Stated.CtxhaltAnswers ∧ Stated.CtxresumeAnswers

/-- R340, R354, R51, R142: TRET with a record, on a control core, answers −1 where no party of its die is parked on the slot. Of a parked party it
takes the record at home, as the supervisor edited it: RESUME above 1, or 1 for a party that is no hart, answers −2; otherwise the party's record is
gone and xd is 0. A hart then runs, or stays stopped where its context is halting, at the record's PC without its bits [1:0] (log 75) from the
restart element for a retry, and at the next word for a skip, with the record's LEND, legalised, in LENDSTATE, which is pending in a retry alone; a
copy is no longer parked; a Strelvis command is checked again, or arrives again where it parked so (log 21); the farm's completion is due, and where
its context runs is performed at once. -/
def Sys2Proof.Stated.ParkedHartsAreResumed : Prop :=
  ∀ (o : OpDS) (s : State), s.hart.ctl = true →
    let u := s.release 3
    let slot := (Stated.reg s o.s1).toNat
    let r := u.homeBytes slot 64
    let pc := BitVec.ofNat 64 (fieldAt r 8 8) &&& ~~~3#64
    ((∀ f ∈ u.faults, ¬(f.die = s.hart.die ∧ f.slot = some slot)) → exec (.tretResume o) s = .next (Stated.answered u o.d (-1)))
    ∧ (∀ f, u.faults.find? (fun f => f.die == s.hart.die && f.slot == some slot) = some f →
      (1 < fieldAt r 3 1 → exec (.tretResume o) s = .next (Stated.answered u o.d (-2)))
      ∧ (fieldAt r 3 1 = 1 → (∀ who, f.party ≠ .hart who) → exec (.tretResume o) s = .next (Stated.answered u o.d (-2)))
      ∧ (∀ who, f.party = .hart who → fieldAt r 3 1 ≤ 1 → who ≠ s.hart.loc → ∃ t, exec (.tretResume o) s = .next t
        ∧ t.hart.sc.x = Stated.regs u o.d 0 ∧ f ∉ t.faults
        ∧ ∀ h ∈ t.others, h.loc = who → h.status = (if u.ctxRuns h.asid then .running else .stopped) ∧ h.waiting = false
          ∧ h.sc.pc = pc + (if fieldAt r 3 1 = 1 then 4 else 0) ∧ h.sc.vstartArmed = decide (fieldAt r 3 1 = 0)
          ∧ (fieldAt r 3 1 = 0 → h.sc.vstart = BitVec.ofNat 18 (fieldAt r 24 4))
          ∧ h.sc.lend = Stated.lendStored (BitVec.ofNat 64 (fieldAt r 28 4)) &&& (if fieldAt r 3 1 = 1 then 0x7FFFFFFF#32 else 0xFFFFFFFF#32))
      ∧ (∀ w tag, f.party = .copy w tag → fieldAt r 3 1 = 0 → ∃ t, exec (.tretResume o) s = .next t ∧ t.hart.sc.x = Stated.regs u o.d 0
        ∧ f ∉ t.faults ∧ ∀ c ∈ t.copies, c.owner = w → c.tag = tag → c.state = 1)
      ∧ (∀ w tag, f.party = .strelvis w tag → fieldAt r 3 1 = 0 → exec (.tretResume o) s = .next (Stated.answered { u with
          faults := u.faults.filter (fun g => g ≠ f)
          bks := u.bks.map (fun c => if c.owner = w ∧ c.tag = tag then { c with state := if c.state = 3 then 1 else 0 } else c) } o.d 0))
      ∧ (∀ asid handle, f.party = .farm asid handle → fieldAt r 3 1 = 0 →
        let v : State := { u with
          faults := u.faults.filter (fun g => g ≠ f)
          farms := u.farms.map (fun g => if g.asid = asid ∧ g.handle = handle then { g with state := 2 } else g) }
        (u.ctxRuns asid = false → (∀ g ∈ v.farms, g.state = 2 → g.retired = g.harts → g.asid = asid) →
          exec (.tretResume o) s = .next (Stated.answered v o.d 0))
        ∧ (∀ g, u.ctxRuns asid = true → v.farms.filter (fun g => g.state == 2 && g.retired == g.harts) = [g] → g.asid = asid →
          g.handle = handle → exec (.tretResume o) s = .next (Stated.answered (v.completeFarm g) o.d 0))))

/-- TLBINV, and TRET with a record (R340, R346). -/
def Obligations.SupervisorWords : Prop := Stated.TlbinvDropsTranslations ∧ Stated.ParkedHartsAreResumed

namespace Sys2Proof.Stated

open Sys2Proof.Machine

/-! ### Streams -/

/-- The value of `n` bytes at a tensor's address modulo 2^64, as the delivery's execute processor finds them by the translations that it keeps. -/
def tensorBytes (s : State) (q : QEntry) (a : Int) (n : Nat) : Nat := foundValue s (resolve q.pages s.hart.coreId (a % (2 ^ 64 : Nat)).toNat) 0 n

/-- The fields of a tensor's entry (R239). -/
def dim (b : Binding) (j : Nat) : Nat := fieldAt b.entry (16 + 4 * j) 4
def extent (b : Binding) : Nat := dim b 0 * dim b 1 * dim b 2
def stride (b : Binding) (j : Nat) : Int := field 64 (fieldAt b.entry (32 + 8 * j) 8)
def base (b : Binding) : Nat := fieldAt b.entry 0 8
def fmtCode (b : Binding) : Nat := fieldAt b.entry 28 1
def nanCode (b : Binding) : Nat := fieldAt b.entry 29 1

/-- The block formats: element format, elements and bytes of a block (R74, R82, R84). -/
def blocks (fmt : Nat) : Fmt × Nat × Nat :=
  [(e4m3, 32, 33), (e5m2, 32, 33), (e3m2, 32, 25), (e2m3, 32, 25), (e2m1, 32, 17), (e2m1, 64, 33)].getD (fmt - 6) (e2m1, 64, 33)

/-- The code of element `p` of a block tensor: its bits in the element field of its block, least significant first (R82, R240). -/
def blockCode (s : State) (q : QEntry) (b : Binding) (p : Nat) : Nat :=
  let x := blocks (fmtCode b)
  let w := x.1.width
  let lo := w * (p % x.2.1)
  let byte := fun (k : Nat) => tensorBytes s q (base b + p / x.2.1 * x.2.2 + k) 1
  (byte (lo / 8) + 256 * byte ((lo + w - 1) / 8)) / 2 ^ (lo % 8) % 2 ^ w

/-- The scale byte of that block, and the super-scale of its 16,384 elements, 1.0 where there is no array (R84, R239, R242). -/
def blockScale (s : State) (q : QEntry) (b : Binding) (p : Nat) : Nat :=
  let x := blocks (fmtCode b)
  tensorBytes s q (base b + p / x.2.1 * x.2.2 + x.2.2 - 1) 1
def superScale (s : State) (q : QEntry) (b : Binding) (p : Nat) : Nat :=
  if fieldAt b.entry 8 8 = 0 then 0x3F800000 else tensorBytes s q (fieldAt b.entry 8 8 + 4 * (p / 16384) : Nat) 4

/-- The magnitudes of QN4 in units of 1/256 (R83). -/
def magnitudes : List Nat := [0, 22, 46, 73, 104, 141, 189, 256]

/-- A block's element times its scale, before the super-scale: none where the block reads as +0 (R81, R85). -/
def scaled (fmt nan code scale : Nat) : Option FVal :=
  if fmt = 11 then
    (if scale = 0 then none
     else if code = 8 ∧ nan ≠ 0 then some (.nan false)
     else if code % 8 = 7 ∧ nan = 2 then some (.inf (decide (8 ≤ code)))
     else some (.fin (decide (8 ≤ code)) (magnitudes.getD (code % 8) 0 * scale) (-16)))
  else if scale = 255 then (if nan = 0 then none else some (.nan false))
  else some (match (blocks fmt).1.decode nan code with
    | .fin neg m e => .fin neg m (e + scale - 127)
    | v => v)

/-- The scale of a column: s/256 of QN4, 2^(e − 127) of MXFP4; none where it is +0 (R242; a NaN scale gives NaN: log 61). -/
def columnScaled (fmt nan scale : Nat) : Option FVal :=
  if fmt = 11 then (if scale = 0 then none else some (.fin false scale (-8)))
  else if scale = 255 then (if nan = 0 then none else some (.nan false))
  else some (.fin false 1 ((scale : Int) - 127))

/-- `r` is the FP32 code of a scaled value times a super-scale: +0 of an absent one, the canonical NaN of a NaN, an infinity of its sign, and else the
product rounded once to nearest even, where FP32's numbers reach (R82, R85, R242). -/
def Times (v : Option FVal) (sup r : Nat) : Prop :=
  match v with
  | none => r = 0
  | some v =>
    let z := fp32.decode 2 sup
    ((number v = none ∨ number z = none) → r = 0x7FC00000)
    ∧ (∀ neg x, v = .inf neg → finite z = some x → x ≠ 0 → fp32.decode 2 r = .inf (neg != z.isNeg))
    ∧ (∀ x y, finite v = some x → finite z = some y → (∃ m, Holds fp32 2 m ∧ |x * y| ≤ m) → ∃ fl, Rounds fp32 2 0 0 (x * y) (v.isNeg != z.isNeg) r fl)

/-- What element `j` of a LIN strip delivers (R240, R242). -/
def LinValue (s : State) (q : QEntry) (b : Binding) (j r : Nat) : Prop :=
  let p := b.pos + j
  let at_ : Int := (p % dim b 0 : Nat) * stride b 0 + (p / dim b 0 % dim b 1 : Nat) * stride b 1 + (p / (dim b 0 * dim b 1) : Nat) * stride b 2
  let n : Nat := [8, 4, 2, 2, 1, 1, 0, 0, 0, 0, 0, 0, 1, 0, 4].getD (fmtCode b) 0
  (extent b ≤ p → r = 0)
  ∧ (p < extent b → 6 ≤ fmtCode b → fmtCode b ≤ 11 → fieldAt b.entry 8 8 % 4 = 0 →
      Times (scaled (fmtCode b) (nanCode b) (blockCode s q b p) (blockScale s q b p)) (superScale s q b p) r)
  ∧ (p < extent b → fmtCode b = 13 →
      let code := tensorBytes s q (base b + at_ / 2) 1 / (if at_ % 2 = 0 then 1 else 16) % 16
      r = if code < 8 then code else code + 240)
  ∧ (p < extent b → n ≠ 0 → (base b + at_ * n) % (2 ^ 64 : Nat) % n = 0 → r = tensorBytes s q (base b + at_ * n) n)

/-- What K-row `k` of column `j` of a BOP strip delivers, and what column `j` of a CSC strip delivers (R240, R242). -/
def bopValue (s : State) (q : QEntry) (b : Binding) (j k : Nat) : Nat :=
  let p := 8 * (b.g * dim b 0 + b.pos + j) + k
  if dim b 0 ≤ b.pos + j ∨ extent b ≤ p then 0 else blockCode s q b p
def CscValue (s : State) (q : QEntry) (b : Binding) (j r : Nat) : Prop :=
  let p := 8 * (b.g * dim b 0 + b.pos + j)
  if dim b 0 ≤ b.pos + j ∨ extent b ≤ p then r = 0
  else fieldAt b.entry 8 8 % 4 = 0 → Times (columnScaled (fmtCode b) (nanCode b) (blockScale s q b p)) (superScale s q b p) r

/-- The group of a binding after its delivery `q` (R242, R243): the strip's elements below VL, and above it zeros under TZ and else what stood there
(at VL = 0 too: log 69); no other register changes. -/
def streamed (s t : State) (q : QEntry) (b : Binding) : Prop :=
  let rest := fun (r w i : Nat) => if q.vcfg.getLsbD 1 = true then 0 else element s.hart.ep r w i
  (b.view = 0 → ∀ i < b.n * perAt s.hart.ep (8 * 2 ^ b.ew),
    if i < q.vl then LinValue s q b i (element t.hart.ep b.reg (8 * 2 ^ b.ew) i)
    else element t.hart.ep b.reg (8 * 2 ^ b.ew) i = rest b.reg (8 * 2 ^ b.ew) i)
  ∧ (b.view = 1 → ∀ k < 8, ∀ i < perAt s.hart.ep 4,
    element t.hart.ep (b.reg + k) 4 i = if i < q.vl then bopValue s q b i k else rest (b.reg + k) 4 i)
  ∧ (b.view = 2 → ∀ i < b.n * perAt s.hart.ep 32,
    if i < q.vl then CscValue s q b i (element t.hart.ep b.reg 32 i) else element t.hart.ep b.reg 32 i = rest b.reg 32 i)
  ∧ ∀ r : Fin 32, r.val < b.reg ∨ b.reg + b.n ≤ r.val → t.hart.ep.v[r.val] = s.hart.ep.v[r.val]

/-- A delivery whose group holds its strip, as VBIND and the reader's checks leave it (R242, R244). -/
abbrev groupFits (s : State) (q : QEntry) (b : Binding) : Prop :=
  b.reg + b.n ≤ 32 ∧ b.view ≤ 2 ∧ (b.view = 0 → q.vl ≤ b.n * perAt s.hart.ep (8 * 2 ^ b.ew)) ∧ (b.view = 0 → 6 ≤ fmtCode b → fmtCode b ≤ 11 → b.ew = 2)
  ∧ (b.view = 0 → ∀ n, [8, 4, 2, 2, 1, 1, 0, 0, 0, 0, 0, 0, 1, 1, 4][fmtCode b]? = some n → n ≠ 0 → n = 2 ^ b.ew)
  ∧ (b.view = 1 → b.n = 8 ∧ q.vl ≤ perAt s.hart.ep 4 ∧ fmtCode b ∈ [10, 11]) ∧ (b.view = 2 → b.n = 4 ∧ b.ew = 2 ∧ q.vl ≤ 4 * perAt s.hart.ep 32 ∧ fmtCode b ∈ [10, 11])

/-! ### Machine events -/

/-- The registers and the pc of the party that executes are as they were. -/
def undisturbed (s t : State) : Prop := t.hart.sc.x = s.hart.sc.x ∧ t.hart.sc.pc = s.hart.sc.pc ∧ t.hart.sc.instret = s.hart.sc.instret

/-- Home memory is canonical, no page is discarded and no line is a pot's: bytes at home are what writes last put there. -/
abbrev plainHome (s : State) : Prop := Memory.wf s.mem = true ∧ s.discarded = [] ∧ s.potLines = []

/-- The parties' numbers are their own. -/
abbrev namesApart (s : State) : Prop := (s.allHarts.map Hart.loc).Nodup

/-- An event of the party that executes (its `unit`). -/
abbrev mine (s : State) : Prop := s.input.unit = s.hart.loc

/-- A record that waits is appended to the queue of a register (R338, R382): its bytes stand in the slot, and HEAD is one more. -/
def appended (s t : State) (reg : Word) (slot : Nat) (r : List Byte) : Prop :=
  let desc := reg.toNat / 64 % 2 ^ 46 * 64
  t.homeBytes slot r.length = r ∧ t.homeNat (desc + 16) 8 = (s.homeNat (desc + 16) 8 + 1) % 2 ^ 64

/-- The slot stands apart from HEAD. -/
abbrev slotApart (reg : Word) (slot n : Nat) : Prop :=
  let desc := reg.toNat / 64 % 2 ^ 46 * 64
  slot + n ≤ desc + 16 ∨ desc + 24 ≤ slot

/-- An extent record (R382). -/
def extentFields (kind tag base size : Nat) : List (Nat × Nat × Nat) := [(0, 1, kind), (1, 3, 0), (4, 4, tag), (8, 8, base), (16, 8, size), (24, 8, 0)]

/-- A die's waiting extent records after one more with the die's next tag: in its buffer of 16, else held back (R382). -/
def reported (s t : State) (k kind base size : Nat) : Prop :=
  (t.die k).extTag = (s.die k).extTag + 1
  ∧ ∃ r, r.length = 64 ∧ holds r (extentFields kind ((s.die k).extTag + 1) base size)
    ∧ if (s.die k).extBuf.length < 16 then (t.die k).extBuf = (s.die k).extBuf ++ [r] ∧ (t.die k).extHeld = (s.die k).extHeld
      else (t.die k).extBuf = (s.die k).extBuf ∧ (t.die k).extHeld = (s.die k).extHeld ++ [r]

/-- No page of a run of bytes is revoked (R228). -/
abbrev unrevoked (s : State) (pa n : Nat) : Prop := ∀ i < n, revokedAt s (pa + i) = false

/-- Nothing waits to be made again when a page is back: no completion of a farm and no launch (R142, R373). -/
abbrev nothingDue (s : State) : Prop := (∀ f ∈ s.farms, ¬(f.state = 2 ∧ f.retired = f.harts)) ∧ ∀ j, j < 4 → (s.die j).fdBusy = false

/-- The exact result of a BKOP operation on finite floating-point operands, and the sign of a zero result (R314, R88). -/
noncomputable def bkExact (op : Nat) (k a b : FVal) : Option (ℝ × Bool) :=
  match finite k, finite a, finite b with
  | some z, some x, some y =>
    match op with
    | 0 => some (x + y, zeroSum 0 a b)
    | 1 => some (x - y, zeroSum 0 a b.neg)
    | 2 => some (x * y, a.isNeg != b.isNeg)
    | 4 => some (z * x, k.isNeg != a.isNeg)
    | 5 => some (z * x + y, (isZero k || isZero a) && isZero b && ((k.isNeg != a.isNeg) == b.isNeg) && b.isNeg)
    | _ => none
  | _, _, _ => none

/-- The scalar word that computes what a floating-point BKOP operation does, with its operands (R314). -/
def bkScalar (op k a b : Nat) (fmt : Fin 4) : Instr × Nat × Nat × Nat :=
  match op with
  | 0 => (.fadd ⟨3, 1, 2, fmt, 0⟩, a, b, 0)
  | 1 => (.fsub ⟨3, 1, 2, fmt, 0⟩, a, b, 0)
  | 2 => (.fmul ⟨3, 1, 2, fmt, 0⟩, a, b, 0)
  | 3 => (.fmax ⟨3, 1, 2, fmt⟩, a, b, 0)
  | 4 => (.fmul ⟨3, 1, 2, fmt, 0⟩, k, a, 0)
  | _ => (.fma ⟨3, 1, 2, 3, fmt, 0⟩, k, a, b)

/-- `r` is the result, and `fl` are the flags, of operation `op` on elements `a` and `b` of a type, with the scalar `k` (R313, R314): integers modulo
2^32, without flags; numbers no larger than the format's largest rounded once to nearest even; and of whatever floating-point operands, what the
scalar word answers. -/
def BkResult (op ty k a b r fl : Nat) : Prop :=
  let f := if ty = 2 then bf16 else fp32
  let w := bkScalar op k a b (if ty = 2 then 3 else 1)
  (op = 6 → r = k ∧ fl = 0)
  ∧ (ty ≠ 0 → op < 6 → scalarAnswer w.1 w.2.1 w.2.2.1 w.2.2.2 r fl)
  ∧ (ty = 0 → op < 6 → fl = 0 ∧ r = match op with
    | 0 => (a + b) % 2 ^ 32
    | 1 => (a + 2 ^ 32 - b) % 2 ^ 32
    | 2 => a * b % 2 ^ 32
    | 3 => if field 32 a < field 32 b then b else a
    | 4 => k * a % 2 ^ 32
    | _ => (k * a + b) % 2 ^ 32)
  ∧ (ty ≠ 0 → ∀ x, bkExact op (f.decode 2 k) (f.decode 2 a) (f.decode 2 b) = some x → (∃ y, Holds f 2 y ∧ |x.1| ≤ y) →
      Rounds f 2 0 0 x.1 x.2 r fl)

/-- The fields of an engine fault's record (R305, R311, R336). -/
def engineFields (cause source access asid hartid pc tval elem tag : Nat) : List (Nat × Nat × Nat) :=
  [(0, 1, cause), (1, 1, source), (2, 1, access), (3, 1, 0), (4, 4, asid * 65536 + hartid), (8, 8, pc), (16, 8, tval), (24, 4, elem), (28, 4, 0),
   (32, 8, 0), (40, 8, 0), (48, 8, 0), (56, 4, tag), (60, 4, 0)]

/-- A record for a party of a die has joined those that wait, and holds the fields. -/
def recordAdded (s t : State) (die : Nat) (party : Party) (fs : List (Nat × Nat × Nat)) : Prop :=
  ∃ r : List Byte, r.length = 64 ∧ (fits fs → holds r fs) ∧ t.faults = s.faults ++ [⟨die, party, r, none⟩]

/-- A copy command has parked at its next chunk (R305): its record waits, it is in state 2, and no further. -/
def copyParked (s t : State) (c : CopyCmd) (cause tval access : Nat) : Prop :=
  recordAdded s t (c.hartid / 64) (.copy c.owner c.tag) (engineFields cause 1 access c.owner.asid c.hartid c.pc.toNat tval c.next c.tag)
  ∧ ∀ d ∈ t.copies, d.owner = c.owner → d.tag = c.tag → d.state = 2 ∧ d.next = c.next ∧ d.sent = false

/-- A Strelvis command has parked at its arrival on a barrier: the model's reading (log 21). -/
def arrivalParked (s t : State) (c : BkCmd) (cause : Nat) (dev : Bool) : Prop :=
  recordAdded s t (c.hartid / 64) (.strelvis c.owner c.tag) (engineFields cause 2 (11 + if dev = true then 128 else 0) c.owner.asid c.hartid c.pc.toNat
    (fieldAt c.desc 56 8) 0 c.tag)
  ∧ ∀ d ∈ t.bks, d.owner = c.owner → d.tag = c.tag → d.state = 3

/-- The Strelvis command is complete: it is gone, and the hart that issued it has its flags in VSTAT and its count of shuffled granules in BKSHUF,
which saturates (R311, R313, R315). -/
def commandEnded (s t : State) (c : BkCmd) : Prop :=
  (∀ d, d ∈ t.bks ↔ d ∈ s.bks ∧ d ≠ c)
  ∧ ∀ h, s.hartOf c.owner = some h → ∃ g, t.hartOf c.owner = some g ∧ g.ep.vstat = h.ep.vstat ||| c.flags
    ∧ g.sc.bkshuf.toNat = min (h.sc.bkshuf.toNat + c.shuf) (2 ^ 48 - 1)

/-- The places of translated runs, in order. -/
def placesOf (l : List Seg) : List Nat := l.flatMap fun g => (List.range g.len).map (g.pa + ·)

/-- The bytes at the places of `src` have been laid over those of `dst`, the last one standing where a place is written twice, and no other byte but
those of `[lo, hi)` has changed (R304). -/
def laid (u t : State) (src dst : List Seg) (lo hi : Nat) : Prop :=
  (∀ i < (placesOf dst).length, (∀ j < (placesOf dst).length, i < j → (placesOf dst).getD j 0 ≠ (placesOf dst).getD i 0) →
    t.homeByte ((placesOf dst).getD i 0) = u.homeByte ((placesOf src).getD i 0))
  ∧ ∀ a, a ∉ placesOf dst → a < lo ∨ hi ≤ a → t.homeByte a = u.homeByte a

/-- Steps 6 and 7 of R304: the copy's chunk is complete. The command is one chunk further, or gone after its last; the hart that issued it has the
chunk's bit of its mask set, where MSEL names one, and a completion event with the command's tag where IRQ asks for one, and no other bit and no other
event; of a hart that is not on the package the command keeps what it is owed. -/
def chunkEnded (u t : State) (c : CopyCmd) : Prop :=
  let irq := copyIrq c.xs2 = 2 ∨ copyIrq c.xs2 = 1 ∧ c.next + 1 = chunkCount c.desc
  (∀ d ∈ t.copies, d.owner = c.owner → d.tag = c.tag → d.next = c.next + 1 ∧ d.sent = false)
  ∧ (∀ h, u.hartOf c.owner = some h →
    (c.next + 1 = chunkCount c.desc → ∀ d ∈ t.copies, ¬(d.owner = c.owner ∧ d.tag = c.tag))
    ∧ ∃ g, t.hartOf c.owner = some g
      ∧ (∀ m < 8, ∀ i < 131072, maskBit g.ep m i =
          (maskBit h.ep m i || decide (copyMsel c.xs2 = m + 1 ∧ i = copyMbit c.xs2 + c.next)))
      ∧ (irq → g.sc.uiPend = true ∧ g.sc.uiCount = h.sc.uiCount + 1 ∧ g.sc.uiTag = BitVec.ofNat 32 c.tag)
      ∧ (¬ irq → g.sc.uiPend = h.sc.uiPend ∧ g.sc.uiCount = h.sc.uiCount ∧ g.sc.uiTag = h.sc.uiTag))
  ∧ (u.hartOf c.owner = none → irq → ∀ d ∈ t.copies, d.owner = c.owner → d.tag = c.tag → d.owed = c.owed + 1)

/-- The command stands once under its hart's tag. -/
abbrev copyAlone (s : State) : Prop := (s.copies.map (fun c => (c.owner, c.tag))).Nodup
abbrev strelvisAlone (s : State) (c : BkCmd) : Prop := ∀ k ∈ s.bks, k.owner = c.owner → k.tag = c.tag → k = c

/-- `z` is the FP32 number to which `x` rounds, to nearest even and with the flags `fl`, where FP32's numbers reach. -/
def RoundedTo (x z : ℝ) (fl : Nat) : Prop :=
  (∃ m, Holds fp32 2 m ∧ |x| ≤ m) ∧ ∃ neg c, Rounds fp32 2 0 0 x neg c fl ∧ finite (fp32.decode 2 c) = some z

/-- `r` is what the tree of R97 makes of 2^k leaves under addition, each node rounded once to FP32 and an absent operand passing the other on;
`fl` are the nodes' flags. -/
def Sums : Nat → (Nat → Option ℝ) → Option ℝ → Nat → Prop
  | 0, w, r, fl => r = w 0 ∧ fl = 0
  | k + 1, w, r, fl => ∃ (u : Nat → Option ℝ) (g : Nat → Nat) (rest : Nat), Sums k u r rest
    ∧ fl = (List.range (2 ^ k)).foldl (fun a i => a ||| g i) rest ∧ ∀ i < 2 ^ k,
    match w i, w (i + 2 ^ k) with
    | none, b => u i = b ∧ g i = 0
    | a, none => u i = a ∧ g i = 0
    | some x, some y => ∃ z, RoundedTo (x + y) z (g i) ∧ u i = some z

/-- The sum of products of two rows of `n` numbers of a format, each product exact, with its flags (R97, R316). -/
def DotIs (f : Fmt) (e n : Nat) (as bs : List Byte) (z : ℝ) (fl : Nat) : Prop :=
  ∃ X Y : Nat → ℝ, (∀ i < n, finite (f.decode 2 (fieldAt as (e * i) e)) = some (X i) ∧ finite (f.decode 2 (fieldAt bs (e * i) e)) = some (Y i))
    ∧ Sums (Nat.clog 2 n) (fun i => if i < n then some (X i * Y i) else none) (some z) fl

/-- The next event of the Strelvis units, where it names no unit, is a unit of work of part `p` of command `c` (R311; log 84): no checks and no
completion come first. -/
abbrev nextWork (s : State) (c : BkCmd) (p : Part) (rest : List (BkCmd × Part)) : Prop :=
  s.input.unit = 0 ∧ s.input.value = 1 ∧ s.bks.filter s.bkCheckable = []
  ∧ s.bks.filter (fun c => (c.state == 1 || c.state == 4) && c.parts.isEmpty && s.ctxRuns c.owner.asid) = [] ∧ s.headParts = (c, p) :: rest
  ∧ c.gate = none ∧ (∀ q ∈ c.parts, q.uva = p.uva → q = p) ∧ strelvisAlone s c

/-- A run of a command's bytes lies on one page that its checks have kept, not of KIND SWM and not revoked: at `pa`. -/
abbrev keptRun (s : State) (c : BkCmd) (va n pa : Nat) : Prop :=
  ∃ g, c.pages.find? (fun q => q.va == va / 65536 * 65536) = some g ∧ Pte.kind g.pte ≠ 1 ∧ g.pa + 65536 ≤ 2 ^ 52 ∧ pa = g.pa + va % 65536
    ∧ va / 65536 = (va + n - 1) / 65536 ∧ unrevoked s pa n

/-- m, l and o of the attention sequence. -/
abbrev Live := Nat × Nat × List Nat

/-- One token of the attention sequence on codes of FP32, with its flags (R317, R313): `mul`, `add`, `sub` and `mx` are FMUL, FADD, FSUB and FMAX, and
`vfexp2` what VFEXP2 gives; the value's BF16 elements are widened. -/
def tokenStep (mul add sub mx : Nat → Nat → Nat × Nat) (sigma dot : Nat) (v : List Nat) (x : Live) : Live × Nat :=
  let s := mul sigma dot
  let mn := mx x.1 s.1
  let old := sub x.1 mn.1
  let new := sub s.1 mn.1
  let a := if mn.1 = 0xFF800000 then (0x3F800000, 0) else vfexp2 old.1
  let b := if mn.1 = 0xFF800000 then (0, 0) else vfexp2 new.1
  let l := add (mul x.2.1 a.1).1 b.1
  let lane := fun (y : Nat × Nat) => add (mul y.1 a.1).1 (mul b.1 (y.2 * 65536)).1
  let flags := (x.2.2.zip v).foldl (fun f y => f ||| (mul y.1 a.1).2 ||| (mul b.1 (y.2 * 65536)).2 ||| (lane y).2)
    (s.2 ||| mn.2 ||| (if mn.1 = 0xFF800000 then 0 else old.2 ||| new.2 ||| a.2 ||| b.2) ||| (mul x.2.1 a.1).2 ||| l.2)
  ((mn.1, l.1, (x.2.2.zip v).map fun y => (lane y).1), flags)

/-- The package after its supply is gone (R385, R398): the identity counter, the committed telemetry and host memory are kept, and nothing else of
memory; nothing runs. -/
def unpowered (s t : State) : Prop :=
  t.idcount = s.idcount ∧ t.boot = .off ∧ t.hart = (State.resetOf s.part).hart ∧ t.others = (State.resetOf s.part).others ∧ t.contexts = []
  ∧ t.part = s.part
  ∧ (∀ a, region a = 3 → a < 2 ^ 52 → Memory.read t.mem a = Memory.read s.mem a)
  ∧ (∀ a, ¬(region a = 3 ∧ a < 2 ^ 52) → Memory.read t.mem a = 0)

/-- The boot phase after an unsuccessful try (R383). -/
def tryAfter (dies src n : Nat) : BootPhase := if n < 3 then .rom src (n + 1) else if src < dies then .rom (src + 1) 1 else .rom 0 1

/-- Die `k` has link `l` (R374, R375, R371, R380, R381, R397): one to each other die of the part, four device ports and die 0's host port where they
are brought out, its tier 3 port and its network port. -/
def linked (s : State) (k l : Nat) : Prop :=
  k < s.part.dies ∧ ((l < 3 ∧ l + 1 < s.part.dies) ∨ (3 ≤ l ∧ l < 7 ∧ s.part.features.getLsbD 4 = true)
    ∨ (l = 7 ∧ k = 0 ∧ s.part.features.getLsbD 3 = true) ∨ (l = 8 ∧ s.hasT3 k = true) ∨ l = 9)

/-- The other end of die link `l` of die `k`: each die numbers its links by the other die, in ascending order (R374, R397). -/
def farEnd (k l : Nat) : Nat × Nat :=
  let j := if l < k then l else l + 1
  (j, if k < j then k else k - 1)

/-- A record of a die has risen by one, or stands at its greatest value, and the die's other records are as they were (R397). -/
def countedOnce (s t : State) (k i : Nat) : Prop :=
  telGet (t.die k).tel i = min (telGet (s.die k).tel i + 1) (2 ^ 64 - 1) ∧ ∀ j, j ≠ i → telGet (t.die k).tel j = telGet (s.die k).tel j

end Sys2Proof.Stated

/-! ### Machine events -/

/-- R308, R259: a pending event of a hart that is deliverable (with no G word under way, and no armed VSTART but in an architected wait: log 23)
enters the hart's handler with its count and latest tag, and a wait of MWAIT whose limit has passed without its monitor firing ends with 0 in its
register and the monitor disarmed. -/
def Sys2Proof.Stated.EventsReachTheirHart : Prop :=
  (∀ s : State, Stated.mine s → s.hart.ctl = false → s.hart.status = .running → s.hart.sc.uiPend = true → s.hart.sc.uiEn = true →
    s.hart.sc.uiActive = false → s.hart.sc.lend.getLsbD 31 = false → (s.hart.sc.vstartArmed = false ∨ s.hart.waiting = true) →
    s.hart.ep.geom = none →
    ∃ d : Scalar, Stated.swapped s.hart.sc d ∧ exec .uiEventDelivery s = .next (Stated.withScalar s .running false
      { s.hart.sc with
        x := d.x, shadow := d.shadow
        uiepc := s.hart.sc.pc, uiEvents := BitVec.ofNat 16 (min s.hart.sc.uiCount 65535), uiCauseTag := s.hart.sc.uiTag, uiCount := 0
        uilend := s.hart.sc.lend, lend := 0, uiActive := true, uiPend := false, uiRstrt := false, pc := s.hart.sc.uivec }))
  ∧ (∀ (s : State) (m : MwaitState), Stated.mine s → s.hart.status = .running → s.hart.mwait = some m → 0 < m.limit → m.limit ≤ m.rounds →
    (∀ w, s.hart.sc.monitor = some w → w.fired = false) →
    exec .mwaitTimeout s = .next (let t := Stated.answered s m.d 0
      { t with hart := { t.hart with sc := { t.hart.sc with monitor := none } } }))

/-- R145, R147, R216, R224, R259, R319, R357, R392, R393, R397, R398: a round boundary ages every farm, its harts' priority following it, counts in
every MWAIT that waits, of every party, counts the watchdog of each running context with a hart that waits for nothing and without a progress event
(judged at the boundary itself: the model's choice, log 31, as is what ends the count), empties the write-range collectors, closes hinted rows, and
at each multiple of 2^24 commits the telemetry of a package that is on; where timing adds nothing (log 32), a die's records are as they were, but for
its excursion's rounds. A context whose count reaches WDOG is halted with CAUSE 2, as a mode 0 CTXHALT halts with 1, and the firing is counted on die
0 (log 25). -/
def Sys2Proof.Stated.RoundsAndWatchdogs : Prop :=
  (∀ s : State, (s.farms.map (fun f => (f.asid, f.handle))).Nodup →
    ∃ t, exec .roundBoundary s = .next t ∧ Stated.undisturbed s t ∧ t.hart.ep = s.hart.ep ∧ t.rounds = s.rounds + 1
    ∧ t.hart.mwait = s.hart.mwait.map (fun m => { m with rounds := m.rounds + 1 })
    ∧ t.others.map (fun h => (h.loc, h.mwait)) = s.others.map (fun h => (h.loc, h.mwait.map (fun m => { m with rounds := m.rounds + 1 })))
    ∧ t.farms = s.farms.map (fun f => { f with
        waited := f.waited + 1, prio := if (f.waited + 1) % 64 = 0 then min 3 (f.prio + 1) else f.prio })
    ∧ (∀ h ∈ t.allHarts, h.ctl = false → ∀ f ∈ t.farms, f.asid = h.asid → f.handle = h.farm → h.prio = f.prio)
    ∧ t.contexts = s.contexts.map (fun c => { c with
        count := if c.state = 1 ∧ s.busy c.asid = true ∧ c.progress = false then c.count + 1 else 0, progress := false })
    ∧ t.collector = [] ∧ t.hints = []
    ∧ (s.boot ≠ .off → (s.rounds + 1) % 2 ^ 24 = 0 → ∀ k, k < 4 → (t.die k).telStored = (t.die k).tel)
    ∧ (s.input.data = [] → ∀ k, k < 4 → if (s.die k).thermal = true then Stated.countedOnce s t k 0x1131 else (t.die k).tel = (s.die k).tel))
  ∧ (∀ (s : State) (c : Context), s.contexts.find? (fun c => c.state == 1 && c.wdog != 0 && decide (c.wdog ≤ c.count)) = some c →
    exec .watchdogExpiry s = .next (((s.updCtx c.asid (fun c => { c with count := 0 })).count 0 0x1110 1).startHalt c.asid 2))

/-- Completion events, timeouts, rounds and watchdogs (R259, R308, R357, R393). -/
def Obligations.TimeAndEvents : Prop := Stated.EventsReachTheirHart ∧ Stated.RoundsAndWatchdogs

/-- R249, R248, R250, R240, R242, R243, R78, R82, R85, R303: the home of a pot serves its oldest request, whose hart then retires its instruction, or
takes the pot fault where the line is no pot by then, or a POTINIT finds the pot of a farm that has not completed; the oldest entry of a hart's queue
that is a stream delivery leaves its strip in its group, element by element what its view and format deliver at the binding's position, zeros past
the tensor's end and, above VL, zeros under TZ and else what stood there (which lines make room is not its concern where all that it reads find room;
what a NaN scale gives a column is log 61), writes vector registers and VSTAT alone, and no memory where no dirty vector line has to make room; and
one that is a mask clear clears its bits of its mask, and its command enters. -/
def Obligations.HeldWorkIsServed : Prop :=
  (∀ (s : State) (q : PotReq), s.input.addr ≠ 0 → s.potQueue.find? (fun r => r.pa == s.input.addr) = some q → q.who = s.hart.loc →
    s.hart.status = .pot →
    let refused := (∃ p c, q.op = .init p c) ∧ s.farmPot q.pa = true ∨ (∀ p c, q.op ≠ .init p c) ∧ s.isPot q.pa = false
    (¬ refused → ∃ t, exec .potHomeRequest s = .next t ∧ t.hart.status = .running ∧ t.hart.sc.pc = s.hart.sc.pc + 4
      ∧ t.hart.sc.instret = s.hart.sc.instret + 1 ∧ t.hart.ep = s.hart.ep ∧ (∀ r, r ∈ t.potQueue ↔ r ∈ s.potQueue ∧ r ≠ q))
    ∧ (refused → exec .potHomeRequest s
        = .next ({ s with potQueue := s.potQueue.filter (fun r => decide (r ≠ q)), hart := { s.hart with status := .running } }.trap
            { cause := 0x17, tval := q.va, access := (match q.op with | .read => 1 | _ => 3) + 12 })))
  ∧ (∀ (s : State) (q : QEntry) (rest : List QEntry) (b : Binding), Stated.mine s → s.hart.status = .running → s.hart.ep.queue = q :: rest →
    q.word = .delivery b →
    ∃ t, exec .streamDelivery s = .next t ∧ Stated.quiet t.hart.sc = Stated.quiet s.hart.sc ∧ ((∀ l ∈ s.vdc, l.dirty = 0) → t.mem = s.mem)
      ∧ t.hart.ep = { s.hart.ep with queue := rest, v := t.hart.ep.v, vstat := t.hart.ep.vstat }
      ∧ (Stated.linesFit s (((strip b q.vl).flatMap (·.reads)).map fun r => resolve q.pages s.hart.coreId (r.1 % 2 ^ 64)) → Stated.groupFits s q b →
          t.mem = s.mem ∧ Stated.streamed s t q b))
  ∧ (∀ (s : State) (q : QEntry) (rest : List QEntry) (m : Fin 8) (lo n tag : Nat), Stated.mine s → s.hart.status = .running →
    s.hart.ep.queue = q :: rest → q.word = .maskClear m.val lo n tag →
    ∃ t, exec .maskClear s = .next t ∧ t.hart.sc = s.hart.sc ∧ t.mem = s.mem
      ∧ t.hart.ep = { s.hart.ep with queue := rest, m := t.hart.ep.m }
      ∧ (∀ k : Fin 8, ∀ i < 131072, Stated.maskBit t.hart.ep k.val i =
          if k = m ∧ lo ≤ i ∧ i < lo + n then false else Stated.maskBit s.hart.ep k.val i)
      ∧ t.copies = s.copies.map (fun c => if c.owner = s.hart.owner ∧ c.tag = tag then { c with entered := true } else c))

/-- R139, R145, R146, R373: a hold that is due is put first, on one of the cores that it can have, and lifts what held there and what its farm held;
else the next hart of the first farm that can place one is admitted on a core that can take it, with its entry point, its parameter, its index, its
farm's count of harts, RESERVE lane groups and PRIORITY (which core is chosen is the hardware's freedom, log 8; on which cores a hold can lie, and
that it can move, is the model's reading of R146, log 83). A write of FDLAUNCH releases at scope P, and is then ignored while a launch is in
progress; it answers −3 without a running context of FDASID and −1 for a bad address, and otherwise answers what FARM's work answers. -/
def Obligations.FarmsAreServed : Prop :=
  (∀ (s : State) (f : Farm) (cs : List Nat), s.nextHold = none → s.nextAdmission = some (f, cs) →
    ∃ t, exec .hartAdmission s = .next t ∧ ∃ h ∈ t.allHarts, h.ctl = false ∧ h.status = .running ∧ 16 * h.die + h.core ∈ cs
      ∧ h.owner = ⟨f.asid, f.handle, f.admitted⟩ ∧ h.sc.pc = f.entry ∧ h.sc.x[1] = f.params ∧ h.sc.x[2] = BitVec.ofNat 64 f.admitted
      ∧ h.sc.x[3] = BitVec.ofNat 64 f.harts ∧ Stated.lanes h.ep = f.reserve ∧ h.prio = f.prio0 ∧ h.sc.instret = 0 ∧ h.scache = [])
  ∧ (∀ (s : State) (f : Farm) (cs : List Nat), s.nextHold = some (f, cs) → ∃ core ∈ cs, ∃ t, exec .hartAdmission s = .next t
    ∧ t = { s with
        holds := s.holds.filter (fun h => h.core ≠ core ∧ ¬(h.asid = f.asid ∧ h.farm = f.handle)) ++ [⟨core, f.asid, f.handle⟩], free := t.free })
  ∧ (∀ s : State, s.input.unit < 4 →
    let k := s.input.unit
    let v := s.input.value % 2 ^ 64
    let u := (s.release 3).updDie k (fun d =>
      { d with fdlaunch := BitVec.ofNat 64 (v % 2 ^ 52), fdBusy := true, fdCtx := d.fdasid.toNat, fdresult := 0 })
    let here := fun (c : Context) => c.state == 1 && c.asid == (s.die k).fdasid.toNat
    ((s.die k).fdBusy = true → exec .fdlaunch s = .next (s.release 3))
    ∧ ((s.die k).fdBusy = false → s.contexts.find? here = none →
        ∃ t, exec .fdlaunch s = .next t ∧ (t.die k).fdresult = -3 ∧ (t.die k).fdBusy = false)
    ∧ (∀ c, (s.die k).fdBusy = false → s.contexts.find? here = some c → v % 64 ≠ 0 →
        ∃ t, exec .fdlaunch s = .next t ∧ (t.die k).fdresult = -1 ∧ (t.die k).fdBusy = false)
    ∧ (∀ c s' pa pte t w, (s.die k).fdBusy = false → s.contexts.find? here = some c → v % 64 = 0 → v % 2 ^ 52 < 0xFFFFFFFFA0000 →
        u.xlate c (16 * k) secondLevel (v % 2 ^ 52) .read false = .ok s' pa pte → s'.launch c (16 * k) (s'.homeBytes pa 64) = .result t w →
        exec .fdlaunch s = .next (t.updDie k (fun d => { d with fdresult := w, fdBusy := false }))))

/-- R304, R305, R255, R376, R377: a chunk of a local copy, on as many pages as it has, with no line of the core in the way, moves its bytes home to
home, changes no other byte and no register, and the command is one chunk further, with the chunk's mask bit and event; where it names a barrier, its
bytes are taken from PENDING, which can end the phase, and a barrier that breaks R257, expects less or does not translate parks the command. A remote
copy's chunk leaves on its route with its bytes and waits. A chunk from another device is answered with 0x19 where no running context here has its
address space (log 74), merges where its page is writable and of class N, and is answered with the cause that it meets otherwise. A sent chunk that
is acknowledged without a cause pays its barrier and moves its command on, one with a cause of a write's page parks it, and there is no other
acknowledgement. Which engine goes next, where the event names none, is the model's choice (log 84). -/
def Sys2Proof.Stated.ChunksArePerformed : Prop :=
  (∀ (s u v : State) (c : CopyCmd) (rest : List CopyCmd) (x : Context) (gs hs : List Seg),
    let n := chunkLen c.desc c.next
    s.copyReady.filter (fun c => coreOf c.hartid + 1 == s.input.unit) ++ s.copyReady = c :: rest →
    s.ctxOf c.owner.asid = some x → copyDev c.desc = 0 → Stated.copyAlone s →
    s.engRun x (coreOf c.hartid) .read true copyOwn (chunkSrc c.desc c.next) n = .ok u gs →
    u.engRun x (coreOf c.hartid) .write true copyOwn (chunkDst c.desc c.next) n = .ok v hs →
    Stated.plainHome v → v.vdc = [] → (∀ p ∈ v.allHarts, p.scache = []) → (∀ h ∈ hs, Pte.kind h.pte ≠ 1 ∧ Stated.unrevoked v h.pa h.len) →
    (copyBar c.desc = 0 → ∃ t, exec .copyChunk s = .next t ∧ Stated.undisturbed s t ∧ Stated.laid v t gs hs 0 0 ∧ Stated.chunkEnded v t c)
    ∧ (∀ w pa, copyBar c.desc ≠ 0 → v.object x (coreOf c.hartid) (copyBar c.desc) 0x18 = .ok w pa → pa % 64 = 0 → Stated.plainHome w →
      w.vdc = [] → (∀ p ∈ w.allHarts, p.scache = []) → (∀ h ∈ hs, Stated.unrevoked w h.pa h.len ∧ (pa + 64 ≤ h.pa ∨ h.pa + h.len ≤ pa)) →
      let b := Stated.barrierNow w pa
      (¬ Stated.noBarrier w pa → n ≤ b.2.2.1 → ∃ t, exec .copyChunk s = .next t ∧ Stated.undisturbed s t
        ∧ Stated.chunkEnded w t c ∧ Stated.laid w t gs hs pa (pa + 64) ∧ Stated.barrier t pa = Stated.barrierAfter b.1 b.2.1 (b.2.2.1 - n) b.2.2.2)
      ∧ (Stated.noBarrier w pa ∨ b.2.2.1 < n → ∃ t, exec .copyChunk s = .next t ∧ Stated.undisturbed s t
        ∧ Stated.copyParked w t c 0x18 (copyBar c.desc) 11
        ∧ (Stated.noBarrier w pa → Stated.barrier t pa = Stated.barrier w pa) ∧ (¬ Stated.noBarrier w pa → Stated.barrier t pa = b)))
    ∧ (∀ w cause dev, copyBar c.desc ≠ 0 → v.object x (coreOf c.hartid) (copyBar c.desc) 0x18 = .fault w cause dev →
      ∃ t, exec .copyChunk s = .next t ∧ Stated.undisturbed s t ∧ Stated.copyParked w t c cause (copyBar c.desc) (11 + if dev = true then 128 else 0)))
  ∧ (∀ (s u : State) (c : CopyCmd) (rest : List CopyCmd) (x : Context) (g : Seg) (r : Route),
    let n := chunkLen c.desc c.next
    s.copyReady.filter (fun c => coreOf c.hartid + 1 == s.input.unit) ++ s.copyReady = c :: rest →
    s.ctxOf c.owner.asid = some x → copyDev c.desc ≠ 0 → chunkDst c.desc c.next + n ≤ 2 ^ 52 →
    s.engRun x (coreOf c.hartid) .read true copyOwn (chunkSrc c.desc c.next) n = .ok u [g] →
    u.route (coreOf c.hartid / 16) (copyDev c.desc) x.asid = some r →
    ∃ t, exec .copyChunk s = .next t ∧ Stated.undisturbed s t ∧ t.mem = u.mem
      ∧ t.outbox = u.outbox ++ [⟨c.owner, c.tag, coreOf c.hartid / 16, r.ports, r.node, r.rasid, chunkDst c.desc c.next,
          (List.range n).map (fun i => u.homeByte (g.pa + i))⟩]
      ∧ ∀ d ∈ t.copies, d = { c with sent := true } ∨ (d ∈ s.copies ∧ d ≠ c))
  ∧ (∀ s : State,
    let here := s.contexts.find? (fun c => c.asid == s.input.value && c.state == 1)
    let answered := fun (u : State) (cause tval : Nat) (dev : Bool) =>
      { u with answers := u.answers ++ [⟨s.input.value, s.input.addr, cause, tval, dev⟩] }
    (here = none → exec .remoteChunkWrite s = .next (answered s 0x19 s.input.addr false))
    ∧ (∀ x u h, here = some x → s.engRun x 0 .write false copyOwn s.input.addr s.input.data.length = .ok u [h] → Stated.plainHome u →
      Pte.kind h.pte ≠ 1 → Stated.unrevoked u h.pa h.len → h.pa + h.len ≤ 2 ^ 52 → h.len = s.input.data.length →
      ∃ t, exec .remoteChunkWrite s = .next t ∧ Stated.undisturbed s t ∧ t.homeBytes h.pa h.len = s.input.data
        ∧ (∀ a, a < h.pa ∨ h.pa + h.len ≤ a → t.homeByte a = u.homeByte a)
        ∧ t.answers = u.answers ++ [⟨s.input.value, s.input.addr, 0, 0, false⟩])
    ∧ (∀ x u cause tval dev, here = some x → s.engRun x 0 .write false copyOwn s.input.addr s.input.data.length = .fail u cause tval dev →
      exec .remoteChunkWrite s = .next (answered u (if cause = 0x1A then 0x19 else cause) tval dev)))
  ∧ (∀ (s : State) (c : CopyCmd), s.copies.find? (fun c => c.sent && c.hartid == s.input.unit) = some c →
    Stated.copyAlone s →
    let n := chunkLen c.desc c.next
    let dst := chunkDst c.desc c.next
    let refusals := [0x12, 0x13, 0x14, 0x15, 0x19]
    (s.input.value ∈ refusals → ∃ t, exec .remoteChunkAck s = .next t ∧ Stated.undisturbed s t ∧ t.mem = s.mem
      ∧ Stated.copyParked s t c s.input.value (if dst ≤ s.input.addr ∧ s.input.addr < dst + n then s.input.addr else dst)
          (2 + if s.input.data.headD 0 ≠ 0 then 128 else 0))
    ∧ (s.input.value ≠ 0 → s.input.value ∉ refusals → exec .remoteChunkAck s = .next s)
    ∧ (s.input.value = 0 → copyBar c.desc = 0 → (s.ctxOf c.owner.asid).isSome = true → ∃ t, exec .remoteChunkAck s = .next t ∧ t.mem = s.mem
      ∧ Stated.undisturbed s t ∧ Stated.chunkEnded s t c)
    ∧ (∀ x w pa, s.input.value = 0 → copyBar c.desc ≠ 0 → s.ctxOf c.owner.asid = some x →
      s.object x (coreOf c.hartid) (copyBar c.desc) 0x18 = .ok w pa → pa % 64 = 0 → Stated.plainHome w →
      let b := Stated.barrierNow w pa
      (¬ Stated.noBarrier w pa → n ≤ b.2.2.1 → ∃ t, exec .remoteChunkAck s = .next t ∧ Stated.undisturbed s t
        ∧ Stated.barrier t pa = Stated.barrierAfter b.1 b.2.1 (b.2.2.1 - n) b.2.2.2
        ∧ Stated.chunkEnded w t c)
      ∧ (Stated.noBarrier w pa ∨ b.2.2.1 < n → ∃ t, exec .remoteChunkAck s = .next t ∧ Stated.undisturbed s t
        ∧ Stated.copyParked w t c 0x18 (copyBar c.desc) 11)))

/-- R311, R299, R312, R313, R315, R316, R319, R320: a Strelvis command whose turn it is and whose checks pass sends its parts to their units and
keeps the pages and the gate's frame that the checks found (logs 21, 22; the order of events that name no unit and no hart, log 84); one whose parts
are all complete, and that names no barrier, leaves, its flags going into VSTAT and its count into BKSHUF of the hart that issued it; a BGEMV that
names one arrives on it, which can end its phase, and parks where it cannot (log 21). A channel without a running BGEMV or BATTN part may sleep, and
a refresh changes nothing: what sleep and refresh leave is the model's choice (log 48). -/
def Sys2Proof.Stated.StrelvisUnitsWork : Prop :=
  (∀ (s u : State) (c : BkCmd) (rest : List BkCmd) (x : Context) (ps : List PageRef) (gate : Option Nat) (die : Nat),
    s.input.unit = 0 → (s.bks.filter s.bkCheckable).filter (fun c => c.hartid + 1 == s.input.addr) ++ s.bks.filter s.bkCheckable = c :: rest →
    s.ctxOf c.owner.asid = some x → s.bkCheck x c = (.ok u ps gate, die) →
    exec .strelvisPart s = .next { u with bks := u.bks.filter (fun d => d != c) ++ [{ c with
      state := 1, parts := (if c.parts.isEmpty then bkParts c else c.parts).map (fun p => { p with unit := 128 * die + p.uva })
      pages := ps, gate := gate }] })
  ∧ (∀ (s : State) (c : BkCmd) (rest : List BkCmd), s.input.unit = 0 → s.bks.filter s.bkCheckable = [] →
    s.bks.filter (fun c => (c.state == 1 || c.state == 4) && c.parts.isEmpty && s.ctxRuns c.owner.asid) = c :: rest →
    (s.hartOf c.owner).isSome = true →
    ((c.state = 4 ∨ c.kind ≠ 3 ∨ fieldAt c.desc 56 8 = 0) →
      ∃ t, exec .strelvisPart s = .next t ∧ t.mem = s.mem ∧ Stated.undisturbed s t ∧ Stated.commandEnded s t c)
    ∧ (∀ x, c.state = 1 → c.kind = 3 → fieldAt c.desc 56 8 ≠ 0 → s.ctxOf c.owner.asid = some x → Stated.strelvisAlone s c →
      (∀ w cause dev, s.object x (coreOf c.hartid) (fieldAt c.desc 56 8) 0x18 = .fault w cause dev →
        ∃ t, exec .strelvisPart s = .next t ∧ t.mem = w.mem ∧ Stated.undisturbed s t ∧ Stated.arrivalParked w t c cause dev)
      ∧ (∀ w pa, s.object x (coreOf c.hartid) (fieldAt c.desc 56 8) 0x18 = .ok w pa → pa % 64 = 0 → Stated.plainHome w →
        let b := Stated.barrierNow w pa
        (¬ Stated.noBarrier w pa → b.2.1 < b.1 → ∃ t, exec .strelvisPart s = .next t ∧ Stated.undisturbed s t
          ∧ Stated.barrier t pa = Stated.barrierAfter b.1 (b.2.1 + 1) b.2.2.1 b.2.2.2
          ∧ (∀ a, a < pa + 4 ∨ pa + 16 ≤ a → t.homeByte a = w.homeByte a) ∧ Stated.commandEnded s t c)
        ∧ (Stated.noBarrier w pa ∨ b.1 ≤ b.2.1 → ∃ t, exec .strelvisPart s = .next t ∧ t.mem = w.mem ∧ Stated.undisturbed s t
          ∧ Stated.arrivalParked w t c 0x18 false))))
  ∧ (∀ s : State, (∀ c ∈ s.bks, c.kind ≠ 2 → ∀ p ∈ c.parts, ¬(p.unit = s.input.unit ∧ p.state = 1)) →
    exec .channelPowerDownRequest s = .next { s with sleeping := s.input.unit :: s.sleeping.filter (fun v => v != s.input.unit) })
  ∧ (∀ s : State, exec .hbmRefresh s = .next s)

/-- R313, R314, R315: a part of a BKOP whose gate is met or absent computes its next granule: each element that lies whole in it takes its operation's
result on the elements of the operands at the same distance; no byte outside the granule changes, the part is one granule further, or gone at its end,
and the command keeps the flags of the elements for its completion. -/
def Sys2Proof.Stated.BkopGranulesAreComputed : Prop :=
  ∀ (s : State) (c : BkCmd) (p : Part) (rest : List (BkCmd × Part)) (x : Context) (g : PageRef) (as bs : List Byte),
    let d := c.desc
    let e := if bkType d = 2 then 2 else 4
    let run := granuleRun d p.uva p.prog
    let at_ := fun (base : Nat) => base + (run.1 - fieldAt d 0 8)
    let pa := g.pa + run.1 % 65536
    Stated.nextWork s c p rest → s.ctxOf c.owner.asid = some x → c.kind = 2 → bkType d < 3 → p.prog < granules d p.uva →
    c.pages.find? (fun q => q.va == run.1 / 65536 * 65536) = some g → Pte.kind g.pte ≠ 1 → g.pa + 65536 ≤ 2 ^ 52 →
    (if bkUsesA (bkOp d) = true then s.runBytes x c (at_ (fieldAt d 8 8)) run.2 = some as else as = List.replicate run.2 0) →
    (if bkUsesB (bkOp d) = true then s.runBytes x c (at_ (fieldAt d 16 8)) run.2 = some bs else bs = List.replicate run.2 0) →
    run.1 / 65536 = (run.1 + run.2 - 1) / 65536 → 0 < run.2 → Stated.plainHome s → Stated.unrevoked s pa run.2 →
    ∃ (t : State) (fl : Nat → Nat), exec .strelvisPart s = .next t ∧ Stated.undisturbed s t
      ∧ (∀ k, e * k + e ≤ run.2 → Stated.BkResult (bkOp d) (bkType d) (fieldAt d 32 8 % 256 ^ e) (fieldAt as (e * k) e) (fieldAt bs (e * k) e)
          (Stated.valueAt t (pa + e * k) e) (fl k))
      ∧ (∀ a, a < pa ∨ pa + run.2 ≤ a → t.homeByte a = s.homeByte a)
      ∧ ∀ k ∈ t.bks, k.owner = c.owner → k.tag = c.tag →
          k.flags = (List.range (run.2 / e)).foldl (fun g i => g ||| BitVec.ofNat 8 (fl i)) c.flags
          ∧ ∀ q ∈ k.parts, q.uva = p.uva → q.prog = p.prog + 1

/-- R316, R97, R88, R313: a part of a BGEMV without a gate computes its next row, one of those that its unit holds (log 22): where every element of
the row and of x is a number, Y takes the sum of their products, rounded in the tree of R97, under ACC added to the old number and rounded once more;
no other byte changes, the part is one row further, and the command keeps the flags for its completion. The sign of a zero is not said. -/
def Sys2Proof.Stated.BgemvRowsAreComputed : Prop :=
  ∀ (s : State) (c : BkCmd) (p : Part) (rest : List (BkCmd × Part)) (x : Context) (row pa : Nat) (as xs : List Byte),
    let d := c.desc
    let e := if fieldAt d 52 1 = 2 then 2 else 4
    let f := if fieldAt d 52 1 = 2 then bf16 else fp32
    let cols := fieldAt d 28 4
    let y := fieldAt d 0 8 + 4 * row
    Stated.nextWork s c p rest → s.ctxOf c.owner.asid = some x → c.kind = 3 → (partRows c p.uva)[p.prog]? = some row →
    s.runBytes x c (fieldAt d 8 8 + row * fieldAt d 32 8 * e) (cols * e) = some as → s.runBytes x c (fieldAt d 16 8) (cols * e) = some xs →
    Stated.keptRun s c y 4 pa → Stated.plainHome s →
    ∃ t, exec .strelvisPart s = .next t ∧ Stated.undisturbed s t
      ∧ (∀ z v old fz fv, Stated.DotIs f e cols as xs z fz →
          (if fieldAt d 53 1 % 2 = 1 then Stated.finite (fp32.decode 2 (Stated.valueAt s pa 4)) = some old else old = 0) →
          Stated.RoundedTo (old + z) v fv → Stated.finite (fp32.decode 2 (Stated.valueAt t pa 4)) = some v
            ∧ ∀ k ∈ t.bks, k.owner = c.owner → k.tag = c.tag → k.flags = c.flags ||| BitVec.ofNat 8 (fz ||| fv))
      ∧ (∀ a, a < pa ∨ pa + 4 ≤ a → t.homeByte a = s.homeByte a)
      ∧ ∀ k ∈ t.bks, k.owner = c.owner → k.tag = c.tag → ∀ q ∈ k.parts, q.uva = p.uva → q.prog = p.prog + 1

/-- R317, R99, R313: a part of a BATTN without a gate takes its next token, whose page its table names as it stands then (log 85), through the
attention sequence; with its last one, or where it has none, it delivers its outputs, each o divided by l, or zeros where T is 0, and m and l where
MLOUT asks for them, and is done; the command keeps the flags for its completion. -/
def Sys2Proof.Stated.BattnTokensAreTaken : Prop :=
  ∃ mul add sub mx div : Nat → Nat → Nat × Nat,
    (∀ row ∈ [(Instr.fmul ⟨3, 1, 2, 1, 0⟩, mul), (Instr.fadd ⟨3, 1, 2, 1, 0⟩, add), (Instr.fsub ⟨3, 1, 2, 1, 0⟩, sub), (Instr.fmax ⟨3, 1, 2, 1⟩, mx),
        (Instr.fdiv ⟨3, 1, 2, 1, 0⟩, div)], ∀ a b, Stated.scalarAnswer row.1 a b 0 (row.2 a b).1 (row.2 a b).2)
    ∧ ∀ (s : State) (c : BkCmd) (p : Part) (rest : List (BkCmd × Part)) (x : Context) (q entry key value : List Byte) (out ml : Nat),
      let d := c.desc
      let dh := fieldAt d 36 2
      let per := 16384 / dh
      let tokens := fieldAt d 32 4
      let at_ := leValue entry + 2 * dh * (p.prog % per)
      Stated.nextWork s c p rest → s.ctxOf c.owner.asid = some x → c.kind = 4 → p.prog ≤ tokens → 16 ≤ dh → dh ≤ 512 → p.o.length = dh →
      (p.prog < tokens → s.runBytes x c (fieldAt d 8 8 + 8 * (p.prog / per)) 8 = some entry ∧ s.runBytes x c (fieldAt d 0 8) (2 * dh) = some q
        ∧ s.runBytes x c at_ (2 * dh) = some key ∧ s.runBytes x c (at_ + 32768) (2 * dh) = some value) →
      Stated.plainHome s →
      ∃ dot fd, (∀ z fl, Stated.DotIs bf16 2 dh q key z fl → Stated.finite (fp32.decode 2 dot) = some z ∧ fd = fl)
        ∧ let before : Stated.Live := (p.m.toNat, p.l.toNat, p.o.map (·.toNat))
          let taken := if p.prog < tokens then
            Stated.tokenStep mul add sub mx (fieldAt d 52 4) dot ((List.range dh).map fun j => fieldAt value (2 * j) 2) before else (before, 0)
          let after := taken.1
          let flags := c.flags ||| BitVec.ofNat 8 (if p.prog < tokens then fd ||| taken.2 else 0)
          (p.prog + 1 < tokens → ∃ t, exec .strelvisPart s = .next t ∧ Stated.undisturbed s t ∧ t.mem = s.mem
            ∧ ∀ k ∈ t.bks, k.owner = c.owner → k.tag = c.tag → k.flags = flags ∧ ∀ r ∈ k.parts, r.uva = p.uva →
              r.prog = p.prog + 1 ∧ (r.m.toNat, r.l.toNat, r.o.map (·.toNat)) = after)
          ∧ (tokens ≤ p.prog + 1 → Stated.keptRun s c (fieldAt d 16 8) (4 * dh) out →
            (fieldAt d 24 8 ≠ 0 → Stated.keptRun s c (fieldAt d 24 8) 8 ml ∧ (ml + 8 ≤ out ∨ out + 4 * dh ≤ ml)) →
            ∃ t, exec .strelvisPart s = .next t ∧ Stated.undisturbed s t
              ∧ (∀ j < dh, Stated.valueAt t (out + 4 * j) 4 = if tokens = 0 then 0 else (div (after.2.2.getD j 0) after.2.1).1)
              ∧ (fieldAt d 24 8 ≠ 0 → Stated.valueAt t ml 4 = after.1 ∧ Stated.valueAt t (ml + 4) 4 = after.2.1)
              ∧ (∀ a, (a < out ∨ out + 4 * dh ≤ a) → (fieldAt d 24 8 ≠ 0 → a < ml ∨ ml + 8 ≤ a) → t.homeByte a = s.homeByte a)
              ∧ ∀ k ∈ t.bks, k.owner = c.owner → k.tag = c.tag → (∀ r ∈ k.parts, r.uva ≠ p.uva)
                ∧ k.flags = if tokens = 0 then flags else after.2.2.foldl (fun f o => f ||| BitVec.ofNat 8 (div o after.2.1).2) flags)

/-- The copy engines and the Strelvis units (R304, R311, R314, R316, R317, R377). -/
def Obligations.EnginesWork : Prop :=
  Stated.ChunksArePerformed ∧ Stated.StrelvisUnitsWork ∧ Stated.BkopGranulesAreComputed ∧ Stated.BgemvRowsAreComputed ∧ Stated.BattnTokensAreTaken

/-- R210, R226, R323: an evicted dirty line of the vector data cache puts its dirty bytes home, and no other byte changes. A read that misses the
scalar cache places its line and evicts a line only from a full set, one whose dirty bytes go home; every other line stays. A write that meets a
discarded page leaves a page of zeros but for its bytes, with DSC clear in its entry. -/
def Sys2Proof.Stated.LinesAndPagesComeHome : Prop :=
  (∀ (s : State) (l : VLine), l ∈ s.vdc → l.core = s.input.unit → l.line = s.input.addr → l.dirty ≠ 0 →
    (∀ k ∈ s.vdc, k.core = l.core → k.line = l.line → k = l) → Stated.plainHome s → revokedAt s (l.line * 64) = false →
    ∃ t, exec .writeBackMerge s = .next t ∧ Stated.undisturbed s t ∧ l ∉ t.vdc
      ∧ (∀ i < 64, t.homeByte (64 * l.line + i) =
          if l.dirty.getLsbD i = true then l.data.extractLsb' (8 * i) 8 else s.homeByte (64 * l.line + i))
      ∧ ∀ a, a < 64 * l.line ∨ 64 * l.line + 64 ≤ a → t.homeByte a = s.homeByte a)
  ∧ (∀ (s : State) (va pa pte n : Nat), s.hart.ctl = false → pa < 2 ^ 52 → Pte.cls pte = false → (∀ l ∈ s.hart.scache, l.line ≠ pa / 64) →
    (s.hart.scache.map (·.line)).Nodup → Stated.plainHome s → (∀ l ∈ s.hart.scache, revokedAt s (l.line * 64) = false) →
    let set := s.hart.scache.filter (fun l => l.line % 128 == pa / 64 % 128)
    let t := (s.readLoc va pa pte n).1
    (∃ l ∈ t.hart.scache, l.line = pa / 64)
    ∧ (set.length < 8 → t.mem = s.mem ∧ ∀ l ∈ s.hart.scache, l ∈ t.hart.scache)
    ∧ (8 ≤ set.length → ∃ v ∈ set, (∀ l ∈ t.hart.scache, l.line ≠ v.line) ∧ (∀ l ∈ s.hart.scache, l ≠ v → l ∈ t.hart.scache)
      ∧ ∀ a, t.homeByte a = if a / 64 = v.line ∧ v.dirty.getLsbD (a % 64) = true then v.data.extractLsb' (8 * (a % 64)) 8 else s.homeByte a))
  ∧ (∀ (s : State) (ea : Nat),
    let pa := s.input.addr
    let f := pa / 65536 * 65536
    s.discarded.find? (fun e => e.1 == f) = some (f, ea) → Memory.wf s.mem = true → s.potLines = [] → s.input.data ≠ [] →
    pa + s.input.data.length ≤ f + 65536 → (ea + 8 ≤ f ∨ f + 65536 ≤ ea) → Stated.unrevoked s pa s.input.data.length →
    ∃ t, exec .pageRevival s = .next t ∧ Stated.undisturbed s t ∧ Pte.dsc (readPte t ea) = false
      ∧ ∀ a, f ≤ a → a < f + 65536 → t.homeByte a = if pa ≤ a ∧ a < pa + s.input.data.length then s.input.data.getD (a - pa) 0 else 0)

/-- R216, R221, R224: the oldest collector entry of a core leaves it; a collapse serves every write that waits for its page, of 64 KiB or of 512 MiB,
makes the page plain in its entry and drops its translations; a hinted row closes. -/
def Sys2Proof.Stated.PageEnginesWork : Prop :=
  (∀ (s : State) (e : CollEntry), s.collector.find? (fun e => e.core == s.input.unit) = some e →
    ∃ t, exec .writeRangeAppend s = .next t ∧ Stated.undisturbed s t ∧ ∀ c, c ∈ t.collector ↔ c ∈ s.collector ∧ c ≠ e)
  ∧ (∀ (s : State) (r : CollapseReq) (rest : List CollapseReq) (c : Context) (pa e : Nat) (big : Bool), s.collapses = r :: rest →
    s.ctxOf r.asid = some c → leafOf s c.ptroot r.va = .entry pa e big → Pte.v e = true → Pte.kind e = 3 → Memory.wf s.mem = true →
    Stated.nothingDue s →
    let page := fun (va : Nat) => if big = true then va / 2 ^ 29 else va / 65536
    ∃ t, exec .collapse s = .next t ∧ Stated.undisturbed s t
      ∧ (∀ q, q ∈ t.collapses ↔ q ∈ s.collapses ∧ ¬(q.asid = r.asid ∧ page q.va = page r.va))
      ∧ Pte.kind (readPte t pa) = 0 ∧ ∀ x ∈ t.tlb, x.asid = r.asid → x.big = big → x.vpn ≠ page r.va)
  ∧ (∀ s : State, s.input.addr ∈ s.hints → exec .hintRowClose s = .next { s with hints := s.hints.filter (fun r => r != s.input.addr) })

/-- Write-backs, revivals, write ranges, collapses and hinted rows (R210, R216, R221, R224, R226). -/
def Obligations.LinesAndPages : Prop := Stated.LinesAndPagesComeHome ∧ Stated.PageEnginesWork

/-- R223: a write of MIGCMD starts the command of its descriptor, or refuses it with RESULT 2, and is ignored while one runs; at the end of a command
(whose descriptor is then read again; that one outside regions 0 and 1 is refused, and that it is not judged again, is the model's choice: log 87) the
page's bytes stand in the destination frame, its entry is the new one, and RESULT is 1. -/
def Sys2Proof.Stated.MigrationsMovePages : Prop :=
  (∀ s : State, s.input.unit < 4 →
    let k := s.input.unit
    let desc := s.input.value / 64 % 2 ^ 46 * 64
    exec .migcmd s = .next (if desc = 0 ∨ (s.die k).migBusy = true then s
      else if s.migRefused desc = true then s.updDie k (fun d => { d with migResult := 2 })
      else s.updDie k (fun d => { d with migBusy := true, migDesc := desc, migResult := 0 })))
  ∧ (∀ s : State, s.input.unit < 4 → (s.die s.input.unit).migBusy = true → Stated.plainHome s →
    Stated.nothingDue s →
    let k := s.input.unit
    let d := s.homeBytes (s.die k).migDesc 64
    let src := fieldAt d 0 8
    let dst := fieldAt d 8 8
    let pte := fieldAt d 16 8
    ∃ t, exec .migrationComplete s = .next t ∧ Stated.undisturbed s t ∧ (t.die k).migBusy = false ∧ (t.die k).migResult = 1
      ∧ readPte t pte = fieldAt d 24 8
      ∧ ∀ i < 65536, (dst + i < pte ∨ pte + 8 ≤ dst + i) → t.homeByte (dst + i) = s.homeByte (src + i))

/-- R227, R228, R381, R382: an extent that a die is offered joins the records that wait, with kind 1, and is not accepted before its record is
appended; a release request tags an extent with a record of kind 2; EXTACK of that tag takes it out, its lines no longer dirty; a forced release
takes it out at once, its range revoked, with a record of kind 3: its dirty lines are gone from every cache, and of every dispatched word the
accesses into it are refused, their hart trapping with 0x15 (how, is the model's reading: log 81; which entry a full table widens where two are
equally near, its choice: log 88); REVCLR takes out the revoked ranges that hold its address and no other. -/
def Sys2Proof.Stated.ExtentsComeAndGo : Prop :=
  ∀ s : State, s.input.unit < 4 → s.hasT3 s.input.unit = true → s.input.addr < 2 ^ 64 → s.input.value < 2 ^ 64 → (s.die s.input.unit).extTag + 1 < 2 ^ 32 →
    let k := s.input.unit
    (s.extentOk k s.input.addr s.input.value = true → (s.die k).extBuf.length < 16 → ∃ t, exec .extentAdded s = .next t ∧ Stated.undisturbed s t
      ∧ (t.die k).extents = (s.die k).extents ∧ Stated.reported s t k 1 s.input.addr s.input.value)
    ∧ (∀ e, (s.die k).extents.find? (fun e => e.base == s.input.addr && e.releaseTag.isNone) = some e → (s.die k).extBuf.length < 16 → e.size < 2 ^ 64 →
      ∃ t, exec .extentReleaseRequest s = .next t ∧ Stated.undisturbed s t ∧ Stated.reported s t k 2 e.base e.size
        ∧ (t.die k).extents = (s.die k).extents.map (fun x => if x = e then { x with releaseTag := some ((s.die k).extTag + 1) } else x))
    ∧ ((∀ e ∈ (s.die k).extents, e.releaseTag ≠ some (s.input.value % 2 ^ 32)) → exec .extack s = .next s)
    ∧ (∀ e, (s.die k).extents.find? (fun e => e.releaseTag == some (s.input.value % 2 ^ 32)) = some e → ∃ t, exec .extack s = .next t ∧ t.mem = s.mem
      ∧ (t.die k).extents = (s.die k).extents.filter (fun x => x != e) ∧ ∀ m ∈ t.msc, ¬(e.base ≤ m.line * 64 ∧ m.line * 64 < e.base + e.size))
    ∧ (∀ e, (s.die k).extents.find? (fun e => e.base == s.input.addr) = some e → e.size < 2 ^ 64 → ∃ t, exec .forcedExtentRelease s = .next t
      ∧ Stated.undisturbed s t ∧ Stated.reported s t k 3 e.base e.size ∧ (t.die k).extents = (s.die k).extents.filter (fun x => x != e)
      ∧ ((s.die k).revoked.length < 256 → (t.die k).revoked = (s.die k).revoked ++ [(e.base, e.base + e.size)])
      ∧ (∀ l ∈ t.vdc, l.dirty ≠ 0 → ¬(e.base ≤ l.line * 64 ∧ l.line * 64 < e.base + e.size))
      ∧ (∀ h ∈ t.allHarts, ∀ l ∈ h.scache, l.dirty ≠ 0 → ¬(e.base ≤ l.line * 64 ∧ l.line * 64 < e.base + e.size))
      ∧ (Stated.namesApart s → ∀ h ∈ s.allHarts, h.ctl = false → h.status = .running →
        (∃ q ∈ h.ep.queue, (q.caughtIn h.coreId h.ep e.base (e.base + e.size)).isSome = true) →
        ∃ g ∈ t.allHarts, g.loc = h.loc ∧ (∃ x, g.status = .trapping x ∧ x.cause = 0x15)
          ∧ ∀ q ∈ g.ep.queue, q.caughtIn g.coreId g.ep e.base (e.base + e.size) = none)
      ∧ ∀ m ∈ t.msc, ¬(e.base ≤ m.line * 64 ∧ m.line * 64 < e.base + e.size))
    ∧ ∃ t, exec .revclr s = .next t ∧ t.mem = s.mem ∧ ∀ r, r ∈ (t.die k).revoked ↔
        r ∈ (s.die k).revoked ∧ ¬(r.1 ≤ s.input.value / 65536 % 2 ^ 36 * 65536 ∧ s.input.value / 65536 % 2 ^ 36 * 65536 < r.2)

/-- Migration and tier 3 (R223, R227, R228, R381, R382). -/
def Obligations.PagesAndExtentsMove : Prop := Stated.MigrationsMovePages ∧ Stated.ExtentsComeAndGo

/-- R338, R382: the oldest waiting fault record, or extent record, of a die whose queue has room is written into its slot, and then HEAD is raised by
one; a fault record's party is then parked on that slot, and the extent of an extent record of kind 1 is accepted. The next record held back moves up.
Which descriptors take a record is the model's reading (log 10). -/
def Sys2Proof.Stated.RecordsAreAppended : Prop :=
  ∀ s : State, Stated.plainHome s →
    let k := s.input.unit
    (∀ f slot, s.nextFault k = some (f, slot) → Stated.slotApart (s.die f.die).fqdesc slot f.record.length →
      ∃ t, exec .faultRecordAppend s = .next t ∧ Stated.undisturbed s t ∧ Stated.appended s t (s.die f.die).fqdesc slot f.record
        ∧ t.faults = s.faults.map (fun g => if g = f then { g with slot := some slot } else g))
    ∧ (∀ r slot, k < 4 → s.nextExtent k = some (r, slot) → Stated.slotApart (s.die k).extq slot r.length →
      ∃ t, exec .extentRecordAppend s = .next t ∧ Stated.undisturbed s t ∧ Stated.appended s t (s.die k).extq slot r
        ∧ (t.die k).extBuf = (s.die k).extBuf.drop 1 ++ (s.die k).extHeld.take 1 ∧ (t.die k).extHeld = (s.die k).extHeld.drop 1
        ∧ (t.die k).extents = (s.die k).extents ++ if fieldAt r 0 1 = 1 then [⟨fieldAt r 8 8, fieldAt r 16 8, none, false⟩] else [])

/-- R353, R354, R356, R367: the harts of a halting context stop, and its image is written where it fits, after which no hart, farm or command of the
context is left and STATE is 3, and STATE is 5 where it does not fit; a hart that is to be pre-empted stops, its record is written at its area, and
its slot is free (a parked hart is pre-empted only after TRET, and one that waits for a trap or a pot's home after that: the model's reading, log 24);
a group of harts that waits for a core is placed on one that can take it, each hart with its registers and its pc. -/
def Sys2Proof.Stated.HartsLeaveAndReturn : Prop :=
  (∀ (s : State) (c d : Context), s.nextImage = some c → Stated.namesApart s →
    let u := if c.stopped = true then s else s.stopCtx c.asid
    (c.stopped = false → ∀ h ∈ u.allHarts, h.admitted = true → h.asid = c.asid → h.status ≠ .running ∧ ∀ t, h.status ≠ .trapping t)
    ∧ (u.ctxOf c.asid = some d → (c.stopped = true → d = c) → Stated.plainHome u →
      let area := u.homeNat (d.desc + 16) 8
      let room := u.homeNat (d.desc + 24) 8
      let img := u.image d
      ∃ (t : State) (e : Context), exec .contextImageWrite s = .next t ∧ t.ctxOf c.asid = some e
        ∧ (room < img.length → e.state = 5 ∧ Stated.undisturbed u t ∧ t.hart.ep = u.hart.ep ∧ t.hart.status = u.hart.status)
        ∧ (img.length ≤ room → e.state = 3 ∧ (∀ h ∈ t.allHarts, h.admitted = true → h.asid ≠ c.asid) ∧ (∀ f ∈ t.farms, f.asid ≠ c.asid)
          ∧ (∀ d ∈ t.copies, d.owner.asid ≠ c.asid) ∧ (∀ d ∈ t.bks, d.owner.asid ≠ c.asid)
          ∧ (area + img.length ≤ 2 ^ 52 → (area + img.length ≤ d.desc ∨ d.desc + 40 ≤ area) → d.desc + 40 ≤ 2 ^ 52 →
            t.homeBytes area img.length = img))))
  ∧ (∀ (s : State) (h g : Hart) (area : Nat), s.nextPreempted = some (h, area) → Stated.namesApart s →
    let u := s.asHart h.loc State.stopHere
    u.hartAt h.loc = some g → Stated.plainHome u →
    ∃ t, exec .hartRecordWrite s = .next t ∧ t.homeBytes area (g.record 2 []).length = g.record 2 []
      ∧ (∀ g ∈ t.allHarts, g.loc = h.loc → g.status = .retired) ∧ ∀ c ∈ t.contexts, c.asid = g.asid → (h.loc, area) ∈ c.preempted)
  ∧ (∀ (s : State) (b : Bool) (p : Placement) (cs : List Nat), s.seatable.find? (fun e => e.1.fixed == b) = some (p, cs) →
    (∀ q ∈ s.placements, q.asid = p.asid → q.saved ≠ 64 + p.saved) →
    ∃ t, exec (if b = true then .preemptedHartPlacement else .resumedHartPlacement) s = .next t ∧ p ∉ t.placements
      ∧ (p.records.length = p.harts.length → ∀ h ∈ p.harts, ∃ g ∈ t.allHarts,
          g.owner = h.owner ∧ 16 * g.die + g.core ∈ cs ∧ g.sc.x = h.sc.x ∧ g.sc.pc = h.sc.pc))

/-- Records for the supervisor, images, and the harts that leave and return (R338, R354, R356, R367, R382). -/
def Obligations.RecordsAndImages : Prop := Stated.RecordsAreAppended ∧ Stated.HartsLeaveAndReturn

/-- R372: a write of a plain device register is what a read of the register then answers, reserved bits read as zero, an offset that is no multiple
of 8 is ignored, and no byte of memory and no register of a hart changes. -/
def Sys2Proof.Stated.DeviceRegistersAreWritten : Prop :=
  (∀ row ∈ [((0x000 : Nat), (0xFFFF : Word)), (0x020, 0xFFFFFFFFF0001), (0x300, 0xFFFF)], ∀ s : State, s.input.unit < 4 → s.input.addr = row.1 →
    ∃ t, exec .deviceRegisterWrite s = .next t ∧ Stated.undisturbed s t ∧ t.mem = s.mem
      ∧ t.devRead s.input.unit row.1 = BitVec.ofNat 64 s.input.value &&& row.2)
  ∧ (∀ s : State, s.input.unit < 4 → s.hasT3 s.input.unit = true → s.input.addr = 0x420 →
    ∃ t, exec .deviceRegisterWrite s = .next t ∧ Stated.undisturbed s t ∧ t.mem = s.mem
      ∧ t.devRead s.input.unit 0x420 = BitVec.ofNat 64 s.input.value &&& 0xFFFFFFFFFFFC1)
  ∧ (∀ off ∈ [(0x200 : Nat), 0x208, 0x210, 0x218, 0x240, 0x248, 0x250, 0x258], ∀ s : State, s.input.unit = 0 → s.input.addr = off →
    ∃ t, exec .deviceRegisterWrite s = .next t ∧ Stated.undisturbed s t ∧ t.mem = s.mem ∧ t.devRead 0 off = BitVec.ofNat 64 s.input.value)
  ∧ (∀ s : State, s.input.addr % 8 ≠ 0 → exec .deviceRegisterWrite s = .next s)

/-- R385, R386: MEASSEL extends the register that it names, 1 to 7 only, by SHA-256; ATTREQ starts a report at its address, unless one is being made;
a report raises the identity counter by one first and carries the value it had, the nonce and RESULT 1; with the counter at 2^20 there is no report,
no rise and RESULT 2, and with a buffer outside tier 1 RESULT 3. -/
def Sys2Proof.Stated.MeasurementsAndReports : Prop :=
  (∀ s : State,
    let n := s.input.value % 8
    (n = 0 → exec .meassel s = .next s)
    ∧ ∀ h : n < 8, n ≠ 0 → exec .meassel s = .next { s with
        meas := s.meas.set n (BitVec.ofNat 256 (leValue (sha256 (leBytes 32 s.meas[n].toNat ++ leBytes 32 s.measExt.toNat)))) })
  ∧ (∀ s : State,
    let b := s.input.value / 64 % 2 ^ 46 * 64
    exec .attreq s = .next (if b = 0 ∨ s.attBusy = true then s else { s with attBusy := true, attBuf := b, attResult := 0 }))
  ∧ (∀ s : State, s.attBusy = true →
    (2 ^ 20 ≤ s.idcount → exec .attestReportComplete s = .next { s with attBusy := false, attResult := 2 })
    ∧ (s.idcount < 2 ^ 20 → region s.attBuf ≠ 0 → exec .attestReportComplete s = .next { s with attBusy := false, attResult := 3 })
    ∧ (s.idcount < 2 ^ 20 → region s.attBuf = 0 → Stated.plainHome s → ∃ t, exec .attestReportComplete s = .next t ∧ Stated.undisturbed s t
      ∧ t.idcount = s.idcount + 1 ∧ t.attBusy = false ∧ t.attResult = 1 ∧ t.meas = s.meas
      ∧ t.homeNat (s.attBuf + 12) 4 = s.idcount ∧ t.homeBytes (s.attBuf + 16) 32 = leBytes 32 s.attNonce.toNat
      ∧ ∀ a, a < s.attBuf ∨ s.attBuf + 2176 ≤ a → t.homeByte a = s.homeByte a))

/-- Device registers, measurement and attestation (R372, R385, R386). -/
def Obligations.DeviceRegisters : Prop := Stated.DeviceRegistersAreWritten ∧ Stated.MeasurementsAndReports

/-- R374, R392, R397 to R399: TELCOMMIT starts a commit, whose completion, like the commit that is due every 2^24 rounds, stores the records as they
stand while the package is on; a corrected soft error, a link's retrain and an excursion's start each raise their record by one, a die link's those of
its two dies, and a link that a die has not cannot retrain; a retrain and an excursion end; a flit sent again changes nothing: the model's choice (log
48). -/
def Sys2Proof.Stated.TelemetryCounts : Prop :=
  ∀ s : State, s.input.unit < 4 →
    let k := s.input.unit
    let l := s.input.value
    let far := Stated.farEnd k l
    exec .telcommit s = .next (if s.input.value % 2 = 1 then s.updDie k (fun d => { d with telBusy := true }) else s)
    ∧ (s.boot ≠ .off → (s.die k).telBusy = true → ∃ t, exec .telemetryCommitComplete s = .next t ∧ (t.die k).telStored = (s.die k).tel
        ∧ (t.die k).tel = (s.die k).tel ∧ (t.die k).telBusy = false ∧ t.mem = s.mem)
    ∧ (s.boot ≠ .off → s.rounds % 2 ^ 24 = 0 → s.rounds ≠ 0 → ∃ t, exec .telemetryPeriodicCommit s = .next t ∧ (t.die k).telStored = (s.die k).tel ∧ t.mem = s.mem)
    ∧ (s.input.value ≤ 0x7FF ∨ (0x1140 ≤ s.input.value ∧ s.input.value ≤ 0x1143) →
        ∃ t, exec .softErrorCorrection s = .next t ∧ Stated.countedOnce s t k s.input.value ∧ t.mem = s.mem ∧ t.hart = s.hart)
    ∧ (Stated.linked s k l → l ∉ (s.die k).links → ∃ t, exec .linkRetrain s = .next t ∧ t.mem = s.mem
        ∧ Stated.countedOnce s t k (0x1120 + l) ∧ l ∈ (t.die k).links
        ∧ (l < 3 → Stated.countedOnce s t far.1 (0x1120 + far.2) ∧ far.2 ∈ (t.die far.1).links))
    ∧ (¬ Stated.linked s k l → exec .linkRetrain s = .next s)
    ∧ (l ∈ (s.die k).links → ∃ t, exec .linkRetrainEnd s = .next t ∧ l ∉ (t.die k).links ∧ (l < 3 → far.2 ∉ (t.die far.1).links)
        ∧ ∀ j, j < 4 → (t.die j).tel = (s.die j).tel)
    ∧ ((s.die k).thermal = false → ∃ t, exec .thermalExcursionStart s = .next t ∧ Stated.countedOnce s t k 0x1130 ∧ (t.die k).thermal = true)
    ∧ ((s.die k).thermal = true → ∃ t, exec .thermalExcursionEnd s = .next t ∧ (t.die k).tel = (s.die k).tel ∧ (t.die k).thermal = false)
    ∧ exec .flitRetransmit s = .next s

/-- R385, R398: at an orderly power-down of a package that is on every record is committed first (for one that is off nothing happens), and at a loss
of power the last completed commit stays; either way the identity counter and host memory are kept and nothing else is, tier 3 being lost: the
model's choice (log 46). -/
def Sys2Proof.Stated.PowerKeepsWhatIsCommitted : Prop :=
  ∀ s : State, Memory.wf s.mem = true →
    (s.boot = .off → exec .powerDown s = .next s)
    ∧ (s.boot ≠ .off → ∃ t, exec .powerDown s = .next t ∧ Stated.unpowered s t ∧ ∀ k, k < 4 → (t.die k).telStored = (s.die k).tel ∧ (t.die k).tel = [])
    ∧ (∃ t, exec .powerLoss s = .next t ∧ Stated.unpowered s t ∧ ∀ k, k < 4 → (t.die k).telStored = (s.die k).telStored ∧ (t.die k).tel = [])

/-- Telemetry, links, heat and power (R374, R392, R397 to R399). -/
def Obligations.TelemetryAndPower : Prop := Stated.TelemetryCounts ∧ Stated.PowerKeepsWhatIsCommitted

/-- R383, R384, R386: at power-on the ROM zeroes the measurement registers and tries the first source; a try that times out is followed by the next,
and what had arrived of its image stands at LOAD; an image that passes the checks is placed at LOAD, MEAS0 is extended with its header's hash and
every control core starts at ENTRY; one that fails is counted and the next try begins, with no control core started. A doorbell write takes the image
that the host wrote, in the host's window, to the same checks; after boot, and without a host port, it does nothing. Which bytes of a refused image
are zeroed, and which try follows a refused doorbell image, is the model's reading (log 47); that an image whose fields break their ranges is
refused, its choice (log 93). -/
def Sys2Proof.Stated.BootRuns : Prop :=
  (∀ s : State, s.boot = .off → ∃ t, exec .powerOn s = .next t ∧ t.boot = .rom 0 1 ∧ t.meas = Vector.replicate 8 0 ∧ t.mem = s.mem ∧ t.hart = s.hart
    ∧ t.idcount = s.idcount ∧ ∀ k, k < 4 → (t.die k).tel = (s.die k).telStored ∧ (t.die k).telStored = (s.die k).telStored)
  ∧ (∀ (s : State) (src n : Nat), s.boot = .rom src n → s.discarded = [] → Memory.wf s.mem = true →
    let load := fieldAt (s.input.data.take 2048) 16 8
    let len := fieldAt (s.input.data.take 2048) 32 8
    let got := (s.input.data.drop 2048).take len
    ∃ t, exec .bootTryTimeout s = .next t ∧ t = { s with boot := Stated.tryAfter s.part.dies src n, mem := t.mem }
      ∧ (src < s.part.dies → load + len ≤ s.part.tier1 → t.homeBytes load got.length = got
          ∧ ∀ a, a < load ∨ load + got.length ≤ a → t.homeByte a = s.homeByte a)
      ∧ (s.part.dies ≤ src ∨ s.part.tier1 < load + len → t.mem = s.mem))
  ∧ (∀ (s : State) (src n : Nat), s.boot = .rom src n → s.discarded = [] → Memory.wf s.mem = true →
    let head := s.input.data.take 2048
    let body := s.input.data.drop 2048
    let load := fieldAt head 16 8
    (s.bootGood head body = true → ∃ t, exec .bootImageArrival s = .next t ∧ t.boot = .started ∧ t.svn = fieldAt head 12 4
      ∧ t.homeBytes load body.length = body
      ∧ t.meas[0] = BitVec.ofNat 256 (leValue (sha256 (leBytes 32 s.meas[0].toNat ++ sha256 head)))
      ∧ ∀ h ∈ t.allHarts, h.ctl = true → h.status = .running ∧ h.sc.pc = BitVec.ofNat 64 (fieldAt head 24 8))
    ∧ (s.bootGood head body = false → ∃ t, exec .bootImageArrival s = .next t ∧ t.boot = Stated.tryAfter s.part.dies src n ∧ t.hart = s.hart
      ∧ t.others = s.others ∧ t.meas = s.meas ∧ Stated.countedOnce s t 0 0x1111
      ∧ (load + fieldAt head 32 8 ≤ s.part.tier1 → ∀ a, load ≤ a → a < load + fieldAt head 32 8 → t.homeByte a = 0)))
  ∧ (∀ s : State, (∀ src n, s.boot ≠ .rom src n) → exec .bootdb s = .next s)
  ∧ (∀ s : State, s.part.features.getLsbD 3 = false → exec .bootdb s = .next s)
  ∧ (∀ (s : State) (src n : Nat), s.boot = .rom src n → s.part.features.getLsbD 3 = true → ∃ t, exec .bootdb s = .next t
    ∧ (t.boot = .started ∨ (t.boot = Stated.tryAfter s.part.dies s.part.dies n ∧ t.hart = s.hart ∧ t.meas = s.meas)))
  ∧ (∀ (s : State) (src n : Nat), s.boot = .rom src n → s.part.features.getLsbD 3 = true → s.discarded = [] → Memory.wf s.mem = true →
    s.input.data = [] →
    let off := s.input.value
    let head := s.homeBytes off 2048
    let len := fieldAt head 32 8
    let body := s.homeBytes (off + 2048) len
    off + 2048 + len ≤ s.part.tier1 → len ≤ 2 ^ 28 →
    (s.bootGood head body = true → ∃ t, exec .bootdb s = .next t ∧ t.boot = .started ∧ t.homeBytes (fieldAt head 16 8) len = body
      ∧ t.meas[0] = BitVec.ofNat 256 (leValue (sha256 (leBytes 32 s.meas[0].toNat ++ sha256 head)))
      ∧ ∀ h ∈ t.allHarts, h.ctl = true → h.status = .running ∧ h.sc.pc = BitVec.ofNat 64 (fieldAt head 24 8))
    ∧ (s.bootGood head body = false → ∃ t, exec .bootdb s = .next t ∧ t.boot = Stated.tryAfter s.part.dies s.part.dies n ∧ t.hart = s.hart
      ∧ t.meas = s.meas ∧ Stated.countedOnce s t 0 0x1111 ∧ ∀ a, off ≤ a → a < off + 2048 + len → t.homeByte a = 0))

/-- R380: the host writes bytes of tier 1 through its window, which merge at home and change no other byte, and reads the bytes that stand there. -/
def Sys2Proof.Stated.HostReachesTierOne : Prop :=
  ∀ s : State, Stated.plainHome s →
    let pa := s.input.addr / s.part.tier1 * 2 ^ 46 + s.input.addr % s.part.tier1
    (s.hdmOk s.input.addr s.input.data.length = true → ∃ t, exec .hostWrite s = .next t ∧ Stated.undisturbed s t
      ∧ t.homeBytes pa s.input.data.length = s.input.data ∧ ∀ a, a < pa ∨ pa + s.input.data.length ≤ a → t.homeByte a = s.homeByte a)
    ∧ (s.hdmOk s.input.addr s.input.value = true → exec .hostRead s = .next { s with hostData := s.homeBytes pa s.input.value })

/-- Boot, and the host at its window (R380, R383, R384). -/
def Obligations.BootAndHost : Prop := Stated.BootRuns ∧ Stated.HostReachesTierOne

namespace Sys2Proof.Stated

open Sys2Proof.Machine

/-! ### Words and steps -/

/-- Words that the spec writes out beside the instructions that they encode (R114, R118, R121, R142, R143, R160, R161, R163, R165, R169, R186, R199,
R235, R237, R242, R245, R252 to R254, R258 to R260, R264, R265, R346); MANDN's word is that of R166's op7 0x44 (log 33). -/
def manualWords : List (Nat × Instr) :=
  [(0x094E6285, .fma ⟨5, 6, 7, 5, 1, 0⟩), (0x2BCE62B3, .amo ⟨5, 6, 7, 3, 3, 2, 1⟩), (0x200002F6, .csrrs ⟨5, 0, 0⟩), (0x00426076, .csrrw ⟨0, 6, 0x021⟩),
   (0x10000075, .fend), (0x18000075, .yield), (0x0C041240, .vsubVV ⟨4, 1, 2, 0, 2⟩), (0x0C045241, .vsubVS ⟨4, 5, 2, 0, 2⟩),
   (0x16483340, .vadcVV ⟨6, 3, 4, 1, 3⟩), (0x2A041242, .vfmaVV ⟨4, 1, 2, 0, 1⟩), (0x14041149, .vcmpltVV ⟨2, 1, 2, 0, 2⟩),
   (0x180411C4, .mandn ⟨3, 1, 2⟩), (0x04048246, .vredsum ⟨4, 8, 2, 0, 2⟩), (0x03942A62, .ginc ⟨20, 2, 10, 0, 1, 1, 0⟩),
   (0x13E00C63, .gins ⟨24, 0, 16, 1, 1, 1, 2⟩), (0x064022E3, .gstat ⟨5, 2, 1⟩), (0x14006253, .vlseg ⟨4, 6, 0, 2, 2, 0⟩),
   (0x50006253, .vlseg ⟨4, 6, 0, 0, 2, 1⟩), (0x0C106258, .vamo ⟨4, 6, 8, 0, 2, 1⟩), (0x00414459, .vbind ⟨8, 20, 0, 1, 0⟩), (0x0000045A, .vunbind ⟨8⟩),
   (0x03C00071, .fence ⟨0, 3, 3⟩), (0x02820071, .fence ⟨1, 2, 2⟩), (0x10000071, .svfence), (0x18000071, .vsfence), (0x20010071, .qdrain ⟨16⟩),
   (0x20060071, .qdrain ⟨96⟩), (0x424062F1, .mwatchld ⟨5, 6, 1, 2⟩), (0x480062F1, .mwait ⟨5, 6⟩), (0x50000071, .heartbeat),
   (0x300E6073, .discard ⟨6, 7⟩), (0x380E6073, .rtouch ⟨6, 7⟩), (0x04062140, .vaddVV ⟨2, 2, 3, 0, 2⟩), (0x200E6077, .tlbinv ⟨6, 7⟩)]

/-- The turn passes on after an instruction: the order of the parties is the model's choice (log 6). -/
def thenPass (o : Host.Outcome State Fault Refusal) : Host.Outcome State Fault Refusal :=
  match o with
  | .next t => .next t.passTurn
  | .fault f => .fault f
  | .refused r => .refused r

/-- A completion event that was due before an instruction and has waited for it, a G word under way or one for which VSTART was armed, is delivered
after it, and always where the instruction has retired, since no second one retires first (R308); that the armed start belongs to the interrupted
code, and that one which was deliverable comes in the place of a LEND, is log 23. -/
def thenEvent (s : State) (o : Host.Outcome State Fault Refusal) : Host.Outcome State Fault Refusal :=
  match o with
  | .next t => .next (if s.hart.deliverable = true ∧ t.hart.sc.lend.getLsbD 31 = true then { s with hart := s.hart.takeEvent }
      else if s.hart.eventDue = true ∧ t.hart.eventDue = true ∧ (t.hart.deliverable = true ∨ t.hart.sc.instret ≠ s.hart.sc.instret)
      then { t with hart := t.hart.takeEvent } else t)
  | .fault f => .fault f
  | .refused r => .refused r

/-- No event stands before what the party does next: the agenda is empty and nothing is due. -/
abbrev idleAround (s : State) : Prop := s.agenda = [] ∧ s.pending = none ∧ s.hart.status = .running

/-- Nothing stands before the next instruction: no event, and no queued word of a resumed hart to dispatch again (R367). -/
abbrev unhurried (s : State) : Prop := idleAround s ∧ s.hart.redo = []

/-- The party of `v` has its turn in `s`: nothing stands before its next instruction, or the agenda gives it the turn (log 6). -/
def onTurn (s v : State) : Prop :=
  (unhurried s ∧ v = s)
  ∨ ∃ who rest, s.agenda = .run who :: rest ∧ v = ({ s with agenda := rest } : State).giveTurn who ∧ v.hart.status = .running ∧ v.hart.redo = []

/-- The word that the core of the party that executes fetches from a physical address: from its instruction cache, else from home (R31). -/
def wordAt (s : State) (pa : Nat) : Nat :=
  match s.icache.find? (fun l => l.core == s.hart.coreId && l.line == pa / 64) with
  | some l => l.data.toNat / 256 ^ (pa % 64) % 256 ^ 4
  | none => valueAt s pa 4

/-- A fetch at the pc finds `w` at the physical address `pa`, in the state `u` that its translation leaves (R14, R26, R343). -/
def fetches (s u : State) (pa w : Nat) : Prop :=
  s.hart.sc.pc.toNat % 4 = 0 ∧ (s.hart.ctl = true ∨ s.hart.sc.pc.toNat < 0xFFFFFFFFA0000)
  ∧ (∃ pte, s.locate s.hart.sc.pc.toNat 4 .fetch 2 = .ok u pa pte) ∧ pa % 4 = 0 ∧ w = wordAt u pa

/-- Only the instruction cache differs. -/
def sameButIcache (u v : State) : Prop := v = { u with icache := v.icache }

/-- Events of the machine that nothing brings about right after power-on. -/
def idleEvents : List Instr :=
  [.epInstructionComplete, .trapDelivery, .uiEventDelivery, .mwaitTimeout, .potHomeRequest, .faultRecordAppend, .hartAdmission, .watchdogExpiry,
   .copyChunk, .strelvisPart, .contextImageWrite, .hartRecordWrite, .resumedHartPlacement, .migrationComplete, .attestReportComplete,
   .bootImageArrival, .powerDown, .telemetryCommitComplete]

end Sys2Proof.Stated

/-! ### Words and steps -/

/-- R33 to R46, R153, R235: every well-formed instruction that has a word decodes from its word, which has 32 bits; and a word that decodes is the
encoding of what it decodes to, which is well formed: no bit of a word is dropped. -/
def Obligations.EncodeAndDecodeAgree : Prop :=
  (∀ i : Instr, i.wellFormed = true → isEvent i = false → encode i < 2 ^ 32 ∧ decodeWord (encode i) = .ok i)
  ∧ (∀ (w : Nat) (i : Instr), w < 2 ^ 32 → decodeWord w = .ok i → encode i = w ∧ i.wellFormed = true)

/-- The words that the spec writes out decode to the instructions that it writes beside them. One of them is not the spec's own: MANDN's word is that
of R166's op7 0x44 with R158's fields, the model's reading (log 33), since the word printed beside it is another. -/
def Obligations.WordsOfTheManualDecode : Prop :=
  ∀ row ∈ Stated.manualWords, decodeWord row.1 = .ok row.2 ∧ decode (leBytes 4 row.1) = .ok (row.2, [])

/-- R45: the all-zero word is illegal because op7 0x00 is unassigned, the all-ones word because it is a LEND word with reserved bits [31:18] that are
not zero; fetched anywhere and in any context, a pending LEND included, either raises the illegal-instruction trap with the word in TVAL. -/
def Obligations.AllZerosAndAllOnesAreIllegal : Prop :=
  (∀ w, w % 128 = 0 → decodeWord w = .error .unassigned)
  ∧ (∀ o, (0xFFFFFFFF : Nat) % 128 = encode (.lend o) % 128)
  ∧ (∀ w, w % 128 = 0xFFFFFFFF % 128 → w / 2 ^ 18 % 2 ^ 14 ≠ 0 → decodeWord w = .error .mustBeZero)
  ∧ ∀ w ∈ [(0 : Nat), 0xFFFFFFFF], ∀ (s u : State) (pa : Nat), Stated.unhurried s → Stated.fetches s u pa w →
      ∃ v, Stated.sameButIcache u v ∧ step s = .next (v.trap { cause := 1, tval := w }).passTurn

/-- Where no event comes before it, or the agenda gives it the turn, a step of a party that runs is the instruction that its word at the pc decodes to, with no lend pending or one
that the word accepts; then a completion event that has waited for it is delivered (log 23), and then the turn passes, which is the model's choice
(log 6). A word that does not decode, or that refuses a pending lend, raises the illegal-instruction trap (R14, R24, R46, R49). A resumed hart first
dispatches its queued words again, one a turn (R367; that each takes a turn is log 44). -/
def Obligations.AStepRunsTheDecodedWord : Prop :=
  (∀ s : State, Stated.idleAround s → s.hart.redo ≠ [] → step s = Stated.thenPass (execRedispatch s))
  ∧ ∀ (s r u : State) (pa w : Nat), Stated.onTurn s r → Stated.fetches r u pa w →
    (∀ i, decodeWord w = .ok i → (r.hart.sc.lend.getLsbD 31 = false ∨ acceptsLend w r.hart.sc.lend = true) →
      ∃ v, Stated.sameButIcache u v ∧ step s = Stated.thenPass (Stated.thenEvent r (exec i v)))
    ∧ ((∀ i, decodeWord w ≠ .ok i) ∨ (r.hart.sc.lend.getLsbD 31 = true ∧ acceptsLend w r.hart.sc.lend = false) →
      ∃ v, Stated.sameButIcache u v ∧ step s = .next (v.trap { cause := 1, tval := w }).passTurn)

/-- R383, R386: at power-on the package is off: its control cores, eight in the model's package of four dies (log 2), stand in the boot ROM and fetch
nothing, there is no hart, context or farm, and the measurement registers are zero; its memory is canonical, and events that need something to be at
work change nothing, which is the model's choice (log 6). -/
def Obligations.ResetIsOff : Prop :=
  State.reset.boot = .off ∧ State.reset.allHarts.length = 8 ∧ (∀ h ∈ State.reset.allHarts, h.ctl = true ∧ h.status = .rom)
  ∧ State.reset.contexts = [] ∧ State.reset.farms = [] ∧ State.reset.meas = Vector.replicate 8 0 ∧ Safety.MemoryCanonical State.reset
  ∧ ∀ i ∈ Stated.idleEvents, exec i State.reset = .next State.reset

/-- R371, R385, R386: every step keeps memory's canonical form and the part, the identity counter never falls, and while the machine has booted no
step writes MEAS0. -/
def Obligations.EveryStepKeeps : Prop :=
  ∀ s t : State, Safety.MemoryCanonical s → step s = .next t →
    Safety.MemoryCanonical t ∧ Safety.SamePart s t ∧ s.idcount ≤ t.idcount ∧ (s.boot = .started → t.boot = .started → t.meas[0] = s.meas[0])
end

