-- ==== Sys2Proof/Laws/Memory.lean ====
section
/-! SUPPORT. The laws of home memory: the canonical form is kept, a read finds what was last written, and equal contents are equal data. -/

namespace Sys2Proof.Machine

/-! ### The canonical form -/

/-- The bound that a canonical list stands above. -/
def Memory.above (lo : Option Nat) (a : Nat) : Prop := ∀ l, lo = some l → l < a

theorem Memory.wfFrom_cons {lo : Option Nat} {k : Nat} {b : Byte} {r : List Host.Cell} :
    Memory.wfFrom lo ((k, b) :: r) = true ↔ Memory.above lo k ∧ b ≠ Memory.absent ∧ Memory.wfFrom (some k) r = true := by
  cases lo <;> simp [Memory.wfFrom, Memory.above, and_assoc]

/-- A list that is canonical above one bound is so above every lower one. -/
theorem Memory.wfFrom_lower {lo lo' : Option Nat} {m : List Host.Cell} (h : Memory.wfFrom lo m = true)
    (hlo : ∀ a, Memory.above lo a → Memory.above lo' a) : Memory.wfFrom lo' m = true := by
  cases m with
  | nil => rfl
  | cons c r => rw [Memory.wfFrom_cons] at *; exact ⟨hlo _ h.1, h.2⟩

theorem Memory.wf_of_above {lo : Option Nat} {m : List Host.Cell} (h : Memory.wfFrom lo m = true) : Memory.wf m = true :=
  Memory.wfFrom_lower h (fun _ _ _ e => by cases e)

/-- Every address of a canonical list is above its bound. -/
theorem Memory.above_of_mem {lo : Option Nat} {m : List Host.Cell} (h : Memory.wfFrom lo m = true) : ∀ c ∈ m, Memory.above lo c.1 := by
  induction m generalizing lo with
  | nil => simp
  | cons c r ih =>
    rw [Memory.wfFrom_cons] at h
    intro d hd
    rcases List.mem_cons.1 hd with rfl | hd
    · exact h.1
    · exact fun l e => lt_trans (h.1 l e) (ih h.2.2 d hd _ rfl)

theorem Memory.wfFrom_write {lo : Option Nat} {m : List Host.Cell} {a : Nat} (b : Byte) (h : Memory.wfFrom lo m = true) (ha : Memory.above lo a) :
    Memory.wfFrom lo (Memory.write m a b) = true := by
  induction m generalizing lo with
  | nil =>
    by_cases hb : b = Memory.absent
    · simp [Memory.write, hb, Memory.wfFrom]
    · simp only [Memory.write, hb, if_false]
      exact Memory.wfFrom_cons.2 ⟨ha, hb, rfl⟩
  | cons c r ih =>
    obtain ⟨k, c⟩ := c
    have h' := Memory.wfFrom_cons.1 h
    unfold Memory.write
    split
    · split
      · exact h
      · next hk hb => exact Memory.wfFrom_cons.2 ⟨ha, hb, Memory.wfFrom_cons.2 ⟨fun l e => by cases e; exact hk, h'.2⟩⟩
    · split
      · next hk =>
        subst hk
        split
        · exact Memory.wfFrom_lower h'.2.2 (fun x hx l e => lt_trans (h'.1 l e) (hx _ rfl))
        · next hb => exact Memory.wfFrom_cons.2 ⟨ha, hb, h'.2.2⟩
      · exact Memory.wfFrom_cons.2 ⟨h'.1, h'.2.1, ih h'.2.2 (fun l e => by cases e; omega)⟩

/-- A write keeps the canonical form. -/
theorem Memory.wf_write {m : List Host.Cell} (a : Nat) (b : Byte) (h : Memory.wf m = true) : Memory.wf (Memory.write m a b) = true :=
  Memory.wfFrom_write b h (fun _ e => by cases e)

theorem Memory.wf_writeN {m : List Host.Cell} (a : Nat) (bs : List Byte) (h : Memory.wf m = true) : Memory.wf (Memory.writeN m a bs) = true := by
  induction bs generalizing m a with
  | nil => exact h
  | cons b bs ih => exact ih _ (Memory.wf_write _ _ h)

theorem Memory.wf_writeMasked {m : List Host.Cell} (a mask i : Nat) (bs : List Byte) (h : Memory.wf m = true) :
    Memory.wf (Memory.writeMasked m a mask i bs) = true := by
  induction bs generalizing m a i with
  | nil => exact h
  | cons b bs ih =>
    unfold Memory.writeMasked
    apply ih
    split
    · exact Memory.wf_write _ _ h
    · exact h

theorem Memory.wfFrom_filter {lo : Option Nat} {m : List Host.Cell} (p : Host.Cell → Bool) (h : Memory.wfFrom lo m = true) :
    Memory.wfFrom lo (m.filter p) = true := by
  induction m generalizing lo with
  | nil => rfl
  | cons c r ih =>
    have h' := Memory.wfFrom_cons.1 h
    rw [List.filter_cons]
    split
    · exact Memory.wfFrom_cons.2 ⟨h'.1, h'.2.1, ih h'.2.2⟩
    · exact ih (Memory.wfFrom_lower h'.2.2 (fun x hx l e => lt_trans (h'.1 l e) (hx _ rfl)))

/-- Leaving cells out keeps the canonical form. -/
theorem Memory.wf_filter {m : List Host.Cell} (p : Host.Cell → Bool) (h : Memory.wf m = true) : Memory.wf (m.filter p) = true := Memory.wfFrom_filter p h

theorem Memory.wf_clear {m : List Host.Cell} (lo hi : Nat) (h : Memory.wf m = true) : Memory.wf (Memory.clear m lo hi) = true := Memory.wf_filter _ h

/-- Memory at power-on has the canonical form. -/
theorem Memory.wf_reset : Memory.wf State.reset.mem = true := rfl

/-! ### Reading -/

theorem Memory.read_above {lo : Nat} {m : List Host.Cell} {a : Nat} (h : Memory.wfFrom (some lo) m = true) (ha : a ≤ lo) : Memory.read m a = Memory.absent := by
  cases m with
  | nil => rfl
  | cons c r =>
    obtain ⟨k, c⟩ := c
    have hk : lo < k := (Memory.wfFrom_cons.1 h).1 lo rfl
    have : a < k := by omega
    simp [Memory.read, this]

theorem Memory.read_write_from {lo : Option Nat} {m : List Host.Cell} (a : Nat) (b : Byte) (x : Nat) (h : Memory.wfFrom lo m = true) :
    Memory.read (Memory.write m a b) x = if x = a then b else Memory.read m x := by
  induction m generalizing lo with
  | nil =>
    by_cases hb : b = Memory.absent <;> by_cases hx : x = a <;> simp [Memory.write, Memory.read, hb, hx]
  | cons c r ih =>
    obtain ⟨k, c⟩ := c
    have h' := Memory.wfFrom_cons.1 h
    unfold Memory.write
    split
    · next hk =>
      split
      · next hb =>
        subst hb
        by_cases hx : x = a
        · subst hx; simp [Memory.read, hk]
        · simp [hx]
      · by_cases hx : x = a
        · simp [Memory.read, hx]
        · by_cases hxa : x < a
          · have : x < k := by omega
            simp [Memory.read, hx, hxa, this]
          · simp [Memory.read, hx, hxa]
    · split
      · next hk =>
        subst hk
        split
        · next hb =>
          subst hb
          by_cases hx : x = a
          · subst hx; simp [Memory.read_above h'.2.2 (le_refl _)]
          · by_cases hxa : x < a
            · simp [Memory.read, hx, hxa, Memory.read_above h'.2.2 (le_of_lt hxa)]
            · simp [Memory.read, hx, hxa]
        · by_cases hx : x = a
          · simp [Memory.read, hx]
          · simp [Memory.read, hx]
      · next h1 h2 =>
        by_cases hx : x = a
        · subst hx; simp [Memory.read, h1, h2, ih h'.2.2]
        · by_cases hxk : x < k
          · simp [Memory.read, hx, hxk]
          · by_cases hxe : x = k
            · subst hxe; simp [Memory.read, hx]
            · simp [Memory.read, hxk, hxe, ih h'.2.2]

/-- A read after a write: the byte written at its address, every other byte as before. -/
theorem Memory.read_write {m : List Host.Cell} (a : Nat) (b : Byte) (x : Nat) (h : Memory.wf m = true) :
    Memory.read (Memory.write m a b) x = if x = a then b else Memory.read m x := Memory.read_write_from a b x h

/-- A read after bytes were written. -/
theorem Memory.read_writeN {m : List Host.Cell} (a : Nat) (bs : List Byte) (x : Nat) (h : Memory.wf m = true) :
    Memory.read (Memory.writeN m a bs) x = if a ≤ x ∧ x < a + bs.length then bs.getD (x - a) 0 else Memory.read m x := by
  induction bs generalizing m a with
  | nil => have : ¬(a ≤ x ∧ x < a) := by omega
           simp [Memory.writeN, this]
  | cons b bs ih =>
    rw [Memory.writeN, ih _ (Memory.wf_write _ _ h), Memory.read_write _ _ _ h]
    by_cases h1 : x = a
    · subst h1
      simp
    · by_cases h2 : a + 1 ≤ x ∧ x < a + 1 + bs.length
      · have h3 : a ≤ x ∧ x < a + (bs.length + 1) := by omega
        have h4 : x - a = (x - (a + 1)) + 1 := by omega
        simp [h2, h3, h4]
      · have h3 : ¬(a ≤ x ∧ x < a + (bs.length + 1)) := by omega
        rw [if_neg h2, if_neg h1, List.length_cons, if_neg h3]

/-- A read after cells were cleared. -/
theorem Memory.read_clear {m : List Host.Cell} (lo hi x : Nat) (h : Memory.wf m = true) :
    Memory.read (Memory.clear m lo hi) x = if lo ≤ x ∧ x < hi then Memory.absent else Memory.read m x := by
  have key : ∀ (l : Option Nat) (m : List Host.Cell), Memory.wfFrom l m = true →
      Memory.read (Memory.clear m lo hi) x = if lo ≤ x ∧ x < hi then Memory.absent else Memory.read m x := by
    intro l m
    induction m generalizing l with
    | nil => intro _; simp [Memory.clear, Memory.read]
    | cons c r ih =>
      obtain ⟨k, c⟩ := c
      intro hw
      have h' := Memory.wfFrom_cons.1 hw
      have ihr := ih _ h'.2.2
      unfold Memory.clear at ihr ⊢
      rw [List.filter_cons]
      split
      · next hk =>
        simp only [Bool.or_eq_true, decide_eq_true_eq] at hk
        by_cases hxk : x < k
        · simp [Memory.read, hxk]
        · by_cases hxe : x = k
          · subst hxe
            have : ¬(lo ≤ x ∧ x < hi) := by omega
            simp [Memory.read, this]
          · simp [Memory.read, hxk, hxe, ihr]
      · next hk =>
        simp only [Bool.or_eq_true, decide_eq_true_eq, not_or, not_lt, not_le] at hk
        rw [ihr]
        by_cases hx : lo ≤ x ∧ x < hi
        · simp [hx]
        · have hxe : x ≠ k := by omega
          by_cases hxk : x < k
          · simp [Memory.read, hx, hxk, Memory.read_above h'.2.2 (le_of_lt hxk)]
          · simp [Memory.read, hx, hxk, hxe]
  exact key none m h

theorem Memory.length_readN (m : List Host.Cell) (a n : Nat) : (Memory.readN m a n).length = n := by
  induction n generalizing a with
  | zero => rfl
  | succ n ih => simp [Memory.readN, ih]

/-- Equal contents are equal data. -/
theorem Memory.ext_of_read {m n : List Host.Cell} (hm : Memory.wf m = true) (hn : Memory.wf n = true)
    (h : ∀ a, Memory.read m a = Memory.read n a) : m = n := by
  have key : ∀ (m n : List Host.Cell) (l l' : Option Nat), Memory.wfFrom l m = true → Memory.wfFrom l' n = true →
      (∀ a, Memory.read m a = Memory.read n a) → m = n := by
    intro m
    induction m with
    | nil =>
      intro n l l' _ hn h
      cases n with
      | nil => rfl
      | cons c r =>
        obtain ⟨k, b⟩ := c
        have := h k
        simp [Memory.read] at this
        exact absurd this.symm (Memory.wfFrom_cons.1 hn).2.1
    | cons c r ih =>
      obtain ⟨k, b⟩ := c
      intro n l l' hm hn h
      have hm' := Memory.wfFrom_cons.1 hm
      cases n with
      | nil =>
        have := h k
        simp [Memory.read] at this
        exact absurd this hm'.2.1
      | cons c' r' =>
        obtain ⟨k', b'⟩ := c'
        have hn' := Memory.wfFrom_cons.1 hn
        have hk : k = k' := by
          rcases lt_trichotomy k k' with hlt | he | hlt
          · have := h k
            simp [Memory.read, hlt] at this
            exact absurd this hm'.2.1
          · exact he
          · have := h k'
            simp [Memory.read, hlt] at this
            exact absurd this.symm hn'.2.1
        subst hk
        have hb : b = b' := by simpa [Memory.read] using h k
        subst hb
        congr 1
        refine ih r' _ _ hm'.2.2 hn'.2.2 (fun a => ?_)
        by_cases hak : a ≤ k
        · rw [Memory.read_above hm'.2.2 hak, Memory.read_above hn'.2.2 hak]
        · have h1 : ¬a < k := by omega
          have h2 : a ≠ k := by omega
          simpa [Memory.read, h1, h2] using h a
  exact key m n none none hm hn h

end Sys2Proof.Machine
end

