-- ==== Sys2Proof/Laws/Keeps.lean ====
section
/-! SUPPORT. What the shared operations never touch: the part, memory's canonical form, the identity counter, the boot state and MEAS0. -/

namespace Sys2Proof.Machine

/-- `t` keeps what only power, boot and the certificate events of R385 to R387 change, and memory stays canonical. -/
structure Keeps (s t : State) : Prop where
  part : t.part = s.part
  mem : Memory.wf s.mem = true → Memory.wf t.mem = true
  idcount : t.idcount = s.idcount
  boot : t.boot = s.boot
  meas : t.meas[0] = s.meas[0]

theorem Keeps.rfl' (s : State) : Keeps s s := ⟨rfl, id, rfl, rfl, rfl⟩

theorem Keeps.trans {s t u : State} (h : Keeps s t) (k : Keeps t u) : Keeps s u :=
  ⟨k.part.trans h.part, fun w => k.mem (h.mem w), k.idcount.trans h.idcount, k.boot.trans h.boot, k.meas.trans h.meas⟩

/-- An operation that leaves the five fields as they are. -/
theorem Keeps.of_eq {s t : State} (h1 : t.part = s.part) (h2 : t.mem = s.mem) (h3 : t.idcount = s.idcount) (h4 : t.boot = s.boot)
    (h5 : t.meas = s.meas) : Keeps s t := ⟨h1, fun w => by rw [h2]; exact w, h3, h4, by rw [h5]⟩

/-- An update of other fields, after an operation that keeps. -/
theorem Keeps.post {s t u : State} (h : Keeps s t) (h1 : u.part = t.part) (h2 : u.mem = t.mem) (h3 : u.idcount = t.idcount)
    (h4 : u.boot = t.boot) (h5 : u.meas = t.meas) : Keeps s u := h.trans (.of_eq h1 h2 h3 h4 h5)

/-- An update of other fields, before an operation that keeps. -/
theorem Keeps.pre {s t u : State} (h : Keeps t u) (h1 : t.part = s.part) (h2 : t.mem = s.mem) (h3 : t.idcount = s.idcount)
    (h4 : t.boot = s.boot) (h5 : t.meas = s.meas) : Keeps s u := (Keeps.of_eq h1 h2 h3 h4 h5).trans h

/-- A fold of operations that each keep. -/
theorem Keeps.foldl {α : Type} (f : State → α → State) (h : ∀ s a, Keeps s (f s a)) (s : State) (l : List α) : Keeps s (l.foldl f s) := by
  induction l generalizing s with
  | nil => exact Keeps.rfl' s
  | cons a l ih => exact (h s a).trans (ih _)

/-! ### Registers, harts, turns and traps -/

theorem keeps_sc (s : State) (f : Scalar → Scalar) : Keeps s (s.sc f) := .of_eq rfl rfl rfl rfl rfl
theorem keeps_ep (s : State) (f : Exec → Exec) : Keeps s (s.ep f) := .of_eq rfl rfl rfl rfl rfl
theorem keeps_xw (s : State) (r : Reg) (w : Word) : Keeps s (s.xw r w) := keeps_sc _ _
theorem keeps_mapHarts (s : State) (f : Hart → Hart) : Keeps s (s.mapHarts f) := .of_eq rfl rfl rfl rfl rfl
theorem keeps_updHart (s : State) (loc : Nat) (f : Hart → Hart) : Keeps s (s.updHart loc f) := keeps_mapHarts _ _
theorem keeps_updCtx (s : State) (asid : Nat) (f : Context → Context) : Keeps s (s.updCtx asid f) := .of_eq rfl rfl rfl rfl rfl
theorem keeps_progress (s : State) (asid : Nat) : Keeps s (s.progress asid) := keeps_updCtx _ _ _
theorem keeps_updFarm (s : State) (asid handle : Nat) (g : Farm → Farm) : Keeps s (s.updFarm asid handle g) := .of_eq rfl rfl rfl rfl rfl
theorem keeps_setBindings (s : State) (bs : List Binding) : Keeps s (s.ep (fun e => { e with bindings := bs })) := keeps_ep _ _
theorem keeps_retireTo (s : State) (pc : Word) : Keeps s (s.retireTo pc) := .of_eq rfl rfl rfl rfl rfl
theorem keeps_retire (s : State) : Keeps s s.retire := keeps_retireTo _ _

theorem keeps_updDie (s : State) (k : Nat) (f : Die → Die) : Keeps s (s.updDie k f) := by
  unfold State.updDie
  split
  · exact .of_eq rfl rfl rfl rfl rfl
  · exact .rfl' s

theorem keeps_count (s : State) (die i n : Nat) : Keeps s (s.count die i n) := keeps_updDie _ _ _

theorem keeps_note (s : State) : Keeps s s.note := by
  unfold State.note
  split
  · exact .rfl' s
  · exact keeps_progress _ _

theorem keeps_choose (s : State) (n : Nat) : Keeps s (s.choose n).2 := by
  unfold State.choose
  split
  · exact .rfl' s
  · exact .of_eq rfl rfl rfl rfl rfl

theorem keeps_passTurn (s : State) : Keeps s s.passTurn := by
  unfold State.passTurn
  split
  · exact .rfl' s
  · exact .of_eq rfl rfl rfl rfl rfl

theorem keeps_giveTurn (s : State) (who : Nat) : Keeps s (s.giveTurn who) := by
  unfold State.giveTurn
  split
  · exact .rfl' s
  · exact .of_eq rfl rfl rfl rfl rfl

theorem keeps_deliver (s : State) (t : Trap) : Keeps s (s.deliver t) := by
  unfold State.deliver
  dsimp only
  split
  · exact .of_eq rfl rfl rfl rfl rfl
  · split <;> exact .of_eq rfl rfl rfl rfl rfl

theorem keeps_trap (s : State) (t : Trap) : Keeps s (s.trap t) := by
  unfold State.trap
  split
  · exact keeps_deliver _ _
  · exact .of_eq rfl rfl rfl rfl rfl

/-! ### Writes at home -/

theorem keeps_writeN (s : State) (a : Nat) (bs : List Byte) : Keeps s { s with mem := Memory.writeN s.mem a bs } :=
  ⟨rfl, fun h => Memory.wf_writeN _ _ h, rfl, rfl, rfl⟩

theorem keeps_write (s : State) (a : Nat) (b : Byte) : Keeps s { s with mem := Memory.write s.mem a b } :=
  ⟨rfl, fun h => Memory.wf_write _ _ h, rfl, rfl, rfl⟩

theorem keeps_writeMasked (s : State) (a mask i : Nat) (bs : List Byte) : Keeps s { s with mem := Memory.writeMasked s.mem a mask i bs } :=
  ⟨rfl, fun h => Memory.wf_writeMasked _ _ _ _ h, rfl, rfl, rfl⟩

theorem keeps_clear (s : State) (lo hi : Nat) : Keeps s { s with mem := Memory.clear s.mem lo hi } :=
  ⟨rfl, fun h => Memory.wf_clear _ _ h, rfl, rfl, rfl⟩

theorem keeps_fire (s : State) (line : Nat) : Keeps s (s.fire line) := keeps_mapHarts _ _

theorem keeps_homeStore (s : State) (pa : Nat) (bs : List Byte) : Keeps s (s.homeStore pa bs) := by
  unfold State.homeStore
  dsimp only
  split
  · exact keeps_writeN _ _ _
  · exact (keeps_writeN _ _ _).trans (.foldl _ keeps_fire _ _)

theorem keeps_homeStoreNat (s : State) (pa n v : Nat) : Keeps s (s.homeStoreNat pa n v) := keeps_homeStore _ _ _

theorem keeps_revive (s : State) (pa : Nat) : Keeps s (s.revive pa) := by
  unfold State.revive
  dsimp only
  split
  · exact .rfl' s
  · refine Keeps.trans ?_ (keeps_homeStoreNat _ _ _ _)
    exact ⟨rfl, fun h => Memory.wf_clear _ _ h, rfl, rfl, rfl⟩

theorem keeps_poke (s : State) (pa n v : Nat) : Keeps s (s.poke pa n v) := (keeps_revive _ _).trans (keeps_writeN _ _ _)

theorem keeps_noteMsc (s : State) (pa : Nat) (who : List Nat) : Keeps s (s.noteMsc pa who) := by
  unfold State.noteMsc
  split
  · split <;> exact .of_eq rfl rfl rfl rfl rfl
  · exact .rfl' s

theorem keeps_merge (s : State) (line : Nat) (data : BitVec 512) (mask : BitVec 64) (who : List Nat) : Keeps s (s.merge line data mask who) := by
  unfold State.merge
  split
  · exact .rfl' s
  · exact ((keeps_revive s (line * 64)).trans (keeps_noteMsc _ (line * 64) who)).trans
      ((keeps_writeMasked _ (line * 64) mask.toNat 0 (lineBytes data)).trans (keeps_fire _ _))

theorem keeps_mergeBytes (s : State) (pa : Nat) (bs : List Byte) (who : Nat) : Keeps s (s.mergeBytes pa bs who) := by
  induction bs generalizing s pa with
  | nil => exact .rfl' s
  | cons b bs ih =>
    unfold State.mergeBytes
    refine Keeps.trans ?_ (ih _ _)
    split
    · exact .rfl' s
    · exact ((keeps_revive s pa).trans (keeps_noteMsc _ pa [who])).trans ((keeps_write _ pa b).trans (keeps_fire _ _))

theorem keeps_ringAppend (s : State) (desc n : Nat) (baseOk : Nat → Bool) (place : Nat → Option Nat) (e : List Byte) :
    Keeps s (s.ringAppend desc n baseOk place e) := by
  unfold State.ringAppend
  dsimp only
  split
  · exact .rfl' s
  · split
    · exact (keeps_revive _ _).trans (keeps_homeStoreNat _ _ _ _)
    · split
      · exact .rfl' s
      · exact (((keeps_revive _ _).trans (keeps_homeStore _ _ _)).trans (keeps_revive _ _)).trans (keeps_homeStoreNat _ _ _ _)

/-! ### Translation -/

theorem keeps_dirtyAppend (s : State) (c : Context) (va : Nat) (big : Bool) : Keeps s (s.dirtyAppend c va big) := by
  unfold State.dirtyAppend
  split
  · exact .rfl' s
  · exact keeps_ringAppend _ _ _ _ _ _

theorem keeps_markPte (s : State) (c : Context) (va pteAddr e : Nat) (big : Bool) (k : Kind) : Keeps s (s.markPte c va pteAddr e big k).1 := by
  unfold State.markPte
  dsimp only
  generalize (if k.writes = true then Pte.setBit e 7 else e) = e0
  split
  · exact Keeps.rfl' s
  · have h : Keeps s (if (k.writes && !Pte.d e) = true then s.dirtyAppend c va big else s) := by
      split
      · exact keeps_dirtyAppend _ _ _ _
      · exact .rfl' s
    dsimp only
    exact h.trans (keeps_homeStoreNat _ _ _ _)

theorem keeps_noteDsc (s : State) (pteAddr e : Nat) : Keeps s (s.noteDsc pteAddr e) := by
  unfold State.noteDsc
  dsimp only
  split
  · split
    · exact .rfl' s
    · exact .of_eq rfl rfl rfl rfl rfl
  · split
    · exact .of_eq rfl rfl rfl rfl rfl
    · exact .rfl' s

theorem keeps_noteBig (s : State) (asid va : Nat) (big : Bool) : Keeps s (s.noteBig asid va big) := by
  unfold State.noteBig
  split
  · exact .of_eq rfl rfl rfl rfl rfl
  · exact .rfl' s

theorem keeps_finish {s t : State} {c : Context} {core unit va pteAddr e : Nat} {big : Bool} {k : Kind} {pa pte : Nat}
    (h : s.finish c core unit va pteAddr e big k = .ok t pa pte) : Keeps s t := by
  unfold State.finish at h
  dsimp only at h
  split at h
  · cases h
  · split at h
    · cases h
    · split at h
      · cases h
      · cases h
        exact (((keeps_noteBig _ _ _ _).trans (keeps_noteDsc _ _ _)).trans (keeps_markPte _ _ _ _ _ _ _)).trans (.of_eq rfl rfl rfl rfl rfl)

/-- A translation that succeeds may mark its entry, record the page and hold the entry in a TLB, and does nothing else to what is kept. -/
theorem keeps_xlate {s t : State} {c : Context} {core unit va : Nat} {k : Kind} {hart : Bool} {pa pte : Nat}
    (h : s.xlate c core unit va k hart = .ok t pa pte) : Keeps s t := by
  have viaWalk : (match walk s c.ptroot c.features va k hart with
      | .fault cause dev => Xlat.fault cause dev
      | .replay => .replay
      | .found pteAddr e big => s.finish c core unit va pteAddr e big k) = .ok t pa pte → Keeps s t := by
    intro h
    split at h
    · cases h
    · cases h
    · exact keeps_finish h
  unfold State.xlate at h
  dsimp only at h
  split at h
  · exact viaWalk h
  · split at h
    · exact viaWalk h
    · split at h
      · split at h
        · cases h
        · exact viaWalk h
      · exact keeps_finish h

theorem keeps_page {s t : State} {unit va : Nat} {k : Kind} {f : Nat → Bool → Trap} {pa pte : Nat} (h : s.page unit va k f = .ok t pa pte) : Keeps s t := by
  unfold State.page at h
  split at h
  · next hx => cases h; exact keeps_xlate hx
  · cases h
  · cases h
  · cases h

theorem keeps_stall (s : State) (r : CollapseReq) : Keeps s (s.stall r) := by
  unfold State.stall
  split
  · exact .rfl' s
  · exact .of_eq rfl rfl rfl rfl rfl

theorem keeps_locateVia {s t : State} {unit va n : Nat} {k : Kind} {width pa pte : Nat} (h : s.locateVia unit va n k width = .ok t pa pte) :
    Keeps s t := by
  unfold State.locateVia State.physical at h
  dsimp only at h
  repeat' split at h
  all_goals first
    | cases h; exact .rfl' s
    | cases h
    | exact keeps_page h

theorem keeps_locateVia_wait {s t : State} {unit va n : Nat} {k : Kind} {width : Nat} (h : s.locateVia unit va n k width = .wait t) : Keeps s t := by
  unfold State.locateVia State.physical State.page at h
  dsimp only at h
  repeat' split at h
  all_goals first
    | cases h; exact .rfl' s
    | cases h; exact keeps_stall _ _
    | cases h

/-- What locating an access can do. -/
theorem keeps_locate {s t : State} {va n : Nat} {k : Kind} {width pa pte : Nat} (h : s.locate va n k width = .ok t pa pte) : Keeps s t :=
  keeps_locateVia h

theorem keeps_locate_wait {s t : State} {va n : Nat} {k : Kind} {width : Nat} (h : s.locate va n k width = .wait t) : Keeps s t :=
  keeps_locateVia_wait h

theorem keeps_object {s t : State} {c : Context} {core va cause pa : Nat} (h : s.object c core va cause = .ok t pa) : Keeps s t := by
  unfold State.object at h
  repeat' split at h
  all_goals first
    | (next hx _ => cases h; exact keeps_xlate hx)
    | cases h

theorem keeps_object_wait {s t : State} {c : Context} {core va cause : Nat} (h : s.object c core va cause = .wait t) : Keeps s t := by
  unfold State.object at h
  repeat' split at h
  all_goals first
    | cases h; exact .rfl' s
    | cases h; exact keeps_stall _ _
    | cases h

theorem keeps_object_fault {s t : State} {c : Context} {core va cause k : Nat} {dev : Bool} (h : s.object c core va cause = .fault t k dev) :
    Keeps s t := by
  unfold State.object at h
  repeat' split at h
  all_goals first
    | cases h; exact .rfl' s
    | (next hx _ => cases h; exact keeps_xlate hx)
    | cases h

/-! ### Caches -/

theorem keeps_patchVdc (s : State) (core line : Nat) (data : BitVec 512) (mask : BitVec 64) : Keeps s (s.patchVdc core line data mask) :=
  .of_eq rfl rfl rfl rfl rfl

theorem keeps_wbLine (s : State) (core who : Nat) (l : SLine) : Keeps s (s.wbLine core who l) := by
  unfold State.wbLine
  split
  · exact .rfl' s
  · exact (keeps_patchVdc _ _ _ _ _).trans (keeps_merge _ _ _ _ _)

theorem keeps_flushScalar (s : State) (h : Hart) (p : SLine → Bool) (drop : Bool) : Keeps s (s.flushScalar h p drop) := by
  unfold State.flushScalar
  exact (Keeps.foldl _ (fun s l => keeps_wbLine s _ _ l) _ _).trans (keeps_updHart _ _ _)

theorem keeps_wbVline (s : State) (l : VLine) : Keeps s (s.wbVline l) := keeps_merge _ _ _ _ _

theorem keeps_flushVdc (s : State) (p : VLine → Bool) (drop : Bool) : Keeps s (s.flushVdc p drop) := by
  unfold State.flushVdc
  exact (Keeps.foldl _ keeps_wbVline _ _).trans (.of_eq rfl rfl rfl rfl rfl)

theorem keeps_fitSlice (s : State) (core j n : Nat) : Keeps s (s.fitSlice core j n) := by
  unfold State.fitSlice
  dsimp only
  split
  · exact .rfl' s
  · exact keeps_flushVdc _ _ _

theorem keeps_fillVdc (s : State) (core line va asid : Nat) (swm : Bool) : Keeps s (s.fillVdc core line va asid swm) := by
  unfold State.fillVdc
  dsimp only
  split
  · exact .of_eq rfl rfl rfl rfl rfl
  · exact (keeps_fitSlice _ _ _ _).trans (.of_eq rfl rfl rfl rfl rfl)

theorem keeps_writeVdc (s : State) (core line slot : Nat) (scalar : Bool) (data : BitVec 512) (mask : BitVec 64) :
    Keeps s (s.writeVdc core line slot scalar data mask) := .of_eq rfl rfl rfl rfl rfl

theorem keeps_seeVdc (s : State) (core line slot : Nat) (scalar : Bool) (mask : BitVec 64) : Keeps s (s.seeVdc core line slot scalar mask) :=
  .of_eq rfl rfl rfl rfl rfl

theorem keeps_pushLine (s : State) (h : Hart) (l : SLine) : Keeps s (s.pushLine h l) := by
  unfold State.pushLine
  split
  · exact .rfl' s
  · exact (Keeps.foldl _ (fun s (t : Tag) => keeps_fillVdc s _ _ t.2 t.1 _) _ _).trans (keeps_writeVdc _ _ _ _ _ _ _)

theorem keeps_pushScalar (s : State) (h : Hart) (p : SLine → Bool) : Keeps s (s.pushScalar h p) := by
  unfold State.pushScalar
  exact (Keeps.foldl _ (fun s l => keeps_pushLine s _ l) _ _).trans (keeps_updHart _ _ _)

theorem keeps_flushMsc (s : State) (p : MscLine → Bool) : Keeps s (s.flushMsc p) := .of_eq rfl rfl rfl rfl rfl

theorem keeps_release (s : State) (scope : Nat) : Keeps s (s.release scope) := by
  unfold State.release
  dsimp only
  split
  · exact .rfl' s
  · split
    · exact keeps_pushScalar _ _ _
    · have h := fun (p : SLine → Bool) (r : VLine → Bool) => (keeps_flushScalar s s.hart p false).trans (keeps_flushVdc _ r false)
      split
      · exact (h _ _).trans (keeps_flushMsc _ _)
      · exact h _ _

theorem keeps_carryVdc (s : State) : Keeps s s.carryVdc := by
  unfold State.carryVdc
  dsimp only
  split
  · exact .rfl' s
  · exact .of_eq rfl rfl rfl rfl rfl

theorem keeps_acquire (s : State) (scope : Nat) : Keeps s (s.acquire scope) := by
  unfold State.acquire
  dsimp only
  split
  · exact .rfl' s
  · split
    · exact (keeps_flushScalar _ _ _ _).trans (keeps_carryVdc _)
    · have h := fun (p : SLine → Bool) (r : VLine → Bool) => (keeps_flushScalar s s.hart p true).trans (keeps_flushVdc _ r true)
      split
      · exact (h _ _).trans (keeps_flushMsc _ _)
      · exact h _ _

theorem keeps_makeRoom (s : State) (line : Nat) : Keeps s (s.makeRoom line) := by
  unfold State.makeRoom
  dsimp only
  split
  · exact .rfl' s
  · split
    · exact keeps_choose _ _
    · exact (keeps_choose _ _).trans (keeps_flushScalar _ _ _ _)

theorem keeps_fillScalar (s : State) (line va asid : Nat) (swm : Bool) : Keeps s (s.fillScalar line va asid swm) := by
  unfold State.fillScalar
  dsimp only
  split
  · exact .of_eq rfl rfl rfl rfl rfl
  · exact (keeps_makeRoom _ _).trans (.of_eq rfl rfl rfl rfl rfl)

theorem keeps_refresh (s : State) (line : Nat) : Keeps s (s.refresh line) := by
  unfold State.refresh
  dsimp only
  split
  · exact .of_eq rfl rfl rfl rfl rfl
  · exact .of_eq rfl rfl rfl rfl rfl

theorem keeps_catchUp (s : State) : Keeps s s.catchUp := (Keeps.foldl _ keeps_refresh _ _).trans (.of_eq rfl rfl rfl rfl rfl)

theorem keeps_noteNewer (s : State) (line : Nat) : Keeps s (s.noteNewer line) := by
  unfold State.noteNewer
  split
  · exact .rfl' s
  · exact .of_eq rfl rfl rfl rfl rfl

theorem keeps_writeScalar (s : State) (line k n v : Nat) (dirty : Bool) : Keeps s (s.writeScalar line k n v dirty) := .of_eq rfl rfl rfl rfl rfl

theorem keeps_appendRange (s : State) (e : CollEntry) : Keeps s (s.appendRange e) := by
  unfold State.appendRange
  dsimp only
  split
  · exact .of_eq rfl rfl rfl rfl rfl
  · split
    · exact .of_eq rfl rfl rfl rfl rfl
    · split
      · exact .of_eq rfl rfl rfl rfl rfl
      · split
        · exact .of_eq rfl rfl rfl rfl rfl
        · have h := keeps_ringAppend { s with collector := s.collector.filter (· != e) }
          exact ⟨(h _ _ _ _ _).part, (h _ _ _ _ _).mem, (h _ _ _ _ _).idcount, (h _ _ _ _ _).boot, (h _ _ _ _ _).meas⟩

theorem keeps_appendRanges (s : State) (p : CollEntry → Bool) : Keeps s (s.appendRanges p) := .foldl _ keeps_appendRange _ _

theorem keeps_collect (s : State) (core asid va : Nat) : Keeps s (s.collect core asid va) := by
  unfold State.collect
  dsimp only
  split
  · exact .rfl' s
  · split
    · exact .rfl' s
    · split
      · exact .of_eq rfl rfl rfl rfl rfl
      · split
        · split
          · next e _ _ _ => exact (keeps_appendRange s e).post rfl rfl rfl rfl rfl
          · exact .of_eq rfl rfl rfl rfl rfl
        · exact .of_eq rfl rfl rfl rfl rfl

theorem keeps_dropLines (s : State) (asid : Nat) (p : Nat → Bool) : Keeps s (s.dropLines asid p) := by
  unfold State.dropLines
  dsimp only
  refine Keeps.post ((keeps_flushVdc s (fun l => reaches asid p l.tags) true).trans (.foldl
    (fun s h => if h.ctl then s else s.flushScalar h (fun l => reaches asid p l.tags) true) (fun s h => ?_) _ s.allHarts)) rfl rfl rfl rfl rfl
  split
  · exact .rfl' s
  · exact keeps_flushScalar _ _ _ _

theorem keeps_loseLines (s : State) (asid : Nat) (p : Nat → Bool) (killed : Bool) : Keeps s (s.loseLines asid p killed) := by
  unfold State.loseLines
  dsimp only
  split
  · exact (keeps_dropLines _ _ _).pre rfl rfl rfl rfl rfl
  · refine Keeps.trans (keeps_flushVdc s (fun l => reaches asid p l.tags && l.seen != 0) false) ?_
    exact (keeps_dropLines _ _ _).pre rfl rfl rfl rfl rfl

theorem keeps_dropTlb (s : State) (asid : Nat) (p : Nat → Bool) : Keeps s (s.dropTlb asid p) := .of_eq rfl rfl rfl rfl rfl

theorem keeps_fetchWord (s : State) (core va pa asid : Nat) : Keeps s (s.fetchWord core va pa asid).1 := by
  unfold State.fetchWord
  dsimp only
  split
  · exact .of_eq rfl rfl rfl rfl rfl
  · exact .of_eq rfl rfl rfl rfl rfl

/-! ### Pots and barriers -/

theorem keeps_potAdd (s : State) (pa n : Nat) : Keeps s (s.potAdd pa n).1 := by
  unfold State.potAdd
  dsimp only
  split
  · exact keeps_poke _ _ _ _
  · exact (keeps_poke _ _ _ _).trans (keeps_poke _ _ _ _)

theorem keeps_setRanges (s : State) (pa : Nat) (rs : List (Nat × Nat)) : Keeps s (s.setRanges pa rs) := by
  unfold State.setRanges
  dsimp only
  exact (keeps_poke _ _ _ _).pre rfl rfl rfl rfl rfl

theorem keeps_returnStack (s : State) (k : Stack) : Keeps s (s.returnStack k) := by
  unfold State.returnStack
  dsimp only
  split
  · exact (keeps_setRanges _ _ _).pre rfl rfl rfl rfl rfl
  · exact (keeps_potAdd _ _ _).pre rfl rfl rfl rfl rfl

theorem keeps_callIn (s : State) (pa : Nat) : Keeps s (s.callIn pa) := (Keeps.foldl _ keeps_returnStack _ _).trans (keeps_poke _ _ _ _)

theorem keeps_putStack (s : State) (k : Stack) : Keeps s (s.putStack k) := by
  unfold State.putStack
  dsimp only
  split
  · exact .of_eq rfl rfl rfl rfl rfl
  · split
    · split
      · next old _ _ =>
        have h := keeps_returnStack { s with potStacks := s.potStacks.filter (fun t => !(t.core == k.core && t.asid == k.asid && t.pa == k.pa)) } old
        exact ⟨h.part, h.mem, h.idcount, h.boot, h.meas⟩
      · exact .of_eq rfl rfl rfl rfl rfl
    · exact .of_eq rfl rfl rfl rfl rfl

theorem keeps_setHolder (s : State) (pa core : Nat) : Keeps s (s.setHolder pa core) := by
  unfold State.setHolder
  dsimp only
  split
  · exact .rfl' s
  · exact keeps_poke _ _ _ _

theorem keeps_takeLocal {s t : State} {core asid pa n : Nat} (h : s.takeLocal core asid pa n = some t) : Keeps s t := by
  unfold State.takeLocal at h
  split at h
  · split at h
    · cases h; exact keeps_putStack _ _
    · cases h
  · cases h

theorem keeps_takeHome (s : State) (core asid va pa n : Nat) (quick : Bool) : Keeps s (s.takeHome core asid va pa n quick).1 := by
  unfold State.takeHome
  dsimp only
  split
  · exact ((keeps_poke _ _ _ _).trans (keeps_setHolder _ _ _)).trans (keeps_putStack _ _)
  · split
    · exact .rfl' s
    · split
      · exact (keeps_callIn _ _).trans (keeps_poke _ _ _ _)
      · exact keeps_callIn _ _

theorem keeps_takeTop (s : State) (pa g : Nat) : Keeps s (s.takeTop pa g).1 := by
  unfold State.takeTop
  dsimp only
  split
  · exact .rfl' s
  · exact keeps_setRanges _ _ _

theorem keeps_stripLocal {s : State} {core asid pa : Nat} {r : State × Nat} (h : s.stripLocal core asid pa = some r) : Keeps s r.1 := by
  unfold State.stripLocal at h
  split at h
  · split at h
    · cases h; exact keeps_putStack _ _
    · cases h
  · cases h

theorem keeps_stripHome (s : State) (core asid va pa : Nat) : Keeps s (s.stripHome core asid va pa).1 := by
  have key : Keeps s (if s.potResid pa = 0 then (s.callIn pa).takeTop pa 1 else (s.setHolder pa core).takeTop pa (max 1 (s.potResid pa / 8))).1 := by
    split
    · exact (keeps_callIn _ _).trans (keeps_takeTop _ _ _)
    · exact (keeps_setHolder _ _ _).trans (keeps_takeTop _ _ _)
  unfold State.stripHome
  dsimp only
  split
  · next h => rw [h] at key; exact key
  · next h =>
    rw [h] at key
    split
    · exact key
    · exact Keeps.trans key (keeps_putStack _ _)

theorem keeps_giveLocal (s : State) (core asid va pa n : Nat) : Keeps s (s.giveLocal core asid va pa n) := by
  unfold State.giveLocal
  split
  · split
    · exact ((keeps_returnStack _ _).trans (keeps_setHolder _ _ _)).trans (keeps_putStack _ _)
    · exact keeps_putStack _ _
  · exact keeps_putStack _ _

theorem keeps_markPot (s : State) (m : PotMap) : Keeps s (s.markPot m) := .of_eq rfl rfl rfl rfl rfl

theorem keeps_writePot (s : State) (pa resid policy scope kind : Nat) : Keeps s (s.writePot pa resid policy scope kind) := by
  unfold State.writePot
  dsimp only
  generalize hu : s.revive pa = u
  have h : Keeps s u := hu ▸ keeps_revive s pa
  generalize (leBytes 8 resid ++ leBytes 8 0 ++ leBytes 1 policy ++ leBytes 1 scope ++ leBytes 1 kind ++ leBytes 45 0) = bs
  exact h.trans ⟨rfl, fun h => Memory.wf_writeN _ _ h, rfl, rfl, rfl⟩

theorem keeps_potInit (s : State) (pa n policy scope : Nat) : Keeps s (s.potInit pa n policy scope) := by
  unfold State.potInit
  dsimp only
  exact (keeps_callIn s pa).trans ((keeps_writePot _ _ _ _ _ _).pre rfl rfl rfl rfl rfl)

theorem keeps_farmPotInit (s : State) (m : PotMap) (strips : Nat) : Keeps s (s.farmPotInit m strips) := by
  unfold State.farmPotInit
  dsimp only
  refine Keeps.trans (Keeps.trans ?_ (keeps_setRanges _ _ _)) (keeps_markPot _ _)
  exact (keeps_writePot _ _ _ _ _ _).pre rfl rfl rfl rfl rfl

/-- What the home's service of a pot request keeps. -/
theorem keeps_potServe (s : State) (q : PotReq) : Keeps s (s.potServe q).1 := by
  unfold State.potServe
  dsimp only
  split
  · exact .rfl' s
  split <;> try dsimp only
  · exact keeps_takeHome _ _ _ _ _ _ _
  · exact keeps_takeHome _ _ _ _ _ _ _
  · split
    · exact (keeps_setHolder _ _ _).trans (keeps_giveLocal _ _ _ _ _ _)
    · exact keeps_potAdd _ _ _
  · exact ((keeps_release s (s.potScope q.pa)).trans (keeps_callIn _ q.pa)).trans (keeps_acquire _ (s.potScope q.pa))
  · exact .rfl' s
  · split
    · exact keeps_potInit s q.pa q.n _ _
    · exact (keeps_potInit s q.pa q.n _ _).trans (keeps_markPot _ _)
  · exact keeps_stripHome s _ _ q.va q.pa

theorem keeps_potAnswer (s : State) (q : PotReq) : Keeps s (s.potAnswer q) := by
  unfold State.potAnswer
  split
  · exact keeps_trap _ _
  dsimp only
  refine Keeps.trans ?_ ((keeps_note _).trans (keeps_retire _))
  split
  · exact keeps_potServe _ _
  · exact (keeps_potServe _ _).trans (keeps_xw _ _ _)

theorem keeps_potQuick {s : State} {op : PotOp} {core asid va pa n : Nat} {r : State × Word} (h : s.potQuick op core asid va pa n = some r) :
    Keeps s r.1 := by
  have take : ∀ {r : State × Word}, (if s.potKind pa = 1 then some (s, (0 : Word)) else if n = 0 then some (s, 1)
      else (s.takeLocal core asid pa n).map (fun s => (s, 1))) = some r → Keeps s r.1 := by
    intro r h
    split at h
    · cases h; exact .rfl' s
    · split at h
      · cases h; exact .rfl' s
      · obtain ⟨t, ht, rfl⟩ := Option.map_eq_some_iff.1 h
        exact keeps_takeLocal ht
  cases op with
  | take => exact take h
  | takeq => exact take h
  | give =>
    simp only [State.potQuick] at h
    split at h
    · cases h; exact .rfl' s
    · split at h
      · cases h; exact keeps_giveLocal _ _ _ _ _ _
      · cases h
  | strip =>
    obtain ⟨t, ht, rfl⟩ := Option.map_eq_some_iff.1 h
    exact keeps_stripLocal ht
  | readx => cases h
  | read => cases h
  | init _ _ => cases h

/-- A pot request: answered at once, or the hart waits at the pot's home. -/
theorem keeps_potRequest (s : State) (q : PotReq) : Keeps s (s.potRequest q) := by
  unfold State.potRequest
  split
  · next h => exact (keeps_potQuick h).trans (((keeps_xw _ _ _).trans (keeps_note _)).trans (keeps_retire _))
  · split
    · exact keeps_potAnswer _ _
    · exact .of_eq rfl rfl rfl rfl rfl

theorem keeps_barSet (s : State) (pa arrived pending : Nat) : Keeps s (s.barSet pa arrived pending) := by
  unfold State.barSet
  dsimp only
  split <;> exact (keeps_revive _ _).trans (keeps_homeStore _ _ _)

theorem keeps_barNorm (s : State) (pa : Nat) : Keeps s (s.barNorm pa) := by
  unfold State.barNorm
  split
  · exact keeps_barSet _ _ _ _
  · exact .rfl' s

theorem keeps_barArrive {s t : State} {pa : Nat} (h : s.barArrive pa = some t) : Keeps s t := by
  unfold State.barArrive at h
  split at h
  · cases h; exact keeps_barSet _ _ _ _
  · cases h

/-! ### Farms and scratchpads -/

theorem keeps_queueFarm {s t : State} {c : Context} {f : Farm} {w : Word} (h : s.queueFarm c f = .result t w) : Keeps s t := by
  unfold State.queueFarm at h
  dsimp only at h
  split at h
  · cases h; exact .rfl' s
  · cases h
    have h : Keeps s (if f.pot = 0 then s else s.farmPotInit ⟨c.asid, f.pot, f.potPa⟩ f.strips) := by
      split
      · exact .rfl' s
      · exact keeps_farmPotInit _ _ _
    exact h.post rfl rfl rfl rfl rfl

theorem keeps_launch {s t : State} {c : Context} {core : Nat} {d : List Byte} {w : Word} (h : s.launch c core d = .result t w) : Keeps s t := by
  unfold State.launch at h
  dsimp only at h
  split at h
  · cases h; exact .rfl' s
  · split at h
    · exact keeps_queueFarm h
    · split at h
      · cases h
      · next ho => cases h; exact keeps_object_fault ho
      · next ho =>
        split at h
        · cases h; exact keeps_object ho
        · exact (keeps_object ho).trans (keeps_queueFarm h)

theorem keeps_launch_wait {s t : State} {c : Context} {core : Nat} {d : List Byte} (h : s.launch c core d = .wait t) : Keeps s t := by
  unfold State.launch State.queueFarm at h
  dsimp only at h
  repeat' split at h
  all_goals first
    | (next ho => cases h; exact keeps_object_wait ho)
    | cases h

theorem keeps_cleanPad (s : State) (core : Nat) : Keeps s (s.cleanPad core) := by
  unfold State.cleanPad
  split
  · exact ⟨rfl, fun h => Memory.wf_clear _ _ h, rfl, rfl, rfl⟩
  · exact .rfl' s

theorem keeps_holdPad (s : State) (core asid : Nat) : Keeps s (s.holdPad core asid) := by
  unfold State.holdPad
  split
  · exact .rfl' s
  · split
    · exact .rfl' s
    · exact ⟨rfl, fun h => Memory.wf_writeN _ _ h, rfl, rfl, rfl⟩

theorem keeps_endHolds (s : State) (asid : Nat) : Keeps s (s.endHolds asid) := by
  unfold State.endHolds
  dsimp only
  split
  · exact .rfl' s
  · exact (Keeps.foldl _ keeps_cleanPad _ _).pre rfl rfl rfl rfl rfl

theorem keeps_setPrio (s : State) (asid handle p : Nat) : Keeps s (s.setPrio asid handle p) := (keeps_updFarm _ _ _ _).trans (keeps_mapHarts _ _)

theorem keeps_seatHart (s : State) (h : Hart) : Keeps s (s.seatHart h) := by
  unfold State.seatHart
  dsimp only
  have key := Keeps.foldl (fun (s : State) (g : Hart) => g.scache.foldl (fun s l => s.wbLine g.coreId g.loc l) s)
    (fun s g => Keeps.foldl (fun (s : State) l => s.wbLine g.coreId g.loc l) (fun s l => keeps_wbLine s _ _ l) s g.scache) s
    (s.allHarts.filter (fun g => g.loc == h.loc && g.status == .retired))
  split <;> exact key.post rfl rfl rfl rfl rfl

theorem keeps_admitHart (s : State) (f : Farm) (core : Nat) : Keeps s (s.admitHart f core) := by
  unfold State.admitHart
  dsimp only
  split
  · exact .rfl' s
  · refine Keeps.trans (Keeps.trans ?_ (keeps_updFarm _ _ _ _)) (keeps_setPrio _ _ _ _)
    exact (((keeps_cleanPad _ _).trans (keeps_holdPad _ _ _)).trans ((keeps_flushVdc _ _ _).trans (keeps_seatHart _ _))).post rfl rfl rfl rfl rfl

theorem keeps_completeFarm (s : State) (f : Farm) : Keeps s (s.completeFarm f) := by
  have fin : ∀ u : State, Keeps u (({ u with farms := u.farms.filter (fun g => !(g.asid == f.asid && g.handle == f.handle)) }).endHolds f.asid) :=
    fun u => (keeps_endHolds _ _).pre rfl rfl rfl rfl rfl
  unfold State.completeFarm
  dsimp only
  split
  · exact fin _
  · split
    · exact fin _
    · split
      · exact .of_eq rfl rfl rfl rfl rfl
      · split
        · next ho => exact keeps_object_wait ho
        · next ho => exact (keeps_object_fault ho).trans (.of_eq rfl rfl rfl rfl rfl)
        · next pa ho =>
          have ho := keeps_object ho
          split
          · split
            · exact ((ho.trans (keeps_potAdd _ _ _)).trans (keeps_progress _ _)).trans (fin _)
            · exact ho.trans (.of_eq rfl rfl rfl rfl rfl)
          · have ho := ho.trans (keeps_barNorm _ pa)
            split
            · next ha => exact ((ho.trans (keeps_barArrive ha)).trans (keeps_progress _ _)).trans (fin _)
            · revert ho
              generalize State.barNorm _ _ = u
              exact fun ho => ho.trans (.of_eq rfl rfl rfl rfl rfl)

theorem keeps_retryFarms (s : State) : Keeps s s.retryFarms := .foldl _ keeps_completeFarm _ _

/-! ### Device registers -/

theorem keeps_runLaunch (s : State) (k : Nat) : Keeps s (s.runLaunch k) := by
  unfold State.runLaunch
  dsimp only
  split
  · exact keeps_updDie _ _ _
  · split
    · exact keeps_updDie _ _ _
    · split
      · exact keeps_updDie _ _ _
      · exact .rfl' s
      · exact keeps_updDie _ _ _
      · next hx =>
        split
        · next hl => exact (keeps_xlate hx).trans (keeps_launch_wait hl)
        · next hl => exact ((keeps_xlate hx).trans (keeps_launch hl)).trans (keeps_updDie _ _ _)

theorem keeps_fdLaunch (s : State) (k : Nat) (v : Word) : Keeps s (s.fdLaunch k v) := by
  unfold State.fdLaunch
  dsimp only
  split
  · exact keeps_release _ _
  · exact ((keeps_release _ _).trans (keeps_updDie _ _ _)).trans (keeps_runLaunch _ _)

theorem keeps_retryDue (s : State) : Keeps s s.retryDue := by
  unfold State.retryDue
  refine (keeps_retryFarms s).trans (.foldl _ (fun u k => ?_) _ _)
  split
  · exact keeps_runLaunch _ _
  · exact .rfl' u

theorem keeps_migCmd (s : State) (k : Nat) (v : Word) : Keeps s (s.migCmd k v) := by
  unfold State.migCmd
  dsimp only
  split
  · exact .rfl' s
  · split <;> exact keeps_updDie _ _ _

theorem keeps_setSettle (s : State) (frame n : Nat) : Keeps s (s.setSettle frame n) := .of_eq rfl rfl rfl rfl rfl

theorem keeps_migComplete (s : State) (k : Nat) : Keeps s (s.migComplete k) := by
  unfold State.migComplete
  dsimp only
  generalize s.homeBytes (s.die k).migDesc 64 = d
  generalize s.homeBytes (fieldAt d 0 8) 65536 = page
  generalize hu : ({ s with mem := _, discarded := _, potLines := _, potMaps := _, ranges := _, potStacks := _, farms := _ } : State) = u
  have h0 : Keeps s u := by
    subst hu
    exact ⟨rfl, fun h => Memory.wf_writeN _ _ (Memory.wf_clear _ _ h), rfl, rfl, rfl⟩
  refine Keeps.trans (Keeps.trans (Keeps.trans ?_ (keeps_homeStoreNat _ _ _ _)) (keeps_updDie _ _ _)) (keeps_retryDue _)
  split
  · exact (h0.trans (keeps_setSettle u (fieldAt d 8 8) (u.settleOf (fieldAt d 0 8)))).post rfl rfl rfl rfl rfl
  · exact h0

theorem keeps_extAck (s : State) (k : Nat) (v : Word) : Keeps s (s.extAck k v) := by
  unfold State.extAck
  dsimp only
  split
  · exact .rfl' s
  · exact (keeps_flushMsc _ _).trans (keeps_updDie _ _ _)

/-- A measurement register other than MEAS0 is extended. -/
theorem keeps_extend (s : State) {n : Nat} (v : List Byte) (h0 : n ≠ 0) : Keeps s (s.extend n v) := by
  unfold State.extend
  split
  · exact ⟨rfl, id, rfl, rfl, by simp [h0]⟩
  · exact .rfl' s

theorem keeps_measSel (s : State) (v : Word) : Keeps s (s.measSel v) := by
  unfold State.measSel
  dsimp only
  split
  · exact .rfl' s
  · next h => exact keeps_extend _ _ h

theorem keeps_attReq (s : State) (v : Word) : Keeps s (s.attReq v) := by
  unfold State.attReq
  dsimp only
  split
  · exact .rfl' s
  · exact .of_eq rfl rfl rfl rfl rfl

theorem keeps_telCommit (s : State) (k : Nat) (v : Word) : Keeps s (s.telCommit k v) := by
  unfold State.telCommit
  split
  · exact keeps_updDie _ _ _
  · exact .rfl' s

theorem keeps_devPlain (s : State) (k off : Nat) (v : Word) : Keeps s (s.devPlain k off v) := by
  unfold State.devPlain
  repeat' split
  all_goals first
    | exact keeps_updDie _ _ _
    | exact .of_eq rfl rfl rfl rfl rfl

/-- What a write of the register block keeps: MEASSEL never extends MEAS0 (R386), and FEATURES is fuses (R371). -/
theorem keeps_devWrite (s : State) (k off : Nat) (v : Word) : Keeps s (s.devWrite k off v) := by
  unfold State.devWrite
  repeat' split
  · exact .rfl' s
  · exact keeps_fdLaunch _ _ _
  · exact keeps_measSel _ _
  · exact keeps_attReq _ _
  · exact keeps_telCommit _ _ _
  · exact keeps_migCmd _ _ _
  · exact keeps_extAck _ _ _
  · unfold State.revClr; exact keeps_updDie _ _ _
  · exact keeps_devPlain _ _ _ _

theorem keeps_queueAppend (s : State) (reg : Word) (slot : Nat) (r : List Byte) : Keeps s (s.queueAppend reg slot r) := by
  unfold State.queueAppend
  exact (keeps_homeStore _ _ _).trans (keeps_homeStoreNat _ _ _ _)

theorem keeps_appendFault (s : State) (f : FaultRec) (slot : Nat) : Keeps s (s.appendFault f slot) := by
  unfold State.appendFault
  exact (keeps_queueAppend _ _ _ _).trans (.of_eq rfl rfl rfl rfl rfl)

/-! ### Accesses -/

theorem keeps_readLoc (s : State) (va pa pte n : Nat) : Keeps s (s.readLoc va pa pte n).1 := by
  unfold State.readLoc
  dsimp only
  split
  · exact .rfl' s
  · split
    · exact .rfl' s
    · exact keeps_fillScalar _ _ _ _ _

theorem keeps_writeLoc (s : State) (va pa pte n v : Nat) : Keeps s (s.writeLoc va pa pte n v) := by
  unfold State.writeLoc
  dsimp only
  split
  · split
    · exact keeps_devWrite _ _ _ _
    · exact .rfl' s
  · split
    · exact keeps_homeStoreNat _ _ _ _
    · split
      · exact keeps_mergeBytes _ _ _ _
      · have h := (keeps_fillScalar s (pa / 64) va s.hart.asid (Pte.kind pte == 1)).trans (keeps_writeScalar _ (pa / 64) (pa % 64) n v true)
        split
        · exact h.trans (keeps_collect _ _ _ _)
        · exact h

theorem keeps_ownHome (s : State) (line : Nat) : Keeps s (s.ownHome line) := (keeps_flushScalar _ _ _ _).trans (keeps_flushVdc _ _ _)

theorem keeps_patchClean (s : State) (core line : Nat) (data : BitVec 512) (mask : BitVec 64) : Keeps s (s.patchClean core line data mask) :=
  .of_eq rfl rfl rfl rfl rfl

theorem keeps_evictOwn (s : State) (line : Nat) : Keeps s (s.evictOwn line) := keeps_flushVdc _ _ _

theorem keeps_patchOwn (s : State) (pa n : Nat) : Keeps s (s.patchOwn pa n) := (keeps_writeScalar _ _ _ _ _ _).trans (keeps_patchClean _ _ _ _ _)

theorem keeps_homeRead (s : State) (pa n : Nat) : Keeps s (s.homeRead pa n).1 := by
  unfold State.homeRead
  split
  · exact .rfl' s
  · dsimp only
    split
    · exact .rfl' s
    · exact keeps_evictOwn _ _

/-- What an indivisible update keeps. -/
theorem keeps_update (s : State) (pa n : Nat) (f : Nat → Nat) : Keeps s (s.update pa n f).1 := by
  unfold State.update
  dsimp only
  split
  · split
    · exact keeps_devWrite _ _ _ _
    · exact .rfl' s
  · split
    · exact (keeps_homeRead _ _ _).trans (keeps_homeStoreNat _ _ _ _)
    · exact ((keeps_homeRead _ _ _).trans (keeps_mergeBytes _ _ _ _)).trans (keeps_patchOwn _ _ _)

/-- What a scalar load keeps. -/
theorem keeps_load {s t : State} {va n width v : Nat} (h : s.load va n width = .ok t v) : Keeps s t := by
  unfold State.load at h
  split at h
  · cases h
  · cases h
  · next hl => cases h; exact (keeps_locate hl).trans (keeps_readLoc _ _ _ _ _)

theorem keeps_loadDesc {s t : State} {va : Nat} {d : List Byte} (h : s.loadDesc va = .ok t d) : Keeps s t := by
  unfold State.loadDesc at h
  split at h
  · cases h
  · cases h
  · next hl =>
    split at h
    · cases h; exact keeps_locate hl
    · cases h; exact (keeps_locate hl).trans (keeps_fillScalar _ _ _ _ _)

theorem keeps_loadDesc_wait {s t : State} {va : Nat} (h : s.loadDesc va = .wait t) : Keeps s t := by
  unfold State.loadDesc at h
  split at h
  · cases h
  · next hl => cases h; exact keeps_locate_wait hl
  · split at h <;> cases h

theorem keeps_vread (s : State) (va pa pte n : Nat) : Keeps s (s.vread va pa pte n).1 := by
  unfold State.vread
  split
  · exact .rfl' s
  · exact (keeps_fillVdc _ _ _ _ _ _).trans (keeps_seeVdc _ _ _ _ _ _)

theorem keeps_vwrite (s : State) (va pa pte n v : Nat) : Keeps s (s.vwrite va pa pte n v) := by
  unfold State.vwrite
  dsimp only
  split
  · exact keeps_homeStoreNat _ _ _ _
  · split
    · exact keeps_mergeBytes _ _ _ _
    · split
      · exact (((keeps_fillVdc _ _ _ _ _ _).trans (keeps_noteNewer _ _)).trans (keeps_writeVdc _ _ _ _ _ _ _)).trans (keeps_collect _ _ _ _)
      · exact ((keeps_fillVdc _ _ _ _ _ _).trans (keeps_noteNewer _ _)).trans (keeps_writeVdc _ _ _ _ _ _ _)

end Sys2Proof.Machine
end

