-- ==== Sys2Proof/Laws/Operations.lean ====
section
/-! SUPPORT. What each shared operation can do: every way it answers, with the condition of that way. Callers cite these instead of unfolding. -/

namespace Sys2Proof.Machine

/-! ### Bytes at home -/

/-- A field of bytes at home is the value there. -/
theorem State.fieldAt_homeBytes (s : State) (a n k m : Nat) (h : k + m ≤ n) : fieldAt (s.homeBytes a n) k m = s.homeNat (a + k) m := by
  unfold fieldAt State.homeNat
  congr 1
  refine List.ext_getElem ?_ fun i h1 h2 => ?_
  · simp [State.homeBytes, range]; omega
  · simp [State.homeBytes, range, Nat.add_assoc]

/-! ### Traps (R25, R328 to R335) -/

/-- Taking a trap always answers a next state: the trap is delivered, or the hart waits for its words. -/
theorem raise_cases {s u : State} {t : Trap} (h : raise s t = .next u) :
    (s.hart.ep.queue = [] ∧ u = s.deliver t)
    ∨ (s.hart.ep.queue ≠ [] ∧ u = { s with hart := { s.hart with status := .trapping t } }) := by
  unfold raise State.trap at h
  split at h <;> cases h
  · next hq => exact .inl ⟨by simpa using hq, rfl⟩
  · next hq => exact .inr ⟨by simpa using hq, rfl⟩

theorem raise_next (s : State) (t : Trap) : raise s t = .next (s.trap t) := rfl

/-- With no word at work in the execute half a trap is delivered at once. -/
theorem trap_of_empty {s : State} {t : Trap} (h : s.hart.ep.queue = []) : s.trap t = s.deliver t := by simp [State.trap, h]

/-- A control core's trap goes to CTVEC (R339), with no lend pending (R52, log 63). -/
theorem deliver_ctl {s : State} (t : Trap) (h : s.hart.ctl = true) :
    (s.deliver t).hart.sc.pc = s.hart.sc.ctvec ∧ (s.deliver t).hart.sc.tpc = s.hart.sc.pc ∧ (s.deliver t).hart.status = .running
    ∧ (s.deliver t).hart.sc.lend = s.hart.sc.lend &&& 0x7FFFFFFF#32 ∧ (s.deliver t).mem = s.mem ∧ (s.deliver t).faults = s.faults := by
  simp [State.deliver, State.sc, Scalar.trapCsrs, Scalar.enterOwn, h]

/-- A hart's trap that is not delegated parks it, and its record waits (R335, R338). -/
theorem deliver_parks {s : State} (t : Trap) (h : s.hart.ctl = false) (k : delegated s.hart t.cause = false) :
    (s.deliver t).hart.status = .parked ∧ (s.deliver t).hart.sc.tpc = s.hart.sc.pc ∧ (s.deliver t).hart.sc.pc = s.hart.sc.pc
    ∧ (s.deliver t).faults.length = s.faults.length + 1 ∧ (s.deliver t).mem = s.mem := by
  have k' : ¬delegated s.hart t.cause = true := by simp [k]
  unfold State.deliver
  dsimp only
  rw [if_neg (by simp [h])]
  split
  · next hd => exact absurd hd k'
  · simp [State.park, Scalar.trapCsrs]

/-- A delegated trap enters the hart's own handler (R331). -/
theorem deliver_delegated {s : State} (t : Trap) (h : s.hart.ctl = false) (k : delegated s.hart t.cause = true) :
    (s.deliver t).hart.sc.pc = s.hart.sc.uivec ∧ (s.deliver t).hart.sc.uiepc = s.hart.sc.pc ∧ (s.deliver t).hart.sc.uiActive = true
    ∧ (s.deliver t).hart.sc.lend = 0 ∧ (s.deliver t).hart.status = .running ∧ (s.deliver t).mem = s.mem := by
  unfold State.deliver
  dsimp only
  rw [if_neg (by simp [h])]
  split
  · simp [State.sc, Scalar.enterHandler, Scalar.swapShadow, Scalar.trapCsrs]
  · next hd => exact absurd k hd

/-! ### Locating an access (R26, R202, R327) -/

/-- Every way an access is located through a TLB, in the order of its checks. -/
theorem locateVia_cases (s : State) (unit va n : Nat) (k : Kind) (width : Nat) :
    (2 ^ 52 ≤ va ∧ s.locateVia unit va n k width = .trap { cause := 4, tval := va, access := accessByte k width false })
    ∨ (va < 2 ^ 52 ∧ va % n ≠ 0 ∧ s.locateVia unit va n k width = .trap { cause := 3, tval := va, access := accessByte k width false })
    ∨ (va < 2 ^ 52 ∧ va % n = 0 ∧ s.hart.ctl = true ∧ installed s va = true ∧ revokedAt s va = false
        ∧ s.locateVia unit va n k width = .ok s va 0)
    ∨ (va < 2 ^ 52 ∧ va % n = 0 ∧ s.hart.ctl = true ∧ installed s va = true ∧ revokedAt s va = true
        ∧ s.locateVia unit va n k width = .trap { cause := 0x15, tval := va, access := accessByte k width false })
    ∨ (va < 2 ^ 52 ∧ va % n = 0 ∧ s.hart.ctl = true ∧ installed s va = false
        ∧ s.locateVia unit va n k width = .trap { cause := 0x14, tval := va, access := accessByte k width false })
    ∨ (va < 2 ^ 52 ∧ va % n = 0 ∧ s.hart.ctl = false ∧ windowBase ≤ va
        ∧ s.locateVia unit va n k width = .ok s (padAddr s.hart.coreId (va - windowBase)) 0)
    ∨ (va < windowBase ∧ va % n = 0 ∧ s.hart.ctl = false
        ∧ s.locateVia unit va n k width = s.page unit va k (fun cause dev => { cause := cause, tval := va, access := accessByte k width dev })) := by
  unfold State.locateVia State.physical
  dsimp only
  by_cases h1 : 2 ^ 52 ≤ va
  · exact .inl ⟨h1, if_pos h1⟩
  · rw [if_neg h1]
    have h1' : va < 2 ^ 52 := by omega
    by_cases h2 : va % n = 0
    · rw [if_neg (by simpa using h2)]
      cases hc : s.hart.ctl
      · by_cases h3 : windowBase ≤ va
        · exact .inr (.inr (.inr (.inr (.inr (.inl ⟨h1', h2, rfl, h3, by simp [inWindow, h3]⟩)))))
        · exact .inr (.inr (.inr (.inr (.inr (.inr ⟨by omega, h2, rfl, by simp [inWindow, h3]⟩)))))
      · cases hi : installed s va
        · exact .inr (.inr (.inr (.inr (.inl ⟨h1', h2, rfl, rfl, by simp⟩))))
        · cases hr : revokedAt s va
          · exact .inr (.inr (.inl ⟨h1', h2, rfl, rfl, rfl, by simp⟩))
          · exact .inr (.inr (.inr (.inl ⟨h1', h2, rfl, rfl, rfl, by simp⟩)))
    · exact .inr (.inl ⟨h1', h2, if_pos h2⟩)

/-- A page of a hart that does not migrate or collapse: translated, or the page's fault. -/
theorem page_cases (s : State) (unit va : Nat) (k : Kind) (t : Nat → Bool → Trap) :
    (∃ s' pa pte, s.xlate s.ctx s.hart.coreId unit va k true = .ok s' pa pte ∧ s.page unit va k t = .ok s' pa pte)
    ∨ (∃ cause dev, s.xlate s.ctx s.hart.coreId unit va k true = .fault cause dev ∧ s.page unit va k t = .trap (t cause dev))
    ∨ (s.xlate s.ctx s.hart.coreId unit va k true = .replay ∧ s.page unit va k t = .wait s)
    ∨ (s.xlate s.ctx s.hart.coreId unit va k true = .collapse ∧ s.page unit va k t = .wait (s.stall ⟨s.hart.asid, va, s.hart.die⟩)) := by
  unfold State.page
  cases h : s.xlate s.ctx s.hart.coreId unit va k true with
  | ok s' pa pte => exact .inl ⟨s', pa, pte, rfl, rfl⟩
  | fault cause dev => exact .inr (.inl ⟨cause, dev, rfl, rfl⟩)
  | replay => exact .inr (.inr (.inl ⟨rfl, rfl⟩))
  | collapse => exact .inr (.inr (.inr ⟨rfl, rfl⟩))

/-! ### Scalar accesses (R115 to R119, R267) -/

/-- Every way a scalar load answers. -/
theorem loadWord_cases {ext : Nat → Word} {o : OpLd} {s u : State} (h : loadWord ext o s = .next u) :
    (∃ t, s.load (OpLd.address o s) (widthBytes o.width) o.width.val = .trap t ∧ u = s.trap t)
    ∨ (∃ s', s.load (OpLd.address o s) (widthBytes o.width) o.width.val = .wait s' ∧ u = { s' with hart := { s'.hart with waiting := false } })
    ∨ (∃ s' v, s.load (OpLd.address o s) (widthBytes o.width) o.width.val = .ok s' v
        ∧ u = ((s'.ordAcquire o.ord o.scope (OpLd.address o s)).xw o.d (ext v)).retire) := by
  unfold loadWord at h
  dsimp only at h
  split at h
  · next hl => cases h; exact .inl ⟨_, hl, rfl⟩
  · next hl => cases h; exact .inr (.inl ⟨_, hl, rfl⟩)
  · next hl => cases h; exact .inr (.inr ⟨_, _, hl, rfl⟩)

/-- Every way a store answers. -/
theorem execSt_cases {o : OpSt} {s u : State} (h : execSt o s = .next u) :
    (∃ t, s.locate (OpSt.address o s) (widthBytes o.width) .write o.width.val = .trap t ∧ u = s.trap t)
    ∨ (∃ s', s.locate (OpSt.address o s) (widthBytes o.width) .write o.width.val = .wait s' ∧ u = { s' with hart := { s'.hart with waiting := false } })
    ∨ (∃ s' pa pte, s.locate (OpSt.address o s) (widthBytes o.width) .write o.width.val = .ok s' pa pte
        ∧ u = ((s'.ordRelease o.ord o.scope (OpSt.address o s)).writeLoc (OpSt.address o s) pa pte (widthBytes o.width)
            (s'.xn o.s2 % 256 ^ widthBytes o.width)).retire) := by
  unfold execSt at h
  dsimp only at h
  split at h
  · next hl => cases h; exact .inl ⟨_, hl, rfl⟩
  · next hl => cases h; exact .inr (.inl ⟨_, hl, rfl⟩)
  · next hl => cases h; exact .inr (.inr ⟨_, _, _, hl, rfl⟩)

/-- An indivisible update at a located address always retires with the old value. -/
theorem updateAt_next (ord : Fin 4) (scope : Fin 8) (width : Fin 4) (va pa pte : Nat) (d : Reg) (f : Nat → Nat) (s : State) :
    ∃ r t, r = (s.ordRelease ord scope va).update pa (widthBytes width) f
      ∧ t = ((if Pte.kind pte == 1 then r.1.collect r.1.hart.coreId r.1.hart.asid va else r.1).ordAcquire ord scope va)
      ∧ updateAt ord scope width va pa pte d f s = .next ((t.xw d (sext (8 * widthBytes width) r.2)).retire) := ⟨_, _, rfl, rfl, rfl⟩

/-- Every way an AMO answers (R118). -/
theorem execAmo_cases {o : OpAmo} {s u : State} (h : execAmo o s = .next u) :
    (∃ t, s.locate (s.xn o.s1) (widthBytes o.width) .rmw o.width.val = .trap t ∧ u = s.trap t)
    ∨ (∃ s', s.locate (s.xn o.s1) (widthBytes o.width) .rmw o.width.val = .wait s' ∧ u = { s' with hart := { s'.hart with waiting := false } })
    ∨ (∃ s' pa pte, s.locate (s.xn o.s1) (widthBytes o.width) .rmw o.width.val = .ok s' pa pte
        ∧ updateAt o.ord o.scope o.width (s.xn o.s1) pa pte o.d
            (fun old => amoOp o.aop.val (widthBytes o.width) old (s'.xn o.s2 % 256 ^ widthBytes o.width)) s' = .next u) := by
  unfold execAmo at h
  dsimp only at h
  split at h
  · next hl => cases h; exact .inl ⟨_, hl, rfl⟩
  · next hl => cases h; exact .inr (.inl ⟨_, hl, rfl⟩)
  · next hl => exact .inr (.inr ⟨_, _, _, hl, h⟩)

/-- Every way a CAS whose page can be read answers (R119): it fails as a load, before its release part or after it, or updates. -/
theorem execCas_cases {o : OpCas} {s u : State} (h : execCas o s = .next u) :
    (∃ t, s.locate (s.xn o.s1) (widthBytes o.width) .read o.width.val = .trap t ∧ u = s.trap t)
    ∨ (∃ s', s.locate (s.xn o.s1) (widthBytes o.width) .read o.width.val = .wait s' ∧ u = { s' with hart := { s'.hart with waiting := false } })
    ∨ (∃ s' pa pte r, s.locate (s.xn o.s1) (widthBytes o.width) .read o.width.val = .ok s' pa pte ∧ r = s'.homeRead pa (widthBytes o.width)
        ∧ ((r.2 ≠ s.xn o.d % 256 ^ widthBytes o.width
              ∧ u = ((r.1.ordAcquire o.ord o.scope (s.xn o.s1)).xw o.d (sext (8 * widthBytes o.width) r.2)).retire)
          ∨ (r.2 = s.xn o.d % 256 ^ widthBytes o.width
              ∧ ((∃ t, r.1.locate (s.xn o.s1) (widthBytes o.width) .rmw o.width.val = .trap t ∧ u = r.1.trap t)
                ∨ (∃ s'', r.1.locate (s.xn o.s1) (widthBytes o.width) .rmw o.width.val = .wait s''
                    ∧ u = { s'' with hart := { s''.hart with waiting := false } })
                ∨ (∃ s'' pa pte t q, r.1.locate (s.xn o.s1) (widthBytes o.width) .rmw o.width.val = .ok s'' pa pte
                    ∧ t = s''.ordRelease o.ord o.scope (s.xn o.s1) ∧ q = t.homeRead pa (widthBytes o.width)
                    ∧ ((q.2 ≠ s.xn o.d % 256 ^ widthBytes o.width
                          ∧ u = ((q.1.ordAcquire o.ord o.scope (s.xn o.s1)).xw o.d (sext (8 * widthBytes o.width) q.2)).retire)
                      ∨ (q.2 = s.xn o.d % 256 ^ widthBytes o.width
                          ∧ t.updateEnd o.ord o.scope (widthBytes o.width) (s.xn o.s1) pa pte o.d
                              (fun _ => s.xn o.s2 % 256 ^ widthBytes o.width) = .next u))))))) := by
  unfold execCas at h
  dsimp only at h
  split at h
  · next hl => cases h; exact .inl ⟨_, hl, rfl⟩
  · next hl => cases h; exact .inr (.inl ⟨_, hl, rfl⟩)
  · next hl =>
    refine .inr (.inr ⟨_, _, _, _, hl, rfl, ?_⟩)
    split at h
    · next hc => cases h; exact .inl ⟨hc, rfl⟩
    · next hc =>
      refine .inr ⟨by simpa using hc, ?_⟩
      split at h
      · next hr => cases h; exact .inl ⟨_, hr, rfl⟩
      · next hr => cases h; exact .inr (.inl ⟨_, hr, rfl⟩)
      · next hr =>
        refine .inr (.inr ⟨_, _, _, _, _, hr, rfl, rfl, ?_⟩)
        split at h
        · next hd => cases h; exact .inl ⟨hd, rfl⟩
        · next hd => exact .inr ⟨by simpa using hd, h⟩

/-- Every way a CSR word answers (R121). -/
theorem csrWord_cases {i : Instr} {o : OpCsr} {f : Word → Option Word} {s u : State} (h : csrWord i o f s = .next u) :
    (s.csrRead o.csr.val = none ∧ u = s.trap { cause := 1, tval := encode i })
    ∨ (∃ s' t, s.csrRead o.csr.val = some (s', t) ∧ f t = none ∧ u = (s'.xw o.d t).retire)
    ∨ (∃ s' t w, s.csrRead o.csr.val = some (s', t) ∧ f t = some w ∧ u = ((s'.xw o.d t).retire).csrWrite o.csr.val w) := by
  unfold csrWord at h
  split at h
  · next hr => cases h; exact .inl ⟨hr, rfl⟩
  · next s' t hr =>
    dsimp only at h
    cases hf : f t with
    | none => rw [hf] at h; cases h; exact .inr (.inl ⟨s', t, hr, hf, rfl⟩)
    | some w => rw [hf] at h; cases h; exact .inr (.inr ⟨s', t, w, hr, hf, rfl⟩)

/-! ### Words of the execute processor (R126, R127) -/

/-- Every way a word that is dispatched answers. -/
theorem dispatch_cases {i : Instr} {op : VOp} {x1 x2 : Word} {s u : State} (h : dispatch i op x1 x2 s = .next u) :
    (s.issueBad (op.shape s.hart.ep) = true ∧ u = s.trap { cause := 1, tval := encode i })
    ∨ (s.issueBad (op.shape s.hart.ep) = false
        ∧ ((∃ s' t, s.owed (op.shape s.hart.ep) = .trap s' t ∧ u = s'.trap t)
          ∨ (∃ s', s.owed (op.shape s.hart.ep) = .illegal s' ∧ u = s'.trap { cause := 1, tval := encode i })
          ∨ (∃ s', s.owed (op.shape s.hart.ep) = .wait s' ∧ u = { s' with hart := { s'.hart with waiting := false } })
          ∨ (∃ s' qs bs, s.owed (op.shape s.hart.ep) = .ok s' qs bs ∧ s'.epRoom (qs ++ [s'.entry i op.whole x1 x2]) = false
              ∧ u = { s with hart := { s.hart with waiting := false } })
          ∨ (∃ s' qs bs, s.owed (op.shape s.hart.ep) = .ok s' qs bs ∧ s'.epRoom (qs ++ [s'.entry i op.whole x1 x2]) = true
              ∧ u = (((qs.foldl State.send s').setAdvanced (op.shape s.hart.ep) bs).send (s'.entry i op.whole x1 x2)).retire))) := by
  unfold dispatch at h
  dsimp only at h
  split at h
  · next hb => cases h; exact .inl ⟨hb, rfl⟩
  · next hb =>
    refine .inr ⟨by simpa using hb, ?_⟩
    split at h
    · next ho => cases h; exact .inl ⟨_, _, ho, rfl⟩
    · next ho => cases h; exact .inr (.inl ⟨_, ho, rfl⟩)
    · next ho => cases h; exact .inr (.inr (.inl ⟨_, ho, rfl⟩))
    · next ho =>
      split at h
      · next hf => cases h; exact .inr (.inr (.inr (.inl ⟨_, _, _, ho, by simpa using hf, rfl⟩)))
      · next hf => cases h; exact .inr (.inr (.inr (.inr ⟨_, _, _, ho, by simpa using hf, rfl⟩)))

/-- A word whose shape is owed no delivery is dispatched as it stands. -/
theorem dispatch_of_none {i : Instr} {op : VOp} {x1 x2 : Word} {s s' : State} {bs : List Binding} (h1 : s.issueBad (op.shape s.hart.ep) = false)
    (h2 : s'.epRoom [s'.entry i op.whole x1 x2] = true) (h3 : s.owed (op.shape s.hart.ep) = .ok s' [] bs) :
    dispatch i op x1 x2 s = .next ((((s'.setAdvanced (op.shape s.hart.ep) bs)).send (s'.entry i op.whole x1 x2)).retire) := by
  simp [dispatch, h1, h2, h3]

/-- Every way a word that returns a value through BRQ answers. -/
theorem brq_cases {i : Instr} {srcs : List Grp} {d : Reg} {f : State → Word} {s u : State} (h : brq i srcs d f s = .next u) :
    (s.issueBad ⟨[], srcs, none, .any, false, []⟩ = true ∧ u = s.trap { cause := 1, tval := encode i })
    ∨ (s.issueBad ⟨[], srcs, none, .any, false, []⟩ = false
        ∧ ((∃ s' t, s.owed ⟨[], srcs, none, .any, false, []⟩ = .trap s' t ∧ u = s'.trap t)
          ∨ (∃ s', s.owed ⟨[], srcs, none, .any, false, []⟩ = .illegal s' ∧ u = s'.trap { cause := 1, tval := encode i })
          ∨ (∃ s', s.owed ⟨[], srcs, none, .any, false, []⟩ = .wait s' ∧ u = { s' with hart := { s'.hart with waiting := false } })
          ∨ (∃ s' qs bs, s.owed ⟨[], srcs, none, .any, false, []⟩ = .ok s' qs bs ∧ s'.epRoom qs = false
              ∧ u = { s with hart := { s.hart with waiting := false } })
          ∨ (∃ s' qs bs t, s.owed ⟨[], srcs, none, .any, false, []⟩ = .ok s' qs bs ∧ s'.epRoom qs = true
              ∧ t = ((qs.foldl State.send s').setAdvanced ⟨[], srcs, none, .any, false, []⟩ bs).drain
              ∧ u = (t.xw d (f t)).retire))) := by
  unfold brq at h
  dsimp only at h
  split at h
  · next hb => cases h; exact .inl ⟨hb, rfl⟩
  · next hb =>
    refine .inr ⟨by simpa using hb, ?_⟩
    split at h
    · next ho => cases h; exact .inl ⟨_, _, ho, rfl⟩
    · next ho => cases h; exact .inr (.inl ⟨_, ho, rfl⟩)
    · next ho => cases h; exact .inr (.inr (.inl ⟨_, ho, rfl⟩))
    · next ho =>
      split at h
      · next hf => cases h; exact .inr (.inr (.inr (.inl ⟨_, _, _, ho, by simpa using hf, rfl⟩)))
      · next hf => cases h; exact .inr (.inr (.inr (.inr ⟨_, _, _, _, ho, by simpa using hf, rfl, rfl⟩)))

/-! ### Pots, barriers, ranges and engine commands -/

/-- Every way a pot word answers (R248). -/
theorem potAt_cases {op : PotOp} {k : Kind} {init : Bool} {d : Reg} {va n : Nat} {s u : State} (h : potAt op k init d va n s = .next u) :
    (∃ s' t, s.objectAt va k 3 0x17 = .trap s' t ∧ u = s'.trap t)
    ∨ (∃ s', s.objectAt va k 3 0x17 = .wait s' ∧ u = { s' with hart := { s'.hart with waiting := false } })
    ∨ (∃ s' pa pte, s.objectAt va k 3 0x17 = .ok s' pa pte ∧ (if init then s'.farmPot pa else !s'.isPot pa) = true
        ∧ u = s'.trap { cause := 0x17, tval := va, access := accessByte k 3 false })
    ∨ (∃ s' pa pte, s.objectAt va k 3 0x17 = .ok s' pa pte ∧ (if init then s'.farmPot pa else !s'.isPot pa) = false
        ∧ u = (if s'.hart.ctl then s' else s'.usePot ⟨s'.hart.asid, va, pa⟩).potRequest ⟨s'.hart.loc, op, va, pa, n, d⟩) := by
  unfold potAt at h
  split at h
  · next ho => cases h; exact .inl ⟨_, _, ho, rfl⟩
  · next ho => cases h; exact .inr (.inl ⟨_, ho, rfl⟩)
  · next s' pa pte ho =>
    by_cases hc : (if init then s'.farmPot pa else !s'.isPot pa) = true
    · rw [if_pos hc] at h; cases h; exact .inr (.inr (.inl ⟨_, _, _, ho, hc, rfl⟩))
    · rw [if_neg hc] at h; cases h; exact .inr (.inr (.inr ⟨_, _, _, ho, by simpa using hc, rfl⟩))

/-- Every way a barrier word answers (R257): the object is judged after `pre`, and after a phase that was complete already (R255). -/
theorem barrierWord_cases {k : Kind} {s1 : Reg} {pre : State → State} {f : State → Nat → Option Out} {s u : State}
    (h : barrierWord k s1 pre f s = .next u) :
    (∃ s' t, s.objectAt (s.xn s1) k 2 0x18 = .trap s' t ∧ u = s'.trap t)
    ∨ (∃ s', s.objectAt (s.xn s1) k 2 0x18 = .wait s' ∧ u = { s' with hart := { s'.hart with waiting := false } })
    ∨ (∃ s' pa pte, s.objectAt (s.xn s1) k 2 0x18 = .ok s' pa pte ∧ (((pre s').barNorm pa).barOk pa = false ∨ f ((pre s').barNorm pa) pa = none)
        ∧ u = ((pre s').barNorm pa).trap { cause := 0x18, tval := s.xn s1, access := accessByte k 2 false })
    ∨ (∃ s' pa pte, s.objectAt (s.xn s1) k 2 0x18 = .ok s' pa pte ∧ ((pre s').barNorm pa).barOk pa = true
        ∧ f ((pre s').barNorm pa) pa = some (.next u)) := by
  unfold barrierWord at h
  dsimp only at h
  split at h
  · next ho => cases h; exact .inl ⟨_, _, ho, rfl⟩
  · next ho => cases h; exact .inr (.inl ⟨_, ho, rfl⟩)
  · next s' pa pte ho =>
    split at h
    · next hb =>
      cases hf : f ((pre s').barNorm pa) pa with
      | none => rw [hf] at h; cases h; exact .inr (.inr (.inl ⟨_, _, _, ho, .inr hf, rfl⟩))
      | some o => rw [hf] at h; exact .inr (.inr (.inr ⟨_, _, _, ho, hb, by rw [hf]; exact congrArg some h⟩))
    · next hb => cases h; exact .inr (.inr (.inl ⟨_, _, _, ho, .inl (by simpa using hb), rfl⟩))

/-- Every way a range instruction answers (R261). -/
theorem rangeWord_cases {k : Kind} {locate : State → Nat → Loc} {lo n : Nat} {pre : Option Trap} {act : Piece → State → Visit}
    {after : State → State} {s u : State} (h : rangeWord k locate lo n pre act after s = .next u) :
    (n = 0 ∧ u = s.retire)
    ∨ (n ≠ 0 ∧ 2 ^ 52 < lo + n ∧ u = s.trap (rangeTrap k (max lo (2 ^ 52)) 4 false))
    ∨ (n ≠ 0 ∧ lo + n ≤ 2 ^ 52 ∧ ∃ t, pre = some t ∧ u = s.trap t)
    ∨ (n ≠ 0 ∧ lo + n ≤ 2 ^ 52 ∧ pre = none
        ∧ ((∃ s', visit locate lo (lo + n) act ((lo + n - 1) / 65536 - lo / 65536 + 1) (lo / 65536) s = .done s' ∧ u = (after s').retire)
          ∨ (∃ s' t, visit locate lo (lo + n) act ((lo + n - 1) / 65536 - lo / 65536 + 1) (lo / 65536) s = .trap s' t ∧ u = s'.trap t)
          ∨ (∃ s', visit locate lo (lo + n) act ((lo + n - 1) / 65536 - lo / 65536 + 1) (lo / 65536) s = .wait s'
              ∧ u = { s' with hart := { s'.hart with waiting := false } }))) := by
  unfold rangeWord at h
  split at h
  · next h0 => cases h; exact .inl ⟨h0, rfl⟩
  · next h0 =>
    split at h
    · next h1 => cases h; exact .inr (.inl ⟨h0, h1, rfl⟩)
    · next h1 =>
      have h1' : lo + n ≤ 2 ^ 52 := by omega
      split at h
      · next t => cases h; exact .inr (.inr (.inl ⟨h0, h1', t, rfl, rfl⟩))
      · refine .inr (.inr (.inr ⟨h0, h1', rfl, ?_⟩))
        split at h
        · next hv => cases h; exact .inl ⟨_, hv, rfl⟩
        · next hv => cases h; exact .inr (.inl ⟨_, _, hv, rfl⟩)
        · next hv => cases h; exact .inr (.inr ⟨_, hv, rfl⟩)

/-- Every way the issue of a Strelvis command answers (R298): the checks of the descriptor's address come before the release. -/
theorem bkWord_cases {kind : Nat} {bad : List Byte → Bool} {i : Instr} {o : OpDS} {s u : State} (h : bkWord kind bad i o s = .next u) :
    (s.hart.ctl = true ∧ u = s.trap { cause := 1, tval := encode i })
    ∨ (s.hart.ctl = false ∧ ((∃ t, descAddrTrap (s.xn o.s1) = some t ∧ u = s.trap t)
      ∨ (descAddrTrap (s.xn o.s1) = none
        ∧ ((∃ t, (s.release 3).loadDesc (s.xn o.s1) = .trap t ∧ u = (s.release 3).trap t)
          ∨ (∃ s', (s.release 3).loadDesc (s.xn o.s1) = .wait s' ∧ u = { s' with hart := { s'.hart with waiting := false } })
          ∨ (∃ s' d, (s.release 3).loadDesc (s.xn o.s1) = .ok s' d
            ∧ ((bad d = true ∧ u = (s'.xw o.d (-1)).retire)
              ∨ (bad d = false ∧ 32 ≤ (s'.bksOf s'.hart.owner).length ∧ u = { s' with hart := { s'.hart with waiting := false } })
              ∨ (bad d = false ∧ (s'.bksOf s'.hart.owner).length < 32
                  ∧ u = ((s'.issueBk kind d).1.xw o.d (s'.issueBk kind d).2).retire))))))) := by
  unfold bkWord at h
  dsimp only at h
  split at h
  · next hc => cases h; exact .inl ⟨hc, rfl⟩
  · next hc =>
    refine .inr ⟨by simpa using hc, ?_⟩
    split at h
    · next ht => cases h; exact .inl ⟨_, ht, rfl⟩
    · next ht =>
      refine .inr ⟨ht, ?_⟩
      split at h
      · next hl => cases h; exact .inl ⟨_, hl, rfl⟩
      · next hl => cases h; exact .inr (.inl ⟨_, hl, rfl⟩)
      · next hl =>
        refine .inr (.inr ⟨_, _, hl, ?_⟩)
        split at h
        · next hb => cases h; exact .inl ⟨hb, rfl⟩
        · next hb =>
          have hb' := (Bool.not_eq_true _).mp hb
          split at h
          · next hn => cases h; exact .inr (.inl ⟨hb', hn, rfl⟩)
          · next hn => cases h; exact .inr (.inr ⟨hb', by omega, rfl⟩)

/-! ### Turns -/

/-- A party that cannot execute only passes the turn. -/
theorem runHere_idle {s : State} (h : s.hart.runnable = false) : runHere s = .next s.passTurn := by simp [runHere, h]

/-- A party that executes, with no queued word of its record left, runs exactly the instruction that its fetch finds, an event that was due before
it is delivered, and then the turn passes. -/
theorem runHere_word {s s' : State} {i : Instr} (h : s.hart.runnable = true) (hq : s.hart.redo = []) (hf : s.fetch = .word s' i) :
    runHere s = passed (withEvent s (exec i s')) := by
  simp [runHere, h, hq, hf]

/-- A resumed hart dispatches the oldest queued word of its record, and then the turn passes. -/
theorem runHere_redo {s : State} (h : s.hart.runnable = true) (hq : s.hart.redo ≠ []) : runHere s = passed (execRedispatch s) := by
  simp [runHere, h, hq]

/-- An event that was not due is not delivered. -/
theorem withEvent_false {s : State} (hd : s.hart.eventDue = false) (o : Out) : withEvent s o = o := by
  have hl : s.hart.deliverable = false := by simp [Hart.deliverable, hd]
  cases o <;> simp [withEvent, State.lateEvent, Hart.lateDue, Hart.lendsAway, hd, hl]

/-- What follows an instruction of the state `s`, or stands in its place: the event that was due before it, and the next party's turn. -/
def afterWord (s v : State) : State := (if s.hart.lendsAway v.hart then { s with hart := s.hart.takeEvent } else v.lateEvent s.hart).passTurn

/-- What the turn of an instruction can be. -/
theorem runHere_cases {s u : State} (h : runHere s = .next u) :
    (s.hart.runnable = false ∧ u = s.passTurn)
    ∨ (s.hart.runnable = true ∧ s.hart.redo ≠ [] ∧ ∃ v, execRedispatch s = .next v ∧ u = v.passTurn)
    ∨ (s.hart.runnable = true ∧ s.hart.redo = [] ∧ ((∃ s' t, s.fetch = .trap s' t ∧ u = afterWord s (s'.trap t))
      ∨ (∃ s', s.fetch = .wait s' ∧ u = afterWord s { s' with hart := { s'.hart with waiting := false } })
      ∨ (∃ s' i v, s.fetch = .word s' i ∧ exec i s' = .next v ∧ u = afterWord s v))) := by
  unfold runHere at h
  split at h
  · next hr => cases h; exact .inl ⟨by simpa using hr, rfl⟩
  · next hr =>
    split at h
    · next hq =>
      refine .inr (.inl ⟨by simpa using hr, by simpa using hq, ?_⟩)
      cases he : execRedispatch s with
      | next v => rw [he] at h; cases h; exact ⟨v, rfl, rfl⟩
      | fault f => rw [he] at h; cases h
      | refused r => rw [he] at h; cases h
    · next hq =>
      refine .inr (.inr ⟨by simpa using hr, by simpa using hq, ?_⟩)
      split at h
      · next hf => cases h; exact .inl ⟨_, _, hf, rfl⟩
      · next hf => cases h; exact .inr (.inl ⟨_, hf, rfl⟩)
      · next s' i hf =>
        cases he : exec i s' with
        | next v => rw [he] at h; cases h; exact .inr (.inr ⟨s', i, v, hf, he, rfl⟩)
        | fault f => rw [he] at h; cases h
        | refused r => rw [he] at h; cases h

end Sys2Proof.Machine
end

