-- ==== Sys2Proof/Laws/State.lean ====
section
/-! SUPPORT. What each update of the state leaves and changes, field by field, so that no proof unfolds a record update. -/

namespace Sys2Proof.Machine


/-! ### A change to the scalar half -/

@[simp] theorem State.sc_part (s : State) (f : Scalar → Scalar) : (s.sc f).part = s.part := rfl
@[simp] theorem State.sc_boot (s : State) (f : Scalar → Scalar) : (s.sc f).boot = s.boot := rfl
@[simp] theorem State.sc_svn (s : State) (f : Scalar → Scalar) : (s.sc f).svn = s.svn := rfl
@[simp] theorem State.sc_meas (s : State) (f : Scalar → Scalar) : (s.sc f).meas = s.meas := rfl
@[simp] theorem State.sc_measExt (s : State) (f : Scalar → Scalar) : (s.sc f).measExt = s.measExt := rfl
@[simp] theorem State.sc_attNonce (s : State) (f : Scalar → Scalar) : (s.sc f).attNonce = s.attNonce := rfl
@[simp] theorem State.sc_attBuf (s : State) (f : Scalar → Scalar) : (s.sc f).attBuf = s.attBuf := rfl
@[simp] theorem State.sc_attBusy (s : State) (f : Scalar → Scalar) : (s.sc f).attBusy = s.attBusy := rfl
@[simp] theorem State.sc_attResult (s : State) (f : Scalar → Scalar) : (s.sc f).attResult = s.attResult := rfl
@[simp] theorem State.sc_idcount (s : State) (f : Scalar → Scalar) : (s.sc f).idcount = s.idcount := rfl
@[simp] theorem State.sc_mem (s : State) (f : Scalar → Scalar) : (s.sc f).mem = s.mem := rfl
@[simp] theorem State.sc_settle (s : State) (f : Scalar → Scalar) : (s.sc f).settle = s.settle := rfl
@[simp] theorem State.sc_discarded (s : State) (f : Scalar → Scalar) : (s.sc f).discarded = s.discarded := rfl
@[simp] theorem State.sc_potLines (s : State) (f : Scalar → Scalar) : (s.sc f).potLines = s.potLines := rfl
@[simp] theorem State.sc_potMaps (s : State) (f : Scalar → Scalar) : (s.sc f).potMaps = s.potMaps := rfl
@[simp] theorem State.sc_ranges (s : State) (f : Scalar → Scalar) : (s.sc f).ranges = s.ranges := rfl
@[simp] theorem State.sc_potQueue (s : State) (f : Scalar → Scalar) : (s.sc f).potQueue = s.potQueue := rfl
@[simp] theorem State.sc_msc (s : State) (f : Scalar → Scalar) : (s.sc f).msc = s.msc := rfl
@[simp] theorem State.sc_others (s : State) (f : Scalar → Scalar) : (s.sc f).others = s.others := rfl
@[simp] theorem State.sc_vdc (s : State) (f : Scalar → Scalar) : (s.sc f).vdc = s.vdc := rfl
@[simp] theorem State.sc_icache (s : State) (f : Scalar → Scalar) : (s.sc f).icache = s.icache := rfl
@[simp] theorem State.sc_tlb (s : State) (f : Scalar → Scalar) : (s.sc f).tlb = s.tlb := rfl
@[simp] theorem State.sc_bigPages (s : State) (f : Scalar → Scalar) : (s.sc f).bigPages = s.bigPages := rfl
@[simp] theorem State.sc_collector (s : State) (f : Scalar → Scalar) : (s.sc f).collector = s.collector := rfl
@[simp] theorem State.sc_potStacks (s : State) (f : Scalar → Scalar) : (s.sc f).potStacks = s.potStacks := rfl
@[simp] theorem State.sc_holders (s : State) (f : Scalar → Scalar) : (s.sc f).holders = s.holders := rfl
@[simp] theorem State.sc_usedPads (s : State) (f : Scalar → Scalar) : (s.sc f).usedPads = s.usedPads := rfl
@[simp] theorem State.sc_holds (s : State) (f : Scalar → Scalar) : (s.sc f).holds = s.holds := rfl
@[simp] theorem State.sc_contexts (s : State) (f : Scalar → Scalar) : (s.sc f).contexts = s.contexts := rfl
@[simp] theorem State.sc_farms (s : State) (f : Scalar → Scalar) : (s.sc f).farms = s.farms := rfl
@[simp] theorem State.sc_copies (s : State) (f : Scalar → Scalar) : (s.sc f).copies = s.copies := rfl
@[simp] theorem State.sc_outbox (s : State) (f : Scalar → Scalar) : (s.sc f).outbox = s.outbox := rfl
@[simp] theorem State.sc_answers (s : State) (f : Scalar → Scalar) : (s.sc f).answers = s.answers := rfl
@[simp] theorem State.sc_bks (s : State) (f : Scalar → Scalar) : (s.sc f).bks = s.bks := rfl
@[simp] theorem State.sc_placements (s : State) (f : Scalar → Scalar) : (s.sc f).placements = s.placements := rfl
@[simp] theorem State.sc_collapses (s : State) (f : Scalar → Scalar) : (s.sc f).collapses = s.collapses := rfl
@[simp] theorem State.sc_faults (s : State) (f : Scalar → Scalar) : (s.sc f).faults = s.faults := rfl
@[simp] theorem State.sc_dies (s : State) (f : Scalar → Scalar) : (s.sc f).dies = s.dies := rfl
@[simp] theorem State.sc_hints (s : State) (f : Scalar → Scalar) : (s.sc f).hints = s.hints := rfl
@[simp] theorem State.sc_sleeping (s : State) (f : Scalar → Scalar) : (s.sc f).sleeping = s.sleeping := rfl
@[simp] theorem State.sc_rounds (s : State) (f : Scalar → Scalar) : (s.sc f).rounds = s.rounds := rfl
@[simp] theorem State.sc_hostData (s : State) (f : Scalar → Scalar) : (s.sc f).hostData = s.hostData := rfl
@[simp] theorem State.sc_input (s : State) (f : Scalar → Scalar) : (s.sc f).input = s.input := rfl
@[simp] theorem State.sc_agenda (s : State) (f : Scalar → Scalar) : (s.sc f).agenda = s.agenda := rfl
@[simp] theorem State.sc_prompt (s : State) (f : Scalar → Scalar) : (s.sc f).prompt = s.prompt := rfl
@[simp] theorem State.sc_free (s : State) (f : Scalar → Scalar) : (s.sc f).free = s.free := rfl
@[simp] theorem State.sc_hart_ctl (s : State) (f : Scalar → Scalar) : (s.sc f).hart.ctl = s.hart.ctl := rfl
@[simp] theorem State.sc_hart_die (s : State) (f : Scalar → Scalar) : (s.sc f).hart.die = s.hart.die := rfl
@[simp] theorem State.sc_hart_core (s : State) (f : Scalar → Scalar) : (s.sc f).hart.core = s.hart.core := rfl
@[simp] theorem State.sc_hart_slot (s : State) (f : Scalar → Scalar) : (s.sc f).hart.slot = s.hart.slot := rfl
@[simp] theorem State.sc_hart_status (s : State) (f : Scalar → Scalar) : (s.sc f).hart.status = s.hart.status := rfl
@[simp] theorem State.sc_hart_waiting (s : State) (f : Scalar → Scalar) : (s.sc f).hart.waiting = s.hart.waiting := rfl
@[simp] theorem State.sc_hart_mwait (s : State) (f : Scalar → Scalar) : (s.sc f).hart.mwait = s.hart.mwait := rfl
@[simp] theorem State.sc_hart_asid (s : State) (f : Scalar → Scalar) : (s.sc f).hart.asid = s.hart.asid := rfl
@[simp] theorem State.sc_hart_farm (s : State) (f : Scalar → Scalar) : (s.sc f).hart.farm = s.hart.farm := rfl
@[simp] theorem State.sc_hart_index (s : State) (f : Scalar → Scalar) : (s.sc f).hart.index = s.hart.index := rfl
@[simp] theorem State.sc_hart_reserve (s : State) (f : Scalar → Scalar) : (s.sc f).hart.reserve = s.hart.reserve := rfl
@[simp] theorem State.sc_hart_prio (s : State) (f : Scalar → Scalar) : (s.sc f).hart.prio = s.hart.prio := rfl
@[simp] theorem State.sc_hart_sc (s : State) (f : Scalar → Scalar) : (s.sc f).hart.sc = f s.hart.sc := rfl
@[simp] theorem State.sc_hart_ep (s : State) (f : Scalar → Scalar) : (s.sc f).hart.ep = s.hart.ep := rfl
@[simp] theorem State.sc_hart_scache (s : State) (f : Scalar → Scalar) : (s.sc f).hart.scache = s.hart.scache := rfl
@[simp] theorem State.sc_hart_skipped (s : State) (f : Scalar → Scalar) : (s.sc f).hart.skipped = s.hart.skipped := rfl
@[simp] theorem State.sc_hart_newer (s : State) (f : Scalar → Scalar) : (s.sc f).hart.newer = s.hart.newer := rfl
@[simp] theorem State.sc_hart_leaving (s : State) (f : Scalar → Scalar) : (s.sc f).hart.leaving = s.hart.leaving := rfl
@[simp] theorem State.sc_hart_redo (s : State) (f : Scalar → Scalar) : (s.sc f).hart.redo = s.hart.redo := rfl
@[simp] theorem State.sc_hart_loc (s : State) (f : Scalar → Scalar) : (s.sc f).hart.loc = s.hart.loc := rfl
@[simp] theorem State.sc_hart_coreId (s : State) (f : Scalar → Scalar) : (s.sc f).hart.coreId = s.hart.coreId := rfl
@[simp] theorem State.sc_hart_owner (s : State) (f : Scalar → Scalar) : (s.sc f).hart.owner = s.hart.owner := rfl
@[simp] theorem State.sc_hart_runnable (s : State) (f : Scalar → Scalar) : (s.sc f).hart.runnable = s.hart.runnable := rfl
@[simp] theorem State.sc_hart_admitted (s : State) (f : Scalar → Scalar) : (s.sc f).hart.admitted = s.hart.admitted := rfl

/-! ### A change to the execute half -/

@[simp] theorem State.ep_part (s : State) (f : Exec → Exec) : (s.ep f).part = s.part := rfl
@[simp] theorem State.ep_boot (s : State) (f : Exec → Exec) : (s.ep f).boot = s.boot := rfl
@[simp] theorem State.ep_svn (s : State) (f : Exec → Exec) : (s.ep f).svn = s.svn := rfl
@[simp] theorem State.ep_meas (s : State) (f : Exec → Exec) : (s.ep f).meas = s.meas := rfl
@[simp] theorem State.ep_measExt (s : State) (f : Exec → Exec) : (s.ep f).measExt = s.measExt := rfl
@[simp] theorem State.ep_attNonce (s : State) (f : Exec → Exec) : (s.ep f).attNonce = s.attNonce := rfl
@[simp] theorem State.ep_attBuf (s : State) (f : Exec → Exec) : (s.ep f).attBuf = s.attBuf := rfl
@[simp] theorem State.ep_attBusy (s : State) (f : Exec → Exec) : (s.ep f).attBusy = s.attBusy := rfl
@[simp] theorem State.ep_attResult (s : State) (f : Exec → Exec) : (s.ep f).attResult = s.attResult := rfl
@[simp] theorem State.ep_idcount (s : State) (f : Exec → Exec) : (s.ep f).idcount = s.idcount := rfl
@[simp] theorem State.ep_mem (s : State) (f : Exec → Exec) : (s.ep f).mem = s.mem := rfl
@[simp] theorem State.ep_settle (s : State) (f : Exec → Exec) : (s.ep f).settle = s.settle := rfl
@[simp] theorem State.ep_discarded (s : State) (f : Exec → Exec) : (s.ep f).discarded = s.discarded := rfl
@[simp] theorem State.ep_potLines (s : State) (f : Exec → Exec) : (s.ep f).potLines = s.potLines := rfl
@[simp] theorem State.ep_potMaps (s : State) (f : Exec → Exec) : (s.ep f).potMaps = s.potMaps := rfl
@[simp] theorem State.ep_ranges (s : State) (f : Exec → Exec) : (s.ep f).ranges = s.ranges := rfl
@[simp] theorem State.ep_potQueue (s : State) (f : Exec → Exec) : (s.ep f).potQueue = s.potQueue := rfl
@[simp] theorem State.ep_msc (s : State) (f : Exec → Exec) : (s.ep f).msc = s.msc := rfl
@[simp] theorem State.ep_others (s : State) (f : Exec → Exec) : (s.ep f).others = s.others := rfl
@[simp] theorem State.ep_vdc (s : State) (f : Exec → Exec) : (s.ep f).vdc = s.vdc := rfl
@[simp] theorem State.ep_icache (s : State) (f : Exec → Exec) : (s.ep f).icache = s.icache := rfl
@[simp] theorem State.ep_tlb (s : State) (f : Exec → Exec) : (s.ep f).tlb = s.tlb := rfl
@[simp] theorem State.ep_bigPages (s : State) (f : Exec → Exec) : (s.ep f).bigPages = s.bigPages := rfl
@[simp] theorem State.ep_collector (s : State) (f : Exec → Exec) : (s.ep f).collector = s.collector := rfl
@[simp] theorem State.ep_potStacks (s : State) (f : Exec → Exec) : (s.ep f).potStacks = s.potStacks := rfl
@[simp] theorem State.ep_holders (s : State) (f : Exec → Exec) : (s.ep f).holders = s.holders := rfl
@[simp] theorem State.ep_usedPads (s : State) (f : Exec → Exec) : (s.ep f).usedPads = s.usedPads := rfl
@[simp] theorem State.ep_holds (s : State) (f : Exec → Exec) : (s.ep f).holds = s.holds := rfl
@[simp] theorem State.ep_contexts (s : State) (f : Exec → Exec) : (s.ep f).contexts = s.contexts := rfl
@[simp] theorem State.ep_farms (s : State) (f : Exec → Exec) : (s.ep f).farms = s.farms := rfl
@[simp] theorem State.ep_copies (s : State) (f : Exec → Exec) : (s.ep f).copies = s.copies := rfl
@[simp] theorem State.ep_outbox (s : State) (f : Exec → Exec) : (s.ep f).outbox = s.outbox := rfl
@[simp] theorem State.ep_answers (s : State) (f : Exec → Exec) : (s.ep f).answers = s.answers := rfl
@[simp] theorem State.ep_bks (s : State) (f : Exec → Exec) : (s.ep f).bks = s.bks := rfl
@[simp] theorem State.ep_placements (s : State) (f : Exec → Exec) : (s.ep f).placements = s.placements := rfl
@[simp] theorem State.ep_collapses (s : State) (f : Exec → Exec) : (s.ep f).collapses = s.collapses := rfl
@[simp] theorem State.ep_faults (s : State) (f : Exec → Exec) : (s.ep f).faults = s.faults := rfl
@[simp] theorem State.ep_dies (s : State) (f : Exec → Exec) : (s.ep f).dies = s.dies := rfl
@[simp] theorem State.ep_hints (s : State) (f : Exec → Exec) : (s.ep f).hints = s.hints := rfl
@[simp] theorem State.ep_sleeping (s : State) (f : Exec → Exec) : (s.ep f).sleeping = s.sleeping := rfl
@[simp] theorem State.ep_rounds (s : State) (f : Exec → Exec) : (s.ep f).rounds = s.rounds := rfl
@[simp] theorem State.ep_hostData (s : State) (f : Exec → Exec) : (s.ep f).hostData = s.hostData := rfl
@[simp] theorem State.ep_input (s : State) (f : Exec → Exec) : (s.ep f).input = s.input := rfl
@[simp] theorem State.ep_agenda (s : State) (f : Exec → Exec) : (s.ep f).agenda = s.agenda := rfl
@[simp] theorem State.ep_prompt (s : State) (f : Exec → Exec) : (s.ep f).prompt = s.prompt := rfl
@[simp] theorem State.ep_free (s : State) (f : Exec → Exec) : (s.ep f).free = s.free := rfl
@[simp] theorem State.ep_hart_ctl (s : State) (f : Exec → Exec) : (s.ep f).hart.ctl = s.hart.ctl := rfl
@[simp] theorem State.ep_hart_die (s : State) (f : Exec → Exec) : (s.ep f).hart.die = s.hart.die := rfl
@[simp] theorem State.ep_hart_core (s : State) (f : Exec → Exec) : (s.ep f).hart.core = s.hart.core := rfl
@[simp] theorem State.ep_hart_slot (s : State) (f : Exec → Exec) : (s.ep f).hart.slot = s.hart.slot := rfl
@[simp] theorem State.ep_hart_status (s : State) (f : Exec → Exec) : (s.ep f).hart.status = s.hart.status := rfl
@[simp] theorem State.ep_hart_waiting (s : State) (f : Exec → Exec) : (s.ep f).hart.waiting = s.hart.waiting := rfl
@[simp] theorem State.ep_hart_mwait (s : State) (f : Exec → Exec) : (s.ep f).hart.mwait = s.hart.mwait := rfl
@[simp] theorem State.ep_hart_asid (s : State) (f : Exec → Exec) : (s.ep f).hart.asid = s.hart.asid := rfl
@[simp] theorem State.ep_hart_farm (s : State) (f : Exec → Exec) : (s.ep f).hart.farm = s.hart.farm := rfl
@[simp] theorem State.ep_hart_index (s : State) (f : Exec → Exec) : (s.ep f).hart.index = s.hart.index := rfl
@[simp] theorem State.ep_hart_reserve (s : State) (f : Exec → Exec) : (s.ep f).hart.reserve = s.hart.reserve := rfl
@[simp] theorem State.ep_hart_prio (s : State) (f : Exec → Exec) : (s.ep f).hart.prio = s.hart.prio := rfl
@[simp] theorem State.ep_hart_sc (s : State) (f : Exec → Exec) : (s.ep f).hart.sc = s.hart.sc := rfl
@[simp] theorem State.ep_hart_ep (s : State) (f : Exec → Exec) : (s.ep f).hart.ep = f s.hart.ep := rfl
@[simp] theorem State.ep_hart_scache (s : State) (f : Exec → Exec) : (s.ep f).hart.scache = s.hart.scache := rfl
@[simp] theorem State.ep_hart_skipped (s : State) (f : Exec → Exec) : (s.ep f).hart.skipped = s.hart.skipped := rfl
@[simp] theorem State.ep_hart_newer (s : State) (f : Exec → Exec) : (s.ep f).hart.newer = s.hart.newer := rfl
@[simp] theorem State.ep_hart_leaving (s : State) (f : Exec → Exec) : (s.ep f).hart.leaving = s.hart.leaving := rfl
@[simp] theorem State.ep_hart_redo (s : State) (f : Exec → Exec) : (s.ep f).hart.redo = s.hart.redo := rfl
@[simp] theorem State.ep_hart_loc (s : State) (f : Exec → Exec) : (s.ep f).hart.loc = s.hart.loc := rfl
@[simp] theorem State.ep_hart_coreId (s : State) (f : Exec → Exec) : (s.ep f).hart.coreId = s.hart.coreId := rfl
@[simp] theorem State.ep_hart_owner (s : State) (f : Exec → Exec) : (s.ep f).hart.owner = s.hart.owner := rfl
@[simp] theorem State.ep_hart_runnable (s : State) (f : Exec → Exec) : (s.ep f).hart.runnable = s.hart.runnable := rfl
@[simp] theorem State.ep_hart_admitted (s : State) (f : Exec → Exec) : (s.ep f).hart.admitted = s.hart.admitted := rfl

/-! ### A write of an x register -/

@[simp] theorem State.xw_part (s : State) (r : Reg) (w : Word) : (s.xw r w).part = s.part := rfl
@[simp] theorem State.xw_boot (s : State) (r : Reg) (w : Word) : (s.xw r w).boot = s.boot := rfl
@[simp] theorem State.xw_svn (s : State) (r : Reg) (w : Word) : (s.xw r w).svn = s.svn := rfl
@[simp] theorem State.xw_meas (s : State) (r : Reg) (w : Word) : (s.xw r w).meas = s.meas := rfl
@[simp] theorem State.xw_measExt (s : State) (r : Reg) (w : Word) : (s.xw r w).measExt = s.measExt := rfl
@[simp] theorem State.xw_attNonce (s : State) (r : Reg) (w : Word) : (s.xw r w).attNonce = s.attNonce := rfl
@[simp] theorem State.xw_attBuf (s : State) (r : Reg) (w : Word) : (s.xw r w).attBuf = s.attBuf := rfl
@[simp] theorem State.xw_attBusy (s : State) (r : Reg) (w : Word) : (s.xw r w).attBusy = s.attBusy := rfl
@[simp] theorem State.xw_attResult (s : State) (r : Reg) (w : Word) : (s.xw r w).attResult = s.attResult := rfl
@[simp] theorem State.xw_idcount (s : State) (r : Reg) (w : Word) : (s.xw r w).idcount = s.idcount := rfl
@[simp] theorem State.xw_mem (s : State) (r : Reg) (w : Word) : (s.xw r w).mem = s.mem := rfl
@[simp] theorem State.xw_settle (s : State) (r : Reg) (w : Word) : (s.xw r w).settle = s.settle := rfl
@[simp] theorem State.xw_discarded (s : State) (r : Reg) (w : Word) : (s.xw r w).discarded = s.discarded := rfl
@[simp] theorem State.xw_potLines (s : State) (r : Reg) (w : Word) : (s.xw r w).potLines = s.potLines := rfl
@[simp] theorem State.xw_potMaps (s : State) (r : Reg) (w : Word) : (s.xw r w).potMaps = s.potMaps := rfl
@[simp] theorem State.xw_ranges (s : State) (r : Reg) (w : Word) : (s.xw r w).ranges = s.ranges := rfl
@[simp] theorem State.xw_potQueue (s : State) (r : Reg) (w : Word) : (s.xw r w).potQueue = s.potQueue := rfl
@[simp] theorem State.xw_msc (s : State) (r : Reg) (w : Word) : (s.xw r w).msc = s.msc := rfl
@[simp] theorem State.xw_others (s : State) (r : Reg) (w : Word) : (s.xw r w).others = s.others := rfl
@[simp] theorem State.xw_vdc (s : State) (r : Reg) (w : Word) : (s.xw r w).vdc = s.vdc := rfl
@[simp] theorem State.xw_icache (s : State) (r : Reg) (w : Word) : (s.xw r w).icache = s.icache := rfl
@[simp] theorem State.xw_tlb (s : State) (r : Reg) (w : Word) : (s.xw r w).tlb = s.tlb := rfl
@[simp] theorem State.xw_bigPages (s : State) (r : Reg) (w : Word) : (s.xw r w).bigPages = s.bigPages := rfl
@[simp] theorem State.xw_collector (s : State) (r : Reg) (w : Word) : (s.xw r w).collector = s.collector := rfl
@[simp] theorem State.xw_potStacks (s : State) (r : Reg) (w : Word) : (s.xw r w).potStacks = s.potStacks := rfl
@[simp] theorem State.xw_holders (s : State) (r : Reg) (w : Word) : (s.xw r w).holders = s.holders := rfl
@[simp] theorem State.xw_usedPads (s : State) (r : Reg) (w : Word) : (s.xw r w).usedPads = s.usedPads := rfl
@[simp] theorem State.xw_holds (s : State) (r : Reg) (w : Word) : (s.xw r w).holds = s.holds := rfl
@[simp] theorem State.xw_contexts (s : State) (r : Reg) (w : Word) : (s.xw r w).contexts = s.contexts := rfl
@[simp] theorem State.xw_farms (s : State) (r : Reg) (w : Word) : (s.xw r w).farms = s.farms := rfl
@[simp] theorem State.xw_copies (s : State) (r : Reg) (w : Word) : (s.xw r w).copies = s.copies := rfl
@[simp] theorem State.xw_outbox (s : State) (r : Reg) (w : Word) : (s.xw r w).outbox = s.outbox := rfl
@[simp] theorem State.xw_answers (s : State) (r : Reg) (w : Word) : (s.xw r w).answers = s.answers := rfl
@[simp] theorem State.xw_bks (s : State) (r : Reg) (w : Word) : (s.xw r w).bks = s.bks := rfl
@[simp] theorem State.xw_placements (s : State) (r : Reg) (w : Word) : (s.xw r w).placements = s.placements := rfl
@[simp] theorem State.xw_collapses (s : State) (r : Reg) (w : Word) : (s.xw r w).collapses = s.collapses := rfl
@[simp] theorem State.xw_faults (s : State) (r : Reg) (w : Word) : (s.xw r w).faults = s.faults := rfl
@[simp] theorem State.xw_dies (s : State) (r : Reg) (w : Word) : (s.xw r w).dies = s.dies := rfl
@[simp] theorem State.xw_hints (s : State) (r : Reg) (w : Word) : (s.xw r w).hints = s.hints := rfl
@[simp] theorem State.xw_sleeping (s : State) (r : Reg) (w : Word) : (s.xw r w).sleeping = s.sleeping := rfl
@[simp] theorem State.xw_rounds (s : State) (r : Reg) (w : Word) : (s.xw r w).rounds = s.rounds := rfl
@[simp] theorem State.xw_hostData (s : State) (r : Reg) (w : Word) : (s.xw r w).hostData = s.hostData := rfl
@[simp] theorem State.xw_input (s : State) (r : Reg) (w : Word) : (s.xw r w).input = s.input := rfl
@[simp] theorem State.xw_agenda (s : State) (r : Reg) (w : Word) : (s.xw r w).agenda = s.agenda := rfl
@[simp] theorem State.xw_prompt (s : State) (r : Reg) (w : Word) : (s.xw r w).prompt = s.prompt := rfl
@[simp] theorem State.xw_free (s : State) (r : Reg) (w : Word) : (s.xw r w).free = s.free := rfl
@[simp] theorem State.xw_hart_ctl (s : State) (r : Reg) (w : Word) : (s.xw r w).hart.ctl = s.hart.ctl := rfl
@[simp] theorem State.xw_hart_die (s : State) (r : Reg) (w : Word) : (s.xw r w).hart.die = s.hart.die := rfl
@[simp] theorem State.xw_hart_core (s : State) (r : Reg) (w : Word) : (s.xw r w).hart.core = s.hart.core := rfl
@[simp] theorem State.xw_hart_slot (s : State) (r : Reg) (w : Word) : (s.xw r w).hart.slot = s.hart.slot := rfl
@[simp] theorem State.xw_hart_status (s : State) (r : Reg) (w : Word) : (s.xw r w).hart.status = s.hart.status := rfl
@[simp] theorem State.xw_hart_waiting (s : State) (r : Reg) (w : Word) : (s.xw r w).hart.waiting = s.hart.waiting := rfl
@[simp] theorem State.xw_hart_mwait (s : State) (r : Reg) (w : Word) : (s.xw r w).hart.mwait = s.hart.mwait := rfl
@[simp] theorem State.xw_hart_asid (s : State) (r : Reg) (w : Word) : (s.xw r w).hart.asid = s.hart.asid := rfl
@[simp] theorem State.xw_hart_farm (s : State) (r : Reg) (w : Word) : (s.xw r w).hart.farm = s.hart.farm := rfl
@[simp] theorem State.xw_hart_index (s : State) (r : Reg) (w : Word) : (s.xw r w).hart.index = s.hart.index := rfl
@[simp] theorem State.xw_hart_reserve (s : State) (r : Reg) (w : Word) : (s.xw r w).hart.reserve = s.hart.reserve := rfl
@[simp] theorem State.xw_hart_prio (s : State) (r : Reg) (w : Word) : (s.xw r w).hart.prio = s.hart.prio := rfl
@[simp] theorem State.xw_hart_ep (s : State) (r : Reg) (w : Word) : (s.xw r w).hart.ep = s.hart.ep := rfl
@[simp] theorem State.xw_hart_scache (s : State) (r : Reg) (w : Word) : (s.xw r w).hart.scache = s.hart.scache := rfl
@[simp] theorem State.xw_hart_skipped (s : State) (r : Reg) (w : Word) : (s.xw r w).hart.skipped = s.hart.skipped := rfl
@[simp] theorem State.xw_hart_newer (s : State) (r : Reg) (w : Word) : (s.xw r w).hart.newer = s.hart.newer := rfl
@[simp] theorem State.xw_hart_leaving (s : State) (r : Reg) (w : Word) : (s.xw r w).hart.leaving = s.hart.leaving := rfl
@[simp] theorem State.xw_hart_redo (s : State) (r : Reg) (w : Word) : (s.xw r w).hart.redo = s.hart.redo := rfl
@[simp] theorem Scalar.write_shadow (c : Scalar) (r : Reg) (w : Word) : (c.write r w).shadow = c.shadow := by unfold Scalar.write; split <;> rfl
@[simp] theorem Scalar.write_pc (c : Scalar) (r : Reg) (w : Word) : (c.write r w).pc = c.pc := by unfold Scalar.write; split <;> rfl
@[simp] theorem Scalar.write_cycle (c : Scalar) (r : Reg) (w : Word) : (c.write r w).cycle = c.cycle := by unfold Scalar.write; split <;> rfl
@[simp] theorem Scalar.write_instret (c : Scalar) (r : Reg) (w : Word) : (c.write r w).instret = c.instret := by unfold Scalar.write; split <;> rfl
@[simp] theorem Scalar.write_fcsr (c : Scalar) (r : Reg) (w : Word) : (c.write r w).fcsr = c.fcsr := by unfold Scalar.write; split <;> rfl
@[simp] theorem Scalar.write_tcause (c : Scalar) (r : Reg) (w : Word) : (c.write r w).tcause = c.tcause := by unfold Scalar.write; split <;> rfl
@[simp] theorem Scalar.write_tpc (c : Scalar) (r : Reg) (w : Word) : (c.write r w).tpc = c.tpc := by unfold Scalar.write; split <;> rfl
@[simp] theorem Scalar.write_tval (c : Scalar) (r : Reg) (w : Word) : (c.write r w).tval = c.tval := by unfold Scalar.write; split <;> rfl
@[simp] theorem Scalar.write_rndseed (c : Scalar) (r : Reg) (w : Word) : (c.write r w).rndseed = c.rndseed := by unfold Scalar.write; split <;> rfl
@[simp] theorem Scalar.write_gens (c : Scalar) (r : Reg) (w : Word) : (c.write r w).gens = c.gens := by unfold Scalar.write; split <;> rfl
@[simp] theorem Scalar.write_lend (c : Scalar) (r : Reg) (w : Word) : (c.write r w).lend = c.lend := by unfold Scalar.write; split <;> rfl
@[simp] theorem Scalar.write_tdeleg (c : Scalar) (r : Reg) (w : Word) : (c.write r w).tdeleg = c.tdeleg := by unfold Scalar.write; split <;> rfl
@[simp] theorem Scalar.write_vstartArmed (c : Scalar) (r : Reg) (w : Word) : (c.write r w).vstartArmed = c.vstartArmed := by unfold Scalar.write; split <;> rfl
@[simp] theorem Scalar.write_vstart (c : Scalar) (r : Reg) (w : Word) : (c.write r w).vstart = c.vstart := by unfold Scalar.write; split <;> rfl
@[simp] theorem Scalar.write_uiEn (c : Scalar) (r : Reg) (w : Word) : (c.write r w).uiEn = c.uiEn := by unfold Scalar.write; split <;> rfl
@[simp] theorem Scalar.write_uiPend (c : Scalar) (r : Reg) (w : Word) : (c.write r w).uiPend = c.uiPend := by unfold Scalar.write; split <;> rfl
@[simp] theorem Scalar.write_uiActive (c : Scalar) (r : Reg) (w : Word) : (c.write r w).uiActive = c.uiActive := by unfold Scalar.write; split <;> rfl
@[simp] theorem Scalar.write_uiRstrt (c : Scalar) (r : Reg) (w : Word) : (c.write r w).uiRstrt = c.uiRstrt := by unfold Scalar.write; split <;> rfl
@[simp] theorem Scalar.write_uivec (c : Scalar) (r : Reg) (w : Word) : (c.write r w).uivec = c.uivec := by unfold Scalar.write; split <;> rfl
@[simp] theorem Scalar.write_uiepc (c : Scalar) (r : Reg) (w : Word) : (c.write r w).uiepc = c.uiepc := by unfold Scalar.write; split <;> rfl
@[simp] theorem Scalar.write_uiEvents (c : Scalar) (r : Reg) (w : Word) : (c.write r w).uiEvents = c.uiEvents := by unfold Scalar.write; split <;> rfl
@[simp] theorem Scalar.write_uiCauseTag (c : Scalar) (r : Reg) (w : Word) : (c.write r w).uiCauseTag = c.uiCauseTag := by unfold Scalar.write; split <;> rfl
@[simp] theorem Scalar.write_uilend (c : Scalar) (r : Reg) (w : Word) : (c.write r w).uilend = c.uilend := by unfold Scalar.write; split <;> rfl
@[simp] theorem Scalar.write_uiCount (c : Scalar) (r : Reg) (w : Word) : (c.write r w).uiCount = c.uiCount := by unfold Scalar.write; split <;> rfl
@[simp] theorem Scalar.write_uiTag (c : Scalar) (r : Reg) (w : Word) : (c.write r w).uiTag = c.uiTag := by unfold Scalar.write; split <;> rfl
@[simp] theorem Scalar.write_splitr (c : Scalar) (r : Reg) (w : Word) : (c.write r w).splitr = c.splitr := by unfold Scalar.write; split <;> rfl
@[simp] theorem Scalar.write_bkshuf (c : Scalar) (r : Reg) (w : Word) : (c.write r w).bkshuf = c.bkshuf := by unfold Scalar.write; split <;> rfl
@[simp] theorem Scalar.write_copyTag (c : Scalar) (r : Reg) (w : Word) : (c.write r w).copyTag = c.copyTag := by unfold Scalar.write; split <;> rfl
@[simp] theorem Scalar.write_bkTag (c : Scalar) (r : Reg) (w : Word) : (c.write r w).bkTag = c.bkTag := by unfold Scalar.write; split <;> rfl
@[simp] theorem Scalar.write_bkEpoch (c : Scalar) (r : Reg) (w : Word) : (c.write r w).bkEpoch = c.bkEpoch := by unfold Scalar.write; split <;> rfl
@[simp] theorem Scalar.write_monitor (c : Scalar) (r : Reg) (w : Word) : (c.write r w).monitor = c.monitor := by unfold Scalar.write; split <;> rfl
@[simp] theorem Scalar.write_ctvec (c : Scalar) (r : Reg) (w : Word) : (c.write r w).ctvec = c.ctvec := by unfold Scalar.write; split <;> rfl
@[simp] theorem State.xw_hart_sc (s : State) (r : Reg) (w : Word) : (s.xw r w).hart.sc = s.hart.sc.write r w := rfl

/-- What a write of an x register leaves to be read: x0 stays 0, and no other register changes (R13). -/
theorem Scalar.read_write (c : Scalar) (d r : Reg) (w : Word) : (c.write d w).read r = if r.val = 0 then 0 else if r = d then w else c.read r := by
  by_cases hr : r.val = 0
  · simp [Scalar.read, hr]
  · by_cases hd : d.val = 0
    · have : r ≠ d := fun h => hr (h ▸ hd)
      simp [Scalar.read, Scalar.write, hr, hd, this]
    · by_cases h : r = d
      · subst h
        simp [Scalar.read, Scalar.write, hr]
      · have hv : d.val ≠ r.val := fun k => h (Fin.ext k.symm)
        simp [Scalar.read, Scalar.write, hr, hd, h, hv]


/-! ### Retiring -/

@[simp] theorem State.retireTo_part (s : State) (pc : Word) : (s.retireTo pc).part = s.part := rfl
@[simp] theorem State.retireTo_boot (s : State) (pc : Word) : (s.retireTo pc).boot = s.boot := rfl
@[simp] theorem State.retireTo_svn (s : State) (pc : Word) : (s.retireTo pc).svn = s.svn := rfl
@[simp] theorem State.retireTo_meas (s : State) (pc : Word) : (s.retireTo pc).meas = s.meas := rfl
@[simp] theorem State.retireTo_measExt (s : State) (pc : Word) : (s.retireTo pc).measExt = s.measExt := rfl
@[simp] theorem State.retireTo_attNonce (s : State) (pc : Word) : (s.retireTo pc).attNonce = s.attNonce := rfl
@[simp] theorem State.retireTo_attBuf (s : State) (pc : Word) : (s.retireTo pc).attBuf = s.attBuf := rfl
@[simp] theorem State.retireTo_attBusy (s : State) (pc : Word) : (s.retireTo pc).attBusy = s.attBusy := rfl
@[simp] theorem State.retireTo_attResult (s : State) (pc : Word) : (s.retireTo pc).attResult = s.attResult := rfl
@[simp] theorem State.retireTo_idcount (s : State) (pc : Word) : (s.retireTo pc).idcount = s.idcount := rfl
@[simp] theorem State.retireTo_mem (s : State) (pc : Word) : (s.retireTo pc).mem = s.mem := rfl
@[simp] theorem State.retireTo_settle (s : State) (pc : Word) : (s.retireTo pc).settle = s.settle := rfl
@[simp] theorem State.retireTo_discarded (s : State) (pc : Word) : (s.retireTo pc).discarded = s.discarded := rfl
@[simp] theorem State.retireTo_potLines (s : State) (pc : Word) : (s.retireTo pc).potLines = s.potLines := rfl
@[simp] theorem State.retireTo_potMaps (s : State) (pc : Word) : (s.retireTo pc).potMaps = s.potMaps := rfl
@[simp] theorem State.retireTo_ranges (s : State) (pc : Word) : (s.retireTo pc).ranges = s.ranges := rfl
@[simp] theorem State.retireTo_potQueue (s : State) (pc : Word) : (s.retireTo pc).potQueue = s.potQueue := rfl
@[simp] theorem State.retireTo_msc (s : State) (pc : Word) : (s.retireTo pc).msc = s.msc := rfl
@[simp] theorem State.retireTo_others (s : State) (pc : Word) : (s.retireTo pc).others = s.others := rfl
@[simp] theorem State.retireTo_vdc (s : State) (pc : Word) : (s.retireTo pc).vdc = s.vdc := rfl
@[simp] theorem State.retireTo_icache (s : State) (pc : Word) : (s.retireTo pc).icache = s.icache := rfl
@[simp] theorem State.retireTo_tlb (s : State) (pc : Word) : (s.retireTo pc).tlb = s.tlb := rfl
@[simp] theorem State.retireTo_bigPages (s : State) (pc : Word) : (s.retireTo pc).bigPages = s.bigPages := rfl
@[simp] theorem State.retireTo_collector (s : State) (pc : Word) : (s.retireTo pc).collector = s.collector := rfl
@[simp] theorem State.retireTo_potStacks (s : State) (pc : Word) : (s.retireTo pc).potStacks = s.potStacks := rfl
@[simp] theorem State.retireTo_holders (s : State) (pc : Word) : (s.retireTo pc).holders = s.holders := rfl
@[simp] theorem State.retireTo_usedPads (s : State) (pc : Word) : (s.retireTo pc).usedPads = s.usedPads := rfl
@[simp] theorem State.retireTo_holds (s : State) (pc : Word) : (s.retireTo pc).holds = s.holds := rfl
@[simp] theorem State.retireTo_contexts (s : State) (pc : Word) : (s.retireTo pc).contexts = s.contexts := rfl
@[simp] theorem State.retireTo_farms (s : State) (pc : Word) : (s.retireTo pc).farms = s.farms := rfl
@[simp] theorem State.retireTo_copies (s : State) (pc : Word) : (s.retireTo pc).copies = s.copies := rfl
@[simp] theorem State.retireTo_outbox (s : State) (pc : Word) : (s.retireTo pc).outbox = s.outbox := rfl
@[simp] theorem State.retireTo_answers (s : State) (pc : Word) : (s.retireTo pc).answers = s.answers := rfl
@[simp] theorem State.retireTo_bks (s : State) (pc : Word) : (s.retireTo pc).bks = s.bks := rfl
@[simp] theorem State.retireTo_placements (s : State) (pc : Word) : (s.retireTo pc).placements = s.placements := rfl
@[simp] theorem State.retireTo_collapses (s : State) (pc : Word) : (s.retireTo pc).collapses = s.collapses := rfl
@[simp] theorem State.retireTo_faults (s : State) (pc : Word) : (s.retireTo pc).faults = s.faults := rfl
@[simp] theorem State.retireTo_dies (s : State) (pc : Word) : (s.retireTo pc).dies = s.dies := rfl
@[simp] theorem State.retireTo_hints (s : State) (pc : Word) : (s.retireTo pc).hints = s.hints := rfl
@[simp] theorem State.retireTo_sleeping (s : State) (pc : Word) : (s.retireTo pc).sleeping = s.sleeping := rfl
@[simp] theorem State.retireTo_rounds (s : State) (pc : Word) : (s.retireTo pc).rounds = s.rounds := rfl
@[simp] theorem State.retireTo_hostData (s : State) (pc : Word) : (s.retireTo pc).hostData = s.hostData := rfl
@[simp] theorem State.retireTo_input (s : State) (pc : Word) : (s.retireTo pc).input = s.input := rfl
@[simp] theorem State.retireTo_agenda (s : State) (pc : Word) : (s.retireTo pc).agenda = s.agenda := rfl
@[simp] theorem State.retireTo_prompt (s : State) (pc : Word) : (s.retireTo pc).prompt = s.prompt := rfl
@[simp] theorem State.retireTo_free (s : State) (pc : Word) : (s.retireTo pc).free = s.free := rfl
@[simp] theorem State.retireTo_hart_ctl (s : State) (pc : Word) : (s.retireTo pc).hart.ctl = s.hart.ctl := rfl
@[simp] theorem State.retireTo_hart_die (s : State) (pc : Word) : (s.retireTo pc).hart.die = s.hart.die := rfl
@[simp] theorem State.retireTo_hart_core (s : State) (pc : Word) : (s.retireTo pc).hart.core = s.hart.core := rfl
@[simp] theorem State.retireTo_hart_slot (s : State) (pc : Word) : (s.retireTo pc).hart.slot = s.hart.slot := rfl
@[simp] theorem State.retireTo_hart_status (s : State) (pc : Word) : (s.retireTo pc).hart.status = s.hart.status := rfl
@[simp] theorem State.retireTo_hart_waiting (s : State) (pc : Word) : (s.retireTo pc).hart.waiting = false := rfl
@[simp] theorem State.retireTo_hart_mwait (s : State) (pc : Word) : (s.retireTo pc).hart.mwait = none := rfl
@[simp] theorem State.retireTo_hart_asid (s : State) (pc : Word) : (s.retireTo pc).hart.asid = s.hart.asid := rfl
@[simp] theorem State.retireTo_hart_farm (s : State) (pc : Word) : (s.retireTo pc).hart.farm = s.hart.farm := rfl
@[simp] theorem State.retireTo_hart_index (s : State) (pc : Word) : (s.retireTo pc).hart.index = s.hart.index := rfl
@[simp] theorem State.retireTo_hart_reserve (s : State) (pc : Word) : (s.retireTo pc).hart.reserve = s.hart.reserve := rfl
@[simp] theorem State.retireTo_hart_prio (s : State) (pc : Word) : (s.retireTo pc).hart.prio = s.hart.prio := rfl
@[simp] theorem State.retireTo_hart_ep (s : State) (pc : Word) : (s.retireTo pc).hart.ep = s.hart.ep := rfl
@[simp] theorem State.retireTo_hart_scache (s : State) (pc : Word) : (s.retireTo pc).hart.scache = s.hart.scache := rfl
@[simp] theorem State.retireTo_hart_skipped (s : State) (pc : Word) : (s.retireTo pc).hart.skipped = s.hart.skipped := rfl
@[simp] theorem State.retireTo_hart_newer (s : State) (pc : Word) : (s.retireTo pc).hart.newer = s.hart.newer := rfl
@[simp] theorem State.retireTo_hart_leaving (s : State) (pc : Word) : (s.retireTo pc).hart.leaving = s.hart.leaving := rfl
@[simp] theorem State.retireTo_hart_redo (s : State) (pc : Word) : (s.retireTo pc).hart.redo = s.hart.redo := rfl
@[simp] theorem State.retireTo_x (s : State) (pc : Word) : (s.retireTo pc).hart.sc.x = s.hart.sc.x := rfl
@[simp] theorem State.retireTo_shadow (s : State) (pc : Word) : (s.retireTo pc).hart.sc.shadow = s.hart.sc.shadow := rfl
@[simp] theorem State.retireTo_pc (s : State) (pc : Word) : (s.retireTo pc).hart.sc.pc = pc := rfl
@[simp] theorem State.retireTo_cycle (s : State) (pc : Word) : (s.retireTo pc).hart.sc.cycle = s.hart.sc.cycle := rfl
@[simp] theorem State.retireTo_instret (s : State) (pc : Word) : (s.retireTo pc).hart.sc.instret = s.hart.sc.instret + 1 := rfl
@[simp] theorem State.retireTo_fcsr (s : State) (pc : Word) : (s.retireTo pc).hart.sc.fcsr = s.hart.sc.fcsr := rfl
@[simp] theorem State.retireTo_tcause (s : State) (pc : Word) : (s.retireTo pc).hart.sc.tcause = s.hart.sc.tcause := rfl
@[simp] theorem State.retireTo_tpc (s : State) (pc : Word) : (s.retireTo pc).hart.sc.tpc = s.hart.sc.tpc := rfl
@[simp] theorem State.retireTo_tval (s : State) (pc : Word) : (s.retireTo pc).hart.sc.tval = s.hart.sc.tval := rfl
@[simp] theorem State.retireTo_rndseed (s : State) (pc : Word) : (s.retireTo pc).hart.sc.rndseed = s.hart.sc.rndseed := rfl
@[simp] theorem State.retireTo_gens (s : State) (pc : Word) : (s.retireTo pc).hart.sc.gens = s.hart.sc.gens := rfl
@[simp] theorem State.retireTo_lend (s : State) (pc : Word) : (s.retireTo pc).hart.sc.lend = s.hart.sc.lend &&& 0x7FFFFFFF#32 := rfl
@[simp] theorem State.retireTo_tdeleg (s : State) (pc : Word) : (s.retireTo pc).hart.sc.tdeleg = s.hart.sc.tdeleg := rfl
@[simp] theorem State.retireTo_vstartArmed (s : State) (pc : Word) : (s.retireTo pc).hart.sc.vstartArmed = false := rfl
@[simp] theorem State.retireTo_vstart (s : State) (pc : Word) : (s.retireTo pc).hart.sc.vstart = s.hart.sc.vstart := rfl
@[simp] theorem State.retireTo_uiEn (s : State) (pc : Word) : (s.retireTo pc).hart.sc.uiEn = s.hart.sc.uiEn := rfl
@[simp] theorem State.retireTo_uiPend (s : State) (pc : Word) : (s.retireTo pc).hart.sc.uiPend = s.hart.sc.uiPend := rfl
@[simp] theorem State.retireTo_uiActive (s : State) (pc : Word) : (s.retireTo pc).hart.sc.uiActive = s.hart.sc.uiActive := rfl
@[simp] theorem State.retireTo_uiRstrt (s : State) (pc : Word) : (s.retireTo pc).hart.sc.uiRstrt = s.hart.sc.uiRstrt := rfl
@[simp] theorem State.retireTo_uivec (s : State) (pc : Word) : (s.retireTo pc).hart.sc.uivec = s.hart.sc.uivec := rfl
@[simp] theorem State.retireTo_uiepc (s : State) (pc : Word) : (s.retireTo pc).hart.sc.uiepc = s.hart.sc.uiepc := rfl
@[simp] theorem State.retireTo_uiEvents (s : State) (pc : Word) : (s.retireTo pc).hart.sc.uiEvents = s.hart.sc.uiEvents := rfl
@[simp] theorem State.retireTo_uiCauseTag (s : State) (pc : Word) : (s.retireTo pc).hart.sc.uiCauseTag = s.hart.sc.uiCauseTag := rfl
@[simp] theorem State.retireTo_uilend (s : State) (pc : Word) : (s.retireTo pc).hart.sc.uilend = s.hart.sc.uilend := rfl
@[simp] theorem State.retireTo_uiCount (s : State) (pc : Word) : (s.retireTo pc).hart.sc.uiCount = s.hart.sc.uiCount := rfl
@[simp] theorem State.retireTo_uiTag (s : State) (pc : Word) : (s.retireTo pc).hart.sc.uiTag = s.hart.sc.uiTag := rfl
@[simp] theorem State.retireTo_splitr (s : State) (pc : Word) : (s.retireTo pc).hart.sc.splitr = s.hart.sc.splitr := rfl
@[simp] theorem State.retireTo_bkshuf (s : State) (pc : Word) : (s.retireTo pc).hart.sc.bkshuf = s.hart.sc.bkshuf := rfl
@[simp] theorem State.retireTo_copyTag (s : State) (pc : Word) : (s.retireTo pc).hart.sc.copyTag = s.hart.sc.copyTag := rfl
@[simp] theorem State.retireTo_bkTag (s : State) (pc : Word) : (s.retireTo pc).hart.sc.bkTag = s.hart.sc.bkTag := rfl
@[simp] theorem State.retireTo_bkEpoch (s : State) (pc : Word) : (s.retireTo pc).hart.sc.bkEpoch = s.hart.sc.bkEpoch := rfl
@[simp] theorem State.retireTo_monitor (s : State) (pc : Word) : (s.retireTo pc).hart.sc.monitor = s.hart.sc.monitor := rfl
@[simp] theorem State.retireTo_ctvec (s : State) (pc : Word) : (s.retireTo pc).hart.sc.ctvec = s.hart.sc.ctvec := rfl
@[simp] theorem State.retire_eq (s : State) : s.retire = s.retireTo (s.hart.sc.pc + 4) := rfl

/-! ### A change to a context -/

@[simp] theorem State.updCtx_part (s : State) (asid : Nat) (f : Context → Context) : (s.updCtx asid f).part = s.part := rfl
@[simp] theorem State.updCtx_boot (s : State) (asid : Nat) (f : Context → Context) : (s.updCtx asid f).boot = s.boot := rfl
@[simp] theorem State.updCtx_svn (s : State) (asid : Nat) (f : Context → Context) : (s.updCtx asid f).svn = s.svn := rfl
@[simp] theorem State.updCtx_meas (s : State) (asid : Nat) (f : Context → Context) : (s.updCtx asid f).meas = s.meas := rfl
@[simp] theorem State.updCtx_measExt (s : State) (asid : Nat) (f : Context → Context) : (s.updCtx asid f).measExt = s.measExt := rfl
@[simp] theorem State.updCtx_attNonce (s : State) (asid : Nat) (f : Context → Context) : (s.updCtx asid f).attNonce = s.attNonce := rfl
@[simp] theorem State.updCtx_attBuf (s : State) (asid : Nat) (f : Context → Context) : (s.updCtx asid f).attBuf = s.attBuf := rfl
@[simp] theorem State.updCtx_attBusy (s : State) (asid : Nat) (f : Context → Context) : (s.updCtx asid f).attBusy = s.attBusy := rfl
@[simp] theorem State.updCtx_attResult (s : State) (asid : Nat) (f : Context → Context) : (s.updCtx asid f).attResult = s.attResult := rfl
@[simp] theorem State.updCtx_idcount (s : State) (asid : Nat) (f : Context → Context) : (s.updCtx asid f).idcount = s.idcount := rfl
@[simp] theorem State.updCtx_mem (s : State) (asid : Nat) (f : Context → Context) : (s.updCtx asid f).mem = s.mem := rfl
@[simp] theorem State.updCtx_settle (s : State) (asid : Nat) (f : Context → Context) : (s.updCtx asid f).settle = s.settle := rfl
@[simp] theorem State.updCtx_discarded (s : State) (asid : Nat) (f : Context → Context) : (s.updCtx asid f).discarded = s.discarded := rfl
@[simp] theorem State.updCtx_potLines (s : State) (asid : Nat) (f : Context → Context) : (s.updCtx asid f).potLines = s.potLines := rfl
@[simp] theorem State.updCtx_potMaps (s : State) (asid : Nat) (f : Context → Context) : (s.updCtx asid f).potMaps = s.potMaps := rfl
@[simp] theorem State.updCtx_ranges (s : State) (asid : Nat) (f : Context → Context) : (s.updCtx asid f).ranges = s.ranges := rfl
@[simp] theorem State.updCtx_potQueue (s : State) (asid : Nat) (f : Context → Context) : (s.updCtx asid f).potQueue = s.potQueue := rfl
@[simp] theorem State.updCtx_msc (s : State) (asid : Nat) (f : Context → Context) : (s.updCtx asid f).msc = s.msc := rfl
@[simp] theorem State.updCtx_hart (s : State) (asid : Nat) (f : Context → Context) : (s.updCtx asid f).hart = s.hart := rfl
@[simp] theorem State.updCtx_others (s : State) (asid : Nat) (f : Context → Context) : (s.updCtx asid f).others = s.others := rfl
@[simp] theorem State.updCtx_vdc (s : State) (asid : Nat) (f : Context → Context) : (s.updCtx asid f).vdc = s.vdc := rfl
@[simp] theorem State.updCtx_icache (s : State) (asid : Nat) (f : Context → Context) : (s.updCtx asid f).icache = s.icache := rfl
@[simp] theorem State.updCtx_tlb (s : State) (asid : Nat) (f : Context → Context) : (s.updCtx asid f).tlb = s.tlb := rfl
@[simp] theorem State.updCtx_bigPages (s : State) (asid : Nat) (f : Context → Context) : (s.updCtx asid f).bigPages = s.bigPages := rfl
@[simp] theorem State.updCtx_collector (s : State) (asid : Nat) (f : Context → Context) : (s.updCtx asid f).collector = s.collector := rfl
@[simp] theorem State.updCtx_potStacks (s : State) (asid : Nat) (f : Context → Context) : (s.updCtx asid f).potStacks = s.potStacks := rfl
@[simp] theorem State.updCtx_holders (s : State) (asid : Nat) (f : Context → Context) : (s.updCtx asid f).holders = s.holders := rfl
@[simp] theorem State.updCtx_usedPads (s : State) (asid : Nat) (f : Context → Context) : (s.updCtx asid f).usedPads = s.usedPads := rfl
@[simp] theorem State.updCtx_holds (s : State) (asid : Nat) (f : Context → Context) : (s.updCtx asid f).holds = s.holds := rfl
@[simp] theorem State.updCtx_farms (s : State) (asid : Nat) (f : Context → Context) : (s.updCtx asid f).farms = s.farms := rfl
@[simp] theorem State.updCtx_copies (s : State) (asid : Nat) (f : Context → Context) : (s.updCtx asid f).copies = s.copies := rfl
@[simp] theorem State.updCtx_outbox (s : State) (asid : Nat) (f : Context → Context) : (s.updCtx asid f).outbox = s.outbox := rfl
@[simp] theorem State.updCtx_answers (s : State) (asid : Nat) (f : Context → Context) : (s.updCtx asid f).answers = s.answers := rfl
@[simp] theorem State.updCtx_bks (s : State) (asid : Nat) (f : Context → Context) : (s.updCtx asid f).bks = s.bks := rfl
@[simp] theorem State.updCtx_placements (s : State) (asid : Nat) (f : Context → Context) : (s.updCtx asid f).placements = s.placements := rfl
@[simp] theorem State.updCtx_collapses (s : State) (asid : Nat) (f : Context → Context) : (s.updCtx asid f).collapses = s.collapses := rfl
@[simp] theorem State.updCtx_faults (s : State) (asid : Nat) (f : Context → Context) : (s.updCtx asid f).faults = s.faults := rfl
@[simp] theorem State.updCtx_dies (s : State) (asid : Nat) (f : Context → Context) : (s.updCtx asid f).dies = s.dies := rfl
@[simp] theorem State.updCtx_hints (s : State) (asid : Nat) (f : Context → Context) : (s.updCtx asid f).hints = s.hints := rfl
@[simp] theorem State.updCtx_sleeping (s : State) (asid : Nat) (f : Context → Context) : (s.updCtx asid f).sleeping = s.sleeping := rfl
@[simp] theorem State.updCtx_rounds (s : State) (asid : Nat) (f : Context → Context) : (s.updCtx asid f).rounds = s.rounds := rfl
@[simp] theorem State.updCtx_hostData (s : State) (asid : Nat) (f : Context → Context) : (s.updCtx asid f).hostData = s.hostData := rfl
@[simp] theorem State.updCtx_input (s : State) (asid : Nat) (f : Context → Context) : (s.updCtx asid f).input = s.input := rfl
@[simp] theorem State.updCtx_agenda (s : State) (asid : Nat) (f : Context → Context) : (s.updCtx asid f).agenda = s.agenda := rfl
@[simp] theorem State.updCtx_prompt (s : State) (asid : Nat) (f : Context → Context) : (s.updCtx asid f).prompt = s.prompt := rfl
@[simp] theorem State.updCtx_free (s : State) (asid : Nat) (f : Context → Context) : (s.updCtx asid f).free = s.free := rfl

/-! ### A change to a die -/

@[simp] theorem State.updDie_part (s : State) (k : Nat) (f : Die → Die) : (s.updDie k f).part = s.part := by unfold State.updDie; split <;> rfl
@[simp] theorem State.updDie_boot (s : State) (k : Nat) (f : Die → Die) : (s.updDie k f).boot = s.boot := by unfold State.updDie; split <;> rfl
@[simp] theorem State.updDie_svn (s : State) (k : Nat) (f : Die → Die) : (s.updDie k f).svn = s.svn := by unfold State.updDie; split <;> rfl
@[simp] theorem State.updDie_meas (s : State) (k : Nat) (f : Die → Die) : (s.updDie k f).meas = s.meas := by unfold State.updDie; split <;> rfl
@[simp] theorem State.updDie_measExt (s : State) (k : Nat) (f : Die → Die) : (s.updDie k f).measExt = s.measExt := by unfold State.updDie; split <;> rfl
@[simp] theorem State.updDie_attNonce (s : State) (k : Nat) (f : Die → Die) : (s.updDie k f).attNonce = s.attNonce := by unfold State.updDie; split <;> rfl
@[simp] theorem State.updDie_attBuf (s : State) (k : Nat) (f : Die → Die) : (s.updDie k f).attBuf = s.attBuf := by unfold State.updDie; split <;> rfl
@[simp] theorem State.updDie_attBusy (s : State) (k : Nat) (f : Die → Die) : (s.updDie k f).attBusy = s.attBusy := by unfold State.updDie; split <;> rfl
@[simp] theorem State.updDie_attResult (s : State) (k : Nat) (f : Die → Die) : (s.updDie k f).attResult = s.attResult := by unfold State.updDie; split <;> rfl
@[simp] theorem State.updDie_idcount (s : State) (k : Nat) (f : Die → Die) : (s.updDie k f).idcount = s.idcount := by unfold State.updDie; split <;> rfl
@[simp] theorem State.updDie_mem (s : State) (k : Nat) (f : Die → Die) : (s.updDie k f).mem = s.mem := by unfold State.updDie; split <;> rfl
@[simp] theorem State.updDie_settle (s : State) (k : Nat) (f : Die → Die) : (s.updDie k f).settle = s.settle := by unfold State.updDie; split <;> rfl
@[simp] theorem State.updDie_discarded (s : State) (k : Nat) (f : Die → Die) : (s.updDie k f).discarded = s.discarded := by unfold State.updDie; split <;> rfl
@[simp] theorem State.updDie_potLines (s : State) (k : Nat) (f : Die → Die) : (s.updDie k f).potLines = s.potLines := by unfold State.updDie; split <;> rfl
@[simp] theorem State.updDie_potMaps (s : State) (k : Nat) (f : Die → Die) : (s.updDie k f).potMaps = s.potMaps := by unfold State.updDie; split <;> rfl
@[simp] theorem State.updDie_ranges (s : State) (k : Nat) (f : Die → Die) : (s.updDie k f).ranges = s.ranges := by unfold State.updDie; split <;> rfl
@[simp] theorem State.updDie_potQueue (s : State) (k : Nat) (f : Die → Die) : (s.updDie k f).potQueue = s.potQueue := by unfold State.updDie; split <;> rfl
@[simp] theorem State.updDie_msc (s : State) (k : Nat) (f : Die → Die) : (s.updDie k f).msc = s.msc := by unfold State.updDie; split <;> rfl
@[simp] theorem State.updDie_hart (s : State) (k : Nat) (f : Die → Die) : (s.updDie k f).hart = s.hart := by unfold State.updDie; split <;> rfl
@[simp] theorem State.updDie_others (s : State) (k : Nat) (f : Die → Die) : (s.updDie k f).others = s.others := by unfold State.updDie; split <;> rfl
@[simp] theorem State.updDie_vdc (s : State) (k : Nat) (f : Die → Die) : (s.updDie k f).vdc = s.vdc := by unfold State.updDie; split <;> rfl
@[simp] theorem State.updDie_icache (s : State) (k : Nat) (f : Die → Die) : (s.updDie k f).icache = s.icache := by unfold State.updDie; split <;> rfl
@[simp] theorem State.updDie_tlb (s : State) (k : Nat) (f : Die → Die) : (s.updDie k f).tlb = s.tlb := by unfold State.updDie; split <;> rfl
@[simp] theorem State.updDie_bigPages (s : State) (k : Nat) (f : Die → Die) : (s.updDie k f).bigPages = s.bigPages := by unfold State.updDie; split <;> rfl
@[simp] theorem State.updDie_collector (s : State) (k : Nat) (f : Die → Die) : (s.updDie k f).collector = s.collector := by unfold State.updDie; split <;> rfl
@[simp] theorem State.updDie_potStacks (s : State) (k : Nat) (f : Die → Die) : (s.updDie k f).potStacks = s.potStacks := by unfold State.updDie; split <;> rfl
@[simp] theorem State.updDie_holders (s : State) (k : Nat) (f : Die → Die) : (s.updDie k f).holders = s.holders := by unfold State.updDie; split <;> rfl
@[simp] theorem State.updDie_usedPads (s : State) (k : Nat) (f : Die → Die) : (s.updDie k f).usedPads = s.usedPads := by unfold State.updDie; split <;> rfl
@[simp] theorem State.updDie_holds (s : State) (k : Nat) (f : Die → Die) : (s.updDie k f).holds = s.holds := by unfold State.updDie; split <;> rfl
@[simp] theorem State.updDie_contexts (s : State) (k : Nat) (f : Die → Die) : (s.updDie k f).contexts = s.contexts := by unfold State.updDie; split <;> rfl
@[simp] theorem State.updDie_farms (s : State) (k : Nat) (f : Die → Die) : (s.updDie k f).farms = s.farms := by unfold State.updDie; split <;> rfl
@[simp] theorem State.updDie_copies (s : State) (k : Nat) (f : Die → Die) : (s.updDie k f).copies = s.copies := by unfold State.updDie; split <;> rfl
@[simp] theorem State.updDie_outbox (s : State) (k : Nat) (f : Die → Die) : (s.updDie k f).outbox = s.outbox := by unfold State.updDie; split <;> rfl
@[simp] theorem State.updDie_answers (s : State) (k : Nat) (f : Die → Die) : (s.updDie k f).answers = s.answers := by unfold State.updDie; split <;> rfl
@[simp] theorem State.updDie_bks (s : State) (k : Nat) (f : Die → Die) : (s.updDie k f).bks = s.bks := by unfold State.updDie; split <;> rfl
@[simp] theorem State.updDie_placements (s : State) (k : Nat) (f : Die → Die) : (s.updDie k f).placements = s.placements := by unfold State.updDie; split <;> rfl
@[simp] theorem State.updDie_collapses (s : State) (k : Nat) (f : Die → Die) : (s.updDie k f).collapses = s.collapses := by unfold State.updDie; split <;> rfl
@[simp] theorem State.updDie_faults (s : State) (k : Nat) (f : Die → Die) : (s.updDie k f).faults = s.faults := by unfold State.updDie; split <;> rfl
@[simp] theorem State.updDie_hints (s : State) (k : Nat) (f : Die → Die) : (s.updDie k f).hints = s.hints := by unfold State.updDie; split <;> rfl
@[simp] theorem State.updDie_sleeping (s : State) (k : Nat) (f : Die → Die) : (s.updDie k f).sleeping = s.sleeping := by unfold State.updDie; split <;> rfl
@[simp] theorem State.updDie_rounds (s : State) (k : Nat) (f : Die → Die) : (s.updDie k f).rounds = s.rounds := by unfold State.updDie; split <;> rfl
@[simp] theorem State.updDie_hostData (s : State) (k : Nat) (f : Die → Die) : (s.updDie k f).hostData = s.hostData := by unfold State.updDie; split <;> rfl
@[simp] theorem State.updDie_input (s : State) (k : Nat) (f : Die → Die) : (s.updDie k f).input = s.input := by unfold State.updDie; split <;> rfl
@[simp] theorem State.updDie_agenda (s : State) (k : Nat) (f : Die → Die) : (s.updDie k f).agenda = s.agenda := by unfold State.updDie; split <;> rfl
@[simp] theorem State.updDie_prompt (s : State) (k : Nat) (f : Die → Die) : (s.updDie k f).prompt = s.prompt := by unfold State.updDie; split <;> rfl
@[simp] theorem State.updDie_free (s : State) (k : Nat) (f : Die → Die) : (s.updDie k f).free = s.free := by unfold State.updDie; split <;> rfl
@[simp] theorem State.updDie_die (s : State) (k j : Nat) (f : Die → Die) : (s.updDie k f).die j = if j = k ∧ k < 4 then f (s.die k) else s.die j := by
  unfold State.updDie State.die
  by_cases hk : k < 4
  · by_cases h : j = k
    · subst h; simp [hk]
    · have : k ≠ j := fun e => h e.symm
      simp [hk, h, this]
  · simp [hk]


/-! ### A telemetry record -/

@[simp] theorem State.count_part (s : State) (k i n : Nat) : (s.count k i n).part = s.part := State.updDie_part s k _
@[simp] theorem State.count_boot (s : State) (k i n : Nat) : (s.count k i n).boot = s.boot := State.updDie_boot s k _
@[simp] theorem State.count_svn (s : State) (k i n : Nat) : (s.count k i n).svn = s.svn := State.updDie_svn s k _
@[simp] theorem State.count_meas (s : State) (k i n : Nat) : (s.count k i n).meas = s.meas := State.updDie_meas s k _
@[simp] theorem State.count_measExt (s : State) (k i n : Nat) : (s.count k i n).measExt = s.measExt := State.updDie_measExt s k _
@[simp] theorem State.count_attNonce (s : State) (k i n : Nat) : (s.count k i n).attNonce = s.attNonce := State.updDie_attNonce s k _
@[simp] theorem State.count_attBuf (s : State) (k i n : Nat) : (s.count k i n).attBuf = s.attBuf := State.updDie_attBuf s k _
@[simp] theorem State.count_attBusy (s : State) (k i n : Nat) : (s.count k i n).attBusy = s.attBusy := State.updDie_attBusy s k _
@[simp] theorem State.count_attResult (s : State) (k i n : Nat) : (s.count k i n).attResult = s.attResult := State.updDie_attResult s k _
@[simp] theorem State.count_idcount (s : State) (k i n : Nat) : (s.count k i n).idcount = s.idcount := State.updDie_idcount s k _
@[simp] theorem State.count_mem (s : State) (k i n : Nat) : (s.count k i n).mem = s.mem := State.updDie_mem s k _
@[simp] theorem State.count_settle (s : State) (k i n : Nat) : (s.count k i n).settle = s.settle := State.updDie_settle s k _
@[simp] theorem State.count_discarded (s : State) (k i n : Nat) : (s.count k i n).discarded = s.discarded := State.updDie_discarded s k _
@[simp] theorem State.count_potLines (s : State) (k i n : Nat) : (s.count k i n).potLines = s.potLines := State.updDie_potLines s k _
@[simp] theorem State.count_potMaps (s : State) (k i n : Nat) : (s.count k i n).potMaps = s.potMaps := State.updDie_potMaps s k _
@[simp] theorem State.count_ranges (s : State) (k i n : Nat) : (s.count k i n).ranges = s.ranges := State.updDie_ranges s k _
@[simp] theorem State.count_potQueue (s : State) (k i n : Nat) : (s.count k i n).potQueue = s.potQueue := State.updDie_potQueue s k _
@[simp] theorem State.count_msc (s : State) (k i n : Nat) : (s.count k i n).msc = s.msc := State.updDie_msc s k _
@[simp] theorem State.count_hart (s : State) (k i n : Nat) : (s.count k i n).hart = s.hart := State.updDie_hart s k _
@[simp] theorem State.count_others (s : State) (k i n : Nat) : (s.count k i n).others = s.others := State.updDie_others s k _
@[simp] theorem State.count_vdc (s : State) (k i n : Nat) : (s.count k i n).vdc = s.vdc := State.updDie_vdc s k _
@[simp] theorem State.count_icache (s : State) (k i n : Nat) : (s.count k i n).icache = s.icache := State.updDie_icache s k _
@[simp] theorem State.count_tlb (s : State) (k i n : Nat) : (s.count k i n).tlb = s.tlb := State.updDie_tlb s k _
@[simp] theorem State.count_bigPages (s : State) (k i n : Nat) : (s.count k i n).bigPages = s.bigPages := State.updDie_bigPages s k _
@[simp] theorem State.count_collector (s : State) (k i n : Nat) : (s.count k i n).collector = s.collector := State.updDie_collector s k _
@[simp] theorem State.count_potStacks (s : State) (k i n : Nat) : (s.count k i n).potStacks = s.potStacks := State.updDie_potStacks s k _
@[simp] theorem State.count_holders (s : State) (k i n : Nat) : (s.count k i n).holders = s.holders := State.updDie_holders s k _
@[simp] theorem State.count_usedPads (s : State) (k i n : Nat) : (s.count k i n).usedPads = s.usedPads := State.updDie_usedPads s k _
@[simp] theorem State.count_holds (s : State) (k i n : Nat) : (s.count k i n).holds = s.holds := State.updDie_holds s k _
@[simp] theorem State.count_contexts (s : State) (k i n : Nat) : (s.count k i n).contexts = s.contexts := State.updDie_contexts s k _
@[simp] theorem State.count_farms (s : State) (k i n : Nat) : (s.count k i n).farms = s.farms := State.updDie_farms s k _
@[simp] theorem State.count_copies (s : State) (k i n : Nat) : (s.count k i n).copies = s.copies := State.updDie_copies s k _
@[simp] theorem State.count_outbox (s : State) (k i n : Nat) : (s.count k i n).outbox = s.outbox := State.updDie_outbox s k _
@[simp] theorem State.count_answers (s : State) (k i n : Nat) : (s.count k i n).answers = s.answers := State.updDie_answers s k _
@[simp] theorem State.count_bks (s : State) (k i n : Nat) : (s.count k i n).bks = s.bks := State.updDie_bks s k _
@[simp] theorem State.count_placements (s : State) (k i n : Nat) : (s.count k i n).placements = s.placements := State.updDie_placements s k _
@[simp] theorem State.count_collapses (s : State) (k i n : Nat) : (s.count k i n).collapses = s.collapses := State.updDie_collapses s k _
@[simp] theorem State.count_faults (s : State) (k i n : Nat) : (s.count k i n).faults = s.faults := State.updDie_faults s k _
@[simp] theorem State.count_hints (s : State) (k i n : Nat) : (s.count k i n).hints = s.hints := State.updDie_hints s k _
@[simp] theorem State.count_sleeping (s : State) (k i n : Nat) : (s.count k i n).sleeping = s.sleeping := State.updDie_sleeping s k _
@[simp] theorem State.count_rounds (s : State) (k i n : Nat) : (s.count k i n).rounds = s.rounds := State.updDie_rounds s k _
@[simp] theorem State.count_hostData (s : State) (k i n : Nat) : (s.count k i n).hostData = s.hostData := State.updDie_hostData s k _
@[simp] theorem State.count_input (s : State) (k i n : Nat) : (s.count k i n).input = s.input := State.updDie_input s k _
@[simp] theorem State.count_agenda (s : State) (k i n : Nat) : (s.count k i n).agenda = s.agenda := State.updDie_agenda s k _
@[simp] theorem State.count_prompt (s : State) (k i n : Nat) : (s.count k i n).prompt = s.prompt := State.updDie_prompt s k _
@[simp] theorem State.count_free (s : State) (k i n : Nat) : (s.count k i n).free = s.free := State.updDie_free s k _

/-! ### A progress event -/

@[simp] theorem State.progress_part (s : State) (asid : Nat) : (s.progress asid).part = s.part := rfl
@[simp] theorem State.progress_boot (s : State) (asid : Nat) : (s.progress asid).boot = s.boot := rfl
@[simp] theorem State.progress_svn (s : State) (asid : Nat) : (s.progress asid).svn = s.svn := rfl
@[simp] theorem State.progress_meas (s : State) (asid : Nat) : (s.progress asid).meas = s.meas := rfl
@[simp] theorem State.progress_measExt (s : State) (asid : Nat) : (s.progress asid).measExt = s.measExt := rfl
@[simp] theorem State.progress_attNonce (s : State) (asid : Nat) : (s.progress asid).attNonce = s.attNonce := rfl
@[simp] theorem State.progress_attBuf (s : State) (asid : Nat) : (s.progress asid).attBuf = s.attBuf := rfl
@[simp] theorem State.progress_attBusy (s : State) (asid : Nat) : (s.progress asid).attBusy = s.attBusy := rfl
@[simp] theorem State.progress_attResult (s : State) (asid : Nat) : (s.progress asid).attResult = s.attResult := rfl
@[simp] theorem State.progress_idcount (s : State) (asid : Nat) : (s.progress asid).idcount = s.idcount := rfl
@[simp] theorem State.progress_mem (s : State) (asid : Nat) : (s.progress asid).mem = s.mem := rfl
@[simp] theorem State.progress_settle (s : State) (asid : Nat) : (s.progress asid).settle = s.settle := rfl
@[simp] theorem State.progress_discarded (s : State) (asid : Nat) : (s.progress asid).discarded = s.discarded := rfl
@[simp] theorem State.progress_potLines (s : State) (asid : Nat) : (s.progress asid).potLines = s.potLines := rfl
@[simp] theorem State.progress_potMaps (s : State) (asid : Nat) : (s.progress asid).potMaps = s.potMaps := rfl
@[simp] theorem State.progress_ranges (s : State) (asid : Nat) : (s.progress asid).ranges = s.ranges := rfl
@[simp] theorem State.progress_potQueue (s : State) (asid : Nat) : (s.progress asid).potQueue = s.potQueue := rfl
@[simp] theorem State.progress_msc (s : State) (asid : Nat) : (s.progress asid).msc = s.msc := rfl
@[simp] theorem State.progress_hart (s : State) (asid : Nat) : (s.progress asid).hart = s.hart := rfl
@[simp] theorem State.progress_others (s : State) (asid : Nat) : (s.progress asid).others = s.others := rfl
@[simp] theorem State.progress_vdc (s : State) (asid : Nat) : (s.progress asid).vdc = s.vdc := rfl
@[simp] theorem State.progress_icache (s : State) (asid : Nat) : (s.progress asid).icache = s.icache := rfl
@[simp] theorem State.progress_tlb (s : State) (asid : Nat) : (s.progress asid).tlb = s.tlb := rfl
@[simp] theorem State.progress_bigPages (s : State) (asid : Nat) : (s.progress asid).bigPages = s.bigPages := rfl
@[simp] theorem State.progress_collector (s : State) (asid : Nat) : (s.progress asid).collector = s.collector := rfl
@[simp] theorem State.progress_potStacks (s : State) (asid : Nat) : (s.progress asid).potStacks = s.potStacks := rfl
@[simp] theorem State.progress_holders (s : State) (asid : Nat) : (s.progress asid).holders = s.holders := rfl
@[simp] theorem State.progress_usedPads (s : State) (asid : Nat) : (s.progress asid).usedPads = s.usedPads := rfl
@[simp] theorem State.progress_holds (s : State) (asid : Nat) : (s.progress asid).holds = s.holds := rfl
@[simp] theorem State.progress_farms (s : State) (asid : Nat) : (s.progress asid).farms = s.farms := rfl
@[simp] theorem State.progress_copies (s : State) (asid : Nat) : (s.progress asid).copies = s.copies := rfl
@[simp] theorem State.progress_outbox (s : State) (asid : Nat) : (s.progress asid).outbox = s.outbox := rfl
@[simp] theorem State.progress_answers (s : State) (asid : Nat) : (s.progress asid).answers = s.answers := rfl
@[simp] theorem State.progress_bks (s : State) (asid : Nat) : (s.progress asid).bks = s.bks := rfl
@[simp] theorem State.progress_placements (s : State) (asid : Nat) : (s.progress asid).placements = s.placements := rfl
@[simp] theorem State.progress_collapses (s : State) (asid : Nat) : (s.progress asid).collapses = s.collapses := rfl
@[simp] theorem State.progress_faults (s : State) (asid : Nat) : (s.progress asid).faults = s.faults := rfl
@[simp] theorem State.progress_dies (s : State) (asid : Nat) : (s.progress asid).dies = s.dies := rfl
@[simp] theorem State.progress_hints (s : State) (asid : Nat) : (s.progress asid).hints = s.hints := rfl
@[simp] theorem State.progress_sleeping (s : State) (asid : Nat) : (s.progress asid).sleeping = s.sleeping := rfl
@[simp] theorem State.progress_rounds (s : State) (asid : Nat) : (s.progress asid).rounds = s.rounds := rfl
@[simp] theorem State.progress_hostData (s : State) (asid : Nat) : (s.progress asid).hostData = s.hostData := rfl
@[simp] theorem State.progress_input (s : State) (asid : Nat) : (s.progress asid).input = s.input := rfl
@[simp] theorem State.progress_agenda (s : State) (asid : Nat) : (s.progress asid).agenda = s.agenda := rfl
@[simp] theorem State.progress_prompt (s : State) (asid : Nat) : (s.progress asid).prompt = s.prompt := rfl
@[simp] theorem State.progress_free (s : State) (asid : Nat) : (s.progress asid).free = s.free := rfl

/-! ### A progress event of the party that executes -/

@[simp] theorem State.note_part (s : State) : (s.note).part = s.part := by unfold State.note; split <;> rfl
@[simp] theorem State.note_boot (s : State) : (s.note).boot = s.boot := by unfold State.note; split <;> rfl
@[simp] theorem State.note_svn (s : State) : (s.note).svn = s.svn := by unfold State.note; split <;> rfl
@[simp] theorem State.note_meas (s : State) : (s.note).meas = s.meas := by unfold State.note; split <;> rfl
@[simp] theorem State.note_measExt (s : State) : (s.note).measExt = s.measExt := by unfold State.note; split <;> rfl
@[simp] theorem State.note_attNonce (s : State) : (s.note).attNonce = s.attNonce := by unfold State.note; split <;> rfl
@[simp] theorem State.note_attBuf (s : State) : (s.note).attBuf = s.attBuf := by unfold State.note; split <;> rfl
@[simp] theorem State.note_attBusy (s : State) : (s.note).attBusy = s.attBusy := by unfold State.note; split <;> rfl
@[simp] theorem State.note_attResult (s : State) : (s.note).attResult = s.attResult := by unfold State.note; split <;> rfl
@[simp] theorem State.note_idcount (s : State) : (s.note).idcount = s.idcount := by unfold State.note; split <;> rfl
@[simp] theorem State.note_mem (s : State) : (s.note).mem = s.mem := by unfold State.note; split <;> rfl
@[simp] theorem State.note_settle (s : State) : (s.note).settle = s.settle := by unfold State.note; split <;> rfl
@[simp] theorem State.note_discarded (s : State) : (s.note).discarded = s.discarded := by unfold State.note; split <;> rfl
@[simp] theorem State.note_potLines (s : State) : (s.note).potLines = s.potLines := by unfold State.note; split <;> rfl
@[simp] theorem State.note_potMaps (s : State) : (s.note).potMaps = s.potMaps := by unfold State.note; split <;> rfl
@[simp] theorem State.note_ranges (s : State) : (s.note).ranges = s.ranges := by unfold State.note; split <;> rfl
@[simp] theorem State.note_potQueue (s : State) : (s.note).potQueue = s.potQueue := by unfold State.note; split <;> rfl
@[simp] theorem State.note_msc (s : State) : (s.note).msc = s.msc := by unfold State.note; split <;> rfl
@[simp] theorem State.note_hart (s : State) : (s.note).hart = s.hart := by unfold State.note; split <;> rfl
@[simp] theorem State.note_others (s : State) : (s.note).others = s.others := by unfold State.note; split <;> rfl
@[simp] theorem State.note_vdc (s : State) : (s.note).vdc = s.vdc := by unfold State.note; split <;> rfl
@[simp] theorem State.note_icache (s : State) : (s.note).icache = s.icache := by unfold State.note; split <;> rfl
@[simp] theorem State.note_tlb (s : State) : (s.note).tlb = s.tlb := by unfold State.note; split <;> rfl
@[simp] theorem State.note_bigPages (s : State) : (s.note).bigPages = s.bigPages := by unfold State.note; split <;> rfl
@[simp] theorem State.note_collector (s : State) : (s.note).collector = s.collector := by unfold State.note; split <;> rfl
@[simp] theorem State.note_potStacks (s : State) : (s.note).potStacks = s.potStacks := by unfold State.note; split <;> rfl
@[simp] theorem State.note_holders (s : State) : (s.note).holders = s.holders := by unfold State.note; split <;> rfl
@[simp] theorem State.note_usedPads (s : State) : (s.note).usedPads = s.usedPads := by unfold State.note; split <;> rfl
@[simp] theorem State.note_holds (s : State) : (s.note).holds = s.holds := by unfold State.note; split <;> rfl
@[simp] theorem State.note_farms (s : State) : (s.note).farms = s.farms := by unfold State.note; split <;> rfl
@[simp] theorem State.note_copies (s : State) : (s.note).copies = s.copies := by unfold State.note; split <;> rfl
@[simp] theorem State.note_outbox (s : State) : (s.note).outbox = s.outbox := by unfold State.note; split <;> rfl
@[simp] theorem State.note_answers (s : State) : (s.note).answers = s.answers := by unfold State.note; split <;> rfl
@[simp] theorem State.note_bks (s : State) : (s.note).bks = s.bks := by unfold State.note; split <;> rfl
@[simp] theorem State.note_placements (s : State) : (s.note).placements = s.placements := by unfold State.note; split <;> rfl
@[simp] theorem State.note_collapses (s : State) : (s.note).collapses = s.collapses := by unfold State.note; split <;> rfl
@[simp] theorem State.note_faults (s : State) : (s.note).faults = s.faults := by unfold State.note; split <;> rfl
@[simp] theorem State.note_dies (s : State) : (s.note).dies = s.dies := by unfold State.note; split <;> rfl
@[simp] theorem State.note_hints (s : State) : (s.note).hints = s.hints := by unfold State.note; split <;> rfl
@[simp] theorem State.note_sleeping (s : State) : (s.note).sleeping = s.sleeping := by unfold State.note; split <;> rfl
@[simp] theorem State.note_rounds (s : State) : (s.note).rounds = s.rounds := by unfold State.note; split <;> rfl
@[simp] theorem State.note_hostData (s : State) : (s.note).hostData = s.hostData := by unfold State.note; split <;> rfl
@[simp] theorem State.note_input (s : State) : (s.note).input = s.input := by unfold State.note; split <;> rfl
@[simp] theorem State.note_agenda (s : State) : (s.note).agenda = s.agenda := by unfold State.note; split <;> rfl
@[simp] theorem State.note_prompt (s : State) : (s.note).prompt = s.prompt := by unfold State.note; split <;> rfl
@[simp] theorem State.note_free (s : State) : (s.note).free = s.free := by unfold State.note; split <;> rfl

/-! ### A change to every hart -/

@[simp] theorem State.mapHarts_part (s : State) (f : Hart → Hart) : (s.mapHarts f).part = s.part := rfl
@[simp] theorem State.mapHarts_boot (s : State) (f : Hart → Hart) : (s.mapHarts f).boot = s.boot := rfl
@[simp] theorem State.mapHarts_svn (s : State) (f : Hart → Hart) : (s.mapHarts f).svn = s.svn := rfl
@[simp] theorem State.mapHarts_meas (s : State) (f : Hart → Hart) : (s.mapHarts f).meas = s.meas := rfl
@[simp] theorem State.mapHarts_measExt (s : State) (f : Hart → Hart) : (s.mapHarts f).measExt = s.measExt := rfl
@[simp] theorem State.mapHarts_attNonce (s : State) (f : Hart → Hart) : (s.mapHarts f).attNonce = s.attNonce := rfl
@[simp] theorem State.mapHarts_attBuf (s : State) (f : Hart → Hart) : (s.mapHarts f).attBuf = s.attBuf := rfl
@[simp] theorem State.mapHarts_attBusy (s : State) (f : Hart → Hart) : (s.mapHarts f).attBusy = s.attBusy := rfl
@[simp] theorem State.mapHarts_attResult (s : State) (f : Hart → Hart) : (s.mapHarts f).attResult = s.attResult := rfl
@[simp] theorem State.mapHarts_idcount (s : State) (f : Hart → Hart) : (s.mapHarts f).idcount = s.idcount := rfl
@[simp] theorem State.mapHarts_mem (s : State) (f : Hart → Hart) : (s.mapHarts f).mem = s.mem := rfl
@[simp] theorem State.mapHarts_settle (s : State) (f : Hart → Hart) : (s.mapHarts f).settle = s.settle := rfl
@[simp] theorem State.mapHarts_discarded (s : State) (f : Hart → Hart) : (s.mapHarts f).discarded = s.discarded := rfl
@[simp] theorem State.mapHarts_potLines (s : State) (f : Hart → Hart) : (s.mapHarts f).potLines = s.potLines := rfl
@[simp] theorem State.mapHarts_potMaps (s : State) (f : Hart → Hart) : (s.mapHarts f).potMaps = s.potMaps := rfl
@[simp] theorem State.mapHarts_ranges (s : State) (f : Hart → Hart) : (s.mapHarts f).ranges = s.ranges := rfl
@[simp] theorem State.mapHarts_potQueue (s : State) (f : Hart → Hart) : (s.mapHarts f).potQueue = s.potQueue := rfl
@[simp] theorem State.mapHarts_msc (s : State) (f : Hart → Hart) : (s.mapHarts f).msc = s.msc := rfl
@[simp] theorem State.mapHarts_vdc (s : State) (f : Hart → Hart) : (s.mapHarts f).vdc = s.vdc := rfl
@[simp] theorem State.mapHarts_icache (s : State) (f : Hart → Hart) : (s.mapHarts f).icache = s.icache := rfl
@[simp] theorem State.mapHarts_tlb (s : State) (f : Hart → Hart) : (s.mapHarts f).tlb = s.tlb := rfl
@[simp] theorem State.mapHarts_bigPages (s : State) (f : Hart → Hart) : (s.mapHarts f).bigPages = s.bigPages := rfl
@[simp] theorem State.mapHarts_collector (s : State) (f : Hart → Hart) : (s.mapHarts f).collector = s.collector := rfl
@[simp] theorem State.mapHarts_potStacks (s : State) (f : Hart → Hart) : (s.mapHarts f).potStacks = s.potStacks := rfl
@[simp] theorem State.mapHarts_holders (s : State) (f : Hart → Hart) : (s.mapHarts f).holders = s.holders := rfl
@[simp] theorem State.mapHarts_usedPads (s : State) (f : Hart → Hart) : (s.mapHarts f).usedPads = s.usedPads := rfl
@[simp] theorem State.mapHarts_holds (s : State) (f : Hart → Hart) : (s.mapHarts f).holds = s.holds := rfl
@[simp] theorem State.mapHarts_contexts (s : State) (f : Hart → Hart) : (s.mapHarts f).contexts = s.contexts := rfl
@[simp] theorem State.mapHarts_farms (s : State) (f : Hart → Hart) : (s.mapHarts f).farms = s.farms := rfl
@[simp] theorem State.mapHarts_copies (s : State) (f : Hart → Hart) : (s.mapHarts f).copies = s.copies := rfl
@[simp] theorem State.mapHarts_outbox (s : State) (f : Hart → Hart) : (s.mapHarts f).outbox = s.outbox := rfl
@[simp] theorem State.mapHarts_answers (s : State) (f : Hart → Hart) : (s.mapHarts f).answers = s.answers := rfl
@[simp] theorem State.mapHarts_bks (s : State) (f : Hart → Hart) : (s.mapHarts f).bks = s.bks := rfl
@[simp] theorem State.mapHarts_placements (s : State) (f : Hart → Hart) : (s.mapHarts f).placements = s.placements := rfl
@[simp] theorem State.mapHarts_collapses (s : State) (f : Hart → Hart) : (s.mapHarts f).collapses = s.collapses := rfl
@[simp] theorem State.mapHarts_faults (s : State) (f : Hart → Hart) : (s.mapHarts f).faults = s.faults := rfl
@[simp] theorem State.mapHarts_dies (s : State) (f : Hart → Hart) : (s.mapHarts f).dies = s.dies := rfl
@[simp] theorem State.mapHarts_hints (s : State) (f : Hart → Hart) : (s.mapHarts f).hints = s.hints := rfl
@[simp] theorem State.mapHarts_sleeping (s : State) (f : Hart → Hart) : (s.mapHarts f).sleeping = s.sleeping := rfl
@[simp] theorem State.mapHarts_rounds (s : State) (f : Hart → Hart) : (s.mapHarts f).rounds = s.rounds := rfl
@[simp] theorem State.mapHarts_hostData (s : State) (f : Hart → Hart) : (s.mapHarts f).hostData = s.hostData := rfl
@[simp] theorem State.mapHarts_input (s : State) (f : Hart → Hart) : (s.mapHarts f).input = s.input := rfl
@[simp] theorem State.mapHarts_agenda (s : State) (f : Hart → Hart) : (s.mapHarts f).agenda = s.agenda := rfl
@[simp] theorem State.mapHarts_prompt (s : State) (f : Hart → Hart) : (s.mapHarts f).prompt = s.prompt := rfl
@[simp] theorem State.mapHarts_free (s : State) (f : Hart → Hart) : (s.mapHarts f).free = s.free := rfl
@[simp] theorem State.mapHarts_hart (s : State) (f : Hart → Hart) : (s.mapHarts f).hart = f s.hart := rfl
@[simp] theorem State.mapHarts_others (s : State) (f : Hart → Hart) : (s.mapHarts f).others = s.others.map f := rfl
@[simp] theorem State.mapHarts_allHarts (s : State) (f : Hart → Hart) : (s.mapHarts f).allHarts = s.allHarts.map f := rfl

/-! ### A change to one hart -/

@[simp] theorem State.updHart_part (s : State) (l : Nat) (f : Hart → Hart) : (s.updHart l f).part = s.part := rfl
@[simp] theorem State.updHart_boot (s : State) (l : Nat) (f : Hart → Hart) : (s.updHart l f).boot = s.boot := rfl
@[simp] theorem State.updHart_svn (s : State) (l : Nat) (f : Hart → Hart) : (s.updHart l f).svn = s.svn := rfl
@[simp] theorem State.updHart_meas (s : State) (l : Nat) (f : Hart → Hart) : (s.updHart l f).meas = s.meas := rfl
@[simp] theorem State.updHart_measExt (s : State) (l : Nat) (f : Hart → Hart) : (s.updHart l f).measExt = s.measExt := rfl
@[simp] theorem State.updHart_attNonce (s : State) (l : Nat) (f : Hart → Hart) : (s.updHart l f).attNonce = s.attNonce := rfl
@[simp] theorem State.updHart_attBuf (s : State) (l : Nat) (f : Hart → Hart) : (s.updHart l f).attBuf = s.attBuf := rfl
@[simp] theorem State.updHart_attBusy (s : State) (l : Nat) (f : Hart → Hart) : (s.updHart l f).attBusy = s.attBusy := rfl
@[simp] theorem State.updHart_attResult (s : State) (l : Nat) (f : Hart → Hart) : (s.updHart l f).attResult = s.attResult := rfl
@[simp] theorem State.updHart_idcount (s : State) (l : Nat) (f : Hart → Hart) : (s.updHart l f).idcount = s.idcount := rfl
@[simp] theorem State.updHart_mem (s : State) (l : Nat) (f : Hart → Hart) : (s.updHart l f).mem = s.mem := rfl
@[simp] theorem State.updHart_settle (s : State) (l : Nat) (f : Hart → Hart) : (s.updHart l f).settle = s.settle := rfl
@[simp] theorem State.updHart_discarded (s : State) (l : Nat) (f : Hart → Hart) : (s.updHart l f).discarded = s.discarded := rfl
@[simp] theorem State.updHart_potLines (s : State) (l : Nat) (f : Hart → Hart) : (s.updHart l f).potLines = s.potLines := rfl
@[simp] theorem State.updHart_potMaps (s : State) (l : Nat) (f : Hart → Hart) : (s.updHart l f).potMaps = s.potMaps := rfl
@[simp] theorem State.updHart_ranges (s : State) (l : Nat) (f : Hart → Hart) : (s.updHart l f).ranges = s.ranges := rfl
@[simp] theorem State.updHart_potQueue (s : State) (l : Nat) (f : Hart → Hart) : (s.updHart l f).potQueue = s.potQueue := rfl
@[simp] theorem State.updHart_msc (s : State) (l : Nat) (f : Hart → Hart) : (s.updHart l f).msc = s.msc := rfl
@[simp] theorem State.updHart_vdc (s : State) (l : Nat) (f : Hart → Hart) : (s.updHart l f).vdc = s.vdc := rfl
@[simp] theorem State.updHart_icache (s : State) (l : Nat) (f : Hart → Hart) : (s.updHart l f).icache = s.icache := rfl
@[simp] theorem State.updHart_tlb (s : State) (l : Nat) (f : Hart → Hart) : (s.updHart l f).tlb = s.tlb := rfl
@[simp] theorem State.updHart_bigPages (s : State) (l : Nat) (f : Hart → Hart) : (s.updHart l f).bigPages = s.bigPages := rfl
@[simp] theorem State.updHart_collector (s : State) (l : Nat) (f : Hart → Hart) : (s.updHart l f).collector = s.collector := rfl
@[simp] theorem State.updHart_potStacks (s : State) (l : Nat) (f : Hart → Hart) : (s.updHart l f).potStacks = s.potStacks := rfl
@[simp] theorem State.updHart_holders (s : State) (l : Nat) (f : Hart → Hart) : (s.updHart l f).holders = s.holders := rfl
@[simp] theorem State.updHart_usedPads (s : State) (l : Nat) (f : Hart → Hart) : (s.updHart l f).usedPads = s.usedPads := rfl
@[simp] theorem State.updHart_holds (s : State) (l : Nat) (f : Hart → Hart) : (s.updHart l f).holds = s.holds := rfl
@[simp] theorem State.updHart_contexts (s : State) (l : Nat) (f : Hart → Hart) : (s.updHart l f).contexts = s.contexts := rfl
@[simp] theorem State.updHart_farms (s : State) (l : Nat) (f : Hart → Hart) : (s.updHart l f).farms = s.farms := rfl
@[simp] theorem State.updHart_copies (s : State) (l : Nat) (f : Hart → Hart) : (s.updHart l f).copies = s.copies := rfl
@[simp] theorem State.updHart_outbox (s : State) (l : Nat) (f : Hart → Hart) : (s.updHart l f).outbox = s.outbox := rfl
@[simp] theorem State.updHart_answers (s : State) (l : Nat) (f : Hart → Hart) : (s.updHart l f).answers = s.answers := rfl
@[simp] theorem State.updHart_bks (s : State) (l : Nat) (f : Hart → Hart) : (s.updHart l f).bks = s.bks := rfl
@[simp] theorem State.updHart_placements (s : State) (l : Nat) (f : Hart → Hart) : (s.updHart l f).placements = s.placements := rfl
@[simp] theorem State.updHart_collapses (s : State) (l : Nat) (f : Hart → Hart) : (s.updHart l f).collapses = s.collapses := rfl
@[simp] theorem State.updHart_faults (s : State) (l : Nat) (f : Hart → Hart) : (s.updHart l f).faults = s.faults := rfl
@[simp] theorem State.updHart_dies (s : State) (l : Nat) (f : Hart → Hart) : (s.updHart l f).dies = s.dies := rfl
@[simp] theorem State.updHart_hints (s : State) (l : Nat) (f : Hart → Hart) : (s.updHart l f).hints = s.hints := rfl
@[simp] theorem State.updHart_sleeping (s : State) (l : Nat) (f : Hart → Hart) : (s.updHart l f).sleeping = s.sleeping := rfl
@[simp] theorem State.updHart_rounds (s : State) (l : Nat) (f : Hart → Hart) : (s.updHart l f).rounds = s.rounds := rfl
@[simp] theorem State.updHart_hostData (s : State) (l : Nat) (f : Hart → Hart) : (s.updHart l f).hostData = s.hostData := rfl
@[simp] theorem State.updHart_input (s : State) (l : Nat) (f : Hart → Hart) : (s.updHart l f).input = s.input := rfl
@[simp] theorem State.updHart_agenda (s : State) (l : Nat) (f : Hart → Hart) : (s.updHart l f).agenda = s.agenda := rfl
@[simp] theorem State.updHart_prompt (s : State) (l : Nat) (f : Hart → Hart) : (s.updHart l f).prompt = s.prompt := rfl
@[simp] theorem State.updHart_free (s : State) (l : Nat) (f : Hart → Hart) : (s.updHart l f).free = s.free := rfl

/-! ### A change to a farm -/

@[simp] theorem State.updFarm_part (s : State) (asid handle : Nat) (f : Farm → Farm) : (s.updFarm asid handle f).part = s.part := rfl
@[simp] theorem State.updFarm_boot (s : State) (asid handle : Nat) (f : Farm → Farm) : (s.updFarm asid handle f).boot = s.boot := rfl
@[simp] theorem State.updFarm_svn (s : State) (asid handle : Nat) (f : Farm → Farm) : (s.updFarm asid handle f).svn = s.svn := rfl
@[simp] theorem State.updFarm_meas (s : State) (asid handle : Nat) (f : Farm → Farm) : (s.updFarm asid handle f).meas = s.meas := rfl
@[simp] theorem State.updFarm_measExt (s : State) (asid handle : Nat) (f : Farm → Farm) : (s.updFarm asid handle f).measExt = s.measExt := rfl
@[simp] theorem State.updFarm_attNonce (s : State) (asid handle : Nat) (f : Farm → Farm) : (s.updFarm asid handle f).attNonce = s.attNonce := rfl
@[simp] theorem State.updFarm_attBuf (s : State) (asid handle : Nat) (f : Farm → Farm) : (s.updFarm asid handle f).attBuf = s.attBuf := rfl
@[simp] theorem State.updFarm_attBusy (s : State) (asid handle : Nat) (f : Farm → Farm) : (s.updFarm asid handle f).attBusy = s.attBusy := rfl
@[simp] theorem State.updFarm_attResult (s : State) (asid handle : Nat) (f : Farm → Farm) : (s.updFarm asid handle f).attResult = s.attResult := rfl
@[simp] theorem State.updFarm_idcount (s : State) (asid handle : Nat) (f : Farm → Farm) : (s.updFarm asid handle f).idcount = s.idcount := rfl
@[simp] theorem State.updFarm_mem (s : State) (asid handle : Nat) (f : Farm → Farm) : (s.updFarm asid handle f).mem = s.mem := rfl
@[simp] theorem State.updFarm_settle (s : State) (asid handle : Nat) (f : Farm → Farm) : (s.updFarm asid handle f).settle = s.settle := rfl
@[simp] theorem State.updFarm_discarded (s : State) (asid handle : Nat) (f : Farm → Farm) : (s.updFarm asid handle f).discarded = s.discarded := rfl
@[simp] theorem State.updFarm_potLines (s : State) (asid handle : Nat) (f : Farm → Farm) : (s.updFarm asid handle f).potLines = s.potLines := rfl
@[simp] theorem State.updFarm_potMaps (s : State) (asid handle : Nat) (f : Farm → Farm) : (s.updFarm asid handle f).potMaps = s.potMaps := rfl
@[simp] theorem State.updFarm_ranges (s : State) (asid handle : Nat) (f : Farm → Farm) : (s.updFarm asid handle f).ranges = s.ranges := rfl
@[simp] theorem State.updFarm_potQueue (s : State) (asid handle : Nat) (f : Farm → Farm) : (s.updFarm asid handle f).potQueue = s.potQueue := rfl
@[simp] theorem State.updFarm_msc (s : State) (asid handle : Nat) (f : Farm → Farm) : (s.updFarm asid handle f).msc = s.msc := rfl
@[simp] theorem State.updFarm_hart (s : State) (asid handle : Nat) (f : Farm → Farm) : (s.updFarm asid handle f).hart = s.hart := rfl
@[simp] theorem State.updFarm_others (s : State) (asid handle : Nat) (f : Farm → Farm) : (s.updFarm asid handle f).others = s.others := rfl
@[simp] theorem State.updFarm_vdc (s : State) (asid handle : Nat) (f : Farm → Farm) : (s.updFarm asid handle f).vdc = s.vdc := rfl
@[simp] theorem State.updFarm_icache (s : State) (asid handle : Nat) (f : Farm → Farm) : (s.updFarm asid handle f).icache = s.icache := rfl
@[simp] theorem State.updFarm_tlb (s : State) (asid handle : Nat) (f : Farm → Farm) : (s.updFarm asid handle f).tlb = s.tlb := rfl
@[simp] theorem State.updFarm_bigPages (s : State) (asid handle : Nat) (f : Farm → Farm) : (s.updFarm asid handle f).bigPages = s.bigPages := rfl
@[simp] theorem State.updFarm_collector (s : State) (asid handle : Nat) (f : Farm → Farm) : (s.updFarm asid handle f).collector = s.collector := rfl
@[simp] theorem State.updFarm_potStacks (s : State) (asid handle : Nat) (f : Farm → Farm) : (s.updFarm asid handle f).potStacks = s.potStacks := rfl
@[simp] theorem State.updFarm_holders (s : State) (asid handle : Nat) (f : Farm → Farm) : (s.updFarm asid handle f).holders = s.holders := rfl
@[simp] theorem State.updFarm_usedPads (s : State) (asid handle : Nat) (f : Farm → Farm) : (s.updFarm asid handle f).usedPads = s.usedPads := rfl
@[simp] theorem State.updFarm_holds (s : State) (asid handle : Nat) (f : Farm → Farm) : (s.updFarm asid handle f).holds = s.holds := rfl
@[simp] theorem State.updFarm_contexts (s : State) (asid handle : Nat) (f : Farm → Farm) : (s.updFarm asid handle f).contexts = s.contexts := rfl
@[simp] theorem State.updFarm_copies (s : State) (asid handle : Nat) (f : Farm → Farm) : (s.updFarm asid handle f).copies = s.copies := rfl
@[simp] theorem State.updFarm_outbox (s : State) (asid handle : Nat) (f : Farm → Farm) : (s.updFarm asid handle f).outbox = s.outbox := rfl
@[simp] theorem State.updFarm_answers (s : State) (asid handle : Nat) (f : Farm → Farm) : (s.updFarm asid handle f).answers = s.answers := rfl
@[simp] theorem State.updFarm_bks (s : State) (asid handle : Nat) (f : Farm → Farm) : (s.updFarm asid handle f).bks = s.bks := rfl
@[simp] theorem State.updFarm_placements (s : State) (asid handle : Nat) (f : Farm → Farm) : (s.updFarm asid handle f).placements = s.placements := rfl
@[simp] theorem State.updFarm_collapses (s : State) (asid handle : Nat) (f : Farm → Farm) : (s.updFarm asid handle f).collapses = s.collapses := rfl
@[simp] theorem State.updFarm_faults (s : State) (asid handle : Nat) (f : Farm → Farm) : (s.updFarm asid handle f).faults = s.faults := rfl
@[simp] theorem State.updFarm_dies (s : State) (asid handle : Nat) (f : Farm → Farm) : (s.updFarm asid handle f).dies = s.dies := rfl
@[simp] theorem State.updFarm_hints (s : State) (asid handle : Nat) (f : Farm → Farm) : (s.updFarm asid handle f).hints = s.hints := rfl
@[simp] theorem State.updFarm_sleeping (s : State) (asid handle : Nat) (f : Farm → Farm) : (s.updFarm asid handle f).sleeping = s.sleeping := rfl
@[simp] theorem State.updFarm_rounds (s : State) (asid handle : Nat) (f : Farm → Farm) : (s.updFarm asid handle f).rounds = s.rounds := rfl
@[simp] theorem State.updFarm_hostData (s : State) (asid handle : Nat) (f : Farm → Farm) : (s.updFarm asid handle f).hostData = s.hostData := rfl
@[simp] theorem State.updFarm_input (s : State) (asid handle : Nat) (f : Farm → Farm) : (s.updFarm asid handle f).input = s.input := rfl
@[simp] theorem State.updFarm_agenda (s : State) (asid handle : Nat) (f : Farm → Farm) : (s.updFarm asid handle f).agenda = s.agenda := rfl
@[simp] theorem State.updFarm_prompt (s : State) (asid handle : Nat) (f : Farm → Farm) : (s.updFarm asid handle f).prompt = s.prompt := rfl
@[simp] theorem State.updFarm_free (s : State) (asid handle : Nat) (f : Farm → Farm) : (s.updFarm asid handle f).free = s.free := rfl

/-! ### Stream bindings -/

@[simp] theorem State.setBindings_part (s : State) (bs : List Binding) : (s.setBindings bs).part = s.part := rfl
@[simp] theorem State.setBindings_boot (s : State) (bs : List Binding) : (s.setBindings bs).boot = s.boot := rfl
@[simp] theorem State.setBindings_svn (s : State) (bs : List Binding) : (s.setBindings bs).svn = s.svn := rfl
@[simp] theorem State.setBindings_meas (s : State) (bs : List Binding) : (s.setBindings bs).meas = s.meas := rfl
@[simp] theorem State.setBindings_measExt (s : State) (bs : List Binding) : (s.setBindings bs).measExt = s.measExt := rfl
@[simp] theorem State.setBindings_attNonce (s : State) (bs : List Binding) : (s.setBindings bs).attNonce = s.attNonce := rfl
@[simp] theorem State.setBindings_attBuf (s : State) (bs : List Binding) : (s.setBindings bs).attBuf = s.attBuf := rfl
@[simp] theorem State.setBindings_attBusy (s : State) (bs : List Binding) : (s.setBindings bs).attBusy = s.attBusy := rfl
@[simp] theorem State.setBindings_attResult (s : State) (bs : List Binding) : (s.setBindings bs).attResult = s.attResult := rfl
@[simp] theorem State.setBindings_idcount (s : State) (bs : List Binding) : (s.setBindings bs).idcount = s.idcount := rfl
@[simp] theorem State.setBindings_mem (s : State) (bs : List Binding) : (s.setBindings bs).mem = s.mem := rfl
@[simp] theorem State.setBindings_settle (s : State) (bs : List Binding) : (s.setBindings bs).settle = s.settle := rfl
@[simp] theorem State.setBindings_discarded (s : State) (bs : List Binding) : (s.setBindings bs).discarded = s.discarded := rfl
@[simp] theorem State.setBindings_potLines (s : State) (bs : List Binding) : (s.setBindings bs).potLines = s.potLines := rfl
@[simp] theorem State.setBindings_potMaps (s : State) (bs : List Binding) : (s.setBindings bs).potMaps = s.potMaps := rfl
@[simp] theorem State.setBindings_ranges (s : State) (bs : List Binding) : (s.setBindings bs).ranges = s.ranges := rfl
@[simp] theorem State.setBindings_potQueue (s : State) (bs : List Binding) : (s.setBindings bs).potQueue = s.potQueue := rfl
@[simp] theorem State.setBindings_msc (s : State) (bs : List Binding) : (s.setBindings bs).msc = s.msc := rfl
@[simp] theorem State.setBindings_others (s : State) (bs : List Binding) : (s.setBindings bs).others = s.others := rfl
@[simp] theorem State.setBindings_vdc (s : State) (bs : List Binding) : (s.setBindings bs).vdc = s.vdc := rfl
@[simp] theorem State.setBindings_icache (s : State) (bs : List Binding) : (s.setBindings bs).icache = s.icache := rfl
@[simp] theorem State.setBindings_tlb (s : State) (bs : List Binding) : (s.setBindings bs).tlb = s.tlb := rfl
@[simp] theorem State.setBindings_bigPages (s : State) (bs : List Binding) : (s.setBindings bs).bigPages = s.bigPages := rfl
@[simp] theorem State.setBindings_collector (s : State) (bs : List Binding) : (s.setBindings bs).collector = s.collector := rfl
@[simp] theorem State.setBindings_potStacks (s : State) (bs : List Binding) : (s.setBindings bs).potStacks = s.potStacks := rfl
@[simp] theorem State.setBindings_holders (s : State) (bs : List Binding) : (s.setBindings bs).holders = s.holders := rfl
@[simp] theorem State.setBindings_usedPads (s : State) (bs : List Binding) : (s.setBindings bs).usedPads = s.usedPads := rfl
@[simp] theorem State.setBindings_holds (s : State) (bs : List Binding) : (s.setBindings bs).holds = s.holds := rfl
@[simp] theorem State.setBindings_contexts (s : State) (bs : List Binding) : (s.setBindings bs).contexts = s.contexts := rfl
@[simp] theorem State.setBindings_farms (s : State) (bs : List Binding) : (s.setBindings bs).farms = s.farms := rfl
@[simp] theorem State.setBindings_copies (s : State) (bs : List Binding) : (s.setBindings bs).copies = s.copies := rfl
@[simp] theorem State.setBindings_outbox (s : State) (bs : List Binding) : (s.setBindings bs).outbox = s.outbox := rfl
@[simp] theorem State.setBindings_answers (s : State) (bs : List Binding) : (s.setBindings bs).answers = s.answers := rfl
@[simp] theorem State.setBindings_bks (s : State) (bs : List Binding) : (s.setBindings bs).bks = s.bks := rfl
@[simp] theorem State.setBindings_placements (s : State) (bs : List Binding) : (s.setBindings bs).placements = s.placements := rfl
@[simp] theorem State.setBindings_collapses (s : State) (bs : List Binding) : (s.setBindings bs).collapses = s.collapses := rfl
@[simp] theorem State.setBindings_faults (s : State) (bs : List Binding) : (s.setBindings bs).faults = s.faults := rfl
@[simp] theorem State.setBindings_dies (s : State) (bs : List Binding) : (s.setBindings bs).dies = s.dies := rfl
@[simp] theorem State.setBindings_hints (s : State) (bs : List Binding) : (s.setBindings bs).hints = s.hints := rfl
@[simp] theorem State.setBindings_sleeping (s : State) (bs : List Binding) : (s.setBindings bs).sleeping = s.sleeping := rfl
@[simp] theorem State.setBindings_rounds (s : State) (bs : List Binding) : (s.setBindings bs).rounds = s.rounds := rfl
@[simp] theorem State.setBindings_hostData (s : State) (bs : List Binding) : (s.setBindings bs).hostData = s.hostData := rfl
@[simp] theorem State.setBindings_input (s : State) (bs : List Binding) : (s.setBindings bs).input = s.input := rfl
@[simp] theorem State.setBindings_agenda (s : State) (bs : List Binding) : (s.setBindings bs).agenda = s.agenda := rfl
@[simp] theorem State.setBindings_prompt (s : State) (bs : List Binding) : (s.setBindings bs).prompt = s.prompt := rfl
@[simp] theorem State.setBindings_free (s : State) (bs : List Binding) : (s.setBindings bs).free = s.free := rfl

/-! ### A free choice -/

@[simp] theorem State.choose_part (s : State) (n : Nat) : ((s.choose n).2).part = s.part := by unfold State.choose; split <;> rfl
@[simp] theorem State.choose_boot (s : State) (n : Nat) : ((s.choose n).2).boot = s.boot := by unfold State.choose; split <;> rfl
@[simp] theorem State.choose_svn (s : State) (n : Nat) : ((s.choose n).2).svn = s.svn := by unfold State.choose; split <;> rfl
@[simp] theorem State.choose_meas (s : State) (n : Nat) : ((s.choose n).2).meas = s.meas := by unfold State.choose; split <;> rfl
@[simp] theorem State.choose_measExt (s : State) (n : Nat) : ((s.choose n).2).measExt = s.measExt := by unfold State.choose; split <;> rfl
@[simp] theorem State.choose_attNonce (s : State) (n : Nat) : ((s.choose n).2).attNonce = s.attNonce := by unfold State.choose; split <;> rfl
@[simp] theorem State.choose_attBuf (s : State) (n : Nat) : ((s.choose n).2).attBuf = s.attBuf := by unfold State.choose; split <;> rfl
@[simp] theorem State.choose_attBusy (s : State) (n : Nat) : ((s.choose n).2).attBusy = s.attBusy := by unfold State.choose; split <;> rfl
@[simp] theorem State.choose_attResult (s : State) (n : Nat) : ((s.choose n).2).attResult = s.attResult := by unfold State.choose; split <;> rfl
@[simp] theorem State.choose_idcount (s : State) (n : Nat) : ((s.choose n).2).idcount = s.idcount := by unfold State.choose; split <;> rfl
@[simp] theorem State.choose_mem (s : State) (n : Nat) : ((s.choose n).2).mem = s.mem := by unfold State.choose; split <;> rfl
@[simp] theorem State.choose_settle (s : State) (n : Nat) : ((s.choose n).2).settle = s.settle := by unfold State.choose; split <;> rfl
@[simp] theorem State.choose_discarded (s : State) (n : Nat) : ((s.choose n).2).discarded = s.discarded := by unfold State.choose; split <;> rfl
@[simp] theorem State.choose_potLines (s : State) (n : Nat) : ((s.choose n).2).potLines = s.potLines := by unfold State.choose; split <;> rfl
@[simp] theorem State.choose_potMaps (s : State) (n : Nat) : ((s.choose n).2).potMaps = s.potMaps := by unfold State.choose; split <;> rfl
@[simp] theorem State.choose_ranges (s : State) (n : Nat) : ((s.choose n).2).ranges = s.ranges := by unfold State.choose; split <;> rfl
@[simp] theorem State.choose_potQueue (s : State) (n : Nat) : ((s.choose n).2).potQueue = s.potQueue := by unfold State.choose; split <;> rfl
@[simp] theorem State.choose_msc (s : State) (n : Nat) : ((s.choose n).2).msc = s.msc := by unfold State.choose; split <;> rfl
@[simp] theorem State.choose_hart (s : State) (n : Nat) : ((s.choose n).2).hart = s.hart := by unfold State.choose; split <;> rfl
@[simp] theorem State.choose_others (s : State) (n : Nat) : ((s.choose n).2).others = s.others := by unfold State.choose; split <;> rfl
@[simp] theorem State.choose_vdc (s : State) (n : Nat) : ((s.choose n).2).vdc = s.vdc := by unfold State.choose; split <;> rfl
@[simp] theorem State.choose_icache (s : State) (n : Nat) : ((s.choose n).2).icache = s.icache := by unfold State.choose; split <;> rfl
@[simp] theorem State.choose_tlb (s : State) (n : Nat) : ((s.choose n).2).tlb = s.tlb := by unfold State.choose; split <;> rfl
@[simp] theorem State.choose_bigPages (s : State) (n : Nat) : ((s.choose n).2).bigPages = s.bigPages := by unfold State.choose; split <;> rfl
@[simp] theorem State.choose_collector (s : State) (n : Nat) : ((s.choose n).2).collector = s.collector := by unfold State.choose; split <;> rfl
@[simp] theorem State.choose_potStacks (s : State) (n : Nat) : ((s.choose n).2).potStacks = s.potStacks := by unfold State.choose; split <;> rfl
@[simp] theorem State.choose_holders (s : State) (n : Nat) : ((s.choose n).2).holders = s.holders := by unfold State.choose; split <;> rfl
@[simp] theorem State.choose_usedPads (s : State) (n : Nat) : ((s.choose n).2).usedPads = s.usedPads := by unfold State.choose; split <;> rfl
@[simp] theorem State.choose_holds (s : State) (n : Nat) : ((s.choose n).2).holds = s.holds := by unfold State.choose; split <;> rfl
@[simp] theorem State.choose_contexts (s : State) (n : Nat) : ((s.choose n).2).contexts = s.contexts := by unfold State.choose; split <;> rfl
@[simp] theorem State.choose_farms (s : State) (n : Nat) : ((s.choose n).2).farms = s.farms := by unfold State.choose; split <;> rfl
@[simp] theorem State.choose_copies (s : State) (n : Nat) : ((s.choose n).2).copies = s.copies := by unfold State.choose; split <;> rfl
@[simp] theorem State.choose_outbox (s : State) (n : Nat) : ((s.choose n).2).outbox = s.outbox := by unfold State.choose; split <;> rfl
@[simp] theorem State.choose_answers (s : State) (n : Nat) : ((s.choose n).2).answers = s.answers := by unfold State.choose; split <;> rfl
@[simp] theorem State.choose_bks (s : State) (n : Nat) : ((s.choose n).2).bks = s.bks := by unfold State.choose; split <;> rfl
@[simp] theorem State.choose_placements (s : State) (n : Nat) : ((s.choose n).2).placements = s.placements := by unfold State.choose; split <;> rfl
@[simp] theorem State.choose_collapses (s : State) (n : Nat) : ((s.choose n).2).collapses = s.collapses := by unfold State.choose; split <;> rfl
@[simp] theorem State.choose_faults (s : State) (n : Nat) : ((s.choose n).2).faults = s.faults := by unfold State.choose; split <;> rfl
@[simp] theorem State.choose_dies (s : State) (n : Nat) : ((s.choose n).2).dies = s.dies := by unfold State.choose; split <;> rfl
@[simp] theorem State.choose_hints (s : State) (n : Nat) : ((s.choose n).2).hints = s.hints := by unfold State.choose; split <;> rfl
@[simp] theorem State.choose_sleeping (s : State) (n : Nat) : ((s.choose n).2).sleeping = s.sleeping := by unfold State.choose; split <;> rfl
@[simp] theorem State.choose_rounds (s : State) (n : Nat) : ((s.choose n).2).rounds = s.rounds := by unfold State.choose; split <;> rfl
@[simp] theorem State.choose_hostData (s : State) (n : Nat) : ((s.choose n).2).hostData = s.hostData := by unfold State.choose; split <;> rfl
@[simp] theorem State.choose_input (s : State) (n : Nat) : ((s.choose n).2).input = s.input := by unfold State.choose; split <;> rfl
@[simp] theorem State.choose_agenda (s : State) (n : Nat) : ((s.choose n).2).agenda = s.agenda := by unfold State.choose; split <;> rfl
@[simp] theorem State.choose_prompt (s : State) (n : Nat) : ((s.choose n).2).prompt = s.prompt := by unfold State.choose; split <;> rfl

/-! ### The turn -/

@[simp] theorem State.passTurn_part (s : State) : (s.passTurn).part = s.part := by unfold State.passTurn; split <;> rfl
@[simp] theorem State.passTurn_boot (s : State) : (s.passTurn).boot = s.boot := by unfold State.passTurn; split <;> rfl
@[simp] theorem State.passTurn_svn (s : State) : (s.passTurn).svn = s.svn := by unfold State.passTurn; split <;> rfl
@[simp] theorem State.passTurn_meas (s : State) : (s.passTurn).meas = s.meas := by unfold State.passTurn; split <;> rfl
@[simp] theorem State.passTurn_measExt (s : State) : (s.passTurn).measExt = s.measExt := by unfold State.passTurn; split <;> rfl
@[simp] theorem State.passTurn_attNonce (s : State) : (s.passTurn).attNonce = s.attNonce := by unfold State.passTurn; split <;> rfl
@[simp] theorem State.passTurn_attBuf (s : State) : (s.passTurn).attBuf = s.attBuf := by unfold State.passTurn; split <;> rfl
@[simp] theorem State.passTurn_attBusy (s : State) : (s.passTurn).attBusy = s.attBusy := by unfold State.passTurn; split <;> rfl
@[simp] theorem State.passTurn_attResult (s : State) : (s.passTurn).attResult = s.attResult := by unfold State.passTurn; split <;> rfl
@[simp] theorem State.passTurn_idcount (s : State) : (s.passTurn).idcount = s.idcount := by unfold State.passTurn; split <;> rfl
@[simp] theorem State.passTurn_mem (s : State) : (s.passTurn).mem = s.mem := by unfold State.passTurn; split <;> rfl
@[simp] theorem State.passTurn_settle (s : State) : (s.passTurn).settle = s.settle := by unfold State.passTurn; split <;> rfl
@[simp] theorem State.passTurn_discarded (s : State) : (s.passTurn).discarded = s.discarded := by unfold State.passTurn; split <;> rfl
@[simp] theorem State.passTurn_potLines (s : State) : (s.passTurn).potLines = s.potLines := by unfold State.passTurn; split <;> rfl
@[simp] theorem State.passTurn_potMaps (s : State) : (s.passTurn).potMaps = s.potMaps := by unfold State.passTurn; split <;> rfl
@[simp] theorem State.passTurn_ranges (s : State) : (s.passTurn).ranges = s.ranges := by unfold State.passTurn; split <;> rfl
@[simp] theorem State.passTurn_potQueue (s : State) : (s.passTurn).potQueue = s.potQueue := by unfold State.passTurn; split <;> rfl
@[simp] theorem State.passTurn_msc (s : State) : (s.passTurn).msc = s.msc := by unfold State.passTurn; split <;> rfl
@[simp] theorem State.passTurn_vdc (s : State) : (s.passTurn).vdc = s.vdc := by unfold State.passTurn; split <;> rfl
@[simp] theorem State.passTurn_icache (s : State) : (s.passTurn).icache = s.icache := by unfold State.passTurn; split <;> rfl
@[simp] theorem State.passTurn_tlb (s : State) : (s.passTurn).tlb = s.tlb := by unfold State.passTurn; split <;> rfl
@[simp] theorem State.passTurn_bigPages (s : State) : (s.passTurn).bigPages = s.bigPages := by unfold State.passTurn; split <;> rfl
@[simp] theorem State.passTurn_collector (s : State) : (s.passTurn).collector = s.collector := by unfold State.passTurn; split <;> rfl
@[simp] theorem State.passTurn_potStacks (s : State) : (s.passTurn).potStacks = s.potStacks := by unfold State.passTurn; split <;> rfl
@[simp] theorem State.passTurn_holders (s : State) : (s.passTurn).holders = s.holders := by unfold State.passTurn; split <;> rfl
@[simp] theorem State.passTurn_usedPads (s : State) : (s.passTurn).usedPads = s.usedPads := by unfold State.passTurn; split <;> rfl
@[simp] theorem State.passTurn_holds (s : State) : (s.passTurn).holds = s.holds := by unfold State.passTurn; split <;> rfl
@[simp] theorem State.passTurn_contexts (s : State) : (s.passTurn).contexts = s.contexts := by unfold State.passTurn; split <;> rfl
@[simp] theorem State.passTurn_farms (s : State) : (s.passTurn).farms = s.farms := by unfold State.passTurn; split <;> rfl
@[simp] theorem State.passTurn_copies (s : State) : (s.passTurn).copies = s.copies := by unfold State.passTurn; split <;> rfl
@[simp] theorem State.passTurn_outbox (s : State) : (s.passTurn).outbox = s.outbox := by unfold State.passTurn; split <;> rfl
@[simp] theorem State.passTurn_answers (s : State) : (s.passTurn).answers = s.answers := by unfold State.passTurn; split <;> rfl
@[simp] theorem State.passTurn_bks (s : State) : (s.passTurn).bks = s.bks := by unfold State.passTurn; split <;> rfl
@[simp] theorem State.passTurn_placements (s : State) : (s.passTurn).placements = s.placements := by unfold State.passTurn; split <;> rfl
@[simp] theorem State.passTurn_collapses (s : State) : (s.passTurn).collapses = s.collapses := by unfold State.passTurn; split <;> rfl
@[simp] theorem State.passTurn_faults (s : State) : (s.passTurn).faults = s.faults := by unfold State.passTurn; split <;> rfl
@[simp] theorem State.passTurn_dies (s : State) : (s.passTurn).dies = s.dies := by unfold State.passTurn; split <;> rfl
@[simp] theorem State.passTurn_hints (s : State) : (s.passTurn).hints = s.hints := by unfold State.passTurn; split <;> rfl
@[simp] theorem State.passTurn_sleeping (s : State) : (s.passTurn).sleeping = s.sleeping := by unfold State.passTurn; split <;> rfl
@[simp] theorem State.passTurn_rounds (s : State) : (s.passTurn).rounds = s.rounds := by unfold State.passTurn; split <;> rfl
@[simp] theorem State.passTurn_hostData (s : State) : (s.passTurn).hostData = s.hostData := by unfold State.passTurn; split <;> rfl
@[simp] theorem State.passTurn_input (s : State) : (s.passTurn).input = s.input := by unfold State.passTurn; split <;> rfl
@[simp] theorem State.passTurn_agenda (s : State) : (s.passTurn).agenda = s.agenda := by unfold State.passTurn; split <;> rfl
@[simp] theorem State.passTurn_prompt (s : State) : (s.passTurn).prompt = s.prompt := by unfold State.passTurn; split <;> rfl
@[simp] theorem State.passTurn_free (s : State) : (s.passTurn).free = s.free := by unfold State.passTurn; split <;> rfl

/-! ### A given turn -/

@[simp] theorem State.giveTurn_part (s : State) (who : Nat) : (s.giveTurn who).part = s.part := by unfold State.giveTurn; split <;> rfl
@[simp] theorem State.giveTurn_boot (s : State) (who : Nat) : (s.giveTurn who).boot = s.boot := by unfold State.giveTurn; split <;> rfl
@[simp] theorem State.giveTurn_svn (s : State) (who : Nat) : (s.giveTurn who).svn = s.svn := by unfold State.giveTurn; split <;> rfl
@[simp] theorem State.giveTurn_meas (s : State) (who : Nat) : (s.giveTurn who).meas = s.meas := by unfold State.giveTurn; split <;> rfl
@[simp] theorem State.giveTurn_measExt (s : State) (who : Nat) : (s.giveTurn who).measExt = s.measExt := by unfold State.giveTurn; split <;> rfl
@[simp] theorem State.giveTurn_attNonce (s : State) (who : Nat) : (s.giveTurn who).attNonce = s.attNonce := by unfold State.giveTurn; split <;> rfl
@[simp] theorem State.giveTurn_attBuf (s : State) (who : Nat) : (s.giveTurn who).attBuf = s.attBuf := by unfold State.giveTurn; split <;> rfl
@[simp] theorem State.giveTurn_attBusy (s : State) (who : Nat) : (s.giveTurn who).attBusy = s.attBusy := by unfold State.giveTurn; split <;> rfl
@[simp] theorem State.giveTurn_attResult (s : State) (who : Nat) : (s.giveTurn who).attResult = s.attResult := by unfold State.giveTurn; split <;> rfl
@[simp] theorem State.giveTurn_idcount (s : State) (who : Nat) : (s.giveTurn who).idcount = s.idcount := by unfold State.giveTurn; split <;> rfl
@[simp] theorem State.giveTurn_mem (s : State) (who : Nat) : (s.giveTurn who).mem = s.mem := by unfold State.giveTurn; split <;> rfl
@[simp] theorem State.giveTurn_settle (s : State) (who : Nat) : (s.giveTurn who).settle = s.settle := by unfold State.giveTurn; split <;> rfl
@[simp] theorem State.giveTurn_discarded (s : State) (who : Nat) : (s.giveTurn who).discarded = s.discarded := by unfold State.giveTurn; split <;> rfl
@[simp] theorem State.giveTurn_potLines (s : State) (who : Nat) : (s.giveTurn who).potLines = s.potLines := by unfold State.giveTurn; split <;> rfl
@[simp] theorem State.giveTurn_potMaps (s : State) (who : Nat) : (s.giveTurn who).potMaps = s.potMaps := by unfold State.giveTurn; split <;> rfl
@[simp] theorem State.giveTurn_ranges (s : State) (who : Nat) : (s.giveTurn who).ranges = s.ranges := by unfold State.giveTurn; split <;> rfl
@[simp] theorem State.giveTurn_potQueue (s : State) (who : Nat) : (s.giveTurn who).potQueue = s.potQueue := by unfold State.giveTurn; split <;> rfl
@[simp] theorem State.giveTurn_msc (s : State) (who : Nat) : (s.giveTurn who).msc = s.msc := by unfold State.giveTurn; split <;> rfl
@[simp] theorem State.giveTurn_vdc (s : State) (who : Nat) : (s.giveTurn who).vdc = s.vdc := by unfold State.giveTurn; split <;> rfl
@[simp] theorem State.giveTurn_icache (s : State) (who : Nat) : (s.giveTurn who).icache = s.icache := by unfold State.giveTurn; split <;> rfl
@[simp] theorem State.giveTurn_tlb (s : State) (who : Nat) : (s.giveTurn who).tlb = s.tlb := by unfold State.giveTurn; split <;> rfl
@[simp] theorem State.giveTurn_bigPages (s : State) (who : Nat) : (s.giveTurn who).bigPages = s.bigPages := by unfold State.giveTurn; split <;> rfl
@[simp] theorem State.giveTurn_collector (s : State) (who : Nat) : (s.giveTurn who).collector = s.collector := by unfold State.giveTurn; split <;> rfl
@[simp] theorem State.giveTurn_potStacks (s : State) (who : Nat) : (s.giveTurn who).potStacks = s.potStacks := by unfold State.giveTurn; split <;> rfl
@[simp] theorem State.giveTurn_holders (s : State) (who : Nat) : (s.giveTurn who).holders = s.holders := by unfold State.giveTurn; split <;> rfl
@[simp] theorem State.giveTurn_usedPads (s : State) (who : Nat) : (s.giveTurn who).usedPads = s.usedPads := by unfold State.giveTurn; split <;> rfl
@[simp] theorem State.giveTurn_holds (s : State) (who : Nat) : (s.giveTurn who).holds = s.holds := by unfold State.giveTurn; split <;> rfl
@[simp] theorem State.giveTurn_contexts (s : State) (who : Nat) : (s.giveTurn who).contexts = s.contexts := by unfold State.giveTurn; split <;> rfl
@[simp] theorem State.giveTurn_farms (s : State) (who : Nat) : (s.giveTurn who).farms = s.farms := by unfold State.giveTurn; split <;> rfl
@[simp] theorem State.giveTurn_copies (s : State) (who : Nat) : (s.giveTurn who).copies = s.copies := by unfold State.giveTurn; split <;> rfl
@[simp] theorem State.giveTurn_outbox (s : State) (who : Nat) : (s.giveTurn who).outbox = s.outbox := by unfold State.giveTurn; split <;> rfl
@[simp] theorem State.giveTurn_answers (s : State) (who : Nat) : (s.giveTurn who).answers = s.answers := by unfold State.giveTurn; split <;> rfl
@[simp] theorem State.giveTurn_bks (s : State) (who : Nat) : (s.giveTurn who).bks = s.bks := by unfold State.giveTurn; split <;> rfl
@[simp] theorem State.giveTurn_placements (s : State) (who : Nat) : (s.giveTurn who).placements = s.placements := by unfold State.giveTurn; split <;> rfl
@[simp] theorem State.giveTurn_collapses (s : State) (who : Nat) : (s.giveTurn who).collapses = s.collapses := by unfold State.giveTurn; split <;> rfl
@[simp] theorem State.giveTurn_faults (s : State) (who : Nat) : (s.giveTurn who).faults = s.faults := by unfold State.giveTurn; split <;> rfl
@[simp] theorem State.giveTurn_dies (s : State) (who : Nat) : (s.giveTurn who).dies = s.dies := by unfold State.giveTurn; split <;> rfl
@[simp] theorem State.giveTurn_hints (s : State) (who : Nat) : (s.giveTurn who).hints = s.hints := by unfold State.giveTurn; split <;> rfl
@[simp] theorem State.giveTurn_sleeping (s : State) (who : Nat) : (s.giveTurn who).sleeping = s.sleeping := by unfold State.giveTurn; split <;> rfl
@[simp] theorem State.giveTurn_rounds (s : State) (who : Nat) : (s.giveTurn who).rounds = s.rounds := by unfold State.giveTurn; split <;> rfl
@[simp] theorem State.giveTurn_hostData (s : State) (who : Nat) : (s.giveTurn who).hostData = s.hostData := by unfold State.giveTurn; split <;> rfl
@[simp] theorem State.giveTurn_input (s : State) (who : Nat) : (s.giveTurn who).input = s.input := by unfold State.giveTurn; split <;> rfl
@[simp] theorem State.giveTurn_agenda (s : State) (who : Nat) : (s.giveTurn who).agenda = s.agenda := by unfold State.giveTurn; split <;> rfl
@[simp] theorem State.giveTurn_prompt (s : State) (who : Nat) : (s.giveTurn who).prompt = s.prompt := by unfold State.giveTurn; split <;> rfl
@[simp] theorem State.giveTurn_free (s : State) (who : Nat) : (s.giveTurn who).free = s.free := by unfold State.giveTurn; split <;> rfl

/-! ### A trap -/

@[simp] theorem State.deliver_part (s : State) (t : Trap) : (s.deliver t).part = s.part := by unfold State.deliver; dsimp only; (split; rfl); split <;> rfl
@[simp] theorem State.deliver_boot (s : State) (t : Trap) : (s.deliver t).boot = s.boot := by unfold State.deliver; dsimp only; (split; rfl); split <;> rfl
@[simp] theorem State.deliver_svn (s : State) (t : Trap) : (s.deliver t).svn = s.svn := by unfold State.deliver; dsimp only; (split; rfl); split <;> rfl
@[simp] theorem State.deliver_meas (s : State) (t : Trap) : (s.deliver t).meas = s.meas := by unfold State.deliver; dsimp only; (split; rfl); split <;> rfl
@[simp] theorem State.deliver_measExt (s : State) (t : Trap) : (s.deliver t).measExt = s.measExt := by unfold State.deliver; dsimp only; (split; rfl); split <;> rfl
@[simp] theorem State.deliver_attNonce (s : State) (t : Trap) : (s.deliver t).attNonce = s.attNonce := by unfold State.deliver; dsimp only; (split; rfl); split <;> rfl
@[simp] theorem State.deliver_attBuf (s : State) (t : Trap) : (s.deliver t).attBuf = s.attBuf := by unfold State.deliver; dsimp only; (split; rfl); split <;> rfl
@[simp] theorem State.deliver_attBusy (s : State) (t : Trap) : (s.deliver t).attBusy = s.attBusy := by unfold State.deliver; dsimp only; (split; rfl); split <;> rfl
@[simp] theorem State.deliver_attResult (s : State) (t : Trap) : (s.deliver t).attResult = s.attResult := by unfold State.deliver; dsimp only; (split; rfl); split <;> rfl
@[simp] theorem State.deliver_idcount (s : State) (t : Trap) : (s.deliver t).idcount = s.idcount := by unfold State.deliver; dsimp only; (split; rfl); split <;> rfl
@[simp] theorem State.deliver_mem (s : State) (t : Trap) : (s.deliver t).mem = s.mem := by unfold State.deliver; dsimp only; (split; rfl); split <;> rfl
@[simp] theorem State.deliver_settle (s : State) (t : Trap) : (s.deliver t).settle = s.settle := by unfold State.deliver; dsimp only; (split; rfl); split <;> rfl
@[simp] theorem State.deliver_discarded (s : State) (t : Trap) : (s.deliver t).discarded = s.discarded := by unfold State.deliver; dsimp only; (split; rfl); split <;> rfl
@[simp] theorem State.deliver_potLines (s : State) (t : Trap) : (s.deliver t).potLines = s.potLines := by unfold State.deliver; dsimp only; (split; rfl); split <;> rfl
@[simp] theorem State.deliver_potMaps (s : State) (t : Trap) : (s.deliver t).potMaps = s.potMaps := by unfold State.deliver; dsimp only; (split; rfl); split <;> rfl
@[simp] theorem State.deliver_ranges (s : State) (t : Trap) : (s.deliver t).ranges = s.ranges := by unfold State.deliver; dsimp only; (split; rfl); split <;> rfl
@[simp] theorem State.deliver_potQueue (s : State) (t : Trap) : (s.deliver t).potQueue = s.potQueue := by unfold State.deliver; dsimp only; (split; rfl); split <;> rfl
@[simp] theorem State.deliver_msc (s : State) (t : Trap) : (s.deliver t).msc = s.msc := by unfold State.deliver; dsimp only; (split; rfl); split <;> rfl
@[simp] theorem State.deliver_others (s : State) (t : Trap) : (s.deliver t).others = s.others := by unfold State.deliver; dsimp only; (split; rfl); split <;> rfl
@[simp] theorem State.deliver_vdc (s : State) (t : Trap) : (s.deliver t).vdc = s.vdc := by unfold State.deliver; dsimp only; (split; rfl); split <;> rfl
@[simp] theorem State.deliver_icache (s : State) (t : Trap) : (s.deliver t).icache = s.icache := by unfold State.deliver; dsimp only; (split; rfl); split <;> rfl
@[simp] theorem State.deliver_tlb (s : State) (t : Trap) : (s.deliver t).tlb = s.tlb := by unfold State.deliver; dsimp only; (split; rfl); split <;> rfl
@[simp] theorem State.deliver_bigPages (s : State) (t : Trap) : (s.deliver t).bigPages = s.bigPages := by unfold State.deliver; dsimp only; (split; rfl); split <;> rfl
@[simp] theorem State.deliver_collector (s : State) (t : Trap) : (s.deliver t).collector = s.collector := by unfold State.deliver; dsimp only; (split; rfl); split <;> rfl
@[simp] theorem State.deliver_potStacks (s : State) (t : Trap) : (s.deliver t).potStacks = s.potStacks := by unfold State.deliver; dsimp only; (split; rfl); split <;> rfl
@[simp] theorem State.deliver_holders (s : State) (t : Trap) : (s.deliver t).holders = s.holders := by unfold State.deliver; dsimp only; (split; rfl); split <;> rfl
@[simp] theorem State.deliver_usedPads (s : State) (t : Trap) : (s.deliver t).usedPads = s.usedPads := by unfold State.deliver; dsimp only; (split; rfl); split <;> rfl
@[simp] theorem State.deliver_holds (s : State) (t : Trap) : (s.deliver t).holds = s.holds := by unfold State.deliver; dsimp only; (split; rfl); split <;> rfl
@[simp] theorem State.deliver_contexts (s : State) (t : Trap) : (s.deliver t).contexts = s.contexts := by unfold State.deliver; dsimp only; (split; rfl); split <;> rfl
@[simp] theorem State.deliver_farms (s : State) (t : Trap) : (s.deliver t).farms = s.farms := by unfold State.deliver; dsimp only; (split; rfl); split <;> rfl
@[simp] theorem State.deliver_copies (s : State) (t : Trap) : (s.deliver t).copies = s.copies := by unfold State.deliver; dsimp only; (split; rfl); split <;> rfl
@[simp] theorem State.deliver_outbox (s : State) (t : Trap) : (s.deliver t).outbox = s.outbox := by unfold State.deliver; dsimp only; (split; rfl); split <;> rfl
@[simp] theorem State.deliver_answers (s : State) (t : Trap) : (s.deliver t).answers = s.answers := by unfold State.deliver; dsimp only; (split; rfl); split <;> rfl
@[simp] theorem State.deliver_bks (s : State) (t : Trap) : (s.deliver t).bks = s.bks := by unfold State.deliver; dsimp only; (split; rfl); split <;> rfl
@[simp] theorem State.deliver_placements (s : State) (t : Trap) : (s.deliver t).placements = s.placements := by unfold State.deliver; dsimp only; (split; rfl); split <;> rfl
@[simp] theorem State.deliver_collapses (s : State) (t : Trap) : (s.deliver t).collapses = s.collapses := by unfold State.deliver; dsimp only; (split; rfl); split <;> rfl
@[simp] theorem State.deliver_dies (s : State) (t : Trap) : (s.deliver t).dies = s.dies := by unfold State.deliver; dsimp only; (split; rfl); split <;> rfl
@[simp] theorem State.deliver_hints (s : State) (t : Trap) : (s.deliver t).hints = s.hints := by unfold State.deliver; dsimp only; (split; rfl); split <;> rfl
@[simp] theorem State.deliver_sleeping (s : State) (t : Trap) : (s.deliver t).sleeping = s.sleeping := by unfold State.deliver; dsimp only; (split; rfl); split <;> rfl
@[simp] theorem State.deliver_rounds (s : State) (t : Trap) : (s.deliver t).rounds = s.rounds := by unfold State.deliver; dsimp only; (split; rfl); split <;> rfl
@[simp] theorem State.deliver_hostData (s : State) (t : Trap) : (s.deliver t).hostData = s.hostData := by unfold State.deliver; dsimp only; (split; rfl); split <;> rfl
@[simp] theorem State.deliver_input (s : State) (t : Trap) : (s.deliver t).input = s.input := by unfold State.deliver; dsimp only; (split; rfl); split <;> rfl
@[simp] theorem State.deliver_agenda (s : State) (t : Trap) : (s.deliver t).agenda = s.agenda := by unfold State.deliver; dsimp only; (split; rfl); split <;> rfl
@[simp] theorem State.deliver_prompt (s : State) (t : Trap) : (s.deliver t).prompt = s.prompt := by unfold State.deliver; dsimp only; (split; rfl); split <;> rfl
@[simp] theorem State.deliver_free (s : State) (t : Trap) : (s.deliver t).free = s.free := by unfold State.deliver; dsimp only; (split; rfl); split <;> rfl

/-! ### A trap taken or waiting -/

@[simp] theorem State.trap_part (s : State) (t : Trap) : (s.trap t).part = s.part := by unfold State.trap; split <;> simp
@[simp] theorem State.trap_boot (s : State) (t : Trap) : (s.trap t).boot = s.boot := by unfold State.trap; split <;> simp
@[simp] theorem State.trap_svn (s : State) (t : Trap) : (s.trap t).svn = s.svn := by unfold State.trap; split <;> simp
@[simp] theorem State.trap_meas (s : State) (t : Trap) : (s.trap t).meas = s.meas := by unfold State.trap; split <;> simp
@[simp] theorem State.trap_measExt (s : State) (t : Trap) : (s.trap t).measExt = s.measExt := by unfold State.trap; split <;> simp
@[simp] theorem State.trap_attNonce (s : State) (t : Trap) : (s.trap t).attNonce = s.attNonce := by unfold State.trap; split <;> simp
@[simp] theorem State.trap_attBuf (s : State) (t : Trap) : (s.trap t).attBuf = s.attBuf := by unfold State.trap; split <;> simp
@[simp] theorem State.trap_attBusy (s : State) (t : Trap) : (s.trap t).attBusy = s.attBusy := by unfold State.trap; split <;> simp
@[simp] theorem State.trap_attResult (s : State) (t : Trap) : (s.trap t).attResult = s.attResult := by unfold State.trap; split <;> simp
@[simp] theorem State.trap_idcount (s : State) (t : Trap) : (s.trap t).idcount = s.idcount := by unfold State.trap; split <;> simp
@[simp] theorem State.trap_mem (s : State) (t : Trap) : (s.trap t).mem = s.mem := by unfold State.trap; split <;> simp
@[simp] theorem State.trap_settle (s : State) (t : Trap) : (s.trap t).settle = s.settle := by unfold State.trap; split <;> simp
@[simp] theorem State.trap_discarded (s : State) (t : Trap) : (s.trap t).discarded = s.discarded := by unfold State.trap; split <;> simp
@[simp] theorem State.trap_potLines (s : State) (t : Trap) : (s.trap t).potLines = s.potLines := by unfold State.trap; split <;> simp
@[simp] theorem State.trap_potMaps (s : State) (t : Trap) : (s.trap t).potMaps = s.potMaps := by unfold State.trap; split <;> simp
@[simp] theorem State.trap_ranges (s : State) (t : Trap) : (s.trap t).ranges = s.ranges := by unfold State.trap; split <;> simp
@[simp] theorem State.trap_potQueue (s : State) (t : Trap) : (s.trap t).potQueue = s.potQueue := by unfold State.trap; split <;> simp
@[simp] theorem State.trap_msc (s : State) (t : Trap) : (s.trap t).msc = s.msc := by unfold State.trap; split <;> simp
@[simp] theorem State.trap_others (s : State) (t : Trap) : (s.trap t).others = s.others := by unfold State.trap; split <;> simp
@[simp] theorem State.trap_vdc (s : State) (t : Trap) : (s.trap t).vdc = s.vdc := by unfold State.trap; split <;> simp
@[simp] theorem State.trap_icache (s : State) (t : Trap) : (s.trap t).icache = s.icache := by unfold State.trap; split <;> simp
@[simp] theorem State.trap_tlb (s : State) (t : Trap) : (s.trap t).tlb = s.tlb := by unfold State.trap; split <;> simp
@[simp] theorem State.trap_bigPages (s : State) (t : Trap) : (s.trap t).bigPages = s.bigPages := by unfold State.trap; split <;> simp
@[simp] theorem State.trap_collector (s : State) (t : Trap) : (s.trap t).collector = s.collector := by unfold State.trap; split <;> simp
@[simp] theorem State.trap_potStacks (s : State) (t : Trap) : (s.trap t).potStacks = s.potStacks := by unfold State.trap; split <;> simp
@[simp] theorem State.trap_holders (s : State) (t : Trap) : (s.trap t).holders = s.holders := by unfold State.trap; split <;> simp
@[simp] theorem State.trap_usedPads (s : State) (t : Trap) : (s.trap t).usedPads = s.usedPads := by unfold State.trap; split <;> simp
@[simp] theorem State.trap_holds (s : State) (t : Trap) : (s.trap t).holds = s.holds := by unfold State.trap; split <;> simp
@[simp] theorem State.trap_contexts (s : State) (t : Trap) : (s.trap t).contexts = s.contexts := by unfold State.trap; split <;> simp
@[simp] theorem State.trap_farms (s : State) (t : Trap) : (s.trap t).farms = s.farms := by unfold State.trap; split <;> simp
@[simp] theorem State.trap_copies (s : State) (t : Trap) : (s.trap t).copies = s.copies := by unfold State.trap; split <;> simp
@[simp] theorem State.trap_outbox (s : State) (t : Trap) : (s.trap t).outbox = s.outbox := by unfold State.trap; split <;> simp
@[simp] theorem State.trap_answers (s : State) (t : Trap) : (s.trap t).answers = s.answers := by unfold State.trap; split <;> simp
@[simp] theorem State.trap_bks (s : State) (t : Trap) : (s.trap t).bks = s.bks := by unfold State.trap; split <;> simp
@[simp] theorem State.trap_placements (s : State) (t : Trap) : (s.trap t).placements = s.placements := by unfold State.trap; split <;> simp
@[simp] theorem State.trap_collapses (s : State) (t : Trap) : (s.trap t).collapses = s.collapses := by unfold State.trap; split <;> simp
@[simp] theorem State.trap_dies (s : State) (t : Trap) : (s.trap t).dies = s.dies := by unfold State.trap; split <;> simp
@[simp] theorem State.trap_hints (s : State) (t : Trap) : (s.trap t).hints = s.hints := by unfold State.trap; split <;> simp
@[simp] theorem State.trap_sleeping (s : State) (t : Trap) : (s.trap t).sleeping = s.sleeping := by unfold State.trap; split <;> simp
@[simp] theorem State.trap_rounds (s : State) (t : Trap) : (s.trap t).rounds = s.rounds := by unfold State.trap; split <;> simp
@[simp] theorem State.trap_hostData (s : State) (t : Trap) : (s.trap t).hostData = s.hostData := by unfold State.trap; split <;> simp
@[simp] theorem State.trap_input (s : State) (t : Trap) : (s.trap t).input = s.input := by unfold State.trap; split <;> simp
@[simp] theorem State.trap_agenda (s : State) (t : Trap) : (s.trap t).agenda = s.agenda := by unfold State.trap; split <;> simp
@[simp] theorem State.trap_prompt (s : State) (t : Trap) : (s.trap t).prompt = s.prompt := by unfold State.trap; split <;> simp
@[simp] theorem State.trap_free (s : State) (t : Trap) : (s.trap t).free = s.free := by unfold State.trap; split <;> simp

end Sys2Proof.Machine
end

