-- ==== Sys2Proof/Tests/Slice0.lean ====
section
/-! SUPPORT. The model's own tests: well-formedness, words of the spec, small steps with the spec's worked results, and for each hypothesis of
a statement a concrete state and operands that meet it. -/

namespace Sys2Proof.Tests

set_option Elab.async false

open Sys2Proof Sys2Proof.Machine

/-! ### Small states -/

/-- A control core that executes after the boot. -/
def ctl : State := State.reset.withControlCore

/-- A hart of a context whose first 512 MiB of addresses are those of physical memory. -/
def hrt : State := State.reset.withHart

/-- Values in x registers. -/
def xs (s : State) (l : List (Nat × Nat)) : State :=
  s.sc (fun c => { c with x := l.foldl (fun v p => if h : p.1 < 32 then v.set p.1 (BitVec.ofNat 64 p.2) else v) c.x })

/-- Bytes at home. -/
def bytes (s : State) (a n v : Nat) : State := { s with mem := Memory.writeN s.mem a (leBytes n v) }

/-- The hart with one more page: virtual 512 MiB maps to the frame and flags of an entry. -/
def paged (pte : Nat) : State :=
  bytes (bytes hrt 0x20010008 8 0x20020001) 0x20020000 8 pte

/-- The event's input. -/
def given (s : State) (unit addr value : Nat) (data : List Byte) : State := { s with input := ⟨unit, addr, value, data⟩ }

/-- An outcome that is a next state with a property. -/
def goes (o : Out) (p : State → Bool) : Bool :=
  match o with
  | .next t => p t
  | .fault _ => false
  | .refused _ => false

/-- A location that passes its checks, with a property. -/
def found (l : Loc) (p : State → Nat → Nat → Bool) : Bool :=
  match l with
  | .ok s pa pte => p s pa pte
  | .trap _ => false
  | .wait _ => false

/-- An x register after an instruction that goes on. -/
def gives (i : Instr) (s : State) (r : Fin 32) (v : Nat) : Bool := goes (exec i s) (fun t => t.hart.sc.x[r] == BitVec.ofNat 64 v)

/-- A vector hart: lane groups, VL and the element registers as numbers. -/
def vec (s : State) (vl : Nat) (sew : Fin 4) (vs : List (Nat × Nat)) : State :=
  s.ep (fun e => { e with vl := vl, sew := sew
                          v := vs.foldl (fun v p => if h : p.1 < 32 then v.set p.1 (BitVec.ofNat 131072 p.2) else v) e.v })

/-- A mask register. -/
def msk (s : State) (m : Fin 8) (bits : Nat) : State := s.ep (fun e => { e with m := e.m.set m (BitVec.ofNat 131072 bits) })

/-- A little-endian group of elements of `w` bits. -/
def pack (w : Nat) (l : List Nat) : Nat := l.foldr (fun a n => a % 2 ^ w + 2 ^ w * n) 0

/-! ### Well-formedness: one term for each check, refused -/

theorem smoke_rm : (Instr.fadd ⟨1, 2, 3, 0, 5⟩).wellFormed = false := by decide
theorem smoke_cond : (Instr.fcmp ⟨1, 2, 3, 0, 4⟩).wellFormed = false := by decide
theorem smoke_load_order : (Instr.ld ⟨1, 2, 0, 0, 2, 0⟩).wellFormed = false := by decide
theorem smoke_load_scope : (Instr.ld ⟨1, 2, 0, 0, 1, 5⟩).wellFormed = false := by decide
theorem smoke_plain_scope : (Instr.ld ⟨1, 2, 0, 0, 0, 1⟩).wellFormed = false := by decide
theorem smoke_unsigned_64 : (Instr.ldu ⟨1, 2, 0, 3, 0, 0⟩).wellFormed = false := by decide
theorem smoke_store_order : (Instr.st ⟨1, 2, 0, 0, 1, 0⟩).wellFormed = false := by decide
theorem smoke_aop : (Instr.amo ⟨1, 2, 3, 3, 0, 0, 7⟩).wellFormed = false := by decide
theorem smoke_amo_width : (Instr.amo ⟨1, 2, 3, 1, 0, 0, 0⟩).wellFormed = false := by decide
theorem smoke_lend_mask : (Instr.lend ⟨9, 0, 0, 0⟩).wellFormed = false := by decide
theorem smoke_lend_nothing : (Instr.lend ⟨0, 0, 0, 0⟩).wellFormed = false := by decide
theorem smoke_lane_count : (Instr.setvli ⟨1, 2, 16, 0, 0, 0⟩).wellFormed = false := by decide
theorem smoke_carry_mask : (Instr.vmadcVV ⟨8, 1, 2, 0, 2⟩).wellFormed = false := by decide
theorem smoke_other_format : (Instr.vfcvt ⟨1, 2, 6, 0, 0, 1⟩).wellFormed = false := by decide
theorem smoke_exponent_format : (Instr.vfexp2 ⟨1, 2, 0, 0⟩).wellFormed = false := by decide
theorem smoke_mask_destination : (Instr.mand ⟨8, 1, 2⟩).wellFormed = false := by decide
theorem smoke_mask_source : (Instr.mand ⟨1, 8, 2⟩).wellFormed = false := by decide
theorem smoke_mask_not : (Instr.mnot ⟨1, 8⟩).wellFormed = false := by decide
theorem smoke_mask_count : (Instr.mpopc ⟨1, 8⟩).wellFormed = false := by decide
theorem smoke_mask_set : (Instr.mset ⟨8⟩).wellFormed = false := by decide
theorem smoke_compare_mask : (Instr.vcmpeqVV ⟨8, 1, 2, 0, 2⟩).wellFormed = false := by decide
theorem smoke_segment_registers : (Instr.vlseg ⟨30, 1, 0, 2, 2, 0⟩).wellFormed = false := by decide
theorem smoke_segment_block_width : (Instr.vlseg ⟨4, 1, 0, 1, 0, 1⟩).wellFormed = false := by decide
theorem smoke_segment_kind : (Instr.vlseg ⟨4, 1, 0, 0, 0, 3⟩).wellFormed = false := by decide
theorem smoke_vamo_width : (Instr.vamo ⟨4, 6, 8, 0, 1, 1⟩).wellFormed = false := by decide
theorem smoke_bind_view : (Instr.vbind ⟨8, 20, 0, 3, 0⟩).wellFormed = false := by decide
theorem smoke_point_group : (Instr.gori2 ⟨0, 27, 0, 0, 0, 0, 0⟩).wellFormed = false := by decide
theorem smoke_id_group : (Instr.gori2 ⟨0, 0, 30, 0, 1, 0, 0⟩).wellFormed = false := by decide
theorem smoke_id_without_tb : (Instr.gori2 ⟨0, 0, 1, 0, 0, 0, 0⟩).wellFormed = false := by decide
theorem smoke_points_of_ginc : (Instr.ginc ⟨0, 25, 0, 0, 0, 0, 0⟩).wellFormed = false := by decide
theorem smoke_points_of_gori3 : (Instr.gori3 ⟨0, 21, 0, 0, 0, 0, 0⟩).wellFormed = false := by decide
theorem smoke_points_of_gins : (Instr.gins ⟨0, 18, 0, 0, 0, 0, 0⟩).wellFormed = false := by decide
theorem smoke_stage : (Instr.gstat ⟨1, 3, 0⟩).wellFormed = false := by decide
theorem smoke_fence_nothing : (Instr.fence ⟨0, 0, 0⟩).wellFormed = false := by decide
theorem smoke_fence_scope : (Instr.fence ⟨0, 3, 5⟩).wellFormed = false := by decide
theorem smoke_drain_nothing : (Instr.qdrain ⟨0⟩).wellFormed = false := by decide
theorem smoke_arrive_order : (Instr.barrive ⟨1, 2, 1, 0⟩).wellFormed = false := by decide
theorem smoke_wait_order : (Instr.barwait ⟨1, 2, 3, 2, 0⟩).wellFormed = false := by decide
theorem smoke_watch_order : (Instr.mwatchld ⟨1, 2, 2, 0⟩).wellFormed = false := by decide
theorem smoke_pot_scope : (Instr.potinit ⟨0, 1, 2, 0⟩).wellFormed = false := by decide
theorem smoke_range_scope : (Instr.rwb ⟨1, 2, 0⟩).wellFormed = false := by decide
theorem smoke_resume_operands : (Instr.tretResume ⟨0, 0⟩).wellFormed = false := by decide
theorem smoke_pot_policy : (Instr.potinit ⟨2, 1, 2, 1⟩).wellFormed = false := by decide
theorem smoke_mma_rows : (Instr.mma ⟨0, 3, 1, 2, 0, 0, 0⟩).wellFormed = false := by decide
theorem smoke_mma_type : (Instr.mma ⟨0, 0, 1, 2, 0, 10, 0⟩).wellFormed = false := by decide
theorem smoke_mma_scale : (Instr.mma ⟨0, 0, 1, 2, 1, 0, 0⟩).wellFormed = false := by decide
theorem smoke_mma_registers : (Instr.mma ⟨0, 0, 1, 25, 0, 0, 0⟩).wellFormed = false := by decide
theorem smoke_lend_copy : (Instr.lend ⟨1, 0, 5, 0⟩).wellFormed = false := by decide
theorem smoke_lend_polarity : (Instr.lend ⟨0, 1, 5, 1⟩).wellFormed = false := by decide
theorem smoke_cas_width : (Instr.cas ⟨1, 2, 3, 1, 0, 0⟩).wellFormed = false := by decide
theorem smoke_drain_scope : (Instr.barrive ⟨1, 2, 2, 6⟩).wellFormed = false := by decide
theorem smoke_store_scope : (Instr.st ⟨1, 2, 0, 0, 2, 7⟩).wellFormed = false := by decide

/-! ### Decoding: words that the spec writes out, by family, and words written out from its encoding tables -/

/-- The word decodes to the instruction, and is its encoding. -/
def reads (w : Nat) (i : Instr) : Bool := (match decodeWord w with | .ok j => j == i | .error _ => false) && encode i == w

theorem word_scalar : (reads 0x094E6285 (.fma ⟨5, 6, 7, 5, 1, 0⟩) && reads 0x2BCE62B3 (.amo ⟨5, 6, 7, 3, 3, 2, 1⟩)
    && reads 0x200002F6 (.csrrs ⟨5, 0, 0⟩) && reads 0x00009029 (.jalr ⟨0, 9, 0⟩) && reads 0x000404A8 (.jal ⟨9, 64⟩)) = true := by decide +kernel
theorem word_add : (reads (7 * 2 ^ 17 + 6 * 2 ^ 12 + 5 * 2 ^ 7 + 0x01) (.add ⟨5, 6, 7⟩)) = true := by decide +kernel
theorem word_remu : (reads (6 * 2 ^ 22 + 7 * 2 ^ 17 + 6 * 2 ^ 12 + 5 * 2 ^ 7 + 0x02) (.remu ⟨5, 6, 7⟩)) = true := by decide +kernel
theorem word_addi : (reads (0x7FFC * 2 ^ 17 + 6 * 2 ^ 12 + 5 * 2 ^ 7 + 0x10) (.addi ⟨5, 6, 0x7FFC⟩)) = true := by decide +kernel
theorem word_calls : (reads 0x00000077 .ecall && reads 0x08000077 .ebreak) = true := by decide +kernel
theorem word_vector : (reads 0x0C041240 (.vsubVV ⟨4, 1, 2, 0, 2⟩) && reads 0x0C045241 (.vsubVS ⟨4, 5, 2, 0, 2⟩)
    && reads 0x2A041242 (.vfmaVV ⟨4, 1, 2, 0, 1⟩) && reads 0x02401145 (.vcompress ⟨2, 1, 1, 1⟩) && reads 0x120001C5 (.viota ⟨3, 0, 1⟩)
    && reads 0x0A0200CA (.vcmpneVS ⟨1, 0, 1, 0, 1⟩)) = true := by decide +kernel
theorem word_masks : (reads 0x14041149 (.vcmpltVV ⟨2, 1, 2, 0, 2⟩) && reads 0x380012C4 (.mpopc ⟨5, 1⟩) && reads 0x04048246 (.vredsum ⟨4, 8, 2, 0, 2⟩)) = true := by
  decide +kernel
theorem word_memory : (reads 0x14006253 (.vlseg ⟨4, 6, 0, 2, 2, 0⟩) && reads 0x50006253 (.vlseg ⟨4, 6, 0, 0, 2, 1⟩)
    && reads 0x0C106258 (.vamo ⟨4, 6, 8, 0, 2, 1⟩) && reads 0x00414459 (.vbind ⟨8, 20, 0, 1, 0⟩)) = true := by decide +kernel
theorem word_geometry : (reads 0x03942A62 (.ginc ⟨20, 2, 10, 0, 1, 1, 0⟩) && reads 0x064022E3 (.gstat ⟨5, 2, 1⟩)) = true := by decide +kernel
theorem word_order : (reads 0x03C00071 (.fence ⟨0, 3, 3⟩) && reads 0x02820071 (.fence ⟨1, 2, 2⟩) && reads 0x20060071 (.qdrain ⟨96⟩)
    && reads 0x424062F1 (.mwatchld ⟨5, 6, 1, 2⟩) && reads 0x480062F1 (.mwait ⟨5, 6⟩)) = true := by decide +kernel
theorem word_ranges : (reads 0x300E6073 (.discard ⟨6, 7⟩) && reads 0x380E6073 (.rtouch ⟨6, 7⟩)) = true := by decide +kernel
theorem word_supervisor : (reads 0x200E6077 (.tlbinv ⟨6, 7⟩) && reads 0x10000075 .fend && reads 0x18000075 .yield) = true := by decide +kernel


/-! ### Scalar words: the corner cases that the spec works out, and the hypotheses of the statements about them -/

theorem test_div_truncates : gives (.div ⟨5, 6, 7⟩) (xs hrt [(6, 2 ^ 64 - 7), (7, 2)]) 5 (2 ^ 64 - 3) = true := by decide +kernel
theorem test_rem_takes_the_dividends_sign : gives (.rem ⟨5, 6, 7⟩) (xs hrt [(6, 2 ^ 64 - 7), (7, 2)]) 5 (2 ^ 64 - 1) = true := by decide +kernel
theorem test_div_by_zero : gives (.div ⟨5, 6, 7⟩) (xs hrt [(6, 5)]) 5 (2 ^ 64 - 1) = true := by decide +kernel
theorem test_remu_by_zero : gives (.remu ⟨5, 6, 7⟩) (xs hrt [(6, 5)]) 5 5 = true := by decide +kernel
theorem test_div_overflow : gives (.div ⟨5, 6, 7⟩) (xs hrt [(6, 2 ^ 63), (7, 2 ^ 64 - 1)]) 5 (2 ^ 63) = true := by decide +kernel
theorem test_mulh : gives (.mulh ⟨5, 6, 7⟩) (xs hrt [(6, 2 ^ 63), (7, 2 ^ 63)]) 5 (2 ^ 62) = true := by decide +kernel
theorem test_source_is_destination : gives (.sub ⟨5, 5, 5⟩) (xs hrt [(5, 9)]) 5 0 = true := by decide +kernel
theorem test_x0_is_discarded : gives (.add ⟨0, 6, 7⟩) (xs hrt [(6, 2), (7, 3)]) 0 0 = true := by decide +kernel
theorem test_andi : gives (.andi ⟨5, 5, 0x7FF8⟩) (xs hrt [(5, 0xFF)]) 5 0xF8 = true := by decide +kernel
theorem test_sltiu_one : gives (.sltiu ⟨5, 6, 1⟩) hrt 5 1 = true := by decide +kernel
theorem test_clz_of_zero : gives (.clz ⟨5, 6⟩) hrt 5 64 = true := by decide +kernel
theorem test_shift_uses_six_bits : gives (.shl ⟨5, 6, 7⟩) (xs hrt [(6, 1), (7, 65)]) 5 2 = true := by decide +kernel

theorem wit_division_by_zero : Stated.reg (xs hrt [(6, 5)]) 7 = 0 := by decide +kernel
theorem wit_division_overflow : (Stated.reg (xs hrt [(6, 2 ^ 63), (7, 2 ^ 64 - 1)]) 6).toInt = -2 ^ 63
    ∧ (Stated.reg (xs hrt [(6, 2 ^ 63), (7, 2 ^ 64 - 1)]) 7).toInt = -1 := by decide +kernel
theorem wit_division_signs : Stated.reg (xs hrt [(6, 7), (7, 2 ^ 64 - 2)]) 7 ≠ 0 ∧ 0 ≤ (Stated.reg (xs hrt [(6, 7), (7, 2 ^ 64 - 2)]) 6).toInt
    ∧ (Stated.reg (xs hrt [(6, 2 ^ 64 - 7), (7, 2)]) 6).toInt ≤ 0 := by decide +kernel

theorem wit_branch_not_taken : (decide (Stated.reg (xs hrt [(5, 1)]) 5 = Stated.reg (xs hrt [(5, 1)]) 0)) = false := by decide +kernel
theorem wit_branch_taken : decide (Stated.reg hrt 5 = Stated.reg hrt 0) = true ∧ Stated.reachable (Stated.target hrt (Stated.field 15 3)) := by
  decide +kernel
theorem wit_branch_below_zero : decide (Stated.reg hrt 5 = Stated.reg hrt 0) = true ∧ ¬ Stated.reachable (Stated.target hrt (Stated.field 15 0x7FFD)) := by
  decide +kernel
theorem wit_jal : Stated.reachable (Stated.target hrt (Stated.field 20 64)) ∧ ¬ Stated.reachable (Stated.target hrt (Stated.field 20 (2 ^ 20 - 1))) := by
  decide +kernel
theorem wit_jalr : Stated.reachable (Stated.reg (xs hrt [(9, 2 ^ 52 - 4)]) 9 + BitVec.ofInt 64 (Stated.field 15 0))
    ∧ ¬ Stated.reachable (Stated.reg (xs hrt [(9, 2 ^ 52 - 4)]) 9 + BitVec.ofInt 64 (Stated.field 15 4))
    ∧ ¬ Stated.reachable (Stated.reg (xs hrt [(9, 2 ^ 52 - 4)]) 9 + BitVec.ofInt 64 (Stated.field 15 2)) := by decide +kernel

theorem wit_rounding_word : Stated.roundingWord (.fma ⟨5, 6, 7, 5, 1, 7⟩) = some (5, 7) := rfl
theorem wit_fcmp_condition : (3 : Fin 8).val ≤ 3 := by decide
theorem test_fadd : gives (.fadd ⟨5, 6, 7, 1, 0⟩) (xs hrt [(6, 0x3F800000), (7, 0x40000000)]) 5 0x40400000 = true := by decide +kernel
theorem test_fcmp_less : gives (.fcmp ⟨5, 6, 7, 1, 1⟩) (xs hrt [(6, 0x3F800000), (7, 0x40000000)]) 5 1 = true := by decide +kernel
theorem wit_fmin_nans : Stated.number (Stated.operand (xs hrt [(6, 0x7FC00000), (7, 0x7F800001)]) 1 6) = none
    ∧ Stated.number (Stated.operand (xs hrt [(6, 0x7FC00000), (7, 0x7F800001)]) 1 7) = none := by
  have h : Stated.operand (xs hrt [(6, 0x7FC00000), (7, 0x7F800001)]) 1 6 = .nan false := by decide +kernel
  have k : Stated.operand (xs hrt [(6, 0x7FC00000), (7, 0x7F800001)]) 1 7 = .nan true := by decide +kernel
  rw [h, k]
  exact ⟨rfl, rfl⟩

/-- 1.0 and 2.0 in FP32, as the statements about numbers see them. -/
theorem wit_numbers : Stated.operand (xs hrt [(6, 0x3F800000), (7, 0x40000000)]) 1 6 = .fin false 8388608 (-23)
    ∧ Stated.operand (xs hrt [(6, 0x3F800000), (7, 0x40000000)]) 1 7 = .fin false 8388608 (-22)
    ∧ (fmtOf 1).decode 2 0x40400000 = .fin false 12582912 (-22) := by decide +kernel
theorem wit_fmin_order : ∃ p q, Stated.number (.fin false 8388608 (-23)) = some p ∧ Stated.number (.fin false 8388608 (-22)) = some q ∧ p < q :=
  ⟨_, _, rfl, rfl, by rw [EReal.coe_lt_coe_iff]; norm_num⟩
theorem wit_fmin_zeros : Stated.number (.fin true 0 0) = Stated.number (.fin false 0 0) ∧ FVal.isNeg (.fin true 0 0) = true
    ∧ FVal.isNeg (.fin false 0 0) = false := by
  refine ⟨by simp [Stated.number], rfl, rfl⟩
theorem wit_exact_sum : ∃ a b : ℝ, Stated.finite (.fin false 8388608 (-23)) = some a ∧ Stated.finite (.fin false 8388608 (-22)) = some b
    ∧ a + b ≠ 0 ∧ (0x40400000 : Nat) < 2 ^ (fmtOf 1).width ∧ Stated.finite (.fin false 12582912 (-22)) = some (a + b) :=
  ⟨_, _, rfl, rfl, by norm_num, by decide, by simp [Stated.finite]; norm_num⟩

/-! ### Scalar memory -/

/-- A word at home, and a byte of the scratchpad. -/
def mem1 : State := xs (bytes (bytes hrt 0x1000 8 0x8081828384858687) (2 ^ 52) 2 0xA5FF) [(6, 0x1000), (7, 0xFFFFFFFFA0000), (8, 0x1234)]

theorem test_ld_signs : gives (.ld ⟨5, 6, 0, 0, 0, 0⟩) mem1 5 (2 ^ 64 - 0x79) = true := by decide +kernel
theorem test_ldu_window : gives (.ldu ⟨5, 7, 0, 1, 0, 0⟩) mem1 5 0xA5FF = true := by decide +kernel
theorem test_st_then_ld : goes (exec (.st ⟨6, 8, 0, 1, 0, 0⟩) mem1) (gives (.ldu ⟨5, 6, 0, 2, 0, 0⟩) · 5 0x84851234) = true := by decide +kernel
theorem test_amo_add : gives (.amo ⟨5, 6, 8, 2, 0, 0, 1⟩) mem1 5 (2 ^ 64 - 2 ^ 32 + 0x84858687) = true := by decide +kernel

theorem wit_load : found (mem1.locate (Stated.address mem1 6 0 1) 1 .read 0) (fun _ pa _ => pa == 0x1000) = true := by decide +kernel
theorem wit_store : found (mem1.locate (Stated.address mem1 6 0 1) 1 .write 0) (fun s pa pte =>
    pa < 2 ^ 52 && !Pte.cls pte && Pte.kind pte != 1 && (s.hart.scache.filter fun l => l.line % 128 == pa / 64 % 128).length < 8 && !s.isPot pa) = true
    ∧ Memory.wf mem1.mem = true ∧ mem1.hart.ctl = false := by decide +kernel
theorem wit_atomic : found (mem1.locate 0x1000 4 .rmw 2) (fun _ _ _ => true) = true := by decide +kernel
theorem wit_window : Stated.inPad mem1 (Stated.address mem1 7 0 2) 2 ∧ Memory.wf mem1.mem = true ∧ mem1.discarded = [] := by decide +kernel
theorem wit_window_last_byte : Stated.inPad (xs hrt [(7, 2 ^ 52 - 8)]) (Stated.address (xs hrt [(7, 2 ^ 52 - 8)]) 7 0 8) 8 := by decide +kernel

/-! ### Traps, returns and CSRs -/

/-- A delegated cause, a handler at 0x400. -/
def delg : State := hrt.sc (fun c => { c with tdeleg := 0x182, uivec := 0x400 })

theorem wit_control_trap : ctl.hart.ctl = true ∧ ctl.hart.ep.queue = [] := by decide +kernel
theorem wit_delegated : delg.hart.ctl = false ∧ delg.hart.ep.queue = [] ∧ Stated.delegates delg { cause := 7, tval := 0 }
    ∧ Stated.delegates delg { cause := 1, tval := 0 } := by decide +kernel
theorem wit_parked : hrt.hart.ctl = false ∧ ¬ Stated.delegates hrt { cause := 7, tval := 0 } ∧ ¬ Stated.delegates delg { cause := 5, tval := 0 }
    ∧ Stated.fits (Stated.recordFields hrt { cause := 5, tval := 0 }) := by decide +kernel
/-- A word is still in the queue. -/
def busy : State := vec { hrt with prompt := false } 8 2 []
def busyQ : State := match exec (.vaddVV ⟨4, 1, 2, 0, 2⟩) busy with | .next t => t | _ => busy
theorem wit_trap_waits : busyQ.hart.ep.queue ≠ [] ∧ (exec .ecall busyQ matches .next _) = true := by decide +kernel
theorem wit_trap_delivery : ({ hrt with hart := { hrt.hart with status := .trapping { cause := 6, tval := 0 } } } : State).hart.ep.queue = [] := by
  decide +kernel
theorem test_ecall_control : goes (exec .ecall ctl) (fun t => t.hart.sc.tcause == 6 && t.hart.sc.pc == t.hart.sc.ctvec) = true := by decide +kernel
theorem test_ebreak_parks : goes (exec .ebreak hrt) (fun t => decide (t.hart.status = .parked) && t.faults.length == 1) = true := by decide +kernel
theorem wit_uiret : (delg.trap { cause := 7, tval := 0 }).hart.sc.uiActive = true ∧ hrt.hart.sc.uiActive = false := by decide +kernel
theorem test_uiret_returns : goes (exec .uiret (delg.trap { cause := 7, tval := 0, elem := 3 }))
    (fun t => t.hart.sc.pc == delg.hart.sc.pc && t.hart.sc.vstartArmed && t.hart.sc.vstart == 3) = true := by decide +kernel
theorem wit_wrong_party : ctl.hart.ctl = true ∧ encode (.vaddVV ⟨0, 0, 0, 0, 0⟩) % 128 = 0x40 ∧ encode .fend % 128 = 0x75 := by decide +kernel
theorem wit_csrs : Stated.hasCsr hrt 0x086 ∧ Stated.hasCsr ctl 0x0A0 ∧ ¬ Stated.hasCsr hrt 0x0A0 ∧ ¬ Stated.hasCsr ctl 0x086 := by decide +kernel
theorem wit_csr_write : hrt.hart.ctl = false ∧ hrt.hart.ep.queue = [] := by decide +kernel
theorem test_csrrw_legalises : goes (exec (.csrrw ⟨0, 6, 0x020⟩) (xs hrt [(6, 0xBF)])) (gives (.csrrs ⟨5, 0, 0x020⟩) · 5 0x1F) = true := by
  decide +kernel
theorem wit_lend : hrt.hart.sc.lend.getLsbD 31 = false ∧ (goes (exec (.lend ⟨1, 0, 0, 0⟩) hrt) (fun t => t.hart.sc.lend.getLsbD 31)) = true := by
  decide +kernel
theorem test_hint : goes (exec (.hint ⟨0x1FFFFFF⟩) hrt) (fun t => t.hart.sc.pc == hrt.hart.sc.pc + 4) = true := by decide +kernel

/-! ### Configuration -/

theorem wit_configurable : Stated.configurable hrt := by decide +kernel
theorem test_setvli : goes (exec (.setvli ⟨5, 6, 1, 2, 0, 0⟩) (xs hrt [(6, 1000)]))
    (fun t => t.hart.ep.lgn == 2 && t.hart.ep.vl == 64 && t.hart.ep.avlrem == 936 && t.hart.sc.x[5] == 64) = true := by decide +kernel
theorem test_setvlc : gives (.setvlc ⟨5, 6⟩) (xs hrt [(6, 100)]) 5 100 = true := by decide +kernel
/-- A farm of higher priority holds the core of a hart with three lane groups. -/
def held : State :=
  { hrt with
    hart := { hrt.hart with ep := { hrt.hart.ep with lg := 7 } }
    farms := { placedFarm with handle := 2, prio := 2, reserve := 14 } :: hrt.farms
    holds := [⟨0, 1, 2⟩] }
theorem wit_yield_cut : Stated.configurable held ∧ held.higherHold held.hart = true ∧ held.hart.reserve < Stated.lanes held.hart.ep := by
  decide +kernel
theorem wit_yield_plain : Stated.configurable hrt ∧ ¬(hrt.higherHold hrt.hart = true) := by decide +kernel

/-! ### The worked examples of vector, matrix and geometric words -/

/-- The elements of a group from its first, after an instruction that goes on. -/
def leaves (o : Out) (r w : Nat) (l : List Nat) : Bool := goes o (fun t => (List.range l.length).map (t.hart.ep.elem r w) == l)

/-- The policies (R154): VL = 5, m1 = 1, 0, 1, 1, 0, v1 = 10 + i, v2 = 100, v4 = 7. -/
def pol (vcfg : BitVec 8) : State :=
  (msk (vec hrt 5 2 [(1, pack 32 [10, 11, 12, 13, 14, 15]), (2, pack 32 (List.replicate 6 100)), (4, pack 32 (List.replicate 6 7))]) 1 0x0D).ep
    (fun e => { e with vcfg := vcfg })

theorem test_policies_keep : leaves (exec (.vaddVV ⟨4, 1, 2, 1, 2⟩) (pol 0)) 4 32 [110, 7, 112, 113, 7, 7] = true := by decide +kernel
theorem test_policies_zero : leaves (exec (.vaddVV ⟨4, 1, 2, 1, 2⟩) (pol 4)) 4 32 [110, 0, 112, 113, 0, 7] = true := by decide +kernel
theorem test_policies_tail : leaves (exec (.vaddVV ⟨4, 1, 2, 1, 2⟩) (pol 2)) 4 32 [110, 7, 112, 113, 7, 0] = true := by decide +kernel

/-- A lent predicate of negative polarity and a copy (R48, R49): LEND.N m1, v9. -/
def lent : State := (pol 0).sc (fun c => { c with lend := 0x80029900 })

theorem test_lent_copy : leaves (exec (.vaddVV ⟨4, 1, 2, 0, 2⟩) lent) 9 32 [0, 111, 0, 0, 114] = true
    ∧ leaves (exec (.vaddVV ⟨4, 1, 2, 0, 2⟩) lent) 4 32 [7, 111, 7, 7, 114] = true := by decide +kernel

/-- VNCLIP's worked element, −300,005 (R162). -/
def clipped (sh : Nat) : State := xs (vec hrt 1 1 [(8, pack 32 [2 ^ 32 - 300005])]) [(5, sh)]
theorem test_vnclip : leaves (exec (.vnclipVS ⟨4, 5, 8, 0, 1⟩) (clipped 4)) 4 16 [65536 - 18750] = true
    ∧ leaves (exec (.vnclipVS ⟨4, 5, 8, 0, 1⟩) (clipped 0)) 4 16 [32768] = true
    ∧ goes (exec (.vnclipVS ⟨4, 5, 8, 0, 1⟩) (clipped 0)) (fun t => t.hart.ep.vstat == 0x20) = true := by decide +kernel

/-- 128-bit addition (R161). -/
def wide : State := vec hrt 2 3 [(1, pack 64 [2 ^ 64 - 1, 5]), (2, pack 64 [1, 7]), (3, pack 64 [1, 0]), (4, pack 64 [2, 2 ^ 64 - 1])]
theorem test_vmadc_vadc : goes (exec (.vmadcVV ⟨1, 1, 2, 0, 3⟩) wide) (fun t => t.hart.ep.m[1] == 1
    && leaves (exec (.vadcVV ⟨6, 3, 4, 1, 3⟩) t) 6 64 [4, 2 ^ 64 - 1]) = true := by decide +kernel

/-- Packing nonzero activations (R165 to R167). -/
def acts : State := vec hrt 8 1 [(1, pack 16 [0, 3, 0, 0, 5, 0, 2, 0])]
theorem test_packing : goes (exec (.vcmpneVS ⟨1, 0, 1, 0, 1⟩) acts) (fun t => t.hart.ep.m[1] == 0x52
    && leaves (exec (.vcompress ⟨2, 1, 1, 1⟩) t) 2 16 [3, 5, 2, 0, 0, 0, 0, 0] && gives (.mpopc ⟨5, 1⟩) t 5 3
    && goes (exec (.viota ⟨3, 0, 1⟩) t) (fun t => leaves (exec (.vcompress ⟨4, 3, 1, 1⟩) t) 4 16 [1, 4, 6, 0, 0])) = true := by decide +kernel
theorem test_vconflict : leaves (exec (.vconflict ⟨4, 1, 0, 0⟩) (vec hrt 8 0 [(1, pack 8 [5, 3, 5, 5, 3, 9, 5, 0])])) 4 8
    [0x00, 0x00, 0x01, 0x05, 0x02, 0x00, 0x0D, 0x00] = true := by decide +kernel
theorem test_vredsum : leaves (exec (.vredsum ⟨4, 8, 2, 0, 2⟩) (vec hrt 3 2 [(8, pack 32 [1, 2, 3, 9]), (2, 10), (4, pack 32 [0, 7])])) 4 32 [16, 7] = true := by
  decide +kernel
theorem test_vgather : leaves (exec (.vgather ⟨4, 1, 2, 0, 1⟩) (vec hrt 3 1 [(1, pack 16 [5, 6, 7]), (2, pack 16 [2, 64, 0])])) 4 16 [7, 0, 5] = true := by
  decide +kernel
theorem test_vdiv_by_zero : leaves (exec (.vdivVV ⟨4, 1, 2, 0, 0⟩) (vec hrt 3 0 [(1, pack 8 [5, 0x80, 0xF9]), (2, pack 8 [0, 0xFF, 2])])) 4 8
    [0xFF, 0x80, 0xFD] = true := by decide +kernel

/-- MMA's scaled column (R177): BF16 by QN4 under NANMODE finite-only, and IEEE-like. -/
def column (vcfg : BitVec 8) : State :=
  (vec hrt 1 2 [(2, pack 16 [0x3F80, 0x4000]), (8, 0x7), (9, 0xB), (4, pack 32 [0x40000000])]).ep (fun e => { e with vcfg := vcfg })

theorem test_mma_column : goes (exec (.mma ⟨1, 0, 2, 8, 4, 6, 1⟩) (column 0)) (fun t => t.hart.ep.tile 1 0 0 == 0x3F5C0000 && t.hart.ep.vstat == 0) = true
    ∧ goes (exec (.mma ⟨1, 0, 2, 8, 4, 6, 1⟩) (column 16)) (fun t => t.hart.ep.tile 1 0 0 == 0x7F800000) = true := by decide +kernel

/-- Three orientations (R197, R199). -/
def three : State :=
  msk (vec hrt 4 3 [(2, 0), (3, 0), (4, pack 64 [0x3FF0000000000000, 0x3FF0000000000000, 0x3FF0000000000000]),
    (5, pack 64 [0, 0x3FF0000000000000, 0x3FF0000000000000]), (6, pack 64 [0, 0x4000000000000000, 0x4000000000000000]),
    (7, pack 64 [0x3FF0000000000000, 0x4000000000000001, 0x4000000000000000]), (8, pack 64 [0, 0, 5]), (9, pack 64 [0, 0, 2]), (10, pack 64 [0, 0, 9]),
    (20, pack 64 [7, 7, 7, 7])]) 1 7
theorem test_three_orientations : goes (exec (.gori2 ⟨20, 2, 0, 0, 0, 1, 1⟩) three) (fun t =>
    (List.range 4).map (t.hart.ep.elem 20 64) == [1, 1, 0, 7] && t.hart.ep.m[0] == 4 && t.hart.ep.gstat == BitVec.ofNat 64 (1 + 2 ^ 21 + 2 ^ 42)) = true := by
  decide +kernel
theorem test_ties_broken : goes (exec (.gori2 ⟨20, 2, 8, 0, 1, 1, 1⟩) three) (fun t =>
    (List.range 4).map (t.hart.ep.elem 20 64) == [1, 1, 2 ^ 64 - 1, 7] && t.hart.ep.m[0] == 4) = true := by decide +kernel

/-! ### The hypotheses of the statements about vector words -/

theorem wit_idle : Stated.idle (pol 0) ∧ Stated.idle lent ∧ Stated.idle (clipped 4) ∧ Stated.idle wide ∧ Stated.idle acts := by decide +kernel
theorem wit_issues_integer : Stated.issues (.vaddVV ⟨4, 1, 2, 1, 2⟩) (pol 0) ∧ Stated.issues (.vaddVS ⟨4, 5, 2, 1, 2⟩) (pol 0) :=
  ⟨⟨_, rfl, by decide +kernel⟩, ⟨_, rfl, by decide +kernel⟩⟩
theorem wit_issues_widening : Stated.issues (.vwaddVV ⟨4, 1, 2, 0, 2⟩) (pol 0) ∧ Stated.issues (.vnclipVS ⟨4, 5, 8, 0, 1⟩) (clipped 0) :=
  ⟨⟨_, rfl, by decide +kernel⟩, ⟨_, rfl, by decide +kernel⟩⟩
theorem wit_issues_carry : Stated.issues (.vadcVV ⟨6, 3, 4, 1, 3⟩) wide ∧ Stated.issues (.vmadcVV ⟨1, 1, 2, 0, 3⟩) wide :=
  ⟨⟨_, rfl, by decide +kernel⟩, ⟨_, rfl, by decide +kernel⟩⟩
theorem wit_issues_lent : Stated.issues (.vaddVV ⟨4, 1, 2, 0, 2⟩) lent ∧ Stated.lentCopy lent = some 9 := ⟨⟨_, rfl, by decide +kernel⟩, by decide +kernel⟩
theorem wit_does_not_issue : ¬ Stated.issues (.vaddVV ⟨31, 1, 2, 0, 2⟩) ((pol 0).ep (fun e => { e with group := 1 })) := by
  rintro ⟨op, h, k⟩
  cases h
  exact absurd k (by decide +kernel)
theorem wit_compares : Stated.issues (.vcmpneVS ⟨1, 0, 1, 0, 1⟩) acts ∧ Stated.issues (.vcmpfltVV ⟨2, 1, 2, 0, 1⟩) (pol 0)
    ∧ Stated.issues (.vcmpfltVS ⟨2, 1, 2, 0, 1⟩) (pol 0) := ⟨⟨_, rfl, by decide +kernel⟩, ⟨_, rfl, by decide +kernel⟩, ⟨_, rfl, by decide +kernel⟩⟩
theorem wit_fp_elements : Stated.issues (.vfaddVV ⟨4, 1, 2, 0, 1⟩) (pol 0) ∧ Stated.issues (.vfaddVS ⟨4, 1, 2, 0, 1⟩) (pol 0)
    ∧ Stated.issues (.vfsqrt ⟨4, 1, 0, 1⟩) (pol 0) ∧ (0 : Fin 8).val = ((pol 0).hart.ep.vcfg >>> 5).toNat :=
  ⟨⟨_, rfl, by decide +kernel⟩, ⟨_, rfl, by decide +kernel⟩, ⟨_, rfl, by decide +kernel⟩, by decide +kernel⟩
theorem wit_mask_words : Stated.issues (.mand ⟨2, 1, 3⟩) (pol 0) ∧ Stated.issues (.mnot ⟨2, 1⟩) (pol 0) ∧ Stated.issues (.mshl ⟨2, 1⟩) (pol 0)
    ∧ Stated.issues (.mset ⟨2⟩) (pol 0) ∧ (pol 0).hart.sc.lend.getLsbD 31 = false :=
  ⟨⟨_, rfl, by decide +kernel⟩, ⟨_, rfl, by decide +kernel⟩, ⟨_, rfl, by decide +kernel⟩, ⟨_, rfl, by decide +kernel⟩, by decide +kernel⟩
theorem wit_mask_bits : ((Finset.range 5).filter (fun i => Stated.maskBit (pol 0).hart.ep 1 i = true)) = [0, 2, 3].toFinset
    ∧ ((Finset.range 5).filter (fun i => Stated.maskBit (pol 0).hart.ep 2 i = true)) = ∅ := by decide +kernel
theorem wit_length_zero : Stated.idle (vec hrt 0 2 []) ∧ (vec hrt 0 2 []).hart.ep.vl = 0 ∧ Stated.performed (.vaddVV ⟨4, 1, 2, 0, 2⟩) = true
    ∧ 0x40 ≤ encode (.vaddVV ⟨4, 1, 2, 0, 2⟩) % 128 ∧ encode (.vaddVV ⟨4, 1, 2, 0, 2⟩) % 128 ≤ 0x4A := by decide +kernel
theorem wit_length_zero_issues : Stated.issues (.vaddVV ⟨4, 1, 2, 0, 2⟩) (vec hrt 0 2 []) := ⟨_, rfl, by decide +kernel⟩
theorem wit_performed : (Stated.performed (.vfexp2 ⟨4, 1, 0, 1⟩) && Stated.performed (.mtov ⟨4, 0, 5, 1⟩) && Stated.performed (.gori2 ⟨20, 2, 0, 1, 0, 1, 0⟩)) = true
    ∧ (hrt.issueBad ((opVfexp2 ⟨4, 1, 0, 1⟩).shape hrt.hart.ep)) = false := by decide +kernel
theorem wit_moves : Stated.issues (.vmvsx ⟨4, 1, 2⟩) (pol 0) ∧ Stated.issues (.viota ⟨4, 0, 2⟩) (pol 0) ∧ Stated.issues (.vbcast ⟨4, 1, 0, 2⟩) (pol 0)
    ∧ (pol 0).hart.sc.vstartArmed = false :=
  ⟨⟨_, rfl, by decide +kernel⟩, ⟨_, rfl, by decide +kernel⟩, ⟨_, rfl, by decide +kernel⟩, by decide +kernel⟩
theorem wit_permutes : Stated.issues (.vgather ⟨4, 1, 2, 0, 2⟩) (pol 0) ∧ Stated.issues (.vslidedn ⟨4, 1, 2, 0, 2⟩) (pol 0)
    ∧ Stated.issues (.vslideup ⟨4, 1, 2, 0, 2⟩) (pol 0) ∧ Stated.issues (.vconflict ⟨4, 1, 0, 2⟩) (pol 0)
    ∧ Stated.issues (.vcompress ⟨4, 1, 1, 2⟩) (pol 0) ∧ Stated.issues (.vexpand ⟨4, 1, 1, 2⟩) (pol 0) :=
  ⟨⟨_, rfl, by decide +kernel⟩, ⟨_, rfl, by decide +kernel⟩, ⟨_, rfl, by decide +kernel⟩, ⟨_, rfl, by decide +kernel⟩, ⟨_, rfl, by decide +kernel⟩,
    ⟨_, rfl, by decide +kernel⟩⟩
theorem wit_reductions : Stated.issues (.vredsum ⟨4, 1, 2, 0, 2⟩) (pol 0) ∧ Stated.issues (.vredmax ⟨4, 1, 2, 0, 2⟩) (pol 0)
    ∧ Stated.issues (.vredmin ⟨4, 1, 2, 0, 2⟩) (pol 0) ∧ (pol 0).hart.ep.vl ≠ 0 :=
  ⟨⟨_, rfl, by decide +kernel⟩, ⟨_, rfl, by decide +kernel⟩, ⟨_, rfl, by decide +kernel⟩, by decide +kernel⟩

/-! ### Dispatch -/

theorem wit_dispatch : busy.hart.ctl = false ∧ busy.prompt = false ∧ busy.hart.ep.bindings = [] ∧ Stated.room busy
    ∧ Stated.performed (.vaddVV ⟨4, 1, 2, 0, 2⟩) = true := by decide +kernel
theorem wit_dispatch_issues : Stated.issues (.vaddVV ⟨4, 1, 2, 0, 2⟩) busy := ⟨_, rfl, by decide +kernel⟩
theorem wit_oldest_word : ∃ q rest i, busyQ.hart.ep.queue = q :: rest ∧ q.word = .word i ∧ busyQ.hart.status = .running
    ∧ (given busyQ busyQ.hart.loc 0 3 []).input.unit = busyQ.hart.loc ∧ q.elementwise = true ∧ q.start + 3 < q.vl ∧ ¬(q.start + 8 < q.vl) := by
  refine ⟨_, _, _, rfl, rfl, ?_⟩
  decide +kernel

/-! ### Vector memory -/

/-- The elements of a VM word pass their checks. -/
def passes (i : Instr) (s : State) : Bool :=
  match Stated.reach i s with
  | some r => match Stated.checks i s r with
    | .ok _ _ => true
    | .fail _ _ _ _ => false
    | .wait _ => false
  | none => false

theorem passes_spec {i : Instr} {s : State} (h : passes i s = true) :
    ∃ r s' pages, Stated.reach i s = some r ∧ Stated.checks i s r = .ok s' pages := by
  unfold passes at h
  split at h
  · next r hr =>
    split at h
    · next s' pages hc => exact ⟨r, s', pages, hr, hc⟩
    · cases h
    · cases h
  · cases h

/-- The first element that fails its check is `f`, and is or is not the first that is checked. -/
def failsAt (i : Instr) (s : State) (f : Nat) (head : Bool) : Bool :=
  match Stated.reach i s with
  | some r => match Stated.checks i s r with
    | .ok _ _ => false
    | .fail _ _ g _ => g == f && decide ((Stated.checked i s r).head? = some f) == head
    | .wait _ => false
  | none => false

theorem failsAt_spec {i : Instr} {s : State} {f : Nat} {head : Bool} (h : failsAt i s f head = true) :
    ∃ r s' pages t, Stated.reach i s = some r ∧ Stated.checks i s r = .fail s' pages f t ∧ decide ((Stated.checked i s r).head? = some f) = head := by
  unfold failsAt at h
  split at h
  · next r hr =>
    split at h
    · cases h
    · next s' pages g t hc =>
      simp only [Bool.and_eq_true, beq_iff_eq] at h
      obtain ⟨rfl, k⟩ := h
      exact ⟨r, s', pages, t, hr, hc, k⟩
    · cases h
  · cases h

/-- Four elements of 32 bits from 0x1000 on, or with a stride of 512 MiB, of which only the first is mapped. -/
def vm1 : State := xs (vec (bytes hrt 0x1000 16 (pack 32 [11, 12, 13, 14])) 4 2 [(4, pack 32 [1, 2, 3, 4, 5]), (8, pack 32 [0, 4, 8, 12])])
  [(6, 0x1000), (7, 0x20000000), (9, 0x20001000), (10, 0xFFFFFFFFA0000)]

theorem test_vld : leaves (exec (.vld ⟨4, 6, 0, 2⟩) vm1) 4 32 [11, 12, 13, 14, 5] = true := by decide +kernel
theorem test_vlds_trims : goes (exec (.vlds ⟨4, 6, 7, 0, 2⟩) vm1) (fun t => t.hart.ep.vltrim == 1 && (List.range 2).map (t.hart.ep.elem 4 32) == [11, 2]) = true := by
  decide +kernel
theorem test_vst : goes (exec (.vst ⟨4, 6, 0, 2⟩) vm1) (fun t => gives (.ldu ⟨5, 6, 1, 2, 0, 0⟩) t 5 2 || (t.vdc.any fun l => l.dirty == 0xFFFF)) = true := by
  decide +kernel
theorem test_vamo_same_word : leaves (exec (.vamo ⟨4, 6, 8, 0, 2, 1⟩) ((vec (bytes vm1 0x1000 4 0) 4 2 [(4, pack 32 [1, 1, 1, 1]), (8, 0)]))) 4 32
    [0, 1, 2, 3] = true := by decide +kernel
theorem test_segments : leaves (exec (.vlseg ⟨4, 6, 0, 2, 1, 0⟩) (vec vm1 2 2 [])) 5 32 [12, 14] = true := by decide +kernel
theorem test_window_vector : goes (exec (.vst ⟨4, 10, 0, 2⟩) vm1) (fun t => leaves (exec (.vld ⟨12, 10, 0, 2⟩) t) 12 32 [1, 2, 3, 4]) = true := by decide +kernel

theorem wit_vector_memory : Stated.idle vm1 ∧ passes (.vld ⟨4, 6, 0, 2⟩) vm1 = true ∧ passes (.vst ⟨4, 6, 0, 2⟩) vm1 = true
    ∧ passes (.vamo ⟨4, 6, 8, 0, 2, 1⟩) vm1 = true ∧ passes (.vldx ⟨4, 6, 8, 0, 2⟩) vm1 = true ∧ passes (.vlseg ⟨4, 6, 0, 2, 1, 0⟩) vm1 = true := by decide +kernel
theorem wit_vector_memory_issues : Stated.issues (.vld ⟨4, 6, 0, 2⟩) vm1 ∧ Stated.issues (.vst ⟨4, 6, 0, 2⟩) vm1 ∧ Stated.issues (.vamo ⟨4, 6, 8, 0, 2, 1⟩) vm1 :=
  ⟨⟨_, rfl, by decide +kernel⟩, ⟨_, rfl, by decide +kernel⟩, ⟨_, rfl, by decide +kernel⟩⟩
theorem wit_load_fails : failsAt (.vld ⟨4, 9, 0, 2⟩) vm1 0 true = true ∧ failsAt (.vlds ⟨4, 6, 7, 0, 2⟩) vm1 1 false = true := by decide +kernel
theorem wit_load_fails_issues : Stated.issues (.vld ⟨4, 9, 0, 2⟩) vm1 ∧ Stated.issues (.vlds ⟨4, 6, 7, 0, 2⟩) vm1 :=
  ⟨⟨_, rfl, by decide +kernel⟩, ⟨_, rfl, by decide +kernel⟩⟩
theorem wit_store_fails : failsAt (.vsts ⟨4, 6, 7, 0, 2⟩) vm1 1 false = true ∧ failsAt (.vst ⟨4, 9, 0, 2⟩) vm1 0 true = true := by decide +kernel
theorem wit_store_fails_issues : Stated.issues (.vsts ⟨4, 6, 7, 0, 2⟩) vm1 := ⟨_, rfl, by decide +kernel⟩
theorem wit_window_load : ∃ r, Stated.reach (.vld ⟨4, 10, 0, 2⟩) vm1 = some r ∧ ∀ i ∈ Stated.checked (.vld ⟨4, 10, 0, 2⟩) vm1 r, Stated.inPad vm1 (r.address i) r.bytes :=
  ⟨_, rfl, by decide +kernel⟩
theorem wit_window_store : ∃ r, Stated.reach (.vst ⟨4, 10, 0, 2⟩) vm1 = some r ∧ ∀ i ∈ Stated.checked (.vst ⟨4, 10, 0, 2⟩) vm1 r, Stated.inPad vm1 (r.address i) r.bytes :=
  ⟨_, rfl, by decide +kernel⟩
theorem wit_window_memory : Memory.wf vm1.mem = true ∧ vm1.discarded = [] := by decide +kernel
theorem wit_window_issues : Stated.issues (.vld ⟨4, 10, 0, 2⟩) vm1 ∧ Stated.issues (.vst ⟨4, 10, 0, 2⟩) vm1 := ⟨⟨_, rfl, by decide +kernel⟩, ⟨_, rfl, by decide +kernel⟩⟩

/-! ### Bindings -/

/-- A tensor table of one entry: a row of 32 FP32 elements at 0x3000 (R239). -/
def tens : State :=
  (bytes (bytes vm1 0x2000 64 (0x3000 + 32 * 2 ^ 128 + 2 ^ 160 + 2 ^ 192 + 2 ^ 224 + 2 ^ 256)) 0x3000 128 (pack 32 (List.range 32))).updCtx 1
    (fun c => { c with tenstab := 0x2000, tenscnt := 1 })
/-- The entry is read and the view fits. -/
def bindsAt (o : OpVBind) (s : State) : Bool :=
  !bindBad o s.hart.ep && (match s.tensorEntry (Stated.reg s o.s1).toNat with
    | .ok _ e => viewFits o.view.val o.ew.val (fieldAt e 28 1)
    | _ => false)
theorem bindsAt_spec {o : OpVBind} {s : State} (h : bindsAt o s = true) : bindBad o s.hart.ep = false ∧
    ∃ s' e, s.tensorEntry (Stated.reg s o.s1).toNat = .ok s' e ∧ viewFits o.view.val o.ew.val (fieldAt e 28 1) = true := by
  simp only [bindsAt, Bool.and_eq_true, Bool.not_eq_true'] at h
  refine ⟨h.1, ?_⟩
  have k := h.2
  split at k
  · next s' e he => exact ⟨s', e, he, k⟩
  · cases k

theorem wit_bind : tens.hart.ctl = false ∧ bindsAt ⟨8, 20, 0, 0, 2⟩ tens = true := by decide +kernel
theorem test_bound_stream : goes (exec (.vbind ⟨8, 20, 0, 0, 2⟩) tens) (fun t => t.hart.ep.bindings.length == 1
    && goes (exec (.vaddVS ⟨4, 0, 8, 0, 2⟩) t) (fun t => t.hart.ep.elem 4 32 0 == 0 && t.hart.ep.elem 4 32 3 == 3
      && goes (exec (.vunbind ⟨8⟩) t) (fun t => t.hart.ep.bindings.isEmpty))) = true := by decide +kernel
theorem test_tensor_index : goes (exec (.vbind ⟨8, 20, 0, 0, 2⟩) (xs tens [(20, 1)])) (fun t => t.hart.sc.tcause == 0x16 && t.hart.sc.tval == 1) = true := by
  decide +kernel

/-! ### Tiles and geometric words -/

theorem wit_tiles : Stated.idle vm1 ∧ Stated.tileOk vm1 7 ∧ ¬ Stated.tileOk (vm1.ep (fun e => { e with depth := 3 })) 1 := by decide +kernel
theorem wit_mma : Stated.issues (.mma ⟨1, 0, 2, 8, 4, 6, 1⟩) (column 0) ∧ Stated.idle (column 0) := ⟨⟨_, rfl, by decide +kernel⟩, by decide +kernel⟩
/-- The elements of a tile move pass their checks. -/
def tilePasses (s : State) (a b : Reg) (n : Nat) (k : Kind) : Bool :=
  match s.checkTile s.hart.ep.rows s.hart.ep.vl (Stated.reg s a) (Stated.reg s b) n k with
  | .ok _ _ => true
  | _ => false
theorem tilePasses_spec {s : State} {a b : Reg} {n : Nat} {k : Kind} (h : tilePasses s a b n k = true) :
    ∃ s' pages, s.checkTile s.hart.ep.rows s.hart.ep.vl (Stated.reg s a) (Stated.reg s b) n k = .ok s' pages := by
  unfold tilePasses at h
  split at h
  · next s' pages hc => exact ⟨s', pages, hc⟩
  · cases h
theorem wit_tile_memory : tilePasses vm1 6 20 4 .write = true ∧ tilePasses vm1 6 20 2 .read = true := by decide +kernel
theorem wit_tile_memory_issues : Stated.issues (.mstore ⟨6, 20, 0, 0⟩) vm1 ∧ Stated.issues (.mload ⟨1, 6, 20, 1⟩) vm1 :=
  ⟨⟨_, rfl, by decide +kernel⟩, ⟨_, rfl, by decide +kernel⟩⟩
theorem test_mshape : goes (exec (.mshape ⟨5, 6, 7⟩) (xs hrt [(6, 40), (7, 9)])) (fun t => t.hart.ep.rowBase == 31 && t.hart.ep.rows == 1
    && t.hart.sc.x[5] == 0x1F01) = true := by decide +kernel
theorem test_mload : goes (exec (.mload ⟨1, 6, 20, 0⟩) vm1) (fun t => (List.range 4).map (t.hart.ep.tile 1 0) == [11, 12, 13, 14]) = true := by decide +kernel
theorem test_mtov : goes (exec (.mload ⟨1, 6, 20, 0⟩) vm1) (fun t => leaves (exec (.mtov ⟨12, 0, 1, 0⟩) t) 12 32 [11, 12, 13, 14]) = true := by decide +kernel

/-- The three orientations with an infinite coordinate in element `k`. -/
def infAt (k : Nat) : State := three.ep (fun e => e.setElem 2 64 k 0x7FF0000000000000)
theorem wit_geometry_good : Stated.issues (.gori2 ⟨20, 2, 0, 0, 0, 1, 1⟩) three ∧ Stated.idle three
    ∧ ∀ i < 4, nonFinite gori2K ⟨20, 2, 0, 0, 0, 1, 1⟩ three.hart.ep i = false := ⟨⟨_, rfl, by decide +kernel⟩, by decide +kernel, by decide +kernel⟩
theorem wit_geometry_bad : nonFinite gori2K ⟨20, 2, 0, 0, 0, 1, 1⟩ (infAt 1).hart.ep 1 = true ∧ Stated.isActive (infAt 1) 1 1 = true
    ∧ Stated.startOf (infAt 1) ≤ 1 ∧ 1 < (infAt 1).hart.ep.vl ∧ (infAt 1).hart.sc.vstartArmed = false
    ∧ nonFinite gori2K ⟨20, 2, 0, 0, 0, 1, 1⟩ (infAt 1).hart.ep 0 = false := by decide +kernel
theorem test_geometry_traps : goes (exec (.gori2 ⟨20, 2, 0, 0, 0, 1, 1⟩) (infAt 1)) (fun t => t.hart.sc.tcause == 8 && t.hart.sc.tval == 1) = true := by
  decide +kernel
theorem test_geometry_inactive : goes (exec (.gori2 ⟨20, 2, 0, 0, 0, 1, 1⟩) (infAt 3)) (fun t => t.hart.sc.pc == (infAt 3).hart.sc.pc + 4) = true := by
  decide +kernel
theorem wit_gstat : three.hart.ctl = false ∧ three.hart.ep.queue = [] := by decide +kernel

/-! ### Pots -/

/-- An object's location passes its checks with a property. -/
def foundO (l : ObjAt) (p : State → Nat → Nat → Bool) : Bool :=
  match l with
  | .ok s pa pte => p s pa pte
  | _ => false
theorem foundO_spec {l : ObjAt} {p : State → Nat → Nat → Bool} (h : foundO l p = true) : ∃ s pa pte, l = .ok s pa pte ∧ p s pa pte = true := by
  cases l with
  | ok s pa pte => exact ⟨s, pa, pte, rfl, h⟩
  | trap s t => cases h
  | wait s => cases h
theorem found_spec {l : Loc} {p : State → Nat → Nat → Bool} (h : found l p = true) : ∃ s pa pte, l = .ok s pa pte ∧ p s pa pte = true := by
  cases l with
  | ok s pa pte => exact ⟨s, pa, pte, rfl, h⟩
  | trap t => cases h
  | wait s => cases h

/-- A pot of 100 at 0x4000, local at scope P. -/
def pot100 : State := xs { bytes hrt 0x4000 64 (100 + 3 * 2 ^ 136) with potLines := [0x4000] } [(6, 0x4000), (7, 5), (8, 90), (9, 6), (10, 3)]
/-- The hart on another core. -/
def onCore (s : State) (k : Nat) : State := { s with hart := { s.hart with core := k } }
/-- The worked example's steps (R249, R250). -/
def took (s : State) (k : Nat) (i : Instr) : State := match exec i (onCore s k) with | .next t => t | _ => s
def pot1 : State := took pot100 0 (.pottake ⟨5, 6, 7⟩)
def pot2 : State := took pot1 1 (.pottake ⟨5, 6, 8⟩)
def pot3 : State := took pot2 0 (.pottake ⟨5, 6, 9⟩)
def pot4 : State := took pot3 0 (.pottakeq ⟨5, 6, 10⟩)
def pot5 : State := took pot4 1 (.potreadx ⟨5, 6⟩)
theorem test_pot_takes : pot1.hart.sc.x[5] = 1 ∧ Stated.resid pot1 0x4000 = 88 ∧ pot1.potStacks.map (·.amount) = [7]
    ∧ pot2.hart.sc.x[5] = 1 ∧ Stated.resid pot2 0x4000 = 5 ∧ pot2.potStacks = [] := by decide +kernel
theorem test_pot_refuses : pot3.hart.sc.x[5] = 0 ∧ Stated.resid pot3 0x4000 = 5 ∧ pot4.hart.sc.x[5] = 1 ∧ Stated.resid pot4 0x4000 = 2
    ∧ pot5.hart.sc.x[5] = 2 := by decide +kernel

theorem wit_pots : foundO (pot100.objectAt 0x4000 .rmw 3 0x17) (fun s pa _ => s.isPot pa && s.potKind pa != 1 && s.prompt && s.potQueue.isEmpty && pa == 0x4000
    && Memory.wf s.mem && decide (Stated.potValue s pa < 2 ^ 64) && !s.farmPot pa && decide (Stated.tableOk s)) = true := by decide +kernel
theorem wit_pots_read : foundO (pot100.objectAt 0x4000 .read 3 0x17) (fun s pa _ => s.isPot pa && s.prompt && s.potQueue.isEmpty) = true := by decide +kernel
theorem wit_pots_words : (Stated.potOf (.pottake ⟨5, 6, 7⟩) pot100).isSome = true ∧ (Stated.potOf (.potinit ⟨1, 6, 7, 3⟩) pot100).isSome = true := ⟨rfl, rfl⟩
theorem wit_take_answers : (goes (exec (.pottake ⟨5, 6, 7⟩) pot100) fun t => t.hart.sc.x[5] == 1) = true
    ∧ (goes (exec (.pottakeq ⟨5, 6, 20⟩) (xs pot100 [(20, 101)])) fun t => t.hart.sc.x[5] == 0) = true := by decide +kernel
theorem test_potgive : (goes (exec (.potgive ⟨5, 6, 7⟩) pot100) fun t => t.hart.sc.x[5] == 1 && Stated.potValue t 0x4000 == 105) = true := by decide +kernel
theorem test_potinit_then_read : (goes (exec (.potinit ⟨1, 6, 8, 3⟩) (pot100)) (gives (.potread ⟨5, 6⟩) · 5 90)) = true := by decide +kernel

/-! ### Fences, drains, barriers and monitors -/

theorem wit_fences : (Instr.fence ⟨1, 3, 3⟩).wellFormed = true ∧ (3 : Fin 4).val = 3 ∧ 1 ≤ (3 : Fin 8).val := by decide
/-- A hart with a copy and a Strelvis command of its own. -/
def cmds : State :=
  { hrt with
    copies := [⟨hrt.hart.owner, hrt.hart.loc, 1, 0, 0, List.replicate 64 0, 0, 1, true, false, 0⟩]
    bks := [⟨hrt.hart.owner, hrt.hart.loc, 1, 0, 2, List.replicate 64 0, some 128, 0, 0, [], 0, 0, [], none⟩] }
theorem wit_drain_done : hrt.hart.ep.queue = [] ∧ (∀ c ∈ hrt.copies, c.owner ≠ hrt.hart.owner) ∧ ∀ c ∈ hrt.bks, c.owner ≠ hrt.hart.owner := by decide +kernel
theorem wit_drain_waits : cmds.hart.ctl = false ∧ (32 : Fin 128).val % 32 = 0 ∧ (32 : Fin 128).val / 32 % 2 = 1 ∧ (∃ c ∈ cmds.copies, c.owner = cmds.hart.owner)
    ∧ (64 : Fin 128).val / 64 % 2 = 1 ∧ ∃ c ∈ cmds.bks, c.owner = cmds.hart.owner := by decide +kernel
theorem test_qdrain_waits : goes (exec (.qdrain ⟨96⟩) cmds) (fun t => t.hart.waiting && t.hart.sc.pc == cmds.hart.sc.pc) = true := by decide +kernel
theorem test_fence_writes_back : goes (exec (.st ⟨6, 8, 0, 1, 0, 0⟩) mem1) (fun t => Memory.readNat t.mem 0x1000 2 == 0x8687
    && goes (exec (.fence ⟨0, 2, 2⟩) t) (fun t => Memory.readNat t.mem 0x1000 2 == 0x1234)) = true := by decide +kernel

/-- A barrier of COUNT 2 with ARRIVED `n`, PENDING `p` and PHASE 7 at 0x5000. -/
def barr (n p : Nat) : State := xs (bytes hrt 0x5000 16 (2 + n * 2 ^ 32 + p * 2 ^ 64 + 7 * 2 ^ 96)) [(6, 0x5000), (7, 7), (8, 2 ^ 28 - 1)]
theorem wit_barrier : foundO ((barr 1 0).objectAt 0x5000 .rmw 2 0x18) (fun s pa _ => s.barOk pa && Memory.wf s.mem && s.discarded.isEmpty
    && decide (Stated.barrier s pa = (2, 1, 0, 7))) = true ∧ foundO ((barr 2 1).objectAt 0x5000 .rmw 2 0x18) (fun s pa _ => s.barOk pa
    && decide (Stated.barrierNow s pa = (2, 2, 1, 7))) = true := by decide +kernel
/-- Ordinary stores have left ARRIVED = COUNT and PENDING 0: the phase is complete for the next operation (log 90). -/
theorem wit_barrier_owed : foundO ((barr 2 0).objectAt 0x5000 .rmw 2 0x18) (fun s pa _ => s.barOk pa && decide (Stated.barrier s pa = (2, 2, 0, 7))
    && decide (Stated.barrierNow s pa = (2, 0, 0, 8))) = true := by decide +kernel
theorem test_barrier_owed : goes (exec (.barrive ⟨5, 6, 0, 0⟩) (barr 2 0)) (fun t => t.hart.sc.x[5] == 8 && decide (Stated.barrier t 0x5000 = (2, 1, 0, 8))) = true
    ∧ gives (.barwait ⟨5, 6, 7, 0, 0⟩) (barr 2 0) 5 8 = true := by decide +kernel
theorem wit_barwait : foundO ((barr 1 0).objectAt 0x5000 .read 2 0x18) (fun s pa _ => s.barOk pa && decide ((Stated.barrier s pa).2.2.2 = 7)) = true := by decide +kernel
theorem wit_barexp_limit : (Stated.barrier (barr 0 1) 0x5000).2.2.1 + (Stated.reg (barr 0 1) 8).toNat = 2 ^ 28
    ∧ (Stated.barrier (barr 0 0) 0x5000).2.2.1 + (Stated.reg (barr 0 0) 8).toNat < 2 ^ 28 := by decide +kernel
theorem test_barrive_completes : goes (exec (.barrive ⟨5, 6, 0, 0⟩) (barr 1 0)) (fun t => t.hart.sc.x[5] == 7 && decide (Stated.barrier t 0x5000 = (2, 0, 0, 8))) = true := by
  decide +kernel
theorem test_barrive_too_many : goes (exec (.barrive ⟨5, 6, 0, 0⟩) (barr 2 1)) (fun t => t.hart.sc.tcause == 0x18) = true := by decide +kernel
theorem test_barwait : goes (exec (.barwait ⟨5, 6, 7, 0, 0⟩) (barr 1 0)) (fun t => t.hart.waiting) = true
    ∧ gives (.barwait ⟨5, 6, 8, 0, 0⟩) (barr 1 0) 5 7 = true := by decide +kernel
theorem test_barexp : goes (exec (.barexp ⟨6, 7⟩) (barr 1 0)) (fun t => decide (Stated.barrier t 0x5000 = (2, 1, 7, 7))) = true
    ∧ goes (exec (.barexp ⟨6, 8⟩) (barr 1 1)) (fun t => t.hart.sc.tcause == 0x18) = true := by decide +kernel

/-- A hart whose monitor is armed, fired, and timed out in MWAIT. -/
def watch (fired : Bool) (w : Option MwaitState) : State :=
  { hrt with hart := { hrt.hart with mwait := w, sc := { hrt.hart.sc with monitor := some ⟨0x40, 0x1000, fired⟩ } } }
theorem wit_mwatchld : found (mem1.locate (Stated.reg mem1 6).toNat 8 .read 3) (fun _ _ _ => true) = true ∧ mem1.hart.ctl = false := by decide +kernel
theorem wit_mwait : hrt.hart.sc.monitor = none ∧ (watch true none).hart.sc.monitor = some ⟨0x40, 0x1000, true⟩
    ∧ (watch false (some ⟨3, 3, 5⟩)).hart.mwait = some ⟨3, 3, 5⟩ ∧ (watch false none).hart.mwait = none := by decide +kernel
theorem test_monitor_fires : goes (exec (.mwatchld ⟨5, 6, 0, 0⟩) mem1) (fun t => t.hart.sc.x[5] == 0x8081828384858687
    && goes (exec (.amo ⟨9, 6, 8, 3, 0, 0, 0⟩) t) (gives (.mwait ⟨5, 0⟩) · 5 1)) = true := by decide +kernel
theorem test_mwait_times_out : gives (.mwait ⟨5, 6⟩) (watch false (some ⟨3, 3, 5⟩)) 5 0 = true := by decide +kernel
theorem test_heartbeat : goes (exec .heartbeat hrt) (fun t => t.contexts.all (·.progress)) = true := by decide +kernel

/-! ### Ranges -/

/-- A range of 128 bytes at 0x1000, its first line dirty in the scalar cache. -/
def rng : State := xs (match exec (.st ⟨6, 8, 0, 1, 0, 0⟩) mem1 with | .next t => t | _ => mem1) [(7, 128), (10, 2 ^ 52 - 64)]
theorem wit_range_limits : rng.hart.ep.queue = [] ∧ (Stated.reg rng 0).toNat = 0 ∧ (Stated.reg rng 7).toNat ≠ 0
    ∧ 2 ^ 52 < (Stated.reg rng 10).toNat + (Stated.reg rng 7).toNat := by decide +kernel
theorem wit_images : Stated.onePage rng (Stated.reg rng 6).toNat (Stated.reg rng 7).toNat ∧ found (rng.readPage (Stated.reg rng 6).toNat) (fun _ pa _ => pa == 0x1000) = true
    ∧ (Stated.reg rng 6).toNat < 2 ^ 52 := by decide +kernel
theorem test_settle : goes (exec (.settle ⟨6, 7⟩) rng) (fun t => Memory.readNat t.mem 0x1000 2 == 0x1234 && t.hart.scache.all (fun l => l.dirty == 0)) = true := by
  decide +kernel
theorem test_rinv_drops : goes (exec (.rinv ⟨6, 7, 2⟩) rng) (fun t => Memory.readNat t.mem 0x1000 2 == 0x8687 && gives (.ldu ⟨5, 6, 0, 1, 0, 0⟩) t 5 0x8687) = true := by
  decide +kernel
theorem test_rwbinv : goes (exec (.rwbinv ⟨6, 7, 2⟩) rng) (fun t => Memory.readNat t.mem 0x1000 2 == 0x1234 && t.hart.scache.isEmpty) = true := by decide +kernel
theorem test_range_trap : goes (exec (.renew ⟨10, 7⟩) rng) (fun t => t.hart.sc.tcause == 4 && t.hart.sc.tval == BitVec.ofNat 64 (2 ^ 52)) = true := by decide +kernel

/-- A page of its own at 0x20000000, in the frame 0x30000, of kind `kind` (0 NRM, 2 SREG). -/
def page1 (kind : Nat) : State := xs (bytes (paged (0x300ED + kind * 2 ^ 57)) 0x30010 1 0x77) [(6, 0x20000000), (7, 65536)]
theorem wit_settle_counts : found ((page1 2).readPage 0x20000000) (fun _ pa pte => Pte.kind pte == 2 && region pa == 0) = true := by decide +kernel
theorem test_settle_counts : goes (exec (.settle ⟨6, 7⟩) (page1 2)) (gives (.scount ⟨5, 6⟩) · 5 1) = true := by decide +kernel
theorem wit_discard : found ((page1 0).discardLoc 0x20000000) (fun s pa pte => pa == 0x30000 && Memory.wf s.mem && s.potStacks.isEmpty && !Pte.cls pte
    && Pte.kind pte != 3 && (match s.tlbFind s.hart.coreId s.hart.asid 0x20000000 with
      | some e => !e.big && !Pte.dsc (readPte s e.pteAddr)
      | none => false)) = true := by decide +kernel
theorem wit_discard_range : (page1 0).hart.ctl = false ∧ (Stated.reg (page1 0) 6).toNat % 65536 = 0 ∧ (Stated.reg (page1 0) 7).toNat = 65536 := by decide +kernel
theorem test_discard : goes (exec (.discard ⟨6, 7⟩) (page1 0)) (fun t => Pte.dsc (readPte t 0x20020000) && t.homeByte 0x30010 == 0
    && goes (exec (.ld ⟨5, 6, 2, 3, 0, 0⟩) t) (fun t => t.hart.sc.x[5] == 0)) = true := by decide +kernel

/-! ### Engines -/

/-- A descriptor can be read, and passes a test. -/
def descAt (s : State) (va : Nat) (p : State → List Byte → Bool) : Bool :=
  match s.loadDesc va with
  | .ok u d => p u d
  | .trap _ => false
  | .wait _ => false
theorem descAt_spec {s : State} {va : Nat} {p : State → List Byte → Bool} (h : descAt s va p = true) : ∃ u d, s.loadDesc va = .ok u d ∧ p u d = true := by
  unfold descAt at h
  split at h
  · next u d hd => exact ⟨u, d, hd, h⟩
  · cases h
  · cases h

/-- A copy of one row of 256 bytes from 0x8000 to 0x9000, described at 0x6000, and nothing at 0x6040. -/
def cpys : State :=
  xs (bytes (bytes hrt 0x6000 64 (0x8000 + 0x9000 * 2 ^ 64 + 256 * 2 ^ 384 + 2 ^ 416 + 2 ^ 432)) 0x8000 4 0xCAFEF00D) [(6, 0x6000), (7, 0x6040)]
theorem wit_copies : cpys.hart.ctl = false ∧ descAt (cpys.release 3) 0x6000 (fun u d => !u.copyBad d 0 && u.copies.isEmpty && copyDev d == 0) = true
    ∧ descAt (cpys.release 3) 0x6040 (fun u d => u.copyBad d 0) = true := by decide +kernel
theorem test_cpy : gives (.cpy ⟨5, 6, 0⟩) cpys 5 1 = true ∧ gives (.cpy ⟨5, 7, 0⟩) cpys 5 (2 ^ 64 - 1) = true := by decide +kernel
theorem test_copy_moves : goes (exec (.cpy ⟨5, 6, 0⟩) cpys) (fun t => goes (exec .copyChunk t) (fun t => t.homeNat 0x9000 4 == 0xCAFEF00D
    && gives (.cpyq ⟨5, 6⟩) (xs t [(6, 1)]) 5 0xC000000000000000)) = true := by decide +kernel
/-- A BKOP that adds 4 FP32 numbers, OP 0, at 0x6000; operands at 0x8000, 0x9000 and 0xA000. -/
def bkops : State := xs (bytes hrt 0x6000 64 (0xA000 + 0x8000 * 2 ^ 64 + 0x9000 * 2 ^ 128 + 4 * 2 ^ 192)) [(6, 0x6000), (7, 0x6041), (8, 0x7000)]
theorem wit_strelvis : bkops.hart.ctl = false ∧ descAt (bkops.release 3) 0x6000 (fun u d => !bkopBad d && u.bks.isEmpty && bgemvBad d) = true
    ∧ descAt ((xs (bytes hrt 0x7000 64 (64 * 2 ^ 288 + 0x100 * 2 ^ 64)) []).release 3) 0x7000 (fun _ d => !battnBad d) = true
    ∧ descAt ((bytes hrt 0x7000 64 (0xA000 + 0x8000 * 2 ^ 64 + 0x9000 * 2 ^ 128 + 2 * 2 ^ 192 + 2 * 2 ^ 224 + 2 * 2 ^ 256 + 2 ^ 416)).release 3) 0x7000
        (fun _ d => !bgemvBad d) = true := by decide +kernel
theorem test_bkop : gives (.bkop ⟨5, 6⟩) bkops 5 1 = true ∧ gives (.bgemv ⟨5, 6⟩) bkops 5 (2 ^ 64 - 1) = true := by decide +kernel
theorem test_bkfence : goes (exec .bkfence bkops) (fun t => t.hart.sc.bkEpoch == 1) = true := by decide +kernel
theorem wit_waits : Stated.copiesLeft cmds 1 ∧ ¬ Stated.copiesLeft cmds 0 ∧ Stated.strelvisLeft cmds 1 ∧ ¬ Stated.strelvisLeft cmds 0 := by decide +kernel
theorem wit_cpyq : (∀ c ∈ cmds.copies, c.owner = cmds.hart.owner → c.tag ≠ 2) ∧ ∀ c ∈ cmds.copies, c.owner = cmds.hart.owner → c.tag = 1 →
    ∀ e ∈ cmds.copies, e.owner = cmds.hart.owner → e.tag = 1 → e = c := by decide +kernel
theorem test_cpyq : gives (.cpyq ⟨5, 6⟩) (xs cmds [(6, 1)]) 5 (2 ^ 62) = true ∧ gives (.cpyq ⟨5, 6⟩) (xs cmds [(6, 2)]) 5 0 = true := by decide +kernel
theorem test_cpywait : goes (exec (.cpywait ⟨6⟩) (xs cmds [(6, 1)])) (·.hart.waiting) = true := by decide +kernel

/-! ### Farms -/

/-- A farm of two harts at 0x6000, without a pot, and a bad descriptor at 0x6040. -/
def farms1 : State := xs (bytes hrt 0x6000 64 (0x100 + 0x7777 * 2 ^ 64 + 2 * 2 ^ 256 + 2 ^ 288)) [(6, 0x6000), (7, 0x6040)]
theorem wit_farm : farms1.hart.ctl = false ∧ descAt (farms1.release 3) 0x6000 (fun u d => !farmFieldsBad u (farmOf u.ctx.asid d) d && (farmOf u.ctx.asid d).pot == 0
    && slotDies u (farmOf u.ctx.asid d).dieMask != []) = true
    ∧ descAt (farms1.release 3) 0x6040 (fun u d => farmFieldsBad u (farmOf u.ctx.asid d) d) = true := by decide +kernel
theorem wit_farm_result : descAt (farms1.release 3) 0x6000 (fun u d => match u.launch u.ctx u.hart.coreId d with | .result _ w => w == 2 | .wait _ => false) = true := by
  decide +kernel
theorem test_farm : gives (.farm ⟨5, 6⟩) farms1 5 2 = true ∧ gives (.farm ⟨5, 7⟩) farms1 5 (2 ^ 64 - 1) = true := by decide +kernel
theorem wit_strip : hrt.hart.ctl = false ∧ hrt.farmHere = some placedFarm ∧ placedFarm.pot = 0 := by decide +kernel
/-- A hart whose farm has a pot of three strips at 0x4000. -/
def strips : State :=
  let s := hrt.farmPotInit ⟨1, 0x4000, 0x4000⟩ 3
  { s with farms := s.farms.map (fun f => { f with pot := 0x4000, potPa := 0x4000, strips := 3, harts := 2, admitted := 2 }) }
theorem wit_strip_pot : (match strips.farmHere with
    | some f => f.pot == 0x4000 && foundO (strips.objectAt f.pot .rmw 3 0x17) (fun s pa _ => s.isPot pa && s.prompt && s.potQueue.isEmpty)
    | none => false) = true := by decide +kernel
theorem test_strip : gives (.strip ⟨5⟩) strips 5 2 = true ∧ gives (.strip ⟨5⟩) hrt 5 (2 ^ 64 - 1) = true := by decide +kernel
theorem wit_fquery : (strips.farms.find? (fun f => f.asid == strips.hart.asid && f.handle == 1)).isSome = true
    ∧ strips.farms.find? (fun f => f.asid == strips.hart.asid && f.handle == 9) = none := by decide +kernel
theorem test_fquery : gives (.fquery ⟨5, 6⟩) (xs strips [(6, 1)]) 5 (2 * 2 ^ 62 + 2) = true ∧ gives (.fquery ⟨5, 6⟩) hrt 5 0 = true := by decide +kernel
theorem wit_fend : strips.hart.ctl = false ∧ strips.hart.ep.queue = [] ∧ (∀ c ∈ strips.copies, c.owner ≠ strips.hart.owner)
    ∧ (∀ c ∈ strips.bks, c.owner ≠ strips.hart.owner) ∧ (match strips.farmHere with | some f => decide (f.retired + 1 < f.harts) | none => false) = true
    ∧ (strips.farms.map (fun f => (f.asid, f.handle))).Nodup := by decide +kernel
theorem wit_fend_waits : cmds.hart.ctl = false ∧ cmds.hart.ep.queue = [] ∧ ∃ c ∈ cmds.copies, c.owner = cmds.hart.owner := by decide +kernel
theorem test_fend : goes (exec .fend strips) (fun t => decide (t.hart.status = .retired)) = true := by decide +kernel

/-! ### Supervisor words -/

/-- A control core executes beside the hart. -/
def sup : State := { hrt with boot := .started, hart := ctl.hart, others := hrt.hart :: ctl.others }

/-- A context whose descriptor stands at 0x6000. -/
def sup1 : State := xs ((bytes sup 0x6000 4 0x10001).updCtx 1 (fun c => { c with desc := 0x6000 })) [(6, 0x6000), (7, 0x6100), (8, 2), (9, 3), (10, 1 + 16 * 77)]

theorem wit_tlbinv : sup1.hart.ctl = true := by decide +kernel
/-- Translations of the context are held: of a page of 64 KiB in a hart's TLB, of one of 512 MiB in the second level; and one of another context. -/
def held1 : State := { sup1 with tlb := [⟨0, 1, 1, 0x2000, false, 0x20020000, 0x300ED⟩, ⟨0, secondLevel, 1, 1, true, 0x20010008, 0x300ED⟩,
  ⟨0, secondLevel, 2, 0x2000, false, 0x20020000, 0x300ED⟩] }
theorem test_tlbinv : goes (exec (.tlbinv ⟨11, 12⟩) (xs held1 [(11, 0x20000000), (12, 1)])) (fun t => t.tlb.map (·.asid) == [2]) = true
    ∧ goes (exec (.tlbinv ⟨11, 12⟩) (xs held1 [(11, 0), (12, 0x10001)])) (fun t => t.tlb.map (·.asid) == [2]) = true := by decide +kernel

theorem wit_ctxhalt : descTrap sup1 0x6000 = none ∧ (sup1.release 3).ctxOf 1 = some { placedContext with desc := 0x6000 }
    ∧ Memory.readNat (sup1.release 3).mem 0x6002 2 = 1 ∧ (sup1.release 3).ctxOf 0 = none ∧ placedContext.state = 1
    ∧ Memory.readNat (sup1.release 3).mem 0x6102 2 = 0 ∧ descTrap sup1 0x6100 = none := by decide +kernel
theorem wit_ctxhalt_words : (3 : Nat) % 4 = 3 ∧ (1 + 16 * 77) % 4 = 1 ∧ (1 + 16 * 77) / 4 % 4 = 0 ∧ (1 + 16 * 77) / 2 ^ 52 = 0
    ∧ ∀ h ∈ (sup1.release 3).ctxHarts 1, h.loc ≠ (1 + 16 * 77) / 16 % 256 := by decide +kernel
theorem test_ctxhalt : gives (.ctxhalt ⟨5, 6, 9⟩) sup1 5 (2 ^ 64 - 4) = true ∧ gives (.ctxhalt ⟨5, 7, 8⟩) sup1 5 (2 ^ 64 - 1) = true
    ∧ gives (.ctxhalt ⟨5, 6, 10⟩) sup1 5 (2 ^ 64 - 3) = true := by decide +kernel
theorem test_ctxhalt_stops : goes (exec (.ctxhalt ⟨5, 6, 0⟩) sup1) (fun t => t.hart.sc.x[5] == 0 && (t.ctxOf 1).any (fun c => c.state == 2 && c.cause == 1)
    && t.others.any (fun h => !h.ctl && decide (h.status = .running)) && Memory.readNat t.mem 0x6000 2 == 0x0102
    && (t.stopCtx 1).others.any (fun h => !h.ctl && decide (h.status = .stopped))) = true := by
  decide +kernel
theorem test_ctxhalt_kills : goes (exec (.ctxhalt ⟨5, 6, 8⟩) sup1) (fun t => t.hart.sc.x[5] == 0 && (t.ctxOf 1).any (fun c => c.state == 4 && c.cause == 3)
    && !t.others.any (fun h => !h.ctl) && t.farms.isEmpty) = true := by decide +kernel
/-- The answer of a judgement. -/
def judged (s : State) (a : Nat) (n : Int) : Bool := match s.judgeImage (s.readDesc a) with | .inl m => m == n | .inr _ => false
theorem wit_ctxresume : ((sup1.release 3).ctxOf ((sup1.release 3).readDesc 0x6000).asid).any (fun c => c.state == 1 || c.state == 2 || c.state == 5) = true
    ∧ ((sup1.release 3).ctxOf ((sup1.release 3).readDesc 0x6100).asid).any (fun c => c.state == 1 || c.state == 2 || c.state == 5) = false
    ∧ judged (sup1.release 3) 0x6100 (-2) = true ∧ Stated.reg sup1 0 = 0 ∧ (Stated.reg sup1 9).toNat % 4 = 3 := by decide +kernel
theorem test_ctxresume : gives (.ctxresume ⟨5, 6, 0⟩) sup1 5 (2 ^ 64 - 1) = true ∧ gives (.ctxresume ⟨5, 7, 0⟩) sup1 5 (2 ^ 64 - 2) = true
    ∧ gives (.ctxresume ⟨5, 6, 9⟩) sup1 5 (2 ^ 64 - 5) = true := by decide +kernel

/-- A context that is halting and has no party, its image's area of `room` bytes at 0x10000. -/
def empty1 (room : Nat) : State := { bytes ctl 0x6000 32 (0x10002 + 0x10000 * 2 ^ 128 + room * 2 ^ 192) with
  contexts := [{ Context.new 1 with state := 2, desc := 0x6000, features := 0x1F }] }
theorem wit_image : (empty1 0).nextImage = (empty1 0).ctxOf 1 ∧ ((empty1 0).ctxOf 1).isSome = true ∧ Stated.plainHome (empty1 0) := by decide +kernel
theorem wit_image_room : (match (empty1 4096).ctxOf 1 with | some c => ((empty1 4096).image c).length == 320 | none => false) = true := by decide +kernel
theorem test_image : goes (exec .contextImageWrite (empty1 4096)) (fun t => Memory.readNat t.mem 0x6000 1 == 3 && Memory.readNat t.mem 0x6020 8 == 320
    && Memory.readNat t.mem 0x10000 8 == 0x4554415453485247 && (t.ctxOf 1).any (·.state == 3)) = true := by decide +kernel
theorem test_image_short : goes (exec .contextImageWrite (empty1 100)) (fun t => Memory.readNat t.mem 0x6000 1 == 5 && Memory.readNat t.mem 0x6020 8 == 320) = true := by
  decide +kernel
/-- The image written, then resumed by CTXRESUME. -/
def again : State := match exec .contextImageWrite (empty1 4096) with | .next t => xs t [(6, 0x6000)] | _ => ctl
theorem wit_ctxresume_good : descTrap again 0x6000 = none ∧ (match (again.release 3).judgeImage ((again.release 3).readDesc 0x6000) with
    | .inr es => es.length == 1 | .inl _ => false) = true := by decide +kernel

/-- The hart is parked on an ECALL at 0x100, its record at slot 0x7000 of the queue of its die, edited to RESUME `n`. -/
def parkd (n : Nat) : State :=
  let h := hrt.hart
  let rec_ := 6 + n * 2 ^ 24 + 2 ^ 48 * 0 + 0x100 * 2 ^ 64
  xs { bytes sup 0x7000 64 rec_ with
    others := { h with status := .parked, waiting := true } :: ctl.others
    faults := [⟨0, .hart h.loc, leBytes 64 rec_, some 0x7000⟩] } [(6, 0x7000), (7, 0x7040)]
theorem wit_tret_none : ∀ f ∈ (parkd 0).faults, ¬(f.die = (parkd 0).hart.die ∧ f.slot = some 0x7040) := by decide +kernel
theorem wit_tret : ((parkd 0).release 3).faults.find? (fun f => f.die == (parkd 0).hart.die && f.slot == some 0x7000) = ((parkd 0).faults)[0]?
    ∧ hrt.hart.loc ≠ (parkd 0).hart.loc ∧ fieldAt (((parkd 0).release 3).homeBytes 0x7000 64) 3 1 = 0
    ∧ fieldAt (((parkd 1).release 3).homeBytes 0x7000 64) 3 1 = 1 ∧ fieldAt (((parkd 2).release 3).homeBytes 0x7000 64) 3 1 = 2 := by decide +kernel
theorem test_tret_skip : goes (exec (.tretResume ⟨5, 6⟩) (parkd 1)) (fun t => t.hart.sc.x[5] == 0 && t.faults.isEmpty
    && t.others.any (fun h => !h.ctl && decide (h.status = .running) && h.sc.pc == 0x104)) = true := by decide +kernel
theorem test_tret_refused : gives (.tretResume ⟨5, 7⟩) (parkd 1) 5 (2 ^ 64 - 1) = true ∧ gives (.tretResume ⟨5, 6⟩) (parkd 2) 5 (2 ^ 64 - 2) = true := by decide +kernel

/-! ### Events of harts -/

/-- A completion event is pending, and can be delivered. -/
def event1 : State := given (hrt.sc (fun c => { c with uiPend := true, uiEn := true, uiCount := 2, uiTag := 9, uivec := 0x400 })) hrt.hart.loc 0 0 []
theorem wit_event : Stated.mine event1 ∧ event1.hart.ctl = false ∧ event1.hart.status = .running ∧ event1.hart.sc.uiPend = true ∧ event1.hart.sc.uiEn = true
    ∧ event1.hart.sc.uiActive = false ∧ event1.hart.sc.lend.getLsbD 31 = false ∧ event1.hart.sc.vstartArmed = false := by decide +kernel
theorem test_event : goes (exec .uiEventDelivery event1) (fun t => t.hart.sc.pc == 0x400 && t.hart.sc.uiEvents == 2 && t.hart.sc.uiCauseTag == 9
    && t.hart.sc.uiActive && !t.hart.sc.uiPend) = true := by decide +kernel
theorem wit_mwait_timeout : Stated.mine (given (watch false (some ⟨3, 3, 5⟩)) hrt.hart.loc 0 0 []) ∧ hrt.hart.status = .running
    ∧ ∀ w, (watch false (some ⟨3, 3, 5⟩)).hart.sc.monitor = some w → w.fired = false :=
  ⟨by decide +kernel, by decide +kernel, fun w h => by cases h; rfl⟩
theorem test_mwait_timeout : goes (exec .mwaitTimeout (given (watch false (some ⟨3, 3, 5⟩)) hrt.hart.loc 0 0 [])) (fun t => t.hart.sc.pc == hrt.hart.sc.pc + 4) = true := by
  decide +kernel
/-- A context whose watchdog has reached its limit of 5. -/
def dog : State := hrt.updCtx 1 (fun c => { c with wdog := 5, count := 5 })
theorem wit_watchdog : dog.contexts.find? (fun c => c.state == 1 && c.wdog != 0 && decide (c.wdog ≤ c.count)) = dog.ctxOf 1 ∧ (dog.ctxOf 1).isSome = true := by
  decide +kernel
theorem test_watchdog : goes (exec .watchdogExpiry dog) (fun t => (t.ctxOf 1).any (fun c => c.state == 2 && c.cause == 2) && telGet (t.die 0).tel 0x1110 == 1) = true := by
  decide +kernel
theorem wit_round_commit : ({ hrt with rounds := 2 ^ 24 - 1 } : State).rounds + 1 = 2 ^ 24 := by decide
theorem test_round : goes (exec .roundBoundary { dog with rounds := 62, contexts := dog.contexts.map (fun c => { c with count := 3 }) }) (fun t =>
    (t.ctxOf 1).any (·.count == 4) && t.rounds == 63) = true := by decide +kernel

/-- A take waits at its pot's home. -/
def waits1 : State :=
  given { pot100 with hart := { pot100.hart with status := .pot, waiting := true }, potQueue := [⟨pot100.hart.loc, .take, 0x4000, 0x4000, 5, 5⟩] } 0 0x4000 0 []
theorem wit_pot_home : waits1.input.addr ≠ 0 ∧ (waits1.potQueue.find? (fun r => r.pa == waits1.input.addr)).isSome = true := by decide +kernel
theorem test_pot_home : goes (exec .potHomeRequest waits1) (fun t => t.hart.sc.x[5] == 1 && t.potQueue.isEmpty && decide (t.hart.status = .running)) = true := by
  decide +kernel
/-- A bound stream and its reader on a hart that runs behind. -/
def behind : State := match exec (.vbind ⟨8, 20, 0, 0, 2⟩) { tens with prompt := false } with
  | .next t => (match exec (.vaddVS ⟨4, 0, 8, 0, 2⟩) t with | .next t => given t t.hart.loc 0 0 [] | _ => tens)
  | _ => tens
/-- The word of the oldest entry of the hart's queue. -/
def headWord (s : State) : Option QWord := s.hart.ep.queue.head?.map (·.word)
theorem headWord_spec {s : State} {w : QWord} (h : headWord s = some w) : ∃ q rest, s.hart.ep.queue = q :: rest ∧ q.word = w := by
  unfold headWord at h
  cases hq : s.hart.ep.queue with
  | nil => rw [hq] at h; cases h
  | cons q rest => rw [hq] at h; exact ⟨q, rest, rfl, Option.some.inj h⟩
theorem wit_delivery : Stated.mine behind ∧ behind.hart.status = .running ∧ headWord behind = behind.hart.ep.bindings.head?.map (fun b => QWord.delivery { b with pos := 0 })
    ∧ (headWord behind).isSome = true := by
  decide +kernel
theorem test_delivery : goes (exec .streamDelivery behind) (fun t => t.hart.ep.elem 8 32 3 == 3 && t.hart.ep.queue.length == 1) = true := by decide +kernel
/-- A copy that marks mask m3 from bit 0, on a hart that runs behind. -/
def marks : State := match exec (.cpy ⟨5, 6, 8⟩) (xs { cpys.ep (fun e => { e with m := e.m.set 3 0xFF }) with prompt := false } [(8, 4)]) with
  | .next t => given t t.hart.loc 0 0 []
  | _ => cpys
theorem wit_mask_clear : Stated.mine marks ∧ marks.hart.status = .running ∧ headWord marks = some (.maskClear (3 : Fin 8).val 0 1 1) := by decide +kernel
theorem test_mask_clear : goes (exec .maskClear marks) (fun t => t.hart.ep.m[3] == 0xFE && t.copies.all (·.entered)) = true := by decide +kernel

/-! ### Farms -/

/-- A farm that waits for its first hart. -/
def queued : State := { ctl with
  contexts := [placedContext], farms := [{ placedFarm with handle := 1, state := 1, admitted := 0, harts := 2, entry := 0x100, params := 0x7777, dies := [0] }] }
theorem wit_admission : queued.nextAdmission.isSome = true := by decide +kernel
theorem test_admission : goes (exec .hartAdmission (given queued 0 0 3 [])) (fun t => t.others.any (fun h => !h.ctl && h.core == 2 && h.sc.pc == 0x100
    && h.sc.x[1] == 0x7777 && h.sc.x[2] == 0 && h.sc.x[3] == 2)) = true := by decide +kernel
/-- A farm of higher priority waits for 16 lane groups of the only die it may use, whose cores each hold a hart. -/
def crowd : State :=
  { queued with
    others := (List.range 64).map (fun k => { hrt.hart with die := k / 16, core := k % 16 })
    farms := [{ placedFarm with handle := 1, state := 1, admitted := 0, harts := 2, reserve := 16, dies := [0] }] }
theorem wit_hold : crowd.nextAdmission = none ∧ crowd.nextHold.isSome = true := by decide +kernel
/-- FDLAUNCH is written: FDASID is 1. -/
def launch1 (v : Nat) : State := given (farms1.updDie 0 (fun d => { d with fdasid := 1 })) 0 0 v []
theorem wit_fdlaunch : (launch1 0x6000).input.unit < 4 ∧ ((launch1 0).die 0).fdBusy = false ∧ farms1.contexts.find? (fun c => c.state == 1 && c.asid == (farms1.die 0).fdasid.toNat) = none
    ∧ ((launch1 0).contexts.find? (fun c => c.state == 1 && c.asid == ((launch1 0).die 0).fdasid.toNat)).isSome = true ∧ (0x6001 : Nat) % 64 ≠ 0
    ∧ (((launch1 0).updDie 0 (fun d => { d with fdBusy := true })).die 0).fdBusy = true := by decide +kernel
theorem wit_fdlaunch_result :
    let s := launch1 0x6000
    let u := (s.release 3).updDie 0 (fun d => { d with fdlaunch := 0x6000, fdBusy := true, fdCtx := d.fdasid.toNat, fdresult := 0 })
    let c := placedContext
    s.contexts.find? (fun c => c.state == 1 && c.asid == (s.die 0).fdasid.toNat) = some c ∧
    (match u.xlate c 0 secondLevel 0x6000 .read false with
     | .ok t pa _ => (match t.launch c 0 (t.homeBytes pa 64) with | .result _ w => w == 2 | .wait _ => false)
     | _ => false) = true := by decide +kernel
theorem test_fdlaunch : goes (exec .fdlaunch (launch1 0x6000)) (fun t => t.devRead 0 0x010 == 2) = true
    ∧ goes (exec .fdlaunch (launch1 0x6001)) (fun t => t.devRead 0 0x010 == -1) = true := by decide +kernel

/-! ### Engines -/

/-- A copy command of the hart, ready, from 0x8000 to 0x9000, of 256 bytes; and one that was sent to another device. -/
def copy1 (sent : Bool) : State := { cpys with
  copies := [⟨hrt.hart.owner, hrt.hart.loc, 1, 0, 0, leBytes 64 (0x8000 + 0x9000 * 2 ^ 64 + 256 * 2 ^ 384 + 2 ^ 416 + 2 ^ 432), 0, 1, true, sent, 0⟩] }
/-- The pages of a chunk translate, and stand apart from what is cached. -/
def chunkOk (s : State) : Bool :=
  match s.copyReady with
  | c :: _ => (match s.ctxOf c.owner.asid with
    | some x =>
      let n := chunkLen c.desc c.next
      (match s.engRun x (coreOf c.hartid) .read true copyOwn (chunkSrc c.desc c.next) n with
       | .ok u [_] => (match u.engRun x (coreOf c.hartid) .write true copyOwn (chunkDst c.desc c.next) n with
         | .ok v [h] => decide (Stated.plainHome v) && v.vdc.isEmpty && v.allHarts.all (·.scache.isEmpty) && Pte.kind h.pte != 1
         | _ => false)
       | _ => false)
    | none => false)
  | [] => false
theorem wit_chunk : chunkOk (copy1 false) = true ∧ ((copy1 false).copies.map (fun c => (c.owner, c.tag))).Nodup
    ∧ ∀ c ∈ (copy1 false).copies, copyDev c.desc = 0 ∧ copyBar c.desc = 0 := by decide +kernel
theorem test_chunk : goes (exec .copyChunk (copy1 false)) (fun t => t.homeNat 0x9000 4 == 0xCAFEF00D && t.copies.isEmpty) = true := by decide +kernel
theorem wit_remote_unknown : hrt.ctxOf 7 = none := by decide +kernel
theorem test_remote_write : goes (exec .remoteChunkWrite (given hrt 0 0x9000 1 [1, 2])) (fun t => t.homeNat 0x9000 2 == 0x201) = true
    ∧ goes (exec .remoteChunkWrite (given hrt 0 0x9000 7 [1, 2])) (fun t => t.homeNat 0x9000 2 == 0) = true := by decide +kernel
theorem wit_ack : ((copy1 true).copies.find? (fun c => c.sent && c.hartid == hrt.hart.loc)).isSome = true ∧ ((copy1 true).ctxOf 1).isSome = true := by decide +kernel
theorem test_ack : goes (exec .remoteChunkAck (given (copy1 true) hrt.hart.loc 0 0 [])) (fun t => t.copies.isEmpty) = true
    ∧ goes (exec .remoteChunkAck (given (copy1 true) hrt.hart.loc 0x9000 0x12 [])) (fun t => t.copies.all (·.state == 2) && t.faults.length == 1) = true := by
  decide +kernel

/-- A BKOP that adds four FP32 numbers within an SREG page. -/
def bk1 : State := { bytes (bytes (page1 2) 0x30100 16 (pack 32 [0x3F800000, 0x40000000, 0x40400000, 0x40800000])) 0x30200 4 0x3F800000 with
  bks := [⟨hrt.hart.owner, hrt.hart.loc, 1, 0, 2, leBytes 64 (0x20000000 + 0x20000100 * 2 ^ 64 + 0x20000200 * 2 ^ 128 + 4 * 2 ^ 192 + 2 ^ 424), some 128, 0, 0, [], 0, 0, [], none⟩] }
/-- The first command's checks pass. -/
def bkPasses (s : State) : Bool :=
  match s.bks.filter s.bkCheckable with
  | c :: _ => (match s.ctxOf c.owner.asid with
    | some x => (match s.bkCheck x c with | (.ok _ _ _, _) => true | _ => false)
    | none => false)
  | [] => false
theorem wit_strelvis_checks : bkPasses bk1 = true := by decide +kernel
/-- The command with all its parts complete. -/
def bk2 : State := { bk1 with bks := bk1.bks.map (fun c => { c with state := 1 }) }
theorem wit_strelvis_done : bk2.bks.filter bk2.bkCheckable = [] ∧ bk2.bks.filter (fun c => c.state == 1 && c.parts.isEmpty && bk2.ctxRuns c.owner.asid) = bk2.bks
    ∧ (∀ c ∈ bk2.bks, (bk2.hartOf c.owner).isSome = true ∧ c.kind ≠ 3) ∧ bk2.bks.length = 1 := by decide +kernel
theorem test_strelvis : goes (exec .strelvisPart bk1) (fun t => goes (exec .strelvisPart t) (fun t => t.homeNat 0x30000 8 == 0x4000000040000000
    && goes (exec .strelvisPart t) (fun t => t.bks.isEmpty))) = true := by decide +kernel
theorem wit_channel : ∀ c ∈ bk1.bks, c.kind ≠ 2 → ∀ p ∈ c.parts, ¬(p.unit = bk1.input.unit ∧ p.state = 1) := by decide +kernel

/-! ### Lines and pages -/

/-- A dirty line of the vector data cache of core 0, its first two bytes dirty. -/
def vline : State := given { hrt with vdc := [⟨0, 0x40, [(1, 0x1000)], 0xBBAA, 3, 1, 0, 0, 0, false⟩] } 0 0x40 0 []
theorem wit_evict_vector : vline.input.value = 0 ∧ (∀ l ∈ vline.vdc, l.core = vline.input.unit ∧ l.line = vline.input.addr ∧ l.dirty ≠ 0)
    ∧ (∀ k ∈ vline.vdc, ∀ l ∈ vline.vdc, k.core = l.core → k.line = l.line → k = l) ∧ Stated.plainHome vline := by decide +kernel
/-- The scalar cache's set of the dirty line 0x40 is full. -/
def fullSet : State := given { rng with hart := { rng.hart with
  scache := rng.hart.scache ++ (List.range 7).map (fun k => ⟨0x40 + 128 * (k + 1), [(1, 0x1000 + 8192 * (k + 1))], 0, 0, false⟩) } } rng.hart.loc 0x40 1 []
/-- A place of the same set that is not cached. -/
def nextPlace : Nat := 0x1000 + 8192 * 8
theorem wit_fill : fullSet.hart.ctl = false ∧ nextPlace < 2 ^ 52 ∧ (∀ s ∈ [fullSet, rng], ∀ l ∈ s.hart.scache, l.line ≠ nextPlace / 64)
    ∧ (fullSet.hart.scache.filter (fun k => k.line % 128 == nextPlace / 64 % 128)).length = 8 ∧ (fullSet.hart.scache.map (·.line)).Nodup
    ∧ Stated.plainHome fullSet ∧ (∀ l ∈ fullSet.hart.scache, revokedAt fullSet (l.line * 64) = false)
    ∧ (rng.hart.scache.filter (fun k => k.line % 128 == nextPlace / 64 % 128)).length = 1 := by decide +kernel
theorem wit_evict_vector_stands : revokedAt vline 0x1000 = false := by decide +kernel
theorem test_evict : goes (exec .writeBackMerge vline) (fun t => t.homeNat 0x1000 4 == 0xBBAA && t.vdc.isEmpty) = true
    ∧ (let t := (rng.readLoc nextPlace nextPlace 0 2).1
       t.homeNat 0x1000 2 != 0x1234 && t.hart.scache.any (fun l => l.line == nextPlace / 64)) = true := by decide +kernel
/-- The page of 0x20000000 is discarded. -/
def disc : State := given { bytes (page1 0) 0x20020000 8 (0x300ED + 2 ^ 59) with discarded := [(0x30000, 0x20020000)] } 0 0x30004 0 [0x55, 0x66]
theorem wit_revival : disc.discarded.find? (fun e => e.1 == disc.input.addr / 65536 * 65536) = some (disc.input.addr / 65536 * 65536, 0x20020000)
    ∧ Memory.wf disc.mem = true ∧ disc.potLines = [] ∧ disc.input.data ≠ [] ∧ disc.input.addr + disc.input.data.length ≤ 0x30000 + 65536 := by decide +kernel
theorem test_revival : goes (exec .pageRevival disc) (fun t => t.homeNat 0x30000 8 == 0x665500000000 && t.homeNat 0x30010 1 == 0 && !Pte.dsc (readPte t 0x20020000)) = true := by
  decide +kernel
/-- The collector holds one page of core 0; a write waits on a replicated page; a row is open. -/
def coll : State := given { page1 3 with collector := [⟨0, 1, 0x2000, 0x2000⟩], collapses := [⟨1, 0x20000000, 0⟩], hints := [0x40] } 0 0x40 0 []
theorem wit_page_engines : (coll.collector.find? (fun e => e.core == coll.input.unit)).isSome = true ∧ coll.input.addr ∈ coll.hints
    ∧ (match coll.ctxOf 1 with | some c => decide (walk coll c.ptroot c.features 0x20000000 .read false = .found 0x20020000 (0x300ED + 3 * 2 ^ 57) false) | none => false) = true
    ∧ Pte.kind (0x300ED + 3 * 2 ^ 57) = 3 ∧ Memory.wf coll.mem = true := by decide +kernel
theorem test_collapse : goes (exec .collapse coll) (fun t => Pte.kind (readPte t 0x20020000) == 0 && t.collapses.isEmpty) = true := by decide +kernel
theorem test_write_range : goes (exec .writeRangeAppend coll) (fun t => t.collector.isEmpty) = true := by decide +kernel

/-- A migration of the frame 0x30000 to 0x40000, the entry marked as migrating, described at 0x6000; `busy1` while it runs. -/
def mig : State := given (bytes (bytes (page1 0) 0x20020000 8 (0x300EC + 2 ^ 60)) 0x6000 64 (0x30000 + 0x40000 * 2 ^ 64 + 0x20020000 * 2 ^ 128 + 0x400ED * 2 ^ 192)) 0 0 0x6000 []
def mig1 : State := mig.updDie 0 (fun d => { d with migBusy := true, migDesc := 0x6000 })
theorem wit_migcmd : mig.input.unit < 4 ∧ (mig.die 0).migBusy = false ∧ mig.migRefused 0x6000 = false ∧ mig.migRefused 0x6040 = true
    ∧ (mig1.die 0).migBusy = true := by decide +kernel
theorem wit_migration : Stated.plainHome mig1 ∧ (∀ f ∈ mig1.farms, ¬(f.state = 2 ∧ f.retired = f.harts)) ∧ ∀ j, j < 4 → (mig1.die j).fdBusy = false := by
  decide +kernel
theorem test_migcmd : goes (exec .migcmd mig) (fun t => (t.die 0).migBusy && (t.die 0).migDesc == 0x6000) = true := by decide +kernel

/-! ### Tier 3 -/

/-- An extent of 64 KiB of die 2's port, at 2 × 2^48 + 2 × 2^46. -/
def extBase : Nat := 2 * 2 ^ 48 + 2 * 2 ^ 46
def ext0 : State := given sup 2 extBase 65536 []
/-- It is there; its release is asked for under tag 5; a line of it is dirty. -/
def ext1 (tag : Option Nat) (value : Nat) : State :=
  given { sup.updDie 2 (fun d => { d with extents := [⟨extBase, 65536, tag, false⟩], extTag := 5, revoked := [(extBase, extBase + 65536)] }) with
    msc := [⟨extBase / 64, [0], List.replicate 64 0⟩] } 2 extBase value []
theorem wit_extents : ext0.input.unit < 4 ∧ ext0.hasT3 2 = true ∧ ext0.extentOk 2 extBase 65536 = true ∧ (ext0.die 2).extBuf.length < 16
    ∧ (ext0.die 2).extTag + 1 < 2 ^ 32 ∧ ext0.input.addr < 2 ^ 64 ∧ ext0.input.value < 2 ^ 64 ∧ 2 < ext0.part.dies := by decide +kernel
theorem wit_extent_releases : ((ext1 none 0).die 2).extents.find? (fun e => e.base == extBase && e.releaseTag.isNone) = some ⟨extBase, 65536, none, false⟩
    ∧ ((ext1 (some 5) 5).die 2).extents.find? (fun e => e.releaseTag == some (5 % 2 ^ 32)) = some ⟨extBase, 65536, some 5, false⟩
    ∧ (∀ e ∈ ((ext1 (some 5) 6).die 2).extents, e.releaseTag ≠ some (6 % 2 ^ 32)) ∧ ((ext1 none 0).die 2).revoked.length < 256 := by decide +kernel
theorem test_extent : goes (exec .extentAdded ext0) (fun t => !installed t (extBase + 65535) && ((t.die 2).extBuf.map (fieldAt · 0 8)) == [1 + 2 ^ 32]) = true := by
  decide +kernel
theorem test_extent_released : goes (exec .extentReleaseRequest (ext1 none 0)) (fun t => ((t.die 2).extents.map (·.releaseTag)) == [some 6]) = true
    ∧ goes (exec .extack (ext1 (some 5) 5)) (fun t => (t.die 2).extents.isEmpty && t.msc.isEmpty) = true := by decide +kernel
theorem test_forced_release : goes (exec .forcedExtentRelease (ext1 none 0)) (fun t => (t.die 2).extents.isEmpty && t.msc.isEmpty && (t.die 2).revoked.length == 2) = true := by
  decide +kernel
theorem test_revclr : goes (exec .revclr (ext1 none extBase)) (fun t => (t.die 2).revoked.isEmpty) = true := by decide +kernel

/-! ### Records, images and harts that leave -/

/-- A queue of 16 records at 0x10000, its descriptor at 0x6000, for the faults of die 0 and the extents of die 2; a record waits in each. -/
def rqueue : State :=
  ({ bytes sup 0x6000 32 (0x10000 + 16 * 2 ^ 64 + 17 * 2 ^ 128 + 2 * 2 ^ 192) with faults := [⟨0, .hart 0, List.replicate 64 0x77, none⟩] }.updDie 0
    (fun d => { d with fqdesc := 0x6001 })).updDie 2 (fun d => { d with extq := 0x6001, extBuf := [List.replicate 64 0x66] })
theorem wit_records : Stated.plainHome rqueue ∧ (rqueue.nextFault 0).map (·.2) = some 0x10040 ∧ (rqueue.nextExtent 2).map (·.2) = some 0x10040
    ∧ Stated.slotApart 0x6001 0x10040 64 := by decide +kernel
theorem test_fault_record : goes (exec .faultRecordAppend (given rqueue 0 0 0 [])) (fun t => t.homeNat 0x10040 1 == 0x77 && t.homeNat 0x6010 8 == 18
    && t.faults.all (fun f => f.slot == some 0x10040)) = true := by decide +kernel
theorem test_extent_record : goes (exec .extentRecordAppend (given rqueue 2 0 0 [])) (fun t => t.homeNat 0x1007F 1 == 0x66 && (t.die 2).extBuf.isEmpty) = true := by
  decide +kernel
/-- An extent is accepted when its record of kind 1 is appended. -/
theorem test_extent_accepted : goes (exec .extentRecordAppend (given (rqueue.updDie 2 (fun d => { d with
    extBuf := [leBytes 64 (1 + extBase * 2 ^ 64 + 65536 * 2 ^ 128)] })) 2 0 0 [])) (fun t => installed t (extBase + 65535) && !installed t (extBase + 65536)) = true := by
  decide +kernel
/-- A hart that is to be pre-empted, its record to be written at 0x100000. -/
def preempt1 : State := { hrt with hart := { hrt.hart with leaving := some 0x100000 } }
theorem wit_preempted : preempt1.nextPreempted.map (·.2) = some 0x100000 ∧ Stated.plainHome preempt1 ∧ Stated.namesApart preempt1 := by decide +kernel
/-- Harts that wait for their place; `fixed` where they were pre-empted on core 3. -/
def comes (fixed : Bool) (hs : List Hart) : State :=
  { queued with prompt := false, farms := [placedFarm], placements := [⟨1, 3, fixed, none, hs, hs.map (fun _ => [])⟩] }
/-- One hart of the context's farm. -/
def one : List Hart := [{ freshHart placedFarm 0 0 1 with index := 0 }]
theorem wit_placement : ((comes true one).seatable.find? (fun e => e.1.fixed == true)).map (·.2) = some [3]
    ∧ ((comes false []).seatable.find? (fun e => e.1.fixed == false)).isSome = true ∧ (comes true one).prompt = false
    ∧ ∀ p ∈ (comes true one).placements, p.records.length = p.harts.length := by decide +kernel

/-! ### Device registers, measurement, telemetry -/

theorem wit_device : (given sup 0 0x300 7 []).input.unit < 4 ∧ sup.hasT3 2 = true ∧ (0x301 : Nat) % 8 ≠ 0 := by decide +kernel
theorem test_device : goes (exec .deviceRegisterWrite (given sup 3 0x000 0x12345 [])) (fun t => t.devRead 3 0 == 0x2345) = true := by decide +kernel
theorem test_device_load : goes (exec (.st ⟨6, 7, 0, 3, 0, 0⟩) (xs sup [(6, 4 * 2 ^ 48 + 0x300), (7, 0x12345)])) (gives (.ld ⟨5, 6, 0, 3, 0, 0⟩) · 5 0x2345) = true := by
  decide +kernel
/-- An attestation is being made. -/
def att (q buf : Nat) : State := { sup with attBusy := true, idcount := q, attBuf := buf }
theorem wit_attestation : (att 0 0x8000).attBusy = true ∧ 2 ^ 20 ≤ (att (2 ^ 20) 0).idcount ∧ region (att 0 (2 ^ 48)).attBuf ≠ 0 ∧ region (att 0 0x8000).attBuf = 0
    ∧ Stated.plainHome (att 0 0x8000) ∧ (att 0 0x8000).idcount < 2 ^ 20 := by decide +kernel
theorem test_attreq : goes (exec .attreq (given sup 0 0 0x8000 [])) (fun t => t.attBusy && t.attBuf == 0x8000) = true := by decide +kernel
theorem test_attest_exhausted : goes (exec .attestReportComplete (att (2 ^ 20) 0x8000)) (fun t => t.attResult == 2 && t.idcount == 2 ^ 20) = true := by decide +kernel
/-- SHA-256 of 64 zero bytes is f5a5fd42…: MEAS1 after it is extended by a zero MEASEXT. -/
theorem test_measurement : goes (exec .meassel (given sup 0 0 1 [])) (fun t => leValue (leBytes 4 t.meas[1].toNat) == 0x42fda5f5) = true := by decide +kernel
/-- A commit is in progress, rounds are due, a link retrains, the die is hot. -/
def tel1 : State :=
  given ({ sup with rounds := 2 ^ 24 }.updDie 0 (fun d => { d with telBusy := true, tel := [(3, 4)], links := [3], thermal := true })) 0 0 3 []
theorem wit_telemetry : tel1.input.unit < 4 ∧ (tel1.die 0).telBusy = true ∧ tel1.rounds % 2 ^ 24 = 0 ∧ tel1.rounds ≠ 0 ∧ tel1.input.value ≤ 0x7FF
    ∧ (0x1140 : Nat) ≤ 0x1143 ∧ tel1.input.value ∈ (tel1.die 0).links ∧ (tel1.die 0).thermal = true ∧ (sup.die 0).thermal = false ∧ 3 ∉ (sup.die 0).links := by
  decide +kernel
theorem test_telemetry : goes (exec .softErrorCorrection tel1) (fun t => telGet (t.die 0).tel 3 == 5) = true
    ∧ goes (exec .telemetryCommitComplete tel1) (fun t => telGet (t.die 0).telStored 3 == 4) = true
    ∧ goes (exec .linkRetrain (given sup 1 0 3 [])) (fun t => telGet (t.die 1).tel 0x1123 == 1) = true := by decide +kernel
/-- Bytes of tier 1 and of host memory, and a commit. -/
def pwr : State := bytes (bytes tel1 0x1000 2 0x1234) (3 * 2 ^ 48) 2 0x5678
theorem wit_power : Memory.wf pwr.mem = true := by decide +kernel
theorem test_power : goes (exec .powerDown pwr) (fun t => t.homeNat 0x1000 2 == 0 && t.homeNat (3 * 2 ^ 48) 2 == 0x5678 && telGet (t.die 0).telStored 3 == 4) = true
    ∧ goes (exec .powerLoss pwr) (fun t => telGet (t.die 0).telStored 3 == 0) = true := by decide +kernel

/-! ### Boot and the host -/

/-- The ROM waits for an image; one arrives whose header is zeros. -/
def rom (n : Nat) : State := given { State.reset with boot := .rom 0 n } 0 0 0 (List.replicate 2100 0)
theorem wit_boot : State.reset.boot = .off ∧ (rom 1).boot = .rom 0 1 ∧ (rom 1).discarded = [] ∧ Memory.wf (rom 1).mem = true
    ∧ (rom 1).bootGood ((rom 1).input.data.take 2048) ((rom 1).input.data.drop 2048) = false := by decide +kernel
theorem wit_booted (src n : Nat) : sup.boot ≠ .rom src n := by
  have h : sup.boot = .started := rfl
  rw [h]
  exact BootPhase.noConfusion
/-- Whether an image is accepted rests on the signature, the key's hash and the least version, which no proof can evaluate (Config): one that
meets every other check is accepted where these hold. -/
theorem wit_boot_good (s : State) (h body : List Byte) (h1 : h.length = 2048) (h2 : h.take 8 = bootMagic) (h3 : fieldAt h 8 4 = 1)
    (h4 : (h.drop 1900).all (· == 0) = true) (h5 : s.bootPlaced h = true) (h6 : body.length = fieldAt h 32 8) (h7 : lmsTypes ((h.drop 72).take 56) = true)
    (h8 : ofBytes32 (sha256 ((h.drop 72).take 56)) = Config.keyHash) (h9 : Config.minSvn ≤ fieldAt h 12 4)
    (h10 : lmsVerify ((h.drop 72).take 56) (h.take 128) ((h.drop 128).take 1772) = true) (h11 : sha256 body = (h.drop 40).take 32) :
    s.bootGood h body = true := by
  unfold State.bootGood
  dsimp only
  rw [h1, h2, h3, h4, h5, h6, h7, h8, h10, h11]
  simp [h9]
theorem test_boot : goes (exec .powerOn State.reset) (fun t => decide (t.boot = .rom 0 1)) = true
    ∧ goes (exec .bootTryTimeout (rom 3)) (fun t => decide (t.boot = .rom 1 1)) = true
    ∧ goes (exec .bootImageArrival (rom 1)) (fun t => decide (t.boot = .rom 0 2) && telGet (t.die 0).tel 0x1111 == 1) = true := by decide +kernel
theorem wit_host : Stated.plainHome sup ∧ sup.hdmOk 0x1000 4 = true ∧ sup.hdmOk (96 * 2 ^ 30) 4 = true := by decide +kernel
theorem test_host : goes (exec .hostWrite (given sup 0 (96 * 2 ^ 30 + 8) 0 [1, 2, 3, 4])) (fun t => t.homeNat (2 ^ 46 + 8) 4 == 0x04030201
    && goes (exec .hostRead (given t 0 (96 * 2 ^ 30 + 8) 2 [])) (fun t => t.hostData == [1, 2])) = true := by decide +kernel

/-! ### Words and steps -/

/-- A word placed at the pc of the hart and fetched there. -/
def fetched (s : State) (w : Nat) : Bool :=
  s.hart.sc.pc.toNat % 4 == 0 && (s.hart.ctl || decide (s.hart.sc.pc.toNat < 0xFFFFFFFFA0000))
  && found (s.locate s.hart.sc.pc.toNat 4 .fetch 2) (fun u pa _ => pa % 4 == 0 && w == Stated.wordAt u pa)
theorem fetched_spec {s : State} {w : Nat} (h : fetched s w = true) : ∃ u pa, Stated.fetches s u pa w := by
  simp only [fetched, Bool.and_eq_true, Bool.or_eq_true, decide_eq_true_eq, beq_iff_eq] at h
  obtain ⟨⟨h1, h2⟩, h3⟩ := h
  obtain ⟨u, pa, pte, hl, hp⟩ := found_spec h3
  simp only [Bool.and_eq_true, beq_iff_eq] at hp
  exact ⟨u, pa, h1, h2, ⟨pte, hl⟩, hp.1, hp.2⟩
theorem wit_step : fetched (State.reset.withFetchWord 32 0x04041240) 0x04041240 = true ∧ fetched (State.reset.withFetchWord 32 0) 0 = true
    ∧ fetched (hrt.withFetchWord 32 0xFFFFFFFF) 0xFFFFFFFF = true ∧ Stated.unhurried (State.reset.withFetchWord 32 0x04041240)
    ∧ Stated.unhurried (hrt.withFetchWord 32 0xFFFFFFFF) := by decide +kernel
theorem wit_step_lent : fetched ((hrt.sc (fun c => { c with lend := 0x80029900 })).withFetchWord 32 0x01) 0x01 = true
    ∧ acceptsLend 0x01 0x80029900 = false ∧ acceptsLend 0x04041240 0x80029900 = true := by decide +kernel
theorem test_step : goes (step (State.reset.withFetchWord 32 0x7FFC6290)) (fun t => t.allHarts.any (fun h => h.ctl && h.sc.pc == 4)) = true := by decide +kernel
theorem test_step_illegal : goes (step (hrt.withFetchWord 32 0)) (fun t => t.allHarts.any (fun h => decide (h.status = .parked) && h.sc.tcause == 1)) = true := by
  decide +kernel
theorem wit_encoded : (Instr.vlseg ⟨4, 6, 0, 2, 1, 0⟩).wellFormed = true ∧ isEvent (.vlseg ⟨4, 6, 0, 2, 1, 0⟩) = false ∧ decodeWord 0x04041240 = .ok (.vaddVV ⟨4, 1, 2, 0, 2⟩) := by
  decide +kernel
theorem wit_every_step : Memory.wf (State.reset.withFetchWord 32 0x04041240).mem = true ∧ (step (State.reset.withFetchWord 32 0x04041240) matches .next _) = true := by
  decide +kernel

/-! ### Rounded and special results -/

/-- FP32 operands: 1, 3, 2^100, 0, −1, a quiet NaN, a signalling NaN and both infinities. -/
def fp32s : State := xs hrt [(6, 0x3F800000), (7, 0x40400000), (8, 0x71800000), (9, 0), (10, 0xBF800000), (11, 0x7FC00000), (12, 0x7F800001),
  (13, 0x7F800000), (14, 0xFF800000)]
theorem fp32s_finite : Stated.operand fp32s 1 6 = .fin false 8388608 (-23) ∧ Stated.operand fp32s 1 7 = .fin false 12582912 (-22)
    ∧ Stated.operand fp32s 1 8 = .fin false 8388608 77 ∧ Stated.operand fp32s 1 9 = .fin false 0 (-149)
    ∧ Stated.operand fp32s 1 10 = .fin true 8388608 (-23) ∧ fp32.decode 2 0x40400000 = .fin false 12582912 (-22) := by decide +kernel
theorem fp32s_special : Stated.operand fp32s 1 11 = .nan false ∧ Stated.operand fp32s 1 12 = .nan true ∧ Stated.operand fp32s 1 13 = .inf false
    ∧ Stated.operand fp32s 1 14 = .inf true := by decide +kernel
/-- 1 / 3 has no exact FP32 answer, and is no larger than 3. -/
theorem wit_rounded : Stated.exactOf fp32s (.fdiv ⟨5, 6, 7, 1, 0⟩) = some (fmtOf 1, 0, 5, 1 / 3, false) ∧ Stated.modeOf fp32s 0 ≤ 4
    ∧ ∃ y, Stated.Holds (fmtOf 1) 2 y ∧ |(1 / 3 : ℝ)| ≤ y := by
  obtain ⟨h1, h2, -, -, -, h3⟩ := fp32s_finite
  refine ⟨?_, by decide +kernel, 3, ⟨0x40400000, by decide, ?_⟩, by norm_num⟩
  · simp only [Stated.exactOf, Stated.exact2]
    rw [h1, h2]
    norm_num [Stated.finite, FVal.isNeg]
  · rw [show fmtOf 1 = fp32 from rfl, h3]
    norm_num [Stated.finite]
/-- The square of 2^100 lies beyond FP32. -/
theorem wit_overflow : Stated.exactOf fp32s (.fmul ⟨5, 8, 8, 1, 0⟩) = some (fmtOf 1, 0, 5, 2 ^ 200, false)
    ∧ (2 : ℝ) ^ ((fmtOf 1).bias + 1) ≤ |(2 : ℝ) ^ 200| := by
  obtain ⟨-, -, h, -, -, -⟩ := fp32s_finite
  refine ⟨?_, ?_⟩
  · simp only [Stated.exactOf, Stated.exact2]
    rw [h]
    norm_num [Stated.finite, FVal.isNeg]
  · rw [abs_of_pos (by positivity), show (fmtOf 1).bias = 127 from rfl]
    exact pow_le_pow_right₀ (by norm_num) (by norm_num)
theorem wit_nan_operand : Stated.number (Stated.operand fp32s 1 11) = none ∧ ¬ Stated.signals (Stated.operand fp32s 1 11)
    ∧ Stated.signals (Stated.operand fp32s 1 12) := by
  rw [fp32s_special.1, fp32s_special.2.1]
  exact ⟨rfl, by simp [Stated.signals], rfl⟩
theorem wit_division_by_zero_fp : ∃ x, Stated.finite (Stated.operand fp32s 1 6) = some x ∧ x ≠ 0 ∧ Stated.finite (Stated.operand fp32s 1 9) = some 0 := by
  obtain ⟨h1, -, -, h2, -, -⟩ := fp32s_finite
  rw [h1, h2]
  exact ⟨_, rfl, by norm_num, by norm_num [Stated.finite]⟩
theorem wit_root_below_zero : ∃ x, Stated.finite (Stated.operand fp32s 1 10) = some x ∧ x < 0 := by
  rw [fp32s_finite.2.2.2.2.1]
  exact ⟨_, rfl, by norm_num⟩
theorem wit_fcvti : Stated.modeOf fp32s 0 ≤ 4 ∧ (∃ x, Stated.finite (Stated.operand fp32s 1 8) = some x ∧ (2 : ℝ) ^ 64 < x)
    ∧ Stated.operand fp32s 1 13 = .inf false ∧ Stated.operand fp32s 1 14 = .inf true ∧ Stated.number (Stated.operand fp32s 1 11) = none := by
  refine ⟨by decide +kernel, ?_, fp32s_special.2.2.1, fp32s_special.2.2.2, wit_nan_operand.1⟩
  rw [fp32s_finite.2.2.1]
  refine ⟨_, rfl, ?_⟩
  norm_num
theorem wit_fmin_equal : ∃ p, Stated.number (Stated.operand fp32s 1 6) = some p ∧ (Stated.operand fp32s 1 6).isNeg = (Stated.operand fp32s 1 6).isNeg := by
  rw [fp32s_finite.1]
  exact ⟨_, rfl, rfl⟩

/-! ### Compare and swap, cached stores, and the CSRs of a context -/

/-- A CAS whose comparand in x5 stands at 0x1000, and one whose comparand does not. -/
def cas1 : State := xs mem1 [(5, 0x84858687)]
theorem wit_cas : (match cas1.locate 0x1000 4 .read 2 with
    | .ok s pa _ => pa == 0x1000 && (s.homeRead pa 4).2 == (Stated.reg cas1 5).toNat % 256 ^ 4
      && found ((s.homeRead pa 4).1.locate 0x1000 4 .rmw 2) (fun _ pa _ => pa == 0x1000)
    | _ => false) = true
    ∧ found (mem1.locate 0x1000 4 .read 2) (fun s pa _ => (s.homeRead pa 4).2 != (Stated.reg mem1 5).toNat % 256 ^ 4) = true := by decide +kernel
theorem test_cas : goes (exec (.cas ⟨5, 6, 8, 2, 0, 0⟩) cas1) (fun t => t.homeNat 0x1000 4 == 0x1234) = true
    ∧ goes (exec (.cas ⟨5, 6, 8, 2, 0, 0⟩) mem1) (fun t => t.homeNat 0x1000 4 == 0x84858687) = true := by decide +kernel
/-- The line 0x40 is in the scalar cache already. -/
theorem wit_cached_store : (rng.hart.scache.any fun l => l.line == 0x40) = true ∧ (hrt.hart.scache.filter fun l => l.line % 128 == 0x40 % 128).length < 8 := by
  decide +kernel
theorem wit_window_stands : (∀ k < 8, (mem1.discarded.any fun e => e.1 == (Stated.padByte mem1 0xFFFFFFFFA0000 + k) / 65536 * 65536) = false)
    ∧ (0 : Fin 8).val ≠ 7 := by decide +kernel
theorem wit_context_csrs : (hrt.ctxOf hrt.hart.asid).isSome = true ∧ hrt.hart.ctl = false := by decide +kernel
theorem test_uistatus : goes (exec (.csrrw ⟨0, 6, 0x080⟩) (xs hrt [(6, 0xFF)])) (gives (.csrrs ⟨5, 0, 0x080⟩) · 5 0xB) = true := by decide +kernel
theorem test_handler_begins_without_lend : goes (exec .ecall (ctl.sc (fun c => { c with lend := 0x80029900 }))) (fun t => t.hart.sc.lend == 0x00029900) = true := by
  decide +kernel

/-! ### Draws, conversions, powers of two and reductions -/

theorem wit_stochastic : Stated.idle (pol 0x80) ∧ ((pol 0x80).hart.ep.vcfg >>> 5).toNat = 4 := by decide +kernel
theorem wit_stochastic_issues : Stated.issues (.vfaddVV ⟨4, 1, 2, 1, 1⟩) (pol 0x80) ∧ Stated.issues (.vfaddVS ⟨4, 5, 2, 1, 1⟩) (pol 0x80) :=
  ⟨⟨_, rfl, by decide +kernel⟩, ⟨_, rfl, by decide +kernel⟩⟩
theorem wit_conversions : Stated.issues (.vfcvt ⟨4, 1, 2, 0, 1, 0⟩) (pol 0x80) ∧ Stated.issues (.vfcvti ⟨4, 1, 0, 2, 1, 1⟩) (pol 0x80)
    ∧ Stated.issues (.vfcvtf ⟨4, 1, 0, 2, 1, 1⟩) (pol 0x80) ∧ Stated.nanOf (pol 0x80) ≤ 2 :=
  ⟨⟨_, rfl, by decide +kernel⟩, ⟨_, rfl, by decide +kernel⟩, ⟨_, rfl, by decide +kernel⟩, by decide +kernel⟩
/-- 3, 128, −200, the two infinities and both NaNs. -/
def powers : State := vec hrt 7 2 [(1, pack 32 [0x40400000, 0x43000000, 0xC3480000, 0x7F800000, 0xFF800000, 0x7FC00000, 0x7F800001])]
theorem wit_exp2_issues : Stated.idle powers ∧ Stated.issues (.vfexp2 ⟨4, 1, 0, 1⟩) powers := ⟨by decide +kernel, ⟨_, rfl, by decide +kernel⟩⟩
theorem wit_exp2_operands : (List.range 7).map (fun i => fp32.decode 2 (Stated.element powers.hart.ep 1 32 i))
    = [.fin false 12582912 (-22), .fin false 8388608 (-16), .fin true 13107200 (-16), .inf false, .inf true, .nan false, .nan true] := by decide +kernel
theorem test_exp2 : leaves (exec (.vfexp2 ⟨4, 1, 0, 1⟩) powers) 4 32 [0x41000000, 0x7F800000, 0, 0x7F800000, 0, 0x7FC00000, 0x7FC00000] = true := by decide +kernel
theorem wit_fp_reductions : Stated.issues (.vredfsum ⟨4, 1, 2, 1, 1⟩) (pol 0) ∧ Stated.issues (.vredfmax ⟨4, 1, 2, 1, 1⟩) (pol 0)
    ∧ (pol 0).hart.ep.vl ≤ 2 ^ 3 ∧ 2 ^ (3 - 1) < (pol 0).hart.ep.vl ∧ (vec hrt 1 2 []).hart.ep.vl ≤ 2 ^ 0 :=
  ⟨⟨_, rfl, by decide +kernel⟩, ⟨_, rfl, by decide +kernel⟩, by decide +kernel, by decide +kernel, by decide +kernel⟩
/-- 1 + (1 + 3) + (2 + 4): elements 1, 2, 3 and 4 onto a start value of 1. -/
theorem test_vredfsum : leaves (exec (.vredfsum ⟨4, 1, 2, 0, 1⟩) (vec hrt 4 2 [(1, pack 32 [0x3F800000, 0x40000000, 0x40400000, 0x40800000]), (2, 0x3F800000)])) 4 32
    [0x41300000] = true := by decide +kernel

/-! ### Performing in pieces, and what vector memory words move -/

theorem wit_pieces : busy.hart.status = .running ∧ busy.hart.ep.queue = [] ∧ busy.prompt = false ∧ busyQ.hart.ep.queue.all (fun q => q.vmem.isNone) = true := by
  decide +kernel
/-- The places of a VM word find room in the vector data cache and no page among them is of KIND SWM; all are cached, or none is. -/
def placesFit (i : Instr) (s : State) (limit : Nat) (cached : Bool) : Bool :=
  match Stated.reach i s with
  | some r =>
    let good := fun (s' : State) (pages : List PageRef) =>
      let ps := (Stated.done i s r limit).map (Stated.place s r pages)
      decide (Stated.linesFit s' ps) && ps.all (fun x => uncached x.1 x.2 == !cached && Pte.kind x.2 != 1) && s'.discarded.isEmpty && Memory.wf s'.mem
    match Stated.checks i s r with
    | .ok s' pages => good s' pages
    | .fail s' pages _ _ => good s' pages
    | .wait _ => false
  | none => false
theorem wit_places : placesFit (.vld ⟨4, 6, 0, 2⟩) vm1 4 true = true ∧ placesFit (.vlds ⟨4, 6, 7, 0, 2⟩) vm1 1 true = true
    ∧ placesFit (.vldx ⟨4, 6, 8, 0, 2⟩) vm1 4 true = true ∧ placesFit (.vlseg ⟨4, 6, 0, 2, 1, 0⟩) (vec vm1 2 2 []) 2 true = true
    ∧ placesFit (.vst ⟨4, 6, 0, 2⟩) vm1 4 true = true ∧ placesFit (.vsts ⟨4, 6, 7, 0, 2⟩) vm1 1 true = true
    ∧ placesFit (.vstx ⟨4, 6, 8, 0, 2⟩) vm1 4 true = true ∧ placesFit (.vsseg ⟨4, 6, 0, 2, 1, 0⟩) (vec vm1 2 2 []) 2 true = true
    ∧ placesFit (.vst ⟨4, 10, 0, 2⟩) vm1 4 false = true ∧ placesFit (.vamo ⟨4, 6, 8, 0, 2, 1⟩) vm1 4 true = true := by decide +kernel
theorem wit_places_issue : Stated.issues (.vlds ⟨4, 6, 7, 0, 2⟩) vm1 ∧ Stated.issues (.vldx ⟨4, 6, 8, 0, 2⟩) vm1 ∧ Stated.issues (.vstx ⟨4, 6, 8, 0, 2⟩) vm1
    ∧ Stated.issues (.vlseg ⟨4, 6, 0, 2, 1, 0⟩) (vec vm1 2 2 []) ∧ Stated.issues (.vsseg ⟨4, 6, 0, 2, 1, 0⟩) (vec vm1 2 2 []) :=
  ⟨⟨_, rfl, by decide +kernel⟩, ⟨_, rfl, by decide +kernel⟩, ⟨_, rfl, by decide +kernel⟩, ⟨_, rfl, by decide +kernel⟩, ⟨_, rfl, by decide +kernel⟩⟩
/-- The elements of the VAMO stand at four places of their own, and no line of the core is dirty. -/
theorem wit_vamo : vm1.vdc = [] ∧ (∀ h ∈ vm1.allHarts, h.scache = []) ∧ vm1.potLines = [] ∧ vm1.potMaps = []
    ∧ ((Stated.reach (.vamo ⟨4, 6, 8, 0, 2, 1⟩) vm1).map fun r => (List.range 4).map r.address) = some [0x1000, 0x1004, 0x1008, 0x100C] := by decide +kernel
theorem test_vldx : leaves (exec (.vldx ⟨4, 6, 8, 0, 2⟩) vm1) 4 32 [11, 12, 13, 14, 5] = true := by decide +kernel
theorem test_vstx_then_vld : goes (exec (.vstx ⟨4, 6, 8, 0, 2⟩) vm1) (fun t => leaves (exec (.vld ⟨12, 6, 0, 2⟩) t) 12 32 [1, 2, 3, 4]) = true := by decide +kernel
theorem test_vsseg_then_vlseg : goes (exec (.vsseg ⟨4, 6, 0, 2, 1, 0⟩) (vec vm1 2 2 [(4, pack 32 [1, 2]), (5, pack 32 [3, 4])])) (fun t =>
    leaves (exec (.vld ⟨12, 6, 0, 2⟩) (vec t 4 2 [])) 12 32 [1, 3, 2, 4]) = true := by decide +kernel

/-! ### Rows, sums and exact predicates -/

theorem wit_rows : Stated.issues (.mtov ⟨12, 0, 1, 0⟩) vm1 ∧ Stated.issues (.mvtot ⟨1, 4, 0, 0⟩) vm1 ∧ (vm1.hart.ep.vcfg >>> 5).toNat ≤ 4 ∧ Stated.nanOf vm1 ≤ 2 :=
  ⟨⟨_, rfl, by decide +kernel⟩, ⟨_, rfl, by decide +kernel⟩, by decide +kernel, by decide +kernel⟩
theorem test_mvtot : goes (exec (.mvtot ⟨1, 4, 0, 0⟩) vm1) (fun t => (List.range 5).map (t.hart.ep.tile 1 0) == [1, 2, 3, 4, 0]) = true := by decide +kernel
/-- The places of a tile's elements find room, and are cached in pages that are not of KIND SWM. -/
def cellsFit (s : State) (a b : Reg) (n : Nat) (k : Kind) : Bool :=
  match s.checkTile s.hart.ep.rows s.hart.ep.vl (Stated.reg s a) (Stated.reg s b) n k with
  | .ok s' pages =>
    let ps := (Stated.cells s).map fun p => resolve pages s.hart.coreId (Stated.cellAddress (Stated.reg s a) (Stated.reg s b) n p)
    decide (Stated.linesFit s' ps) && ps.all (fun x => !uncached x.1 x.2 && Pte.kind x.2 != 1)
  | _ => false
theorem wit_tile_moves : cellsFit vm1 6 20 4 .write = true ∧ cellsFit vm1 6 20 2 .read = true ∧ (vm1.hart.ep.vcfg >>> 5).toNat < 4
    ∧ vm1.hart.ep.rowBase + vm1.hart.ep.rows ≤ 32 := by decide +kernel
/-- A value that is finite. -/
def isFin (v : FVal) : Bool := match v with | .fin _ _ _ => true | _ => false
theorem isFin_spec {v : FVal} (h : isFin v = true) : ∃ x, Stated.finite v = some x := by
  cases v with
  | nan _ => cases h
  | inf _ => cases h
  | fin n m e => exact ⟨_, rfl⟩
/-- An MMA of BF16 by BF16, row 0 of A 1 and 2, column 0 of B 1. -/
def mma1 : State := vec hrt 1 2 [(2, pack 16 [0x3F80, 0x4000]), (8, 0x3F80), (9, 0x3F80)]
theorem wit_mma_sums : Stated.issues (.mma ⟨1, 0, 2, 8, 0, 0, 1⟩) mma1 ∧ Stated.idle mma1 ∧ Stated.nanOf mma1 ≤ 2
    ∧ (∀ k < 8, ∃ a b, Stated.finite (Stated.mmaA ⟨1, 0, 2, 8, 0, 0, 1⟩ mma1 0 k) = some a ∧ Stated.finite (Stated.mmaB ⟨1, 0, 2, 8, 0, 0, 1⟩ mma1 k 0) = some b)
    ∧ ∃ old, Stated.finite (fp32.decode 2 (Stated.tileElement mma1.hart.ep 1 mma1.hart.ep.rowBase 0)) = some old := by
  have ha : ∀ k < 8, isFin (Stated.mmaA ⟨1, 0, 2, 8, 0, 0, 1⟩ mma1 0 k) = true := by decide +kernel
  have hb : ∀ k < 8, isFin (Stated.mmaB ⟨1, 0, 2, 8, 0, 0, 1⟩ mma1 k 0) = true := by decide +kernel
  refine ⟨⟨_, rfl, by decide +kernel⟩, by decide +kernel, by decide +kernel, fun k hk => ?_, isFin_spec (by decide +kernel)⟩
  obtain ⟨a, h⟩ := isFin_spec (ha k hk)
  obtain ⟨b, g⟩ := isFin_spec (hb k hk)
  exact ⟨a, b, h, g⟩
theorem test_mma : goes (exec (.mma ⟨1, 0, 2, 8, 0, 0, 1⟩) mma1) (fun t => t.hart.ep.tile 1 0 0 == 0x40400000) = true := by decide +kernel
/-- A column whose products are scaled (R177): its scale is finite. -/
theorem wit_mma_scale : ∃ x, Stated.finite (fp32.decode 2 (Stated.element (column 0).hart.ep 4 32 0)) = some x := isFin_spec (by decide +kernel)

theorem wit_predicates : (⟨.gori2, 3, 2, fun P => Stated.det2 P 2 0 1, fun P => Stated.per2 P 2 0 1⟩ : Stated.Predicate) ∈ Stated.predicates
    ∧ ((.gori2 : OpG → Instr), gori2K) ∈ Stated.geomRows ∧ Stated.delivers gori2K ⟨20, 2, 0, 1, 0, 1, 1⟩ three ∧ three.hart.ep.geom = none :=
  ⟨by simp [Stated.predicates], by simp [Stated.geomRows], .inl rfl, by decide +kernel⟩
/-- The points of elements 0 and 2 are numbers: one turns left, one lies on a line. -/
theorem wit_predicate_points :
    Stated.pointsAre ⟨20, 2, 0, 1, 0, 1, 1⟩ three 3 2 0 (fun p j => if p = 1 ∧ j = 0 ∨ p = 2 ∧ j = 1 then 1 else 0)
    ∧ Stated.pointsAre ⟨20, 2, 0, 1, 0, 1, 1⟩ three 3 2 2 (fun p _ => p) := by
  have h : ∀ i < 3, ∀ p < 3, ∀ j < 2, Stated.coordinate ⟨20, 2, 0, 1, 0, 1, 1⟩ three 2 i p j
      = fp64.decode 2 (Stated.element three.hart.ep (2 + p * 2 + j) 64 i) := by decide +kernel
  have z : fp64.decode 2 0 = .fin false 0 (-1074) := by decide +kernel
  have o : fp64.decode 2 0x3FF0000000000000 = .fin false 4503599627370496 (-52) := by decide +kernel
  have w : fp64.decode 2 0x4000000000000000 = .fin false 4503599627370496 (-51) := by decide +kernel
  have e0 : ∀ p < 3, ∀ j < 2, Stated.element three.hart.ep (2 + p * 2 + j) 64 0
      = if p = 1 ∧ j = 0 ∨ p = 2 ∧ j = 1 then 0x3FF0000000000000 else 0 := by decide +kernel
  have e2 : ∀ p < 3, ∀ j < 2, Stated.element three.hart.ep (2 + p * 2 + j) 64 2
      = if p = 0 then 0 else if p = 1 then 0x3FF0000000000000 else 0x4000000000000000 := by decide +kernel
  constructor
  · intro p hp j hj
    rw [h 0 (by decide) p hp j hj, e0 p hp j hj]
    beta_reduce
    by_cases c : p = 1 ∧ j = 0 ∨ p = 2 ∧ j = 1
    · rw [if_pos c, if_pos c, o]; norm_num [Stated.finite]
    · rw [if_neg c, if_neg c, z]; norm_num [Stated.finite]
  · intro p hp j hj
    rw [h 2 (by decide) p hp j hj, e2 p hp j hj]
    rcases (by omega : p = 0 ∨ p = 1 ∨ p = 2) with rfl | rfl | rfl
    · norm_num [z, Stated.finite]
    · norm_num [o, Stated.finite]
    · norm_num [w, Stated.finite]
theorem wit_predicate_values : Stated.det2 (fun p j => if p = 1 ∧ j = 0 ∨ p = 2 ∧ j = 1 then 1 else 0) 2 0 1 ≠ 0 ∧ Stated.det2 (fun p _ => p) 2 0 1 = 0 := by
  constructor <;> norm_num [Stated.det2]

/-- Segments of FP32 points: crossing, meeting end to end on a line, apart on a line, overlapping, touching, apart. -/
def segs : State :=
  let n := fun (k : Nat) => [0, 0x3F800000, 0x40000000, 0x40400000, 0x40800000].getD k 0
  vec hrt 6 2 [(2, pack 32 ([0, 0, 0, 0, 0, 0].map n)), (3, pack 32 ([0, 0, 0, 0, 0, 0].map n)), (4, pack 32 ([2, 1, 1, 2, 2, 1].map n)),
    (5, pack 32 ([2, 1, 1, 2, 0, 0].map n)), (6, pack 32 ([0, 1, 2, 1, 1, 0].map n)), (7, pack 32 ([2, 1, 2, 1, 0, 1].map n)),
    (8, pack 32 ([2, 3, 3, 3, 1, 1].map n)), (9, pack 32 ([0, 3, 3, 3, 2, 1].map n))]
theorem test_segments_classified : leaves (exec (.gseg ⟨20, 2, 0, 1, 0, 0, 0⟩) segs) 20 32 [1, 2, 0, 3, 2, 0] = true := by decide +kernel
theorem wit_segments : Stated.idle segs ∧ Stated.issues (.gseg ⟨20, 2, 0, 1, 0, 0, 0⟩) segs ∧ Stated.delivers gsegK ⟨20, 2, 0, 1, 0, 0, 0⟩ segs :=
  ⟨by decide +kernel, ⟨_, rfl, by decide +kernel⟩, .inl rfl⟩
/-- A word in trap mode restarts at its first element, which is then delivered, and traps at the next that is not finite. -/
def armed2 : State := (infAt 1).sc (fun c => { c with vstartArmed := true, vstart := 1 })
theorem wit_geometry_restart : armed2.hart.sc.vstartArmed = true ∧ Stated.startOf armed2 = 1 ∧ nonFinite gori2K ⟨20, 2, 0, 0, 0, 1, 0⟩ armed2.hart.ep 1 = true
    ∧ (∀ i, 2 ≤ i → i < 4 → nonFinite gori2K ⟨20, 2, 0, 0, 0, 1, 0⟩ armed2.hart.ep i = false) ∧ armed2.hart.ep.geom = none := by
  refine ⟨by decide +kernel, by decide +kernel, by decide +kernel, ?_, by decide +kernel⟩
  have h : ∀ i < 4, 2 ≤ i → nonFinite gori2K ⟨20, 2, 0, 0, 0, 1, 0⟩ armed2.hart.ep i = false := by decide +kernel
  exact fun i h2 h4 => h i h4 h2
theorem test_geometry_keeps_progress : goes (exec (.gori2 ⟨20, 2, 0, 0, 0, 1, 0⟩) (infAt 1)) (fun t => t.hart.ep.gpi == [⟨20, 1, false⟩] && t.hart.ep.pi 20 == 1) = true := by decide +kernel

/-! ### Pots, barriers and monitors: the clauses of their statements -/

theorem wit_pot_ready : foundO (pot100.objectAt 0x4000 .rmw 3 0x17) (fun s pa _ => decide (Stated.potReady s pa) && s.isPot pa && s.discarded.isEmpty
    && Stated.kindOf s pa == 0 && Stated.policy s pa == 0 && decide (Stated.potValue s pa + 5 < 2 ^ 64)) = true
    ∧ foundO (pot100.objectAt 0x4000 .read 3 0x17) (fun s pa _ => decide (Stated.potReady s pa) && s.isPot pa) = true := by decide +kernel
/-- A pot under the homegive policy; the cut amount of a gift that passes 2^64. -/
def homePot : State := { pot100 with mem := Memory.writeN pot100.mem 0x4010 [1] }
theorem wit_home_pot : foundO (homePot.objectAt 0x4000 .rmw 3 0x17) (fun s pa _ => decide (Stated.potReady s pa) && s.isPot pa && Stated.kindOf s pa == 0
    && Stated.policy s pa != 0 && decide (Stated.resid s pa + (2 ^ 64 - 100) = 2 ^ 64)) = true := by decide +kernel
theorem test_potgive_saturates : goes (exec (.potgive ⟨5, 6, 11⟩) (xs homePot [(11, 2 ^ 64 - 100)])) (fun t => t.hart.sc.x[5] == 0
    && Stated.resid t 0x4000 == 2 ^ 64 - 1 && Stated.flagsOf t 0x4000 % 2 == 1) = true := by decide +kernel
/-- A farm's pot is index-valued: gifts answer 0 there. -/
theorem wit_index_give : foundO ((xs strips [(6, 0x4000)]).objectAt 0x4000 .rmw 3 0x17) (fun s pa _ => decide (Stated.potReady s pa) && s.isPot pa
    && Stated.kindOf s pa == 1) = true := by decide +kernel
/-- Its indices have one place each; an empty one has none. -/
theorem wit_index_pot : ∃ s pa pte f, strips.farmHere = some f ∧ f.pot ≠ 0 ∧ strips.objectAt f.pot .rmw 3 0x17 = .ok s pa pte ∧ s.isPot pa = true
    ∧ Stated.potReady s pa ∧ Stated.indexOk s pa ∧ s.hart.coreId < 64 := by
  have h : foundO (strips.objectAt 0x4000 .rmw 3 0x17) (fun s pa _ => decide (Stated.potReady s pa ∧ s.isPot pa = true ∧ s.hart.coreId < 64
      ∧ Stated.kindOf s pa = 1 ∧ (s.ranges.map (·.pa)).Nodup ∧ Stated.resid s pa = 3 ∧ s.potStacks = []
      ∧ (s.ranges.filter (fun r => r.pa == pa)).flatMap (·.ranges) = [(0, 3)])) = true := by decide +kernel
  obtain ⟨s, pa, pte, hl, hp⟩ := foundO_spec h
  obtain ⟨h1, h2, h3, h4, h5, h6, h7, h8⟩ := of_decide_eq_true hp
  refine ⟨s, pa, pte, _, rfl, by decide +kernel, hl, h2, h1, ⟨h4, h5, fun i => ?_, ?_, ?_, ?_⟩, h3⟩
  · unfold Stated.places
    rw [h8, h7]
    simp only [List.countP_cons, List.countP_nil, zero_add, add_zero]
    split <;> omega
  · rw [h6, h8]; rfl
  · rw [h8]; simp
  · rw [h8]; simp
theorem wit_farm_pot_refuses : (strips.farmPot 0x4000) = true ∧ pot100.farmPot 0x4000 = false := by decide +kernel

/-- What `noBarrier` says, as a test. -/
def barrierGood (s : State) (pa : Nat) : Bool := Stated.valueAt s pa 4 != 0 && (List.range 64).all (fun i => decide (i < 16) || s.homeByte (pa + i) == 0)
theorem barrierGood_spec {s : State} {pa : Nat} (h : barrierGood s pa = true) : ¬ Stated.noBarrier s pa := by
  simp only [barrierGood, Bool.and_eq_true, bne_iff_ne, ne_eq, List.all_eq_true, List.mem_range, Bool.or_eq_true, decide_eq_true_eq, beq_iff_eq] at h
  rintro (k | ⟨i, h1, h2, h3⟩)
  · exact h.1 k
  · rcases h.2 i h2 with g | g
    · omega
    · exact h3 g
theorem wit_barrier_good : foundO ((barr 1 0).objectAt 0x5000 .rmw 2 0x18) (fun s pa _ => pa == 0x5000 && Memory.wf s.mem && barrierGood s pa
    && barrierGood (Stated.released s 0 0 0) pa && barrierGood (Stated.released s 2 3 0) pa
    && decide (Stated.barrier (Stated.released s 2 3 0) pa = (2, 1, 0, 7))) = true := by decide +kernel
/-- A barrier whose COUNT is 0, and one with a reserved byte that is not. -/
theorem wit_no_barrier : Stated.noBarrier hrt 0x5000 ∧ Stated.noBarrier (bytes (barr 0 0) 0x503F 1 1) 0x5000
    ∧ foundO ((xs hrt [(6, 0x5000)]).objectAt 0x5000 .rmw 2 0x18) (fun _ pa _ => pa == 0x5000) = true :=
  ⟨.inl (by decide +kernel), .inr ⟨63, by decide, by decide, by decide +kernel⟩, by decide +kernel⟩
theorem test_no_barrier : goes (exec (.barrive ⟨5, 6, 0, 0⟩) (xs hrt [(6, 0x5000)])) (fun t => t.hart.sc.tcause == 0x18) = true
    ∧ goes (exec (.barexp ⟨6, 7⟩) (bytes (barr 0 0) 0x503F 1 1)) (fun t => t.hart.sc.tcause == 0x18) = true := by decide +kernel
/-- A hart's own store makes the barrier, and its BARRIVE with a release part then finds it. -/
theorem test_release_before_arrival : goes (exec (.st ⟨6, 8, 0, 2, 0, 0⟩) (xs hrt [(6, 0x5000), (8, 2)])) (fun t =>
    goes (exec (.barrive ⟨5, 6, 2, 2⟩) t) (fun t => decide (Stated.barrier t 0x5000 = (2, 1, 0, 0)))
    && goes (exec (.barrive ⟨5, 6, 0, 0⟩) t) (fun t => t.hart.sc.tcause == 0x18)) = true := by decide +kernel
/-- The hart has a dirty line where it arms its monitor. -/
theorem wit_brought_home : (rng.hart.scache.map (·.line)).Nodup ∧ rng.isPot 0x1000 = false ∧ revokedAt rng 0x1000 = false ∧ Memory.wf rng.mem = true
    ∧ (∃ l ∈ rng.hart.scache, l.line = 0x40 ∧ l.dirty.getLsbD 0 = true)
    ∧ found (rng.locate 0x1000 8 .read 3) (fun _ pa _ => pa == 0x1000) = true := by decide +kernel
theorem test_mwatchld_own_store : gives (.mwatchld ⟨5, 6, 1, 2⟩) rng 5 0x8081828384851234 = true := by decide +kernel

/-! ### Fences, ranges and discards at every scope -/

theorem test_fence_for_fetch : goes (exec (.fence ⟨1, 2, 1⟩) rng) (fun t => Memory.readNat t.mem 0x1000 2 == 0x1234) = true := by decide +kernel
theorem wit_ranges_alone : rng.hart.ctl = false ∧ rng.vdc = [] ∧ (4 : Fin 8).val = 4 ∧ (1 : Fin 8).val = 1 := by decide +kernel
theorem test_rwb_at_c : goes (exec (.rwb ⟨6, 7, 1⟩) rng) (fun t => t.hart.scache.all (fun l => l.dirty == 0) && t.vdc.any (fun l => l.dirty != 0)) = true := by
  decide +kernel
theorem wit_discard_page : found ((page1 0).discardLoc 0x20000000) (fun s pa _ => s.discarded.isEmpty && pa % 65536 == 0
    && (match s.tlbFind s.hart.coreId s.hart.asid 0x20000000 with
      | some e => e.pteAddr % 8 == 0 && e.pteAddr / 65536 != pa / 65536
      | none => false)) = true := by decide +kernel

/-! ### Descriptors and farms -/

theorem wit_descriptor_traps : Stated.descriptorTrap (BitVec.ofNat 64 (2 ^ 52)) = some { cause := 4, tval := 2 ^ 52, access := 13 }
    ∧ Stated.descriptorTrap 0x6041 = some { cause := 3, tval := 0x6041, access := 13 } ∧ Stated.descriptorTrap 0x6000 = none := by decide +kernel
theorem test_descriptor_traps_first : goes (exec (.cpy ⟨5, 7, 0⟩) (xs rng [(7, 0x6041)])) (fun t => t.hart.sc.tcause == 3
    && Memory.readNat t.mem 0x1000 2 == 0x8687) = true := by decide +kernel
/-- A farm whose descriptor names a pot at 0x4000 and three strips. -/
def farms2 : State := xs (bytes hrt 0x6000 64 (0x100 + 0x7777 * 2 ^ 64 + 0x4000 * 2 ^ 128 + 2 * 2 ^ 256 + 2 ^ 288 + 3 * 2 ^ 320)) [(6, 0x6000)]
theorem wit_farm_with_pot : descAt (farms2.release 3) 0x6000 (fun u d =>
    let f := farmOf u.ctx.asid d
    !farmFieldsBad u f d && f.pot == 0x4000 && (match u.object u.ctx u.hart.coreId f.pot 0x17 with
      | .ok v pa => pa == 0x4000 && Memory.wf v.mem && v.farms.all (fun g => g.pot == 0) && slotDies v f.dieMask != []
      | _ => false)) = true := by decide +kernel
theorem test_farm_with_pot : goes (exec (.farm ⟨5, 6⟩) farms2) (fun t => t.hart.sc.x[5] == 2 && Stated.resid t 0x4000 == 3 && Stated.kindOf t 0x4000 == 1
    && gives (.farm ⟨5, 6⟩) t 5 (2 ^ 64 - 1)) = true := by decide +kernel

/-! ### Supervisor words: the clauses of their statements -/

theorem test_tlbinv_big : goes (exec (.tlbinv ⟨11, 12⟩) (xs held1 [(11, 0x20000000), (12, 1)])) (fun t => t.tlb.any (fun e => e.asid == 1)) = false := by
  decide +kernel
theorem wit_tlbinv_retires : ∀ c ∈ held1.bks, c.owner.asid = 1 → ∀ p ∈ c.parts, p.state ≠ 1 := by decide +kernel
/-- The hart of the context, and one that is marked to leave its core. -/
def marked (area : Option Nat) : State := { sup1 with others := { hrt.hart with leaving := area } :: ctl.others }
theorem wit_ctxhalt_clauses : Stated.ctxReserved 3 ∧ Stated.ctxReserved (2 ^ 52) ∧ Stated.ctxReserved 4 ∧ Stated.ctxReserved 16 ∧ ¬ Stated.ctxReserved 0
    ∧ ¬ Stated.ctxReserved 2 ∧ ¬ Stated.ctxReserved (1 + 16 * hrt.hart.loc + 0x100000)
    ∧ ((sup1.release 3).ctxOf ((sup1.release 3).descAsid 0x6000)).any (fun c => c.state == 1) = true
    ∧ ((sup1.release 3).ctxOf ((sup1.release 3).descAsid 0x6100)).isNone = true ∧ Memory.wf (sup1.release 3).mem = true ∧ Stated.kept (sup1.release 3) 0x6000
    ∧ (∃ h ∈ (marked none).ctxHarts 1, h.loc = hrt.hart.loc) ∧ (∀ h ∈ (marked none).ctxHarts 1, h.loc = hrt.hart.loc → h.leaving = none)
    ∧ ∀ h ∈ (marked (some 0x100000)).ctxHarts 1, h.loc = hrt.hart.loc → h.leaving ≠ none := by decide +kernel
theorem test_ctxhalt_marks : goes (exec (.ctxhalt ⟨5, 6, 11⟩) (xs sup1 [(11, 1 + 16 * hrt.hart.loc + 0x100000)])) (fun t =>
    t.hart.sc.x[5] == 0 && t.others.any (fun h => h.leaving == some 0x100000)
    && gives (.ctxhalt ⟨5, 6, 11⟩) t 5 (2 ^ 64 - 3)) = true := by decide +kernel
theorem wit_ctxresume_clauses : (2 : Nat) % 4 = 2 ∧ ((again.release 3).ctxOf ((again.release 3).readDesc 0x6000).asid).any (fun c => c.state == 1 || c.state == 2 || c.state == 5) = false
    ∧ again.hart.ctl = true := by decide +kernel
theorem test_ctxresume_resumes : goes (exec (.ctxresume ⟨5, 6, 0⟩) again) (fun t => t.hart.sc.x[5] == 0 && (t.ctxOf 1).any (fun c => c.state == 1 && c.cause == 0)) = true := by
  decide +kernel
/-- A copy is parked on the slot 0x7000. -/
def parkdCopy : State :=
  xs { bytes sup 0x7000 64 (4 + 2 ^ 8) with
    copies := [⟨hrt.hart.owner, hrt.hart.loc, 1, 0, 0, List.replicate 64 0, 0, 2, true, false, 0⟩]
    faults := [⟨0, .copy hrt.hart.owner 1, leBytes 64 4, some 0x7000⟩] } [(6, 0x7000)]
theorem wit_tret_copy : (parkdCopy.release 3).faults.find? (fun f => f.die == parkdCopy.hart.die && f.slot == some 0x7000) = parkdCopy.faults[0]?
    ∧ fieldAt ((parkdCopy.release 3).homeBytes 0x7000 64) 3 1 = 0 := by decide +kernel
theorem test_tret_copy : goes (exec (.tretResume ⟨5, 6⟩) parkdCopy) (fun t => t.hart.sc.x[5] == 0 && t.copies.all (·.state == 1)) = true := by decide +kernel
/-- The supervisor's PC loses its two lowest bits. -/
theorem test_tret_pc : goes (exec (.tretResume ⟨5, 6⟩) { parkd 0 with mem := Memory.writeN (parkd 0).mem 0x7008 [0x03] }) (fun t =>
    t.others.any (fun h => !h.ctl && h.sc.pc == 0x100 && h.sc.vstartArmed)) = true := by decide +kernel

/-! ### Events: the clauses of their statements -/

/-- An event of a hart that waits in BARWAIT with VSTART armed can be delivered. -/
def event2 : State := { event1 with hart := { event1.hart with waiting := true, sc := { event1.hart.sc with vstartArmed := true } } }
theorem wit_event_waits : event2.hart.waiting = true ∧ event2.hart.ep.geom = none ∧ event1.hart.ep.geom = none
    ∧ (goes (exec .uiEventDelivery event2) (fun t => t.hart.sc.uiActive)) = true := by decide +kernel
theorem wit_round : (hrt.farms.map (fun f => (f.asid, f.handle))).Nodup ∧ hrt.boot ≠ .off ∧ hrt.input.data = [] ∧ (tel1.die 0).thermal = true := by decide +kernel
theorem wit_delivery_plain : ∀ l ∈ behind.vdc, l.dirty = 0 := by decide +kernel
theorem wit_served : queued.nextHold = none ∧ queued.nextAdmission.isSome = true ∧ crowd.nextHold.isSome = true := by decide +kernel
theorem test_hold : goes (exec .hartAdmission crowd) (fun t => t.holds.length == 1) = true := by decide +kernel

/-- A copy to device 5, whose route on die 0 is port 2, node 9 and address space 7, and then to a device without a route. -/
def copyFar (dev : Nat) : State :=
  let s := bytes (bytes cpys (0x10000 + 16 * 5) 8 (2 ^ 63 + 2 ^ 32 + 7 * 2 ^ 16 + 4)) (0x10000 + 16 * 5 + 8) 8 9
  { s.updDie 0 (fun d => { d with rtbase := 0x10001 }) with
    copies := [⟨hrt.hart.owner, hrt.hart.loc, 1, 0, 0, leBytes 64 (0x8000 + 0x9000 * 2 ^ 64 + 256 * 2 ^ 384 + 2 ^ 416 + 2 ^ 432 + dev * 2 ^ 500), 0, 1, true, false, 0⟩] }
theorem wit_route : ((copyFar 5).route 0 5 1).map (fun r => (r.ports, r.node, r.rasid)) = some (4, 9, 7) ∧ ((copyFar 6).route 0 6 1).isNone = true
    ∧ (copyFar 5).copyReady.length = 1 ∧ (∀ c ∈ (copyFar 5).copies, copyDev c.desc = 5 ∧ chunkDst c.desc c.next + chunkLen c.desc c.next ≤ 2 ^ 52) := by decide +kernel
theorem test_remote_copy : goes (exec .copyChunk (copyFar 5)) (fun t => t.outbox.map (fun o => (o.ports, o.node, o.asid, o.addr, o.data.take 4))
    == [(4, 9, 7, 0x9000, [0x0D, 0xF0, 0xFE, 0xCA])] && t.copies.all (·.sent)) = true
    ∧ goes (exec .copyChunk (copyFar 6)) (fun t => t.faults.length == 1 && t.outbox.isEmpty) = true := by decide +kernel
/-- A chunk from another device to a page that is mapped, and to one that is not. -/
def arrives (addr asid : Nat) : State := given hrt 0 addr asid [1, 2]
theorem wit_remote_chunk : (hrt.contexts.find? (fun c => c.asid == 7 && c.state == 1)).isNone = true
    ∧ (match hrt.ctxOf 1 with
      | some x => (match hrt.engRun x 0 .write false copyOwn 0x9000 2 with
          | .ok u [h] => decide (Stated.plainHome u) && Pte.kind h.pte != 1 && h.pa + h.len ≤ 2 ^ 52 && h.len == 2 && !revokedAt u h.pa
          | _ => false)
        && (match hrt.engRun x 0 .write false copyOwn 0x20000000 2 with | .fail _ cause tval _ => cause != 0 && tval == 0x20000000 | _ => false)
      | none => false) = true := by decide +kernel
theorem test_remote_answers : goes (exec .remoteChunkWrite (arrives 0x9000 1)) (fun t => t.answers.map (fun a => (a.cause, a.tval)) == [(0, 0)] && t.homeNat 0x9000 2 == 0x201) = true
    ∧ goes (exec .remoteChunkWrite (arrives 0x20000000 1)) (fun t => t.answers.map (·.tval) == [0x20000000] && t.answers.all (·.cause != 0)) = true
    ∧ goes (exec .remoteChunkWrite (arrives 0x9000 7)) (fun t => t.answers.map (fun a => (a.cause, a.tval)) == [(0x19, 0x9000)]) = true := by decide +kernel
theorem wit_chunk_stands : ∀ i < 2, revokedAt (copy1 false) (0x9000 + i) = false := by decide +kernel

/-- The BKOP of `bk1` after its checks, with one granule to compute. -/
def bk3 : State := match exec .strelvisPart bk1 with | .next t => given t 0 0 1 [] | _ => bk1
theorem wit_granule : (match bk3.headParts with
    | (c, p) :: _ =>
      let d := c.desc
      let run := granuleRun d p.uva p.prog
      let at_ := fun (base : Nat) => base + (run.1 - fieldAt d 0 8)
      c.gate == none && c.kind == 2 && bkType d < 3 && decide (p.prog < granules d p.uva) && bkUsesA (bkOp d) && bkUsesB (bkOp d)
      && (match bk3.ctxOf c.owner.asid with
        | some x => (bk3.runBytes x c (at_ (fieldAt d 8 8)) run.2).isSome && (bk3.runBytes x c (at_ (fieldAt d 16 8)) run.2).isSome
        | none => false)
      && (match c.pages.find? (fun q => q.va == run.1 / 65536 * 65536) with
        | some g => Pte.kind g.pte != 1 && g.pa + 65536 ≤ 2 ^ 52 && !revokedAt bk3 (g.pa + run.1 % 65536)
        | none => false)
      && run.1 / 65536 == (run.1 + run.2 - 1) / 65536 && decide (0 < run.2) && decide (Stated.plainHome bk3)
      && (bk3.bks.filter bk3.bkCheckable).isEmpty && (bk3.bks.filter (fun c => (c.state == 1 || c.state == 4) && c.parts.isEmpty && bk3.ctxRuns c.owner.asid)).isEmpty
    | [] => false) = true ∧ bk3.bks.length = 1 ∧ (∀ c ∈ bk3.bks, c.parts.length = 1) ∧ bk3.input.value = 1 := by decide +kernel
/-- The operands of an FP32 addition are finite. -/
theorem wit_bk_exact : ∃ x, Stated.bkExact 0 (fp32.decode 2 0) (fp32.decode 2 0x3F800000) (fp32.decode 2 0x40000000) = some x := by
  have a : fp32.decode 2 0 = .fin false 0 (-149) := by decide +kernel
  have b : fp32.decode 2 0x3F800000 = .fin false 8388608 (-23) := by decide +kernel
  have c : fp32.decode 2 0x40000000 = .fin false 8388608 (-22) := by decide +kernel
  rw [a, b, c]
  exact ⟨_, rfl⟩
/-- A command with no work completes at once. -/
theorem test_bkop_empty : goes (exec (.bkop ⟨5, 6⟩) (bytes bkops 0x6018 8 0)) (fun t => goes (exec .strelvisPart t) (fun t =>
    t.bks.isEmpty || goes (exec .strelvisPart t) (fun t => t.bks.isEmpty))) = true := by decide +kernel

theorem wit_revival_stands : (∀ i < disc.input.data.length, revokedAt disc (disc.input.addr + i) = false) ∧ 0x30000 + 65536 ≤ 0x20020000 := by decide +kernel
theorem wit_collapse : (match coll.ctxOf 1 with
    | some c => (match leafOf coll c.ptroot 0x20000000 with
      | .entry pa e big => pa == 0x20020000 && Pte.v e && Pte.kind e == 3 && !big
      | _ => false)
    | none => false) = true ∧ (∀ f ∈ coll.farms, ¬(f.state = 2 ∧ f.retired = f.harts)) ∧ ∀ j, j < 4 → (coll.die j).fdBusy = false := by decide +kernel
/-- A replicated page of 512 MiB. -/
def collBig : State := { bytes hrt 0x20010008 8 (0x200000ED + 2 ^ 53 + 3 * 2 ^ 57) with collapses := [⟨1, 0x20000000, 0⟩] }
theorem wit_collapse_big : (match collBig.ctxOf 1 with
    | some c => (match leafOf collBig c.ptroot 0x20000000 with
      | .entry pa e big => pa == 0x20010008 && Pte.v e && Pte.kind e == 3 && big
      | _ => false)
    | none => false) = true := by decide +kernel
theorem test_collapse_big : goes (exec .collapse collBig) (fun t => Pte.kind (readPte t 0x20010008) == 0 && t.collapses.isEmpty) = true := by decide +kernel
theorem wit_extent_sizes : ∀ e ∈ ((ext1 none 0).die 2).extents, e.size < 2 ^ 64 := by decide +kernel
theorem wit_image_stops : (empty1 0).contexts.all (fun c => !c.stopped) = true ∧ Stated.namesApart (empty1 0) ∧ 0x10000 + 320 ≤ 2 ^ 52 := by decide +kernel
theorem wit_preempted_record : (preempt1.asHart hrt.hart.loc (fun s => s.stopHere)).hartAt hrt.hart.loc ≠ none
    ∧ Stated.plainHome (preempt1.asHart hrt.hart.loc (fun s => s.stopHere)) := by decide +kernel
theorem wit_placement_alone : ∀ b, ∀ p ∈ (comes b one).placements, ∀ q ∈ (comes b one).placements, q.asid = p.asid → q.saved ≠ 64 + p.saved := by decide +kernel
theorem wit_power_phases : State.reset.boot = .off ∧ pwr.boot ≠ .off := by decide +kernel
theorem test_power_off : goes (exec .powerDown State.reset) (fun t => t == State.reset) = true := by decide +kernel
theorem wit_bootdb : (rom 1).boot = .rom 0 1 ∧ ∀ src n, sup.boot ≠ .rom src n := ⟨by decide +kernel, wit_booted⟩
/-- A step after which a completion event that VSTART had kept waiting is delivered. -/
theorem wit_event_kept : ({ event1 with hart := { event1.hart with sc := { event1.hart.sc with vstartArmed := true } } } : State).hart.eventDue = true := by
  decide +kernel

/-! ### Failed checks of scalar accesses and objects -/

/-- The entry for an address is this one. -/
def leafIs (s : State) (va pa e : Nat) (big : Bool) : Bool := decide (leafOf s s.ctx.ptroot va = .entry pa e big)
theorem leafIs_spec {s : State} {va pa e : Nat} {big : Bool} (h : leafIs s va pa e big = true) : leafOf s s.ctx.ptroot va = .entry pa e big := of_decide_eq_true h

/-- A hart with an address in x6 whose page has the entry `pte`. -/
def at512 (pte : Nat) : State := xs (paged pte) [(6, 0x20000008), (7, 2 ^ 52), (8, 0x20000004), (9, 0x20000000), (10, 0xFFFFFFFFA0000)]
theorem wit_access : Stated.accessOf (at512 0) (.ld ⟨5, 7, 0, 3, 0, 0⟩) = some (2 ^ 52, 8, .read, 3)
    ∧ Stated.accessOf (at512 0) (.cas ⟨5, 8, 0, 3, 0, 0⟩) = some (0x20000004, 8, .read, 3)
    ∧ Stated.accessOf (at512 0) (.mwatchld ⟨5, 6, 0, 0⟩) = some (0x20000008, 8, .read, 3)
    ∧ Stated.accessOf (at512 0) (.st ⟨6, 5, 0, 3, 0, 0⟩) = some (0x20000008, 8, .write, 3)
    ∧ Stated.accessOf (at512 0) (.amo ⟨5, 6, 0, 3, 0, 0, 0⟩) = some (0x20000008, 8, .rmw, 3)
    ∧ Stated.objectOf (at512 0) (.potread ⟨5, 9⟩) = some (0x20000000, .read, 3, 0x17)
    ∧ Stated.objectOf (at512 0) (.barwait ⟨5, 10, 0, 0, 0⟩) = some (0xFFFFFFFFA0000, .read, 2, 0x18) :=
  ⟨by decide +kernel, by decide +kernel, by decide +kernel, by decide +kernel, by decide +kernel, by decide +kernel, by decide +kernel⟩
theorem wit_access_addresses : Stated.accessFails (at512 0) (2 ^ 52) 8 .read 4 false ∧ Stated.accessFails (at512 0) 0x20000004 8 .read 3 false
    ∧ Stated.accessFails ctl (2 ^ 51) 8 .read 0x14 false :=
  ⟨.inl (by decide +kernel), .inr (.inl (by decide +kernel)), .inr (.inr (.inl (by decide +kernel)))⟩
theorem wit_access_page : Stated.accessFails (at512 0) 0x20000008 8 .read 0x11 false ∧ Stated.accessFails (at512 0) 0x20000000 64 .rmw 0x12 false := by
  refine ⟨.inr (.inr (.inr ⟨by decide +kernel, by decide +kernel, by decide +kernel, by decide +kernel, ?_⟩)),
    .inr (.inr (.inr ⟨by decide +kernel, by decide +kernel, by decide +kernel, by decide +kernel, ?_⟩))⟩
  · rw [Stated.pageFault, leafIs_spec (s := at512 0) (va := 0x20000008) (pa := 0x20020000) (e := 0) (big := false) (by decide +kernel)]
    exact .inl (by decide)
  · rw [Stated.pageFault, leafIs_spec (s := at512 0) (va := 0x20000000) (pa := 0x20020000) (e := 0) (big := false) (by decide +kernel)]
    exact .inl (by decide)
theorem wit_access_forbidden : Stated.accessFails (at512 0x300E5) 0x20000008 8 .write 0x13 false := by
  refine .inr (.inr (.inr ⟨by decide +kernel, by decide +kernel, by decide +kernel, by decide +kernel, ?_⟩))
  rw [Stated.pageFault, leafIs_spec (s := at512 0x300E5) (va := 0x20000008) (pa := 0x20020000) (e := 0x300E5) (big := false) (by decide +kernel)]
  refine .inr (.inr (.inr (.inl ⟨by decide, by decide, ?_, ?_, rfl, by decide⟩)))
  · unfold Stated.malformedEntry; decide +kernel
  · unfold Stated.forbidden; decide
theorem wit_access_malformed : Stated.accessFails (at512 0x301ED) 0x20000008 8 .write 0x14 false := by
  refine .inr (.inr (.inr ⟨by decide +kernel, by decide +kernel, by decide +kernel, by decide +kernel, ?_⟩))
  rw [Stated.pageFault, leafIs_spec (s := at512 0x301ED) (va := 0x20000008) (pa := 0x20020000) (e := 0x301ED) (big := false) (by decide +kernel)]
  refine .inr (.inr (.inl ⟨by decide, by decide, ?_, rfl, by decide⟩))
  unfold Stated.malformedEntry; decide +kernel
theorem test_access_traps : goes (exec (.ld ⟨5, 7, 0, 3, 0, 0⟩) (at512 0)) (fun t => t.hart.sc.tcause == 4 && t.hart.sc.tval == BitVec.ofNat 64 (2 ^ 52)) = true
    ∧ goes (exec (.ld ⟨5, 8, 0, 3, 0, 0⟩) (at512 0)) (fun t => t.hart.sc.tcause == 3) = true
    ∧ goes (exec (.ld ⟨5, 6, 0, 3, 0, 0⟩) (at512 0)) (fun t => t.hart.sc.tcause == 0x11 && t.hart.sc.tval == 0x20000008) = true
    ∧ goes (exec (.amo ⟨5, 6, 0, 3, 0, 0, 0⟩) (at512 0)) (fun t => t.hart.sc.tcause == 0x12) = true
    ∧ goes (exec (.st ⟨6, 5, 0, 3, 0, 0⟩) (at512 0x300E5)) (fun t => t.hart.sc.tcause == 0x13) = true
    ∧ goes (exec (.st ⟨6, 5, 0, 3, 0, 0⟩) (at512 0x301ED)) (fun t => t.hart.sc.tcause == 0x14) = true := by decide +kernel
theorem wit_object_place : found ((at512 (0x300ED + 2 ^ 56)).locate 0x20000000 64 .read 3) (fun _ _ pte => pte / 2 ^ 56 % 2 == 1) = true
    ∧ (at512 0).hart.ctl = false ∧ (0xFFFFFFFFA0000 : Nat) % 64 = 0 := by decide +kernel
theorem wit_object_kind : foundO ((at512 0x300ED).objectAt 0x20000000 .read 3 0x17) (fun s pa _ => !s.isPot pa) = true
    ∧ Stated.objectOf (xs strips [(6, 0x4000)]) (.potinit ⟨1, 6, 7, 3⟩) = some (0x4000, .rmw, 3, 0x17)
    ∧ foundO ((xs strips [(6, 0x4000)]).objectAt 0x4000 .rmw 3 0x17) (fun s pa _ => s.farmPot pa) = true := by decide +kernel
theorem test_object_traps : goes (exec (.potread ⟨5, 10⟩) (at512 0)) (fun t => t.hart.sc.tcause == 0x17) = true
    ∧ goes (exec (.potread ⟨5, 9⟩) (at512 (0x300ED + 2 ^ 56))) (fun t => t.hart.sc.tcause == 0x17) = true
    ∧ goes (exec (.potread ⟨5, 9⟩) (at512 0x300ED)) (fun t => t.hart.sc.tcause == 0x17) = true
    ∧ goes (exec (.potinit ⟨1, 6, 7, 3⟩) (xs strips [(6, 0x4000)])) (fun t => t.hart.sc.tcause == 0x17) = true := by decide +kernel

/-! ### Control cores, and harts that yield -/

theorem wit_control_csrs : ctl.hart.ctl = true ∧ ctl.hart.die < 4 ∧ ctl.hart.ep.queue = [] := by decide +kernel
theorem test_ctvec : goes (exec (.csrrw ⟨0, 6, 0x045⟩) (xs ctl [(6, 2 ^ 64 - 1)])) (gives (.csrrs ⟨5, 0, 0x045⟩) · 5 0xFFFFFFFFFFFFC) = true := by decide +kernel
theorem test_own_return_lends : goes (exec .ecall (ctl.sc (fun c => { c with lend := 0x80029900 }))) (fun t =>
    goes (exec .tret t) (fun t => t.hart.sc.lend == 0x80029900)) = true := by decide +kernel
/-- Two harts of one core. -/
def two : State := { hrt with others := { hrt.hart with slot := 1 } :: hrt.others }
theorem wit_yield : (match two.others.find? Hart.runnable with | some g => decide (Stated.readyOn two.hart.coreId g) && g.loc == 1 | none => false) = true
    ∧ (two.allHarts.map Hart.loc).Nodup ∧ two.higherHold two.hart = false ∧ ∀ k ∈ two.hart :: two.others, k.skipped < 60 := by decide +kernel
theorem wit_yield_alone : ∀ g ∈ hrt.others, ¬ Stated.readyOn hrt.hart.coreId g := by decide +kernel
theorem test_yield : goes (exec .yield two) (fun t => t.passTurn.hart.loc == 1) = true := by decide +kernel

/-! ### Readers of streams, and what deliveries leave -/

/-- A bound stream on a hart that runs behind. -/
def bound : State := match exec (.vbind ⟨8, 20, 0, 0, 2⟩) { tens with prompt := false } with | .next t => t | _ => tens
/-- A word passes its issue checks, and its deliveries pass theirs. -/
def owes (s : State) (i : Instr) (n : Nat) : Bool :=
  match vopOf i with
  | some op => !s.issueBad (op.shape s.hart.ep) && (match s.owed (op.shape s.hart.ep) with | .ok _ ds _ => ds.length == n | _ => false)
  | none => false
theorem wit_reader : Stated.performed (.vaddVS ⟨4, 0, 8, 0, 2⟩) = true ∧ bound.hart.ctl = false ∧ bound.prompt = false ∧ bound.hart.ep.queue = []
    ∧ owes bound (.vaddVS ⟨4, 0, 8, 0, 2⟩) 1 = true ∧ bound.hart.ep.bindings.length = 1 := by decide +kernel
/-- The oldest entry is a delivery whose strip and group fit. -/
def fitsGroup (s : State) : Bool :=
  match s.hart.ep.queue with
  | q :: _ => (match q.word with
    | .delivery b => decide (Stated.linesFit s (((strip b q.vl).flatMap (·.reads)).map fun r => resolve q.pages s.hart.coreId (r.1 % 2 ^ 64)))
      && decide (b.reg + b.n ≤ 32 ∧ b.view = 0 ∧ q.vl ≤ b.n * Stated.perAt s.hart.ep (8 * 2 ^ b.ew) ∧ Stated.fmtCode b = 1 ∧ b.ew = 2)
    | _ => false)
  | [] => false
theorem wit_delivery_fits : fitsGroup behind = true := by decide +kernel
theorem test_delivery_keeps_tail : goes (exec .streamDelivery (behind.ep (fun e => { e with v := e.v.set 8 (BitVec.ofNat 131072 (2 ^ 1000)) }))) (fun t =>
    t.hart.ep.elem 8 32 3 == 3 && t.hart.ep.elem 8 32 31 == 256) = true := by decide +kernel
/-! ### Ranges after queued stores, and the last hart of a farm -/

theorem wit_range_after_stores : (∀ q ∈ rng.hart.ep.queue, rng.fetches q = false) ∧ rng.hart.ctl = false
    ∧ Stated.onePage (rng.drainTo rng.fetches) (Stated.reg rng 6).toNat (Stated.reg rng 7).toNat
    ∧ found ((rng.drainTo rng.fetches).readPage (Stated.reg rng 6).toNat) (fun _ pa _ => pa == 0x1000) = true := by decide +kernel
/-- The last hart of a farm that names an object. -/
def lastHart (done flags : Nat) (s : State) : State := { s with farms := s.farms.map (fun f => { f with harts := 1, admitted := 1, done := done, flags := flags }) }
theorem wit_fend_last : (match (lastHart 0x5000 0 (barr 1 0)).farmHere with | some f => decide (f.retired + 1 = f.harts) | none => false) = true
    ∧ (barr 1 0).hart.ep.queue = [] ∧ (barr 1 0).copies = [] ∧ (barr 1 0).bks = [] ∧ (barr 1 0).hart.ctl = false
    ∧ ((lastHart 0x5000 0 (barr 1 0)).farms.map (fun f => (f.asid, f.handle))).Nodup := by decide +kernel
theorem test_farm_completes : goes (exec .fend (lastHart 0x5000 0 (barr 1 0))) (fun t => t.farms.isEmpty && decide (Stated.barrier t 0x5000 = (2, 0, 0, 8))) = true
    ∧ goes (exec .fend (lastHart 0x4000 1 homePot)) (fun t => t.farms.isEmpty && Stated.resid t 0x4000 == 101) = true
    ∧ goes (exec .fend (lastHart 0x5000 0 hrt)) (fun t => t.farms.map (·.state) == [3] && t.faults.length == 1) = true := by decide +kernel
/-- An object of a context passes its translation, with a property; or its page faults; or it waits. -/
def objectIs (l : ObjLoc) (p : State → Nat → Bool) (cause : Option Nat) : Bool :=
  match l with
  | .ok s pa => cause.isNone && p s pa
  | .fault _ k _ => cause == some k
  | .wait _ => cause == some 0
theorem wit_farm_objects :
    objectIs ((barr 1 0).object placedContext 0 0x5000 0x18) (fun u pa => pa == 0x5000 && Stated.kept u pa && Memory.wf u.mem && barrierGood u pa
      && decide ((Stated.barrier u pa).2.1 < (Stated.barrier u pa).1)) none = true
    ∧ objectIs (hrt.object placedContext 0 0x5000 0x18) (fun u pa => pa == 0x5000 && Stated.kept u pa && Stated.valueAt u pa 4 == 0) none = true
    ∧ objectIs (homePot.object placedContext 0 0x4000 0x17) (fun u pa => pa == 0x4000 && Stated.kept u pa && Memory.wf u.mem && u.isPot pa && Stated.kindOf u pa == 0) none = true
    ∧ objectIs (hrt.object placedContext 0 0x4000 0x17) (fun u pa => Stated.kept u pa && Memory.wf u.mem && !u.isPot pa) none = true
    ∧ objectIs (hrt.object placedContext 0 0x20000000 0x18) (fun _ _ => true) (some 0x12) = true
    ∧ objectIs ((paged (0x300EC + 2 ^ 60)).object placedContext 0 0x20000000 0x18) (fun _ _ => true) (some 0) = true
    ∧ hrt.ctxOf 1 = some placedContext := by decide +kernel

/-! ### Contexts in STATE 5, farms that come back, and one pre-empted hart -/

def full5 : State := sup1.updCtx 1 (fun c => { c with state := 5, cause := 1 })
theorem wit_ctxhalt_full : descTrap full5 0x6000 = none ∧ ((full5.release 3).ctxOf 1).any (fun c => c.state == 5) = true := by decide +kernel
theorem test_ctxhalt_full : goes (exec (.ctxhalt ⟨5, 6, 0⟩) full5) (fun t => t.hart.sc.x[5] == 0 && (t.ctxOf 1).any (·.state == 2)) = true
    ∧ gives (.ctxhalt ⟨5, 6, 11⟩) (xs full5 [(11, 1 + 16 * hrt.hart.loc + 0x100000)]) 5 (2 ^ 64 - 2) = true
    ∧ goes (exec (.ctxhalt ⟨5, 6, 8⟩) full5) (fun t => (t.ctxOf 1).any (·.state == 4)) = true := by decide +kernel
/-- An image with a queued farm, written and resumed. -/
def againF : State :=
  match exec .contextImageWrite { empty1 4096 with farms := [{ placedFarm with handle := 3, state := 1, admitted := 0, harts := 2, waited := 70, prio := 1 }] } with
  | .next t => xs t [(6, 0x6000)]
  | _ => ctl
theorem wit_ctxresume_farms : descTrap againF 0x6000 = none ∧ againF.farms = [] ∧ (∀ e ∈ againF.dies, e.fdBusy = false)
    ∧ (match (againF.release 3).judgeImage ((againF.release 3).readDesc 0x6000) with
    | .inr es => (sectionOf es 6).map (fun r => (fieldAt r 0 4, fieldAt r 4 1)) == [(3, 1)]
    | .inl _ => false) = true := by decide +kernel
/-- A hart has been pre-empted and a control core executes: at 0x100000 stands a record of the least size, of which its header alone is not zero. -/
def away1 : State := xs { bytes (bytes sup 0x6000 4 0x10001) 0x100000 16 (271488 + 2 * 2 ^ 72 + 2 ^ 80 + 2 ^ 96) with
  others := ctl.others, contexts := sup.contexts.map (fun c => { c with preempted := [(hrt.hart.loc, 0x100000)] }) } [(6, 0x6000), (7, 0x6100), (8, 0x100001), (9, 0x110001)]
theorem wit_ctxresume_one : descTrap away1 0x6000 = none ∧ descTrap away1 0x6100 = none
    ∧ (away1.release 3).descAsid 0x6000 = 1 ∧ (away1.release 3).ctxOf ((away1.release 3).descAsid 0x6100) = none
    ∧ ((away1.release 3).ctxOf 1).any (fun c => c.state == 1 && c.preempted == [(hrt.hart.loc, 0x100000)]) = true
    ∧ ¬ Stated.ctxReserved 0x100001 := by decide +kernel
theorem wit_ctxresume_record : fieldAt ((away1.release 3).areaRecord 0x100000) 9 1 = 2 ∧ hartRecordBad ((away1.release 3).areaRecord 0x100000) = false := by
  have h : (away1.release 3).areaRecord 0x100000 = (away1.release 3).homeBytes 0x100000 271488 := by
    unfold State.areaRecord
    rw [show (away1.release 3).homeNat 0x100000 8 = 271488 by decide +kernel]
  have f (k m : Nat) (hk : k + m ≤ 271488) : fieldAt ((away1.release 3).areaRecord 0x100000) k m = (away1.release 3).homeNat (0x100000 + k) m := by
    rw [h, State.fieldAt_homeBytes _ _ _ _ _ hk]
  have n : ((away1.release 3).areaRecord 0x100000).length = 271488 := by rw [h]; simp [State.homeBytes, range]
  refine ⟨by rw [f 9 1 (by decide)]; decide +kernel, ?_⟩
  simp only [hartRecordBad, queueSlots, recordLgn, recordV, n, f 10 1 (by decide), f 11 1 (by decide), f 9 1 (by decide), f 14 1 (by decide),
    f 12 1 (by decide), f 13 1 (by decide), f 0 8 (by decide)]
  rw [show (away1.release 3).homeNat (0x100000 + 10) 1 = 1 by decide +kernel, show (away1.release 3).homeNat (0x100000 + 11) 1 = 0 by decide +kernel,
    show (away1.release 3).homeNat (0x100000 + 9) 1 = 2 by decide +kernel, show (away1.release 3).homeNat (0x100000 + 14) 1 = 0 by decide +kernel,
    show (away1.release 3).homeNat (0x100000 + 12) 1 = 1 by decide +kernel, show (away1.release 3).homeNat (0x100000 + 13) 1 = 0 by decide +kernel,
    show (away1.release 3).homeNat (0x100000 + 0) 8 = 271488 by decide +kernel]
  decide
theorem test_ctxresume_one : gives (.ctxresume ⟨5, 6, 9⟩) away1 5 (2 ^ 64 - 2) = true ∧ gives (.ctxresume ⟨5, 7, 8⟩) away1 5 (2 ^ 64 - 1) = true := by decide +kernel
/-! ### Work that is refused -/

theorem wit_pot_refused : waits1.hart.status = .pot ∧ ({ waits1 with potLines := [] } : State).isPot 0x4000 = false
    ∧ waits1.isPot 0x4000 = true ∧ strips.farmPot 0x4000 = true := by decide +kernel
theorem test_pot_refused : goes (exec .potHomeRequest { waits1 with potLines := [] }) (fun t => t.hart.sc.tcause == 0x17 && t.potQueue.isEmpty) = true
    ∧ goes (exec .potHomeRequest (given { strips with
        hart := { strips.hart with status := .pot, waiting := true }, potQueue := [⟨strips.hart.loc, .init 1 3, 0x4000, 0x4000, 5, 0⟩] } 0 0x4000 0 [])) (fun t =>
      t.hart.sc.tcause == 0x17 && Stated.resid t 0x4000 == 3) = true := by decide +kernel

/-! ### Chunks that pay a barrier, arrivals, and rows and tokens -/

/-- The chunk of `copy1` on a barrier: of COUNT 2 with `p` bytes PENDING, or on a page that is not valid. -/
def copyBarrier (sent : Bool) (bar p : Nat) : State := { bytes (copy1 sent) 0x5000 16 (2 + 2 * 2 ^ 32 + p * 2 ^ 64 + 7 * 2 ^ 96) with
  copies := [⟨hrt.hart.owner, hrt.hart.loc, 1, 0, 0, leBytes 64 (0x8000 + 0x9000 * 2 ^ 64 + 256 * 2 ^ 384 + 2 ^ 416 + 2 ^ 432 + bar * 2 ^ 448), 0, 1, true, sent, 0⟩] }
/-- Its pages and its barrier translate, or the barrier does not. -/
def chunkPays (s : State) (cause : Option Nat) : Bool :=
  match s.copyReady with
  | c :: _ => (match s.ctxOf c.owner.asid with
    | some x =>
      let n := chunkLen c.desc c.next
      (match s.engRun x (coreOf c.hartid) .read true copyOwn (chunkSrc c.desc c.next) n with
       | .ok u [_] => (match u.engRun x (coreOf c.hartid) .write true copyOwn (chunkDst c.desc c.next) n with
         | .ok v [_] => objectIs (v.object x (coreOf c.hartid) (copyBar c.desc) 0x18) (fun w pa => pa == 0x5000 && decide (Stated.plainHome w) && barrierGood w pa
             && w.vdc.isEmpty && w.allHarts.all (·.scache.isEmpty)) cause
         | _ => false)
       | _ => false)
    | none => false)
  | [] => false
theorem wit_chunk_pays : chunkPays (copyBarrier false 0x5000 256) none = true ∧ (Stated.barrier (copyBarrier false 0x5000 256) 0x5000).2.2.1 = 256
    ∧ (Stated.barrier (copyBarrier false 0x5000 255) 0x5000).2.2.1 < 256 ∧ chunkPays (copyBarrier false 0x20000000 256) (some 0x12) = true
    ∧ (∀ c ∈ (copyBarrier false 0x5000 256).copies, copyBar c.desc = 0x5000 ∧ chunkLen c.desc 0 = 256) := by decide +kernel
theorem test_chunk_pays : goes (exec .copyChunk (copyBarrier false 0x5000 256)) (fun t => t.homeNat 0x9000 4 == 0xCAFEF00D
      && decide (Stated.barrier t 0x5000 = (2, 0, 0, 8)) && t.copies.isEmpty) = true
    ∧ goes (exec .copyChunk (copyBarrier false 0x5000 255)) (fun t => t.copies.map (·.state) == [2] && t.faults.length == 1) = true
    ∧ goes (exec .copyChunk (copyBarrier false 0x20000000 256)) (fun t => t.copies.map (·.state) == [2]) = true
    ∧ goes (exec .remoteChunkAck (given (copyBarrier true 0x5000 256) hrt.hart.loc 0 0 [])) (fun t => decide (Stated.barrier t 0x5000 = (2, 0, 0, 8))) = true := by
  decide +kernel
theorem wit_ack_pays : objectIs ((copyBarrier true 0x5000 256).object placedContext 0 0x5000 0x18) (fun w pa => pa == 0x5000 && decide (Stated.plainHome w)
      && barrierGood w pa) none = true ∧ 0x77 ∉ [0x12, 0x13, 0x14, 0x15, 0x19] := by decide +kernel
theorem test_ack_unknown : goes (exec .remoteChunkAck (given (copy1 true) hrt.hart.loc 0 0x77 [])) (fun t => t == given (copy1 true) hrt.hart.loc 0 0x77 []) = true
    ∧ goes (exec .remoteChunkAck (given (copy1 true) hrt.hart.loc 0x90FF 0x19 [1])) (fun t => t.faults.map (fun f => (fieldAt f.record 2 1, fieldAt f.record 16 8)) == [(0x82, 0x90FF)]) = true := by
  decide +kernel

/-- A BGEMV without a part left, which arrives on a barrier. -/
def arriving (bar n p : Nat) : State := { barr n p with
  bks := [⟨hrt.hart.owner, hrt.hart.loc, 1, 0, 3, leBytes 64 (2 ^ 192 + 2 ^ 224 + 2 ^ 256 + 2 ^ 416 + bar * 2 ^ 448), some 0, 0, 1, [], 0, 0, [], none⟩] }
theorem wit_arrival : (arriving 0x5000 1 0).bks.filter (arriving 0x5000 1 0).bkCheckable = [] ∧ (arriving 0x5000 1 0).input.unit = 0
    ∧ ((arriving 0x5000 1 0).bks.filter (fun c => (c.state == 1 || c.state == 4) && c.parts.isEmpty && (arriving 0x5000 1 0).ctxRuns c.owner.asid)).length = 1
    ∧ (∀ c ∈ (arriving 0x5000 1 0).bks, c.kind = 3 ∧ fieldAt c.desc 56 8 = 0x5000 ∧ ((arriving 0x5000 1 0).hartOf c.owner).isSome = true)
    ∧ objectIs ((arriving 0x5000 1 0).object placedContext 0 0x5000 0x18) (fun w pa => pa == 0x5000 && decide (Stated.plainHome w) && barrierGood w pa) none = true
    ∧ objectIs ((arriving 0x20000000 1 0).object placedContext 0 0x20000000 0x18) (fun _ _ => true) (some 0x12) = true := by decide +kernel
theorem test_arrival : goes (exec .strelvisPart (arriving 0x5000 1 0)) (fun t => t.bks.isEmpty && decide (Stated.barrier t 0x5000 = (2, 0, 0, 8))) = true
    ∧ goes (exec .strelvisPart (arriving 0x5000 2 1)) (fun t => t.bks.map (·.state) == [3] && t.faults.length == 1) = true
    ∧ goes (exec .strelvisPart (arriving 0x20000000 1 0)) (fun t => t.bks.map (·.state) == [3]) = true := by decide +kernel

/-- The part of the command whose checks an event makes stands first, as `nextWork` asks. -/
def workNext (s : State) (kind : Nat) : Bool :=
  match s.headParts with
  | (c, p) :: _ => s.input.unit == 0 && s.input.value == 1 && (s.bks.filter s.bkCheckable).isEmpty
    && (s.bks.filter (fun c => (c.state == 1 || c.state == 4) && c.parts.isEmpty && s.ctxRuns c.owner.asid)).isEmpty && c.gate.isNone && c.kind == kind
    && c.parts == [p] && s.bks == [c]
  | [] => false
/-- A BGEMV of one row and one column, 2 times 3, to which ACC adds 1. -/
def gemv1 : State := match exec .strelvisPart { bytes (bytes (bytes (page1 2) 0x30000 4 0x3F800000) 0x30100 4 0x40000000) 0x30200 4 0x40400000 with
    bks := [⟨hrt.hart.owner, hrt.hart.loc, 1, 0, 3, leBytes 64 (0x20000000 + 0x20000100 * 2 ^ 64 + 0x20000200 * 2 ^ 128 + 2 ^ 192 + 2 ^ 224 + 2 ^ 256
      + 0x101 * 2 ^ 416), some 256, 0, 0, [], 0, 0, [], none⟩] } with
  | .next t => given t 0 0 1 []
  | _ => hrt
theorem wit_gemv : workNext gemv1 3 = true ∧ (match gemv1.headParts with
    | (c, p) :: _ => (partRows c p.uva)[p.prog]? == some 0
      && gemv1.runBytes placedContext c (fieldAt c.desc 8 8) 4 == some (leBytes 4 0x40000000)
      && gemv1.runBytes placedContext c (fieldAt c.desc 16 8) 4 == some (leBytes 4 0x40400000)
      && (match c.pages.find? (fun q => q.va == 0x20000000) with
        | some g => Pte.kind g.pte != 1 && g.pa + 65536 ≤ 2 ^ 52 && !revokedAt gemv1 g.pa
        | none => false)
    | [] => false) = true ∧ Stated.plainHome gemv1 ∧ gemv1.ctxOf 1 = some placedContext := by decide +kernel
/-- A number of FP32 above zero rounds to itself, without a flag. -/
theorem rounds_self {z : ℝ} {c : Nat} (hc : c < 2 ^ 32) (hn : (fp32.decode 2 c).isNeg = false) (h : Stated.finite (fp32.decode 2 c) = some z) (h0 : 0 < z) :
    Stated.Rounds fp32 2 0 0 z false c 0 := by
  refine ⟨hc, ?_, z, h, ⟨⟨c, hc, h⟩, fun w _ => by simp, fun ⟨w, _, hne, he⟩ => ?_⟩, by simp⟩
  · rw [hn, if_neg h0.ne']; simp [h0.le]
  · simp only [sub_self, abs_zero, abs_eq_zero, sub_eq_zero] at he
    exact absurd he.symm hne
theorem roundedTo_self {z : ℝ} {c : Nat} (hc : c < 2 ^ 32) (hn : (fp32.decode 2 c).isNeg = false) (h : Stated.finite (fp32.decode 2 c) = some z) (h0 : 0 < z) :
    Stated.RoundedTo z z 0 := ⟨⟨z, ⟨c, hc, h⟩, (abs_of_nonneg h0.le).le⟩, false, c, rounds_self hc hn h h0, h⟩
/-- The row's product is 6, and with the old 1 it is 7. -/
theorem wit_gemv_sum : Stated.DotIs fp32 4 1 (leBytes 4 0x40000000) (leBytes 4 0x40400000) 6 0 ∧ Stated.finite (fp32.decode 2 0x3F800000) = some 1
    ∧ Stated.RoundedTo (1 + 6) 7 0 := by
  have a : fp32.decode 2 (fieldAt (leBytes 4 0x40000000) 0 4) = .fin false 8388608 (-22) := by decide +kernel
  have b : fp32.decode 2 (fieldAt (leBytes 4 0x40400000) 0 4) = .fin false 12582912 (-22) := by decide +kernel
  have c : fp32.decode 2 0x3F800000 = .fin false 8388608 (-23) := by decide +kernel
  have d : fp32.decode 2 0x40E00000 = .fin false 14680064 (-21) := by decide +kernel
  refine ⟨⟨fun _ => 2, fun _ => 3, fun i hi => ?_, ?_⟩, ?_, ?_⟩
  · obtain rfl : i = 0 := by omega
    rw [Nat.mul_zero, a, b]
    constructor <;> simp [Stated.finite] <;> norm_num
  · rw [show Nat.clog 2 1 = 0 by decide, Stated.Sums]
    norm_num
  · rw [c]; simp [Stated.finite]; norm_num
  · rw [show (1 : ℝ) + 6 = 7 by norm_num]
    exact roundedTo_self (c := 0x40E00000) (by decide) (by rw [d]; rfl) (by rw [d]; simp [Stated.finite]; norm_num) (by norm_num)
theorem test_gemv : goes (exec .strelvisPart gemv1) (fun t => t.homeNat 0x30000 4 == 0x40E00000) = true := by decide +kernel

/-- A BATTN of one token of 16 dimensions, all zero, with its m and l. -/
def attn1 : State := match exec .strelvisPart { bytes (page1 2) 0x30C00 8 0x20000000 with
    bks := [⟨hrt.hart.owner, hrt.hart.loc, 1, 0, 4, leBytes 64 (0x20000400 + 0x20000C00 * 2 ^ 64 + 0x20000800 * 2 ^ 128 + 0x20000900 * 2 ^ 192 + 2 ^ 256
      + 16 * 2 ^ 288 + 0x3F800000 * 2 ^ 416), some 256, 0, 0, [], 0, 0, [], none⟩] } with
  | .next t => given t 0 0 1 []
  | _ => hrt
theorem wit_attn : workNext attn1 4 = true ∧ (match attn1.headParts with
    | (c, p) :: _ => p.prog == 0 && p.o.length == 16 && attn1.runBytes placedContext c (fieldAt c.desc 8 8) 8 == some (leBytes 8 0x20000000)
      && (attn1.runBytes placedContext c (fieldAt c.desc 0 8) 32).isSome && (attn1.runBytes placedContext c 0x20000000 32).isSome
      && (attn1.runBytes placedContext c (0x20000000 + 32768) 32).isSome
      && (match c.pages.find? (fun q => q.va == 0x20000000) with
        | some g => Pte.kind g.pte != 1 && g.pa + 65536 ≤ 2 ^ 52 && !revokedAt attn1 (g.pa + 0x800)
        | none => false)
    | [] => false) = true ∧ Stated.plainHome attn1 ∧ attn1.ctxOf 1 = some placedContext := by decide +kernel
/-- One token of weight 1: l is 1, and the output is the value. -/
theorem test_attn : goes (exec .strelvisPart { attn1 with mem := Memory.writeN attn1.mem 0x38002 [0x80, 0x3F] }) (fun t => t.homeNat 0x30804 4 == 0x3F800000
    && t.homeNat 0x30800 4 == 0 && t.homeNat 0x30904 4 == 0x3F800000) = true := by decide +kernel

/-! ### An extent that is taken away under a queued word, and a resumed hart's queued words -/

/-- A hart that runs behind has a vector load of a page of an extent in its queue. -/
def under : State :=
  let s := (at512 (extBase + 0xED)).updDie 2 (fun d => { d with extents := [⟨extBase, 65536, none, true⟩] })
  match exec (.vld ⟨4, 9, 0, 2⟩) { vec s 4 2 [] with prompt := false } with
  | .next t => given t 2 extBase 0 []
  | _ => s
theorem wit_caught : (under.hart.ep.queue.any fun q => (q.caughtIn under.hart.coreId under.hart.ep extBase (extBase + 65536)).isSome) = true
    ∧ under.hart.status = .running ∧ under.hart.ctl = false ∧ Stated.namesApart under
    ∧ (under.die 2).extents.find? (fun e => e.base == extBase) = some ⟨extBase, 65536, none, true⟩ := by decide +kernel
theorem test_caught : goes (exec .forcedExtentRelease under) (fun t => (match t.hart.status with | .trapping x => x.cause == 0x15 && x.tval == 0x20000000 | _ => false)) = true := by
  decide +kernel
/-- A resumed hart with one queued word. -/
def resumed : State := { busy with hart := { busy.hart with redo := busyQ.hart.ep.queue } }
theorem wit_redo : Stated.idleAround resumed ∧ resumed.hart.redo ≠ [] ∧ Stated.unhurried hrt := by decide +kernel
theorem test_redo : goes (step resumed) (fun t => t.hart.redo.isEmpty && t.hart.ep.queue.length == 1 && t.hart.sc.pc == busy.hart.sc.pc) = true := by decide +kernel
theorem wit_words_not_begun : (busyQ.hart.ep.queue.all fun q => q.done.isEmpty) = true := by decide +kernel
theorem wit_die_links : 1 < sup.part.dies ∧ (0 : Nat) + 1 < sup.part.dies ∧ 3 ∉ (sup.die 1).links := by decide +kernel

/-! ### Results at the edge of the numbers, and operands that are not numbers -/

/-- FP32: the largest number, 2^102, the two infinities, zero, a quiet and a signalling NaN. -/
def edge : State := xs hrt [(6, 0x7F7FFFFF), (7, 0x72800000), (8, 0x7F800000), (9, 0xFF800000), (10, 0), (11, 0x7FC00000), (12, 0x7F800001)]
theorem edge_operands : Stated.operand edge 1 6 = .fin false 16777215 104 ∧ Stated.operand edge 1 7 = .fin false 8388608 79
    ∧ Stated.operand edge 1 8 = .inf false ∧ Stated.operand edge 1 9 = .inf true ∧ Stated.operand edge 1 10 = .fin false 0 (-149)
    ∧ Stated.operand edge 1 11 = .nan false ∧ Stated.operand edge 1 12 = .nan true := by decide +kernel
/-- The largest number and 2^102 add up to less than 2^128, and to more than the largest number. -/
theorem wit_overflow_band : Stated.exactOf edge (.fadd ⟨5, 6, 7, 1, 0⟩) = some (fmtOf 1, 0, 5, 16777215 * 2 ^ (104 : ℤ) + 8388608 * 2 ^ (79 : ℤ), false)
    ∧ (2 : ℝ) ^ ((fmtOf 1).bias + 1) - (2 : ℝ) ^ (((fmtOf 1).bias : Int) - (fmtOf 1).p) < |(16777215 : ℝ) * 2 ^ (104 : ℤ) + 8388608 * 2 ^ (79 : ℤ)|
    ∧ |(16777215 : ℝ) * 2 ^ (104 : ℤ) + 8388608 * 2 ^ (79 : ℤ)| < (2 : ℝ) ^ ((fmtOf 1).bias + 1) := by
  obtain ⟨h1, h2, -⟩ := edge_operands
  rw [abs_of_pos (by positivity)]
  refine ⟨?_, ?_, ?_⟩
  · simp only [Stated.exactOf, Stated.exact2]
    rw [h1, h2]
    rfl
  · rw [show (fmtOf 1).bias = 127 from rfl, show (fmtOf 1).p = 23 from rfl]
    norm_num
  · rw [show (fmtOf 1).bias = 127 from rfl]
    norm_num
theorem test_overflow_band : gives (.fadd ⟨5, 6, 7, 1, 0⟩) edge 5 0x7F7FFFFF = true ∧ gives (.fadd ⟨5, 6, 7, 1, 3⟩) edge 5 0x7F800000 = true := by
  decide +kernel
/-- What each word gives of operands that are no numbers: Inf − Inf, a NaN and Inf, Inf × 0, 0 / 0, 1 / Inf, the root of −Inf, 0 × Inf + NaN, and
conversions of a signalling NaN and of an infinity. -/
theorem wit_limits : ([Instr.fadd ⟨5, 8, 9, 1, 0⟩, .fsub ⟨5, 8, 8, 1, 0⟩, .fadd ⟨5, 11, 8, 1, 0⟩, .fmul ⟨5, 8, 10, 1, 0⟩, .fdiv ⟨5, 10, 10, 1, 0⟩,
      .fdiv ⟨5, 7, 9, 1, 0⟩, .fsqrt ⟨5, 9, 1, 0⟩, .fma ⟨5, 10, 8, 11, 1, 0⟩, .fma ⟨5, 7, 7, 12, 1, 0⟩, .fcvt ⟨5, 12, 2, 1, 0⟩, .fcvt ⟨5, 8, 2, 1, 0⟩].map
      fun i => (Stated.limitOf edge i).map fun v => v.2.2.2)
    = [some (.nan false, true), some (.nan false, true), some (.nan false, false), some (.nan false, true), some (.nan false, true),
      some (.fin true 0 0, false), some (.nan false, true), some (.nan false, true), some (.nan false, true), some (.nan false, true),
      some (.inf false, false)] := by decide +kernel
theorem test_limits : gives (.fdiv ⟨5, 7, 9, 1, 0⟩) edge 5 0x80000000 = true
    ∧ goes (exec (.fma ⟨5, 10, 8, 11, 1, 0⟩) edge) (fun t => t.hart.sc.x[5] == 0x7FC00000 && t.hart.sc.fcsr == 16) = true := by decide +kernel

/-! ### A CAS whose release part moves its place, and pages that reach uninstalled memory -/

/-- Dirty bytes of one word in the scalar cache (7 in its upper half) and in the vector data cache (5): no byte of the first stands at home until
the release. -/
def cas2 : State :=
  let s := xs hrt [(6, 0x1000), (5, 0), (8, 9)]
  { s with vdc := [⟨0, 0x40, [], 5, 1, 2, 0, 0, 0, false⟩], hart := { s.hart with scache := [⟨0x40, [], 7 * 2 ^ 64, 2 ^ 8, false⟩] } }
theorem wit_cas_release : (match cas2.locate 0x1000 8 .read 3 with
    | .ok s pa _ =>
      let r := s.homeRead pa 8
      r.2 == (Stated.reg cas2 5).toNat % 256 ^ 8 && found (r.1.locate 0x1000 8 .rmw 3) (fun u qa _ =>
        ((Stated.released u 2 1 0x1000).homeRead qa 8).2 != (Stated.reg cas2 5).toNat % 256 ^ 8)
    | _ => false) = true := by decide +kernel
theorem test_cas_after_release : goes (exec (.cas ⟨5, 6, 8, 3, 2, 1⟩) cas2) (fun t => t.hart.sc.x[5] == 5 && t.homeNat 0x1000 8 == 5) = true := by
  decide +kernel

/-! ### Generators, lane groups and read-only CSRs -/

theorem wit_readonly_csrs : hrt.hart.ctl = false ∧ hrt.hart.die < 4 ∧ hrt.hart.core < 16 ∧ hrt.hart.slot < 4
    ∧ (∀ h ∈ hrt.coreHarts hrt.hart.coreId, h.slot < 4) ∧ hrt.hart.ep.lg.getLsbD 0 = true
    ∧ (∀ g ∈ hrt.coreHarts hrt.hart.coreId, g.ep.lg.getLsbD 0 = true → g = hrt.hart) ∧ Stated.freeGroup hrt 15 = true := by decide +kernel
/-- A change of the lane-group count seeds generator 1 with RNDSEED + 2 × 0x9E3779B9 (R90), and takes the lowest free groups; one that keeps the
configuration seeds nothing. -/
theorem test_setvl_seeds : goes (exec (.setvli ⟨1, 2, 3, 0, 0, 0⟩) (hrt.sc (fun c => { c with rndseed := 1 }))) (fun t =>
    t.hart.sc.gens[1] == 0x3C6EF373 && t.hart.ep.lg == 0xF) = true := by decide +kernel

/-- A page of 512 MiB in tier 3 of which only the first and the last frame are installed. -/
def holed : State := xs ((bytes hrt 0x20010008 8 (extBase + 0xED)).updDie 2 (fun d =>
  { d with extents := [⟨extBase, 65536, none, false⟩, ⟨extBase + 0x1FFF0000, 65536, none, false⟩] })) [(6, 0x20010008)]
theorem wit_access_between_extents : Stated.accessFails holed 0x20010008 8 .read 0x14 false := by
  refine .inr (.inr (.inr ⟨by decide +kernel, by decide +kernel, by decide +kernel, by decide +kernel, ?_⟩))
  rw [Stated.pageFault, leafIs_spec (s := holed) (va := 0x20010008) (pa := 0x20010008) (e := extBase + 0xED) (big := true) (by decide +kernel)]
  refine .inr (.inr (.inr (.inr (.inl ⟨by decide +kernel, ?_, ?_, by decide +kernel, rfl, by decide +kernel⟩))))
  · unfold Stated.malformedEntry; decide +kernel
  · unfold Stated.forbidden; decide +kernel
theorem wit_access_no_rights : Stated.accessFails (at512 (0x300E1 + 2 ^ 56)) 0x20000008 8 .read 0x14 true := by
  refine .inr (.inr (.inr ⟨by decide +kernel, by decide +kernel, by decide +kernel, by decide +kernel, ?_⟩))
  rw [Stated.pageFault, leafIs_spec (s := at512 (0x300E1 + 2 ^ 56)) (va := 0x20000008) (pa := 0x20020000) (e := 0x300E1 + 2 ^ 56) (big := false)
    (by decide +kernel)]
  exact .inr (.inl (by decide))
theorem test_uninstalled_frames : goes (exec (.ld ⟨5, 6, 0, 3, 0, 0⟩) holed) (fun t => t.hart.sc.tcause == 0x14) = true
    ∧ goes (exec (.ld ⟨5, 6, 0x7FF0, 3, 0, 0⟩) (xs holed [(6, 0x20000080)])) (fun t => t.hart.sc.tcause == 0) = true
    ∧ goes (exec (.ld ⟨5, 6, 0, 3, 0, 0⟩) (at512 (0x300E1 + 2 ^ 56))) (fun t => t.hart.sc.tcause == 0x14) = true := by decide +kernel

/-! ### Stochastic roots and reductions, the powers of fractions, and flags -/

theorem wit_stochastic_root : Stated.issues (.vfsqrt ⟨4, 1, 1, 1⟩) (pol 0x80) ∧ Stated.issues (.vfminVV ⟨4, 1, 2, 1, 1⟩) (pol 0x80)
    ∧ Stated.issues (.vfmaxVS ⟨4, 5, 2, 1, 1⟩) (pol 0x80) ∧ Stated.issues (.vredfsum ⟨4, 1, 2, 1, 1⟩) (pol 0x80) :=
  ⟨⟨_, rfl, by decide +kernel⟩, ⟨_, rfl, by decide +kernel⟩, ⟨_, rfl, by decide +kernel⟩, ⟨_, rfl, by decide +kernel⟩⟩
/-- 0.5 lies in the range of R98's polynomial, at j = 32 and m = 0. -/
def halves : State := vec hrt 1 2 [(1, 0x3F000000)]
theorem wit_exp2_fraction : Stated.idle halves ∧ Stated.issues (.vfexp2 ⟨4, 1, 0, 1⟩) halves
    ∧ Stated.finite (fp32.decode 2 (Stated.element halves.hart.ep 1 32 0)) = some (1 / 2) ∧ ⌊(1 / 2 : ℝ) * 64⌋ = 64 * 0 + (32 : Nat) := by
  refine ⟨by decide +kernel, ⟨_, rfl, by decide +kernel⟩, ?_, ?_⟩
  · rw [show fp32.decode 2 (Stated.element halves.hart.ep 1 32 0) = .fin false 8388608 (-24) from by decide +kernel]
    norm_num [Stated.finite]
  · rw [show (1 / 2 : ℝ) * 64 = (32 : ℤ) from by norm_num, Int.floor_intCast]
    rfl
/-- The power is the FP32 number nearest to the root of 2, and only the scaling could raise a flag (R99). -/
theorem test_exp2_fraction : goes (exec (.vfexp2 ⟨4, 1, 0, 1⟩) halves) (fun t => t.hart.ep.elem 4 32 0 == 0x3FB504F3 && t.hart.ep.vstat == 0) = true := by
  decide +kernel
/-- Inf − Inf in an active element raises NV, and 1 / 0 raises DZ; an inactive element raises nothing. -/
def faulty : State := msk (vec hrt 2 2 [(1, pack 32 [0x7F800000, 0x3F800000]), (2, pack 32 [0x7F800000, 0])]) 1 1
theorem test_vstat : goes (exec (.vfsubVV ⟨4, 1, 2, 0, 1⟩) faulty) (fun t => t.hart.ep.vstat == 0x10) = true
    ∧ goes (exec (.vfdivVV ⟨4, 1, 2, 0, 1⟩) faulty) (fun t => t.hart.ep.vstat == 0x18) = true
    ∧ goes (exec (.vfdivVV ⟨4, 1, 2, 1, 1⟩) faulty) (fun t => t.hart.ep.vstat == 0x10) = true := by decide +kernel

/-! ### Words that stop within their group, and what is no number in a tile -/

/-- Index 1 of a VAMO leads to a page that is not mapped. -/
def vm2 : State := vec vm1 4 2 [(4, pack 32 [1, 2, 3, 4]), (8, pack 32 [0, 0x20000000, 8, 12])]
theorem wit_vamo_fails : failsAt (.vamo ⟨4, 6, 8, 0, 2, 1⟩ ) vm2 1 false = true ∧ vm2.hart.ep.geom = none ∧ Stated.idle vm2 := by decide +kernel
theorem wit_vamo_fails_issues : Stated.issues (.vamo ⟨4, 6, 8, 0, 2, 1⟩) vm2 := ⟨_, rfl, by decide +kernel⟩
theorem test_vamo_keeps_progress : goes (exec (.vamo ⟨4, 6, 8, 0, 2, 1⟩) vm2) (fun t => t.hart.ep.pi 4 == 1 && t.hart.sc.tval == 0x20001000) = true := by
  decide +kernel
/-- An MMA of BF16 whose row 0 of A begins with Inf, column 0 of B with 0, or with 2. -/
def mma2 (b : Nat) : State := vec hrt 1 2 [(2, pack 16 [0x7F80, 0x4000]), (8, b), (9, 0x3F80)]
theorem wit_mma_specials : ∀ x : ℝ,
    Stated.mmaLimit (Stated.mmaA ⟨1, 0, 2, 8, 0, 0, 1⟩ (mma2 0) 0) (fun k => Stated.mmaB ⟨1, 0, 2, 8, 0, 0, 1⟩ (mma2 0) k 0) x (.fin false 1 0)
      (.fin false 0 0) = some (.nan false, true)
    ∧ Stated.mmaLimit (Stated.mmaA ⟨1, 0, 2, 8, 0, 0, 1⟩ (mma2 0x4000) 0) (fun k => Stated.mmaB ⟨1, 0, 2, 8, 0, 0, 1⟩ (mma2 0x4000) k 0) x (.fin false 1 0)
      (.fin false 0 0) = some (.inf false, false) := by
  have h : Stated.productsLimit (Stated.mmaA ⟨1, 0, 2, 8, 0, 0, 1⟩ (mma2 0) 0) (fun k => Stated.mmaB ⟨1, 0, 2, 8, 0, 0, 1⟩ (mma2 0) k 0)
      = some (.nan false, true) := by decide +kernel
  have g : Stated.productsLimit (Stated.mmaA ⟨1, 0, 2, 8, 0, 0, 1⟩ (mma2 0x4000) 0) (fun k => Stated.mmaB ⟨1, 0, 2, 8, 0, 0, 1⟩ (mma2 0x4000) k 0)
      = some (.inf false, false) := by decide +kernel
  intro x
  constructor
  · simp [Stated.mmaLimit, h, Stated.isNaN, Stated.productLimit, Stated.signal, Stated.sumLimit]
  · simp [Stated.mmaLimit, g, Stated.isNaN, Stated.productLimit, Stated.isZero, FVal.isNeg, Stated.sumLimit]
theorem wit_mma_specials_issue : Stated.issues (.mma ⟨1, 0, 2, 8, 0, 0, 1⟩) (mma2 0) ∧ Stated.nanOf (mma2 0) ≤ 2 ∧ Stated.idle (mma2 0) :=
  ⟨⟨_, rfl, by decide +kernel⟩, by decide +kernel, by decide +kernel⟩
theorem test_mma_specials : goes (exec (.mma ⟨1, 0, 2, 8, 0, 0, 1⟩) (mma2 0)) (fun t => t.hart.ep.tile 1 0 0 == 0x7FC00000 && t.hart.ep.vstat == 0x10) = true
    ∧ goes (exec (.mma ⟨1, 0, 2, 8, 0, 0, 1⟩) (mma2 0x4000)) (fun t => t.hart.ep.tile 1 0 0 == 0x7F800000 && t.hart.ep.vstat == 0) = true := by decide +kernel

/-! ### Failed checks of tile memory words, and draws of MSTORE -/

/-- Addresses of a tile's elements: beyond the address space, off the alignment, a row distance off it, and a page that is not mapped. -/
def tileAt (x1 x2 : Nat) : State := xs vm1 [(6, x1), (20, x2)]
theorem wit_tile_traps : ((Stated.cells (tileAt (2 ^ 52 - 4) 0)).find? fun p =>
      2 ^ 52 ≤ Stated.cellAddress (Stated.reg (tileAt (2 ^ 52 - 4) 0) 6) (Stated.reg (tileAt (2 ^ 52 - 4) 0) 20) 4 p) = some (0, 1)
    ∧ (∀ p ∈ Stated.cells (tileAt 0x1002 0), Stated.cellAddress 0x1002 0 4 p < 2 ^ 52) ∧ (0x1002 : Word).toNat % 4 ≠ 0 ∧ (0x1000 : Word).toNat % 4 = 0
    ∧ (∀ p ∈ Stated.cells (tileAt 0x1000 2), Stated.cellAddress 0x1000 2 4 p < 2 ^ 52) ∧ (2 : Word).toNat % 4 ≠ 0
    ∧ (match State.checkAll (fun j => Stated.cellAddress 0x20001000 64 4 ((Stated.cells (tileAt 0x20001000 64)).getD j (0, 0))) 4 .read (Nat.log2 4)
          (List.range (Stated.cells (tileAt 0x20001000 64)).length) (tileAt 0x20001000 64) [] with
        | .fail _ _ f _ => f == 0
        | _ => false) = true ∧ (∀ p ∈ Stated.cells (tileAt 0x20001000 64), Stated.cellAddress 0x20001000 64 4 p < 2 ^ 52) := by decide +kernel
theorem wit_tile_traps_issue : Stated.issues (.mload ⟨0, 6, 20, 0⟩) (tileAt 0x1002 0) ∧ Stated.issues (.mstore ⟨6, 20, 0, 0⟩) (tileAt 0x20001000 64)
    ∧ Stated.idle (tileAt 0x1002 0) ∧ Stated.idle (tileAt 0x20001000 64) :=
  ⟨⟨_, rfl, by decide +kernel⟩, ⟨_, rfl, by decide +kernel⟩, by decide +kernel, by decide +kernel⟩
theorem test_tile_traps : goes (exec (.mload ⟨0, 6, 20, 0⟩) (tileAt (2 ^ 52 - 4) 0)) (fun t => t.hart.sc.tcause == 4 && t.hart.sc.tval == BitVec.ofNat 64 (2 ^ 52)) = true
    ∧ goes (exec (.mload ⟨0, 6, 20, 0⟩) (tileAt 0x1002 0)) (fun t => t.hart.sc.tcause == 3 && t.hart.sc.tval == 0x1002) = true
    ∧ goes (exec (.mstore ⟨6, 20, 0, 0⟩) (tileAt 0x1000 2)) (fun t => t.hart.sc.tcause == 3 && t.hart.sc.tval == 0x1002) = true
    ∧ goes (exec (.mstore ⟨6, 20, 0, 0⟩) (tileAt 0x20001000 64)) (fun t => t.hart.sc.tcause == 0x12 && t.hart.sc.tval == 0x20001000) = true := by decide +kernel
/-- MSTORE to BF16 in stochastic mode: one element of 1 + 2^-8. -/
def drawing : State :=
  let s := xs (vec hrt 1 2 []) [(6, 0x1000)]
  s.ep (fun e => { e with vcfg := 0x80, rows := 1, tiles := e.tiles.set 0 0x3F808000 })
theorem wit_stochastic_mstore : Stated.issues (.mstore ⟨6, 20, 0, 1⟩) drawing ∧ (drawing.hart.ep.vcfg >>> 5).toNat = 4 ∧ cellsFit drawing 6 20 2 .write = true :=
  ⟨⟨_, rfl, by decide +kernel⟩, by decide +kernel, by decide +kernel⟩
theorem test_stochastic_mstore : goes (exec (.mstore ⟨6, 20, 0, 1⟩) drawing) (fun t =>
    t.hart.sc.gens[1] == Stated.nextDraw drawing.hart.sc.gens[1] && t.hart.sc.gens[2] == drawing.hart.sc.gens[2] && t.hart.ep.vstat == 1
    && (gives (.ldu ⟨5, 6, 0, 1, 0, 0⟩) t 5 0 || t.vdc.any fun l => l.dirty == 3)) = true := by decide +kernel

/-! ### Resolutions that are counted -/

theorem wit_counted_trap : ((.gori2 : OpG → Instr), gori2K) ∈ Stated.geomRows ∧ (infAt 1).hart.ep.geom = none ∧ Stated.startOf (infAt 1) ≤ 1 ∧ 1 < (infAt 1).hart.ep.vl
    ∧ Stated.isActive (infAt 1) 0 1 = true ∧ nonFinite gori2K ⟨20, 2, 0, 0, 0, 1, 0⟩ (infAt 1).hart.ep 1 = true ∧ (infAt 1).hart.sc.vstartArmed = false
    ∧ nonFinite gori2K ⟨20, 2, 0, 0, 0, 1, 0⟩ (infAt 1).hart.ep 0 = false :=
  ⟨by simp [Stated.geomRows], by decide +kernel, by decide +kernel, by decide +kernel, by decide +kernel, by decide +kernel, by decide +kernel, by decide +kernel⟩
theorem wit_small_points : Stated.smallPoints (fun p _ => if p < 64 then (p : ℝ) else 0) := by
  intro p _
  by_cases h : p < 64
  · exact ⟨p, by simp [h], by rw [abs_of_nonneg (by positivity)]; omega⟩
  · exact ⟨0, by simp [h], by simp⟩
theorem test_counted_below_the_trap : goes (exec (.gori2 ⟨20, 2, 0, 0, 0, 1, 0⟩) (infAt 1)) (fun t => t.hart.ep.gstat == 1) = true := by decide +kernel

/-! ### Barriers that a store completed, and stores that a range word passes -/

theorem wit_barrier_norm : Memory.wf (barr 2 0).mem = true ∧ barrierGood (barr 2 0) 0x5000 = true ∧ Stated.barrierNow (barr 1 0) 0x5000 = Stated.barrier (barr 1 0) 0x5000
    ∧ Stated.barrier ((barr 2 0).barNorm 0x5000) 0x5000 = (2, 0, 0, 8) ∧ (barr 1 0).barNorm 0x5000 = barr 1 0 := by decide +kernel
theorem test_barexp_owed : goes (exec (.barexp ⟨6, 7⟩) (barr 2 0)) (fun t => decide (Stated.barrier t 0x5000 = (2, 0, 7, 8))) = true := by decide +kernel
/-- A queued store to the line 0x40, which the VDC holds or does not. -/
def storing (held : Bool) : State :=
  let s := if held then { vm1 with vdc := [⟨0, 0x40, [(1, 0x1000)], 0, 0, 0, 0, 0, 0, false⟩] } else vm1
  match exec (.vst ⟨4, 6, 0, 2⟩) (xs { s with prompt := false } [(6, 0x1000), (7, 64)]) with | .next t => t | _ => s
theorem wit_fetches : (storing true).hart.ep.queue.length = 1 ∧ (∀ q ∈ (storing true).hart.ep.queue, (storing true).fetches q = false)
    ∧ ((storing false).hart.ep.queue.any fun q => (storing false).fetches q) = true
    ∧ Stated.onePage ((storing false).drainTo (storing false).fetches) (Stated.reg (storing false) 6).toNat (Stated.reg (storing false) 7).toNat := by
  decide +kernel
theorem wit_fetches_page : found (((storing false).drainTo (storing false).fetches).readPage 0x1000) (fun _ pa _ => pa == 0x1000) = true := by decide +kernel
theorem test_rwb_passes_stores : goes (exec (.rwb ⟨6, 7, 2⟩) (storing true)) (fun t => t.hart.ep.queue.length == 1 && t.homeNat 0x1000 4 == 11) = true
    ∧ goes (exec (.rwb ⟨6, 7, 2⟩) (storing false)) (fun t => t.hart.ep.queue.isEmpty && t.homeNat 0x1000 4 == 1) = true := by decide +kernel

/-! ### Farms that find no slot, and parties that are resumed -/

/-- Every farm slot of every die is taken. -/
def noSlots (s : State) : State := { s with farms := s.farms ++ List.replicate 64 { placedFarm with asid := 9, dies := [0, 1, 2, 3] } }
theorem wit_no_slots : (slotDies (noSlots farms1) 0).isEmpty = true ∧ descAt ((noSlots farms1).release 3) 0x6000 (fun u d =>
      let f := farmOf u.ctx.asid d
      !farmFieldsBad u f d && f.pot == 0 && (slotDies u f.dieMask).isEmpty) = true
    ∧ descAt ((noSlots farms2).release 3) 0x6000 (fun u d =>
      let f := farmOf u.ctx.asid d
      !farmFieldsBad u f d && f.pot == 0x4000 && (match u.object u.ctx u.hart.coreId f.pot 0x17 with
        | .ok v _ => v.farms.all (fun g => g.pot == 0) && (slotDies v f.dieMask).isEmpty
        | _ => false)) = true := by decide +kernel
theorem test_no_slots : gives (.farm ⟨5, 6⟩) (noSlots farms1) 5 (2 ^ 64 - 2) = true ∧ gives (.farm ⟨5, 6⟩) (noSlots farms2) 5 (2 ^ 64 - 2) = true := by decide +kernel
/-- A Strelvis command is parked on the slot 0x7000, at its checks (2) or at its arrival (3). -/
def parkdBk (state : Nat) : State :=
  xs { bytes sup 0x7000 64 (4 + 2 * 2 ^ 8) with
    bks := [⟨hrt.hart.owner, hrt.hart.loc, 1, 0, 3, leBytes 64 (2 ^ 192 + 2 ^ 224 + 2 ^ 256 + 2 ^ 416), some 0, 0, state, [], 0, 0, [], none⟩]
    faults := [⟨0, .strelvis hrt.hart.owner 1, leBytes 64 4, some 0x7000⟩] } [(6, 0x7000)]
theorem wit_tret_strelvis : ((parkdBk 3).release 3).faults.find? (fun f => f.die == (parkdBk 3).hart.die && f.slot == some 0x7000) = (parkdBk 3).faults[0]?
    ∧ fieldAt (((parkdBk 3).release 3).homeBytes 0x7000 64) 3 1 = 0 ∧ fieldAt (((parkdBk 2).release 3).homeBytes 0x7000 64) 3 1 = 0 := by decide +kernel
theorem test_tret_strelvis : goes (exec (.tretResume ⟨5, 6⟩) (parkdBk 3)) (fun t => t.hart.sc.x[5] == 0 && t.bks.map (·.state) == [1] && t.faults.isEmpty) = true
    ∧ goes (exec (.tretResume ⟨5, 6⟩) (parkdBk 2)) (fun t => t.bks.map (·.state) == [0]) = true := by decide +kernel
/-- The completion of the context's farm at a pot is parked on the slot 0x7000; the context runs, or has stopped. -/
def parkdFarm (state : Nat) : State :=
  let s := (xs { bytes { sup with mem := Memory.writeN homePot.mem 0x7000 (leBytes 64 (0x17 + 3 * 2 ^ 8)), potLines := [0x4000] } 0x7100 1 0 with
    faults := [⟨0, .farm 1 1, leBytes 64 0x17, some 0x7000⟩] } [(6, 0x7000)]).updCtx 1 (fun c => { c with state := state })
  { s with others := ctl.others, farms := [{ placedFarm with state := 3, harts := 1, retired := 1, done := 0x4000, flags := 1 }] }
theorem wit_tret_farm : ∀ n ∈ [1, 5], ((parkdFarm n).release 3).faults.find? (fun f => f.die == (parkdFarm n).hart.die && f.slot == some 0x7000) = (parkdFarm n).faults[0]?
    ∧ fieldAt (((parkdFarm n).release 3).homeBytes 0x7000 64) 3 1 = 0 ∧ ((parkdFarm n).release 3).ctxRuns 1 = decide (n = 1)
    ∧ ((parkdFarm n).farms.map (fun g => (g.asid, g.handle, g.retired == g.harts))) = [(1, 1, true)] := by decide +kernel
theorem test_tret_farm : goes (exec (.tretResume ⟨5, 6⟩) (parkdFarm 1)) (fun t => t.hart.sc.x[5] == 0 && t.farms.isEmpty && Stated.resid t 0x4000 == 101) = true
    ∧ goes (exec (.tretResume ⟨5, 6⟩) (parkdFarm 5)) (fun t => t.hart.sc.x[5] == 0 && t.farms.map (·.state) == [2] && t.faults.isEmpty) = true := by decide +kernel
/-- A retry takes the record's LEND, PENDING too; a skip takes it without PENDING. -/
def parkdLent (n : Nat) : State := { parkd n with mem := Memory.writeN (parkd n).mem 0x701C (leBytes 4 0x80029900) }
theorem test_tret_lend : goes (exec (.tretResume ⟨5, 6⟩) (parkdLent 0)) (fun t => t.others.any (fun h => !h.ctl && h.sc.lend == 0x80029900)) = true
    ∧ goes (exec (.tretResume ⟨5, 6⟩) (parkdLent 1)) (fun t => t.others.any (fun h => !h.ctl && h.sc.lend == 0x00029900)) = true := by decide +kernel

/-! ### Turns that the agenda gives -/

theorem wit_on_turn : Stated.onTurn hrt hrt ∧ ∃ v, Stated.onTurn { hrt with agenda := [.run hrt.hart.loc] } v :=
  ⟨.inl ⟨by decide +kernel, rfl⟩, _, .inr ⟨hrt.hart.loc, [], rfl, rfl, by decide +kernel, by decide +kernel⟩⟩

/-! ### Maxima and flags of a BKOP, chunks on two pages, mask bits and interrupts -/

/-- A BKOP that takes the maxima of 1, a quiet NaN, a signalling NaN and 4, and of 1, 0, 0 and 0. -/
def bkMax : State := { bytes (bytes (page1 2) 0x30100 16 (pack 32 [0x3F800000, 0x7FC00000, 0x7F800001, 0x40800000])) 0x30200 4 0x3F800000 with
  bks := [⟨hrt.hart.owner, hrt.hart.loc, 1, 0, 2, leBytes 64 (0x20000000 + 0x20000100 * 2 ^ 64 + 0x20000200 * 2 ^ 128 + 4 * 2 ^ 192 + 3 * 2 ^ 416 + 2 ^ 424),
    some 128, 0, 0, [], 0, 0, [], none⟩] }
def bkMaxWork : State := match exec .strelvisPart bkMax with | .next t => given t 0 0 1 [] | _ => bkMax
theorem wit_bkop_max : workNext bkMaxWork 2 = true ∧ (match bkMaxWork.headParts with
    | (c, p) :: _ =>
      let run := granuleRun c.desc p.uva p.prog
      p.prog < granules c.desc p.uva && bkType c.desc == 1 && bkOp c.desc == 3 && 0 < run.2 && run.1 / 65536 == (run.1 + run.2 - 1) / 65536
      && (bkMaxWork.runBytes placedContext c (0x20000100 + (run.1 - 0x20000000)) run.2).isSome
      && (match c.pages.find? (fun q => q.va == run.1 / 65536 * 65536) with
        | some g => Pte.kind g.pte != 1 && g.pa + 65536 ≤ 2 ^ 52
        | none => false)
    | [] => false) = true ∧ Stated.plainHome bkMaxWork ∧ bkMaxWork.ctxOf 1 = some placedContext := by decide +kernel
theorem test_bkop_max : goes (exec .strelvisPart bkMaxWork) (fun t => t.homeNat 0x30000 4 == 0x3F800000 && t.homeNat 0x30004 4 == 0
    && t.bks.map (·.flags) == [0x10] && goes (exec .strelvisPart t) (fun t => t.bks.isEmpty && t.hart.ep.vstat == 0x10)) = true := by decide +kernel
/-- A Strelvis command that ends with flags and granules that were shuffled. -/
def bkEnds : State := { bk2 with bks := bk2.bks.map (fun c => { c with flags := 5, shuf := 3 }) }
theorem test_command_ends : goes (exec .strelvisPart bkEnds) (fun t => t.bks.isEmpty && t.hart.ep.vstat == 5 && t.hart.sc.bkshuf == 3) = true := by decide +kernel
/-- A copy of 256 bytes from 0xFF80 to 0x1FFC0, on two pages on either side; `xs2` names mask 3's bit 5 and an interrupt for each chunk. -/
def copy2 (away : Bool) : State :=
  let s := { bytes hrt 0xFF80 200 (2 ^ 1592 + 0xCAFEF00D) with
    copies := [⟨hrt.hart.owner, hrt.hart.loc, 9, 0, BitVec.ofNat 64 (4 + 2 * 16 + 5 * 64), leBytes 64 (0xFF80 + 0x1FFC0 * 2 ^ 64 + 256 * 2 ^ 384 + 2 ^ 416 + 2 * 2 ^ 432),
      0, 1, true, false, 0⟩] }
  if away then { s with hart := ctl.hart, others := ctl.others } else s
/-- A chunk's runs on its two sides. -/
def twoPages (s : State) : Bool :=
  match s.copyReady with
  | c :: _ => (match s.ctxOf c.owner.asid with
    | some x =>
      let n := chunkLen c.desc c.next
      (match s.engRun x (coreOf c.hartid) .read true copyOwn (chunkSrc c.desc c.next) n with
       | .ok u gs => (match u.engRun x (coreOf c.hartid) .write true copyOwn (chunkDst c.desc c.next) n with
         | .ok v hs => gs.map (·.len) == [128, 128] && hs.map (·.len) == [64, 192] && decide (Stated.plainHome v) && v.vdc.isEmpty
           && v.allHarts.all (·.scache.isEmpty) && hs.all (fun h => Pte.kind h.pte != 1)
         | _ => false)
       | _ => false)
    | none => false)
  | [] => false
theorem wit_chunk_pages : twoPages (copy2 false) = true ∧ twoPages (copy2 true) = true ∧ (∀ c ∈ (copy2 false).copies, copyDev c.desc = 0 ∧ copyBar c.desc = 0
      ∧ copyMsel c.xs2 = 4 ∧ copyIrq c.xs2 = 2 ∧ copyMbit c.xs2 = 5 ∧ c.next + 1 < chunkCount c.desc)
    ∧ ((copy2 false).hartOf hrt.hart.owner).isSome = true ∧ (copy2 true).hartOf hrt.hart.owner = none := by decide +kernel
theorem test_chunk_pages : goes (exec .copyChunk (copy2 false)) (fun t => t.homeNat 0x1FFC0 4 == 0xCAFEF00D && t.homeByte (0x1FFC0 + 199) == 1
      && t.copies.map (·.next) == [1] && t.hart.ep.m[3] == 32 && t.hart.sc.uiPend && t.hart.sc.uiTag == 9) = true
    ∧ goes (exec .copyChunk (copy2 true)) (fun t => t.copies.map (fun c => (c.next, c.owed)) == [(1, 1)]) = true := by decide +kernel

/-! ### Links of a die, and images that arrive or time out -/

theorem wit_links : Stated.linked sup 1 0 ∧ Stated.linked sup 1 3 ∧ Stated.linked sup 0 7 ∧ ¬ Stated.linked sup 1 7 ∧ ¬ Stated.linked sup 1 10
    ∧ Stated.farEnd 1 0 = (0, 0) ∧ Stated.farEnd 0 2 = (3, 0) ∧ Stated.farEnd 2 1 = (1, 1) :=
  ⟨by unfold Stated.linked; decide +kernel, by unfold Stated.linked; decide +kernel, by unfold Stated.linked; decide +kernel,
    by unfold Stated.linked; decide +kernel, by unfold Stated.linked; decide +kernel, by decide, by decide, by decide⟩
theorem test_links : goes (exec .linkRetrain (given sup 2 0 1 [])) (fun t => telGet (t.die 2).tel 0x1121 == 1 && telGet (t.die 1).tel 0x1121 == 1
      && goes (exec .linkRetrainEnd t) (fun t => (t.die 1).links.isEmpty && (t.die 2).links.isEmpty)) = true
    ∧ goes (exec .linkRetrain (given sup 1 0 7 [])) (fun t => (t.die 1).tel.isEmpty) = true := by decide +kernel
/-- A try times out when 8 bytes of an image of 16 bytes for 0x40000 have arrived, from a die's own source or from the host. -/
def late (src : Nat) : State := given { State.reset with boot := .rom src 1 } 0 0 0
  (leBytes 2048 (0x40000 * 2 ^ 128 + 16 * 2 ^ 256) ++ [1, 2, 3, 4, 5, 6, 7, 8])
theorem wit_late : fieldAt ((late 0).input.data.take 2048) 16 8 = 0x40000 ∧ fieldAt ((late 0).input.data.take 2048) 32 8 = 16 ∧ 0 < (late 0).part.dies
    ∧ 0x40000 + 16 ≤ (late 0).part.tier1 ∧ (late 0).part.dies ≤ 4 ∧ (late 0).discarded = [] ∧ Memory.wf (late 0).mem = true := by decide +kernel
theorem test_late : goes (exec .bootTryTimeout (late 0)) (fun t => t.homeNat 0x40000 8 == 0x0807060504030201 && decide (t.boot = .rom 0 2)) = true
    ∧ goes (exec .bootTryTimeout (late 4)) (fun t => t.homeNat 0x40000 8 == 0) = true := by decide +kernel
/-- The host's doorbell names zeros at 0x1000, an image that no check accepts. -/
def doorbell : State := given { bytes State.reset 0x1040 1 0x77 with boot := .rom 1 2 } 0 0 0x1000 []
theorem wit_doorbell : doorbell.part.features.getLsbD 3 = true ∧ doorbell.discarded = [] ∧ Memory.wf doorbell.mem = true ∧ doorbell.input.data = []
    ∧ fieldAt (doorbell.homeBytes 0x1000 2048) 32 8 ≤ 2 ^ 28 ∧ doorbell.bootGood (doorbell.homeBytes 0x1000 2048) [] = false
    ∧ (PartCfg.grihild16).features.getLsbD 3 = false := by decide +kernel
theorem test_doorbell : goes (exec .bootdb doorbell) (fun t => decide (t.boot = .rom 4 3) && telGet (t.die 0).tel 0x1111 == 1 && t.homeByte 0x1040 == 0) = true := by
  decide +kernel

/-! ### The other parts of the family -/

theorem test_grades : (State.resetOf PartCfg.grihild16).allHarts.length = 2 := by decide +kernel

end Sys2Proof.Tests
end

/-! SUPPORT. What a party reads from a CSR after writing it (R10): the stored fields as masks of the written word, the effect of a write on each
half of the state, and the rows of the CSR maps. -/

namespace Sys2Proof.Machine

/-! ### Fields of a word -/

theorem bits_toNat_eq_extractLsb' (w : Word) (lo n : Nat) : bits w.toNat lo n = (w.extractLsb' lo n).toNat := by
  simp [bits, Nat.shiftRight_eq_div_pow]

/-- A mask of `n` ones from bit `lo` keeps that field in its place. -/
theorem toNat_and_mask (w : Word) (lo n : Nat) (h : lo + n ≤ 64) :
    (w &&& BitVec.ofNat 64 ((2 ^ n - 1) <<< lo)).toNat = 2 ^ lo * bits w.toNat lo n := by
  have hmask : (2 ^ n - 1) <<< lo < 2 ^ 64 := by
    calc (2 ^ n - 1) <<< lo = (2 ^ n - 1) * 2 ^ lo := Nat.shiftLeft_eq _ _
      _ < 2 ^ n * 2 ^ lo := Nat.mul_lt_mul_of_pos_right (Nat.sub_lt (Nat.two_pow_pos n) one_pos) (Nat.two_pow_pos lo)
      _ = 2 ^ (lo + n) := by rw [pow_add, mul_comm]
      _ ≤ 2 ^ 64 := Nat.pow_le_pow_right two_pos h
  have hfield : w.toNat &&& (2 ^ n - 1) <<< lo = bits w.toNat lo n <<< lo := by
    rw [bits, ← Nat.shiftRight_eq_div_pow, ← Nat.and_two_pow_sub_one_eq_mod, Nat.shiftLeft_and_distrib]
    apply Nat.eq_of_testBit_eq
    intro i
    by_cases hi : lo ≤ i <;> simp [hi]
  rw [BitVec.toNat_and, BitVec.toNat_ofNat, Nat.mod_eq_of_lt hmask, hfield, Nat.shiftLeft_eq, mul_comm]

/-- The low `n` bits of a word, kept in a register of `m` bits and read with zeros above. -/
theorem ofNat_bits_low (w : Word) (m n : Nat) (hm : n ≤ m) (h : m ≤ 64) :
    (BitVec.ofNat m (bits w.toNat 0 n)).setWidth 64 = w &&& BitVec.ofNat 64 (2 ^ n - 1) := by
  have hlt : bits w.toNat 0 n < 2 ^ m := (bits_lt _ _ _).trans_le (Nat.pow_le_pow_right two_pos hm)
  have hmask := toNat_and_mask w 0 n (by omega)
  rw [Nat.shiftLeft_zero, pow_zero, one_mul] at hmask
  apply BitVec.eq_of_toNat_eq
  rw [hmask, BitVec.toNat_setWidth, BitVec.toNat_ofNat, Nat.mod_eq_of_lt hlt, Nat.mod_eq_of_lt (hlt.trans_le (Nat.pow_le_pow_right two_pos h))]

theorem setWidth_setWidth_eq_and (w : Word) (n : Nat) (h : n ≤ 64) : (w.setWidth n).setWidth 64 = w &&& BitVec.ofNat 64 (2 ^ n - 1) := by
  have hlow : w.setWidth n = BitVec.ofNat n (bits w.toNat 0 n) := by
    apply BitVec.eq_of_toNat_eq
    simp [bits]
  rw [hlow]
  exact ofNat_bits_low w n n le_rfl h

theorem toNat_append_eq_add {m n : Nat} (x : BitVec m) (y : BitVec n) : (x ++ y).toNat = 2 ^ n * x.toNat + y.toNat := by
  rw [BitVec.toNat_append, Nat.shiftLeft_eq, mul_comm, ← Nat.two_pow_add_eq_or_of_lt y.isLt]

/-! ### What the legalised fields hold -/

/-- FCSR (R22). -/
theorem setWidth_legalFcsr (w : Word) :
    (legalFcsr w.toNat).setWidth 64 = if w.extractLsb' 5 3 > 4 then w &&& 0x1F else w &&& 0xFF := by
  have hmode : w.extractLsb' 5 3 > 4 ↔ 4 < bits w.toNat 5 3 := by rw [bits_toNat_eq_extractLsb']; exact BitVec.lt_def
  unfold legalFcsr
  by_cases h : 4 < bits w.toNat 5 3
  · rw [if_pos h, if_pos (hmode.2 h)]; exact ofNat_bits_low w 8 5 (by decide) (by decide)
  · rw [if_neg h, if_neg (mt hmode.1 h)]; exact ofNat_bits_low w 8 8 (by decide) (by decide)

/-- LENDSTATE and UILEND (R51). -/
theorem legalLend_eq_lendStored (w : Word) : legalLend w.toNat = Stated.lendStored w := by
  have hp : (w.extractLsb' 7 4).toNat < 16 := (w.extractLsb' 7 4).isLt
  have hc : (w.extractLsb' 12 5).toNat < 32 := (w.extractLsb' 12 5).isLt
  have hl : (w.extractLsb' 11 1).toNat < 2 := (w.extractLsb' 11 1).isLt
  have he : (w.extractLsb' 17 1).toNat < 2 := (w.extractLsb' 17 1).isLt
  have hg : (w.extractLsb' 31 1).toNat < 2 := (w.extractLsb' 31 1).isLt
  apply BitVec.eq_of_toNat_eq
  simp only [legalLend, Stated.lendStored, toNat_append_eq_add, bits_toNat_eq_extractLsb', apply_ite BitVec.toNat, BitVec.toNat_ofNat, gt_iff_lt,
    BitVec.lt_def, BitVec.toNat_eq, BitVec.reduceToNat, Bool.and_eq_true, decide_eq_true_eq]
  generalize (w.extractLsb' 7 4).toNat = p at *
  generalize (w.extractLsb' 12 5).toNat = c at *
  generalize (w.extractLsb' 11 1).toNat = l at *
  generalize (w.extractLsb' 17 1).toNat = e at *
  generalize (w.extractLsb' 31 1).toNat = g at *
  split_ifs <;> omega

/-- VCFG (R151). -/
theorem setWidth_legalVcfg (w : Word) :
    (legalVcfg w.toNat).setWidth 64
      = (if w.extractLsb' 5 3 > 4 then 0 else w &&& 0xE0) ||| (if w.extractLsb' 3 2 = 3 then 0 else w &&& 0x18) ||| (w &&& 6) := by
  have hfrm : (w &&& 0xE0).toNat = 2 ^ 5 * bits w.toNat 5 3 := toNat_and_mask w 5 3 (by decide)
  have hnan : (w &&& 0x18).toNat = 2 ^ 3 * bits w.toNat 3 2 := toNat_and_mask w 3 2 (by decide)
  have hlow : (w &&& 6).toNat = 2 ^ 1 * bits w.toNat 1 2 := toNat_and_mask w 1 2 (by decide)
  rw [bits_toNat_eq_extractLsb'] at hfrm hnan hlow
  have hf : (w.extractLsb' 5 3).toNat < 8 := (w.extractLsb' 5 3).isLt
  have hn : (w.extractLsb' 3 2).toNat < 4 := (w.extractLsb' 3 2).isLt
  have hl : (w.extractLsb' 1 2).toNat < 4 := (w.extractLsb' 1 2).isLt
  apply BitVec.eq_of_toNat_eq
  simp only [legalVcfg, bits_toNat_eq_extractLsb', BitVec.or_assoc, BitVec.toNat_or, apply_ite BitVec.toNat, BitVec.toNat_ofNat, BitVec.toNat_setWidth,
    gt_iff_lt, BitVec.lt_def, BitVec.toNat_eq, BitVec.reduceToNat, hfrm, hnan, hlow]
  generalize (w.extractLsb' 5 3).toNat = f at *
  generalize (w.extractLsb' 3 2).toNat = n at *
  generalize (w.extractLsb' 1 2).toNat = l at *
  rw [show (if 4 < f then 0 else 2 ^ 5 * f) = 2 ^ 5 * (if 4 < f then 0 else f) by split_ifs <;> rfl,
    show (if n = 3 then 0 else 2 ^ 3 * n) = 2 ^ 3 * (if n = 3 then 0 else n) by split_ifs <;> rfl,
    ← Nat.two_pow_add_eq_or_of_lt (i := 3) (by omega), ← Nat.two_pow_add_eq_or_of_lt (i := 5) (by split_ifs <;> omega)]
  split_ifs <;> omega

/-- TILESHAPE (R173): ROWS is at least 1 and ends within the tile. -/
theorem legalRows_eq (base rows : Nat) (h : base < 32) : legalRows base rows = min (max rows 1) (32 - base) := by
  simp only [legalRows]
  split_ifs <;> omega

/-- SPLITR (R316): a share above 256 is stored as 256. -/
theorem setWidth_min_splitr (w : Word) :
    (BitVec.ofNat 9 (min (bits w.toNat 0 9) 256)).setWidth 64 = if w.extractLsb' 0 9 > 256 then 256 else w &&& 0x1FF := by
  have hover : w.extractLsb' 0 9 > 256 ↔ 256 < bits w.toNat 0 9 := by rw [bits_toNat_eq_extractLsb']; exact BitVec.lt_def
  by_cases h : 256 < bits w.toNat 0 9
  · rw [if_pos (hover.2 h), min_eq_right h.le]; rfl
  · rw [if_neg (mt hover.1 h), min_eq_left (not_lt.1 h)]; exact ofNat_bits_low w 9 9 (by decide) (by decide)

/-- VSTART (R332): the armed bit and the element, with the bits between them zero. -/
theorem vstartWord_of_armed_vstart (c : Scalar) (w : Word) (ha : c.vstartArmed = w.getLsbD 63) (hv : c.vstart = BitVec.ofNat 18 w.toNat) :
    c.vstartWord = w &&& 0x800000000003FFFF := by
  have harmed : (w &&& 0x8000000000000000).toNat = 2 ^ 63 * bits w.toNat 63 1 := toNat_and_mask w 63 1 (by decide)
  have helem : (w &&& 0x3FFFF).toNat = 2 ^ 0 * bits w.toNat 0 18 := toNat_and_mask w 0 18 (by decide)
  have hbit : bits w.toNat 63 1 = if w.getLsbD 63 then 1 else 0 := by
    rw [BitVec.getLsbD, Nat.testBit_eq_decide_div_mod_eq]
    have := bits_lt w.toNat 63 1
    unfold bits at *
    split_ifs with h <;> simp at h <;> omega
  have hlow : bits w.toNat 0 18 < 2 ^ 18 := bits_lt _ _ _
  rw [show (0x800000000003FFFF : Word) = 0x8000000000000000 ||| 0x3FFFF by decide, BitVec.and_or_distrib_left]
  apply BitVec.eq_of_toNat_eq
  rw [BitVec.toNat_or, harmed, helem, ← Nat.two_pow_add_eq_or_of_lt (by omega), hbit, Scalar.vstartWord, ha, hv]
  simp only [BitVec.toNat_ofNat, bits] at *
  split_ifs <;> omega

/-- The bits of UISTATUS within its lowest four (R307). -/
theorem uistatus_nibble (active : Bool) : ∀ b : BitVec 4,
    BitVec.ofNat 64 ((if b.getLsbD 3 then 8 else 0) + (if active then 4 else 0) + (if b.getLsbD 1 then 2 else 0) + (if b.getLsbD 0 then 1 else 0))
      = (b &&& 0xB).setWidth 64 ||| (if active then 4 else 0) := by
  cases active <;> decide

/-- UISTATUS (R307): EN, PEND and RSTRT are written, ACTIVE stays. -/
theorem uistatus_writeUistatus (c : Scalar) (w : Word) :
    (c.writeUistatus w).uistatus = (w &&& 0xB) ||| (if c.uiActive then 4 else 0) := by
  have hfields : (c.writeUistatus w).uiRstrt = w.getLsbD 3 ∧ (c.writeUistatus w).uiActive = c.uiActive
      ∧ (c.writeUistatus w).uiPend = w.getLsbD 1 ∧ (c.writeUistatus w).uiEn = w.getLsbD 0 := by
    unfold Scalar.writeUistatus Scalar.raiseEvent
    cases w.getLsbD 1 <;> exact ⟨rfl, rfl, rfl, rfl⟩
  have hbit : ∀ i < 4, w.getLsbD i = (w.setWidth 4).getLsbD i := fun i hi => by simp [hi]
  have hmask : w &&& 0xB = (w.setWidth 4 &&& 0xB).setWidth 64 := by
    rw [BitVec.setWidth_and, setWidth_setWidth_eq_and w 4 (by decide), BitVec.and_assoc]; rfl
  obtain ⟨hr, ha, hp, he⟩ := hfields
  rw [Scalar.uistatus, hr, ha, hp, he, hmask, hbit 3 (by decide), hbit 1 (by decide), hbit 0 (by decide)]
  exact uistatus_nibble _ _

/-- TDELEG (R330). -/
theorem setWidth_tdeleg (w : Word) : (BitVec.ofNat 9 w.toNat &&& 0x182).setWidth 64 = w &&& 0x182 := by
  rw [BitVec.ofNat_toNat, BitVec.setWidth_and, setWidth_setWidth_eq_and w 9 (by decide), BitVec.and_assoc]; rfl

/-! ### Reading back -/

/-- No x register, pc or byte of memory differs. -/
def SameProgramState (s t : State) : Prop := t.hart.sc.x = s.hart.sc.x ∧ t.hart.sc.pc = s.hart.sc.pc ∧ t.mem = s.mem

/-- CSR `n` reads as `v` after `w` is written to it, and the write changes no x register, pc or byte of memory. -/
def ReadsBack (s : State) (n : Nat) (w v : Word) : Prop :=
  (∃ u, (s.csrWrite n w).csrRead n = some (u, v)) ∧ SameProgramState s (s.csrWrite n w)

theorem csrRead_of_shared {s : State} {n : Nat} {r : State × Word} (h : s.csrShared n = some r) : s.csrRead n = some r := by
  rw [State.csrRead, h, Option.some_or]

theorem csrRead_of_hart {s : State} {n : Nat} {r : State × Word} (hc : s.hart.ctl = false) (hs : s.csrShared n = none)
    (h : s.csrHart n = some r) : s.csrRead n = some r := by
  rw [State.csrRead, hs, hc, h]; rfl

theorem csrRead_of_vector {s : State} {n : Nat} {r : State × Word} (hc : s.hart.ctl = false) (hs : s.csrShared n = none)
    (hh : s.csrHart n = none) (h : s.csrVector n = some r) : s.csrRead n = some r := by
  rw [State.csrRead, hs, hc, hh, h]; rfl

theorem csrRead_of_control {s : State} {n : Nat} {r : State × Word} (hc : s.hart.ctl = true) (hs : s.csrShared n = none)
    (h : s.csrControl n = some r) : s.csrRead n = some r := by
  rw [State.csrRead, hs, hc, h]; rfl

theorem drain_of_queue_nil {s : State} (h : s.hart.ep.queue = []) : s.drain = s := by
  rw [State.drain, h]; rfl

/-! ### CSRs of harts and control cores alike -/

theorem fcsr_readsBack (s : State) (w : Word) :
    ReadsBack s 0x020 w (if w.extractLsb' 5 3 > 4 then w &&& 0x1F else w &&& 0xFF) :=
  ⟨⟨_, csrRead_of_shared (by rw [← setWidth_legalFcsr]; rfl)⟩, rfl, rfl, rfl⟩

theorem rndseed_readsBack (s : State) (w : Word) (hq : s.hart.ep.queue = []) : ReadsBack s 0x021 w (w &&& 0xFFFFFFFF) := by
  have hwrite : s.csrWrite 0x021 w = s.sc (fun c => { c with rndseed := BitVec.ofNat 32 w.toNat, gens := seedAll (BitVec.ofNat 32 w.toNat) }) := by
    conv_rhs => rw [← drain_of_queue_nil hq]
    rfl
  have hval : (BitVec.ofNat 32 w.toNat).setWidth 64 = w &&& 0xFFFFFFFF := by
    rw [BitVec.ofNat_toNat]; exact setWidth_setWidth_eq_and w 32 (by decide)
  rw [ReadsBack, hwrite]
  exact ⟨⟨_, csrRead_of_shared (by rw [← hval]; rfl)⟩, rfl, rfl, rfl⟩

theorem lendstate_readsBack (s : State) (w : Word) : ReadsBack s 0x050 w ((Stated.lendStored w).setWidth 64) := by
  have hwrite : s.csrWrite 0x050 w
      = s.sc (fun c => { c with lend := legalLend w.toNat, uilend := if s.hart.ctl then legalLend w.toNat else c.uilend }) := rfl
  rw [ReadsBack, hwrite, legalLend_eq_lendStored]
  generalize Stated.lendStored w = stored
  exact ⟨⟨_, csrRead_of_shared rfl⟩, rfl, rfl, rfl⟩

/-! ### CSRs of a hart's scalar half -/

section HartScalar

variable (s : State) (w : Word) (hc : s.hart.ctl = false)

include hc

theorem tdeleg_readsBack : ReadsBack s 0x043 w (w &&& 0x182) :=
  ⟨⟨_, csrRead_of_hart hc rfl (by rw [← setWidth_tdeleg]; rfl)⟩, rfl, rfl, rfl⟩

theorem vstart_readsBack : ReadsBack s 0x069 w (w &&& 0x800000000003FFFF) :=
  ⟨⟨_, csrRead_of_hart hc rfl
    (by rw [← vstartWord_of_armed_vstart (s.csrWrite 0x069 w).hart.sc w rfl rfl]; rfl)⟩, rfl, rfl, rfl⟩

theorem uivec_readsBack : ReadsBack s 0x081 w (w &&& 0xFFFFFFFFFFFFC) := ⟨⟨_, csrRead_of_hart hc rfl rfl⟩, rfl, rfl, rfl⟩

theorem uiepc_readsBack : ReadsBack s 0x082 w (w &&& 0xFFFFFFFFFFFFC) := ⟨⟨_, csrRead_of_hart hc rfl rfl⟩, rfl, rfl, rfl⟩

theorem uilend_readsBack : ReadsBack s 0x084 w ((Stated.lendStored w).setWidth 64) := by
  have hwrite : s.csrWrite 0x084 w = s.sc (fun c => { c with uilend := legalLend w.toNat }) := rfl
  rw [ReadsBack, hwrite, legalLend_eq_lendStored]
  generalize Stated.lendStored w = stored
  exact ⟨⟨_, csrRead_of_hart hc rfl rfl⟩, rfl, rfl, rfl⟩

theorem splitr_readsBack : ReadsBack s 0x085 w (if w.extractLsb' 0 9 > 256 then 256 else w &&& 0x1FF) :=
  ⟨⟨_, csrRead_of_hart hc rfl (by rw [← setWidth_min_splitr]; rfl)⟩, rfl, rfl, rfl⟩

theorem bkshuf_readsBack : ReadsBack s 0x086 w (w &&& 0xFFFFFFFFFFFF) := by
  have hval : (BitVec.ofNat 48 w.toNat).setWidth 64 = w &&& 0xFFFFFFFFFFFF := by
    rw [BitVec.ofNat_toNat]; exact setWidth_setWidth_eq_and w 48 (by decide)
  exact ⟨⟨_, csrRead_of_hart hc rfl (by rw [← hval]; rfl)⟩, rfl, rfl, rfl⟩

/-- UISTATUS (R307): the read answers at the state that the write has left. -/
theorem csrRead_uistatus_csrWrite :
    (s.csrWrite 0x080 w).csrRead 0x080 = some (s.csrWrite 0x080 w, (w &&& 0xB) ||| (if s.hart.sc.uiActive then 4 else 0)) :=
  csrRead_of_hart hc rfl (by rw [← uistatus_writeUistatus]; rfl)

end HartScalar

theorem uistatus_sameProgramState (s : State) (w : Word) : SameProgramState s (s.csrWrite 0x080 w) := by
  have hkeeps : (s.hart.sc.writeUistatus w).x = s.hart.sc.x ∧ (s.hart.sc.writeUistatus w).pc = s.hart.sc.pc := by
    unfold Scalar.writeUistatus Scalar.raiseEvent
    cases w.getLsbD 1 <;> exact ⟨rfl, rfl⟩
  obtain ⟨hx, hpc⟩ := hkeeps
  exact ⟨hx, hpc, rfl⟩

/-! ### CSRs of a hart's execute half -/

section HartVector

variable (s : State) (w : Word) (hc : s.hart.ctl = false)

include hc

theorem vcfg_readsBack : ReadsBack s 0x064 w
    ((if w.extractLsb' 5 3 > 4 then 0 else w &&& 0xE0) ||| (if w.extractLsb' 3 2 = 3 then 0 else w &&& 0x18) ||| (w &&& 6)) :=
  ⟨⟨_, csrRead_of_vector hc rfl rfl (by rw [← setWidth_legalVcfg]; rfl)⟩, rfl, rfl, rfl⟩

theorem tileshape_readsBack : ReadsBack s 0x066 w
    (BitVec.ofNat 64 ((w.extractLsb' 8 5).toNat * 256 + min (max (w.extractLsb' 0 6).toNat 1) (32 - (w.extractLsb' 8 5).toNat))) :=
  ⟨⟨_, csrRead_of_vector hc rfl rfl
    (by rw [← bits_toNat_eq_extractLsb', ← bits_toNat_eq_extractLsb', ← legalRows_eq _ _ (bits_lt _ 8 5)]; rfl)⟩, rfl, rfl, rfl⟩

theorem vstat_readsBack (hq : s.hart.ep.queue = []) : ReadsBack s 0x065 w (w &&& 0x3F) := by
  have hdrain : (s.csrWrite 0x065 w).drain = s.csrWrite 0x065 w := drain_of_queue_nil hq
  have hread : (s.csrWrite 0x065 w).csrVector 0x065
      = some ((s.csrWrite 0x065 w).drain, (s.csrWrite 0x065 w).drain.hart.ep.vstat.setWidth 64) := rfl
  have hval : (BitVec.ofNat 8 (bits w.toNat 0 6)).setWidth 64 = w &&& 0x3F := ofNat_bits_low w 8 6 (by decide) (by decide)
  rw [hdrain] at hread
  exact ⟨⟨_, csrRead_of_vector hc rfl rfl (hread.trans (by rw [← hval]; rfl))⟩, rfl, rfl, rfl⟩

theorem gstat_readsBack (hq : s.hart.ep.queue = []) : ReadsBack s 0x067 w (w &&& 0x7FFFFFFFFFFFFFFF) := by
  have hdrain : (s.csrWrite 0x067 w).drain = s.csrWrite 0x067 w := drain_of_queue_nil hq
  have hread : (s.csrWrite 0x067 w).csrVector 0x067 = some ((s.csrWrite 0x067 w).drain, (s.csrWrite 0x067 w).drain.hart.ep.gstat) := rfl
  have hval : BitVec.ofNat 64 (bits w.toNat 0 63) = w &&& 0x7FFFFFFFFFFFFFFF := by
    rw [← BitVec.setWidth_eq (BitVec.ofNat 64 _)]; exact ofNat_bits_low w 64 63 (by decide) (by decide)
  rw [hdrain] at hread
  exact ⟨⟨_, csrRead_of_vector hc rfl rfl (hread.trans (by rw [← hval]; rfl))⟩, rfl, rfl, rfl⟩

end HartVector

/-! ### CSRs of a control core -/

theorem ctvec_readsBack (s : State) (w : Word) (hc : s.hart.ctl = true) : ReadsBack s 0x045 w (w &&& 0xFFFFFFFFFFFFC) :=
  ⟨⟨_, csrRead_of_control hc rfl rfl⟩, rfl, rfl, rfl⟩

/-- FQDESC stands at the control core's die (R337). -/
theorem fqdesc_readsBack (s : State) (w : Word) (hc : s.hart.ctl = true) (hd : s.hart.die < 4) :
    ReadsBack s 0x0A0 w (w &&& 0xFFFFFFFFFFFC1) := by
  have hwrite : s.csrWrite 0x0A0 w = s.updDie s.hart.die (fun d => { d with fqdesc := w &&& 0xFFFFFFFFFFFC1 }) := rfl
  have hread : (s.csrWrite 0x0A0 w).csrControl 0x0A0
      = some (s.csrWrite 0x0A0 w, ((s.csrWrite 0x0A0 w).die (s.csrWrite 0x0A0 w).hart.die).fqdesc) := rfl
  rw [hwrite, State.updDie_hart, State.updDie_die, if_pos ⟨rfl, hd⟩] at hread
  refine ⟨⟨_, csrRead_of_control ?_ rfl hread⟩, ?_, ?_, ?_⟩ <;> simp [hwrite, hc]

/-! ### CSRs of a context -/

theorem ctxOf_updCtx (s : State) (asid : Nat) (f : Context → Context) (hf : ∀ c, (f c).asid = c.asid) :
    (s.updCtx asid f).ctxOf asid = (s.ctxOf asid).map f := by
  have hpred : (fun c : Context => c.asid == asid) ∘ (fun c => if c.asid = asid then f c else c) = fun c => c.asid == asid := by
    funext c
    by_cases h : c.asid = asid <;> simp [h, hf]
  rw [State.ctxOf, State.updCtx, List.find?_map, hpred]
  refine Option.map_congr fun c hfound => ?_
  rw [if_pos (by simpa using List.find?_some hfound)]

/-- Every hart of the context finds the changed one. -/
theorem ctx_updCtx_of_asid_eq {s : State} {f : Context → Context} (hf : ∀ c, (f c).asid = c.asid)
    (hctx : (s.ctxOf s.hart.asid).isSome = true) {h : Hart} (ha : h.asid = s.hart.asid) :
    ∃ c, State.ctx { s.updCtx s.hart.asid f with hart := h } = f c := by
  obtain ⟨c, hc⟩ := Option.isSome_iff_exists.1 hctx
  refine ⟨c, ?_⟩
  have hfind : State.ctxOf { s.updCtx s.hart.asid f with hart := h } h.asid = some (f c) := by
    rw [ha, ← Option.map_some, ← hc]; exact ctxOf_updCtx s _ f hf
  rw [State.ctx, hfind]; rfl

/-- CSR `n` of a context reads as `v` for every hart `h` of it after `w` is written to it, at the state that the write has left. -/
def ContextReadsBack (s : State) (n : Nat) (w v : Word) : Prop :=
  ∀ h : Hart, h.ctl = false → h.asid = s.hart.asid →
    State.csrRead { s.csrWrite n w with hart := h } n = some ({ s.csrWrite n w with hart := h }, v)

section ContextCsrs

variable (s : State) (w : Word) (hctx : (s.ctxOf s.hart.asid).isSome = true)

include hctx

theorem swmring_contextReadsBack : ContextReadsBack s 0x070 w (w &&& 0xFFFFFFFFFFFC1) := by
  intro h hc ha
  obtain ⟨c, hx⟩ := ctx_updCtx_of_asid_eq (f := fun c => { c with swmring := w &&& 0xFFFFFFFFFFFC1 }) (fun _ => rfl) hctx ha
  exact csrRead_of_hart hc rfl (congrArg (fun x : Context => some (_, x.swmring)) hx)

theorem tenstab_contextReadsBack : ContextReadsBack s 0x071 w (w &&& 0xFFFFFFFFFFFC0) := by
  intro h hc ha
  obtain ⟨c, hx⟩ := ctx_updCtx_of_asid_eq (f := fun c => { c with tenstab := w &&& 0xFFFFFFFFFFFC0 }) (fun _ => rfl) hctx ha
  exact csrRead_of_hart hc rfl (congrArg (fun x : Context => some (_, x.tenstab)) hx)

theorem tenscnt_contextReadsBack : ContextReadsBack s 0x072 w (w &&& 0xFFFFFFFF) := by
  intro h hc ha
  obtain ⟨c, hx⟩ := ctx_updCtx_of_asid_eq (f := fun c => { c with tenscnt := bits w.toNat 0 32 }) (fun _ => rfl) hctx ha
  have hval : BitVec.ofNat 64 (bits w.toNat 0 32) = w &&& 0xFFFFFFFF := by
    rw [← BitVec.setWidth_eq (BitVec.ofNat 64 _)]; exact ofNat_bits_low w 64 32 (by decide) (by decide)
  rw [← hval]
  exact csrRead_of_hart hc rfl (congrArg (fun x : Context => some (_, BitVec.ofNat 64 x.tenscnt)) hx)

end ContextCsrs

/-! ### The rows of the CSR maps -/

theorem storedRows_readBack : ∀ row ∈ Stated.storedRows, ∀ (s : State) (w : Word), s.hart.ctl = false → s.hart.ep.queue = [] →
    ReadsBack s row.1 w (row.2 w) := by
  simp only [Stated.storedRows, List.forall_mem_cons]
  exact ⟨fun s w _ _ => fcsr_readsBack s w, fun s w _ => rndseed_readsBack s w, fun s w hc _ => tdeleg_readsBack s w hc,
    fun s w _ _ => lendstate_readsBack s w, fun s w hc _ => vcfg_readsBack s w hc, vstat_readsBack, fun s w hc _ => tileshape_readsBack s w hc,
    gstat_readsBack, fun s w hc _ => vstart_readsBack s w hc, fun s w hc _ => uivec_readsBack s w hc, fun s w hc _ => uiepc_readsBack s w hc,
    fun s w hc _ => uilend_readsBack s w hc, fun s w hc _ => splitr_readsBack s w hc, fun s w hc _ => bkshuf_readsBack s w hc,
    fun _ h => absurd h List.not_mem_nil⟩

theorem controlRows_readBack : ∀ row ∈ Stated.controlRows, ∀ (s : State) (w : Word), s.hart.ctl = true → s.hart.die < 4 →
    s.hart.ep.queue = [] → ReadsBack s row.1 w (row.2 w) := by
  simp only [Stated.controlRows, List.forall_mem_cons]
  exact ⟨fun s w _ _ _ => fcsr_readsBack s w, fun s w _ _ => rndseed_readsBack s w, fun s w hc _ _ => ctvec_readsBack s w hc,
    fun s w _ _ _ => lendstate_readsBack s w, fun s w hc hd _ => fqdesc_readsBack s w hc hd, fun _ h => absurd h List.not_mem_nil⟩

theorem contextRows_readBack : ∀ row ∈ Stated.contextRows, ∀ (s : State) (w : Word), (s.ctxOf s.hart.asid).isSome = true →
    ContextReadsBack s row.1 w (row.2 w) ∧ (s.csrWrite row.1 w).hart = s.hart ∧ (s.csrWrite row.1 w).mem = s.mem := by
  simp only [Stated.contextRows, List.forall_mem_cons]
  exact ⟨fun s w hx => ⟨swmring_contextReadsBack s w hx, rfl, rfl⟩, fun s w hx => ⟨tenstab_contextReadsBack s w hx, rfl, rfl⟩,
    fun s w hx => ⟨tenscnt_contextReadsBack s w hx, rfl, rfl⟩, fun _ h => absurd h List.not_mem_nil⟩

/-- Settles O15: each row of the CSR maps reads back as its legalisation states, with the frame of its write. -/
theorem csrWritesAreLegalised : Obligations.CsrWritesAreLegalised := by
  refine ⟨fun s w hc => ⟨csrRead_uistatus_csrWrite s w hc, uistatus_sameProgramState s w⟩, fun row hrow s w hc hctx => ?_,
    storedRows_readBack, controlRows_readBack⟩
  obtain ⟨hread, hhart, hmem⟩ := contextRows_readBack row hrow s w hctx
  refine ⟨?_, fun h hch ha => by rw [hread h hch ha]; rfl, hhart, hmem⟩
  have hown := hread s.hart hc rfl
  rwa [← hhart] at hown

end Sys2Proof.Machine

/-! SUPPORT. The numbers of a format in the order of their codes, and rounding as a step between neighbours (R75, R87 to R89). -/

namespace Sys2Proof.Machine

/-! ### The grid of a format -/

/-- What the formats of the spec have in common: enough exponent codes, and a fraction that stochastic rounding can tell from what lies below. -/
structure Fmt.Proper (f : Fmt) : Prop where
  two_le_e : 2 ≤ f.e
  one_le_p : 1 ≤ f.p
  p_le : f.p ≤ 52

/-- The weight of the last bit in binade `k`, counted from the subnormal one. -/
noncomputable def Fmt.ulp (f : Fmt) (k : Nat) : ℝ := (2 : ℝ) ^ ((k : Int) + 1 - f.bias - f.p)

/-- The number of magnitude code `c`, as if exponents had no upper end. -/
noncomputable def Fmt.grid (f : Fmt) (c : Nat) : ℝ := ((c - (c / 2 ^ f.p - 1) * 2 ^ f.p : Nat) : ℝ) * f.ulp (c / 2 ^ f.p - 1)

theorem Fmt.ulp_pos (f : Fmt) (k : Nat) : 0 < f.ulp k := by unfold Fmt.ulp; positivity

theorem Fmt.ulp_succ (f : Fmt) (k : Nat) : f.ulp (k + 1) = 2 * f.ulp k := by
  unfold Fmt.ulp
  rw [show ((k + 1 : Nat) : Int) + 1 - f.bias - f.p = ((k : Int) + 1 - f.bias - f.p) + 1 by push_cast; ring, zpow_add_one₀ (by norm_num)]
  ring

/-- `r` steps into binade `k`, up to and with the first number of the next. -/
theorem Fmt.grid_add (f : Fmt) {r k : Nat} (hr : r ≤ 2 ^ (f.p + 1)) (hk : k = 0 ∨ 2 ^ f.p ≤ r) : f.grid (r + k * 2 ^ f.p) = r * f.ulp k := by
  have hp : 0 < 2 ^ f.p := Nat.two_pow_pos _
  rw [pow_succ] at hr
  rcases lt_or_ge r (2 ^ f.p) with h | h
  · obtain rfl : k = 0 := hk.resolve_right (by omega)
    simp [Fmt.grid, Nat.div_eq_of_lt h]
  rcases hr.lt_or_eq with h' | h'
  · have hdiv : (r + k * 2 ^ f.p) / 2 ^ f.p = k + 1 := by
      rw [Nat.add_mul_div_right _ _ hp, Nat.div_eq_of_lt_le (k := 1) (by omega) (by omega)]; omega
    simp [Fmt.grid, hdiv]
  · have hdiv : (r + k * 2 ^ f.p) / 2 ^ f.p = k + 2 := by
      rw [Nat.add_mul_div_right _ _ hp, h', Nat.mul_div_cancel_left _ hp]; omega
    have hsub : r + k * 2 ^ f.p - (k + 1) * 2 ^ f.p = 2 ^ f.p := by rw [add_mul]; omega
    rw [Fmt.grid, hdiv, show k + 2 - 1 = k + 1 from rfl, hsub, Fmt.ulp_succ, h']
    push_cast
    ring

theorem Fmt.exists_binade (f : Fmt) (c : Nat) : ∃ r k, c = r + k * 2 ^ f.p ∧ r < 2 ^ (f.p + 1) ∧ (k = 0 ∨ 2 ^ f.p ≤ r) := by
  have hp : 0 < 2 ^ f.p := Nat.two_pow_pos _
  have hd := Nat.div_add_mod' c (2 ^ f.p)
  have hm := Nat.mod_lt c hp
  rcases Nat.eq_zero_or_pos (c / 2 ^ f.p) with h | h
  · exact ⟨c, 0, by simp, by rw [h] at hd; rw [pow_succ]; omega, .inl rfl⟩
  · obtain ⟨k, hk⟩ := Nat.exists_eq_succ_of_ne_zero h.ne'
    rw [hk, Nat.succ_mul] at hd
    exact ⟨2 ^ f.p + c % 2 ^ f.p, k, by omega, by rw [pow_succ]; omega, .inr (by omega)⟩

theorem Fmt.grid_succ (f : Fmt) {r k : Nat} (hr : r < 2 ^ (f.p + 1)) (hk : k = 0 ∨ 2 ^ f.p ≤ r) :
    f.grid (r + k * 2 ^ f.p + 1) = f.grid (r + k * 2 ^ f.p) + f.ulp k := by
  rw [show r + k * 2 ^ f.p + 1 = (r + 1) + k * 2 ^ f.p by ring, f.grid_add hr (by omega), f.grid_add hr.le hk]
  push_cast
  ring

theorem Fmt.grid_strictMono (f : Fmt) : StrictMono f.grid := strictMono_nat_of_lt_succ fun c => by
  obtain ⟨r, k, rfl, hr, hk⟩ := f.exists_binade c
  rw [f.grid_succ hr hk]
  linarith [f.ulp_pos k]

@[simp] theorem Fmt.grid_zero (f : Fmt) : f.grid 0 = 0 := by simp [Fmt.grid]

theorem Fmt.grid_nonneg (f : Fmt) (c : Nat) : 0 ≤ f.grid c := by
  rw [← f.grid_zero]; exact f.grid_strictMono.monotone (Nat.zero_le c)

theorem Fmt.grid_pos (f : Fmt) {c : Nat} (h : c ≠ 0) : 0 < f.grid c := by
  rw [← f.grid_zero]; exact f.grid_strictMono (Nat.pos_of_ne_zero h)

/-- The first number of binade `k + 1`. -/
theorem Fmt.grid_binade (f : Fmt) (k : Nat) : f.grid ((k + 1) * 2 ^ f.p) = (2 : ℝ) ^ ((k : Int) + 1 - f.bias) := by
  rw [show (k + 1) * 2 ^ f.p = 2 ^ f.p + k * 2 ^ f.p by ring, f.grid_add (Nat.pow_le_pow_right two_pos (Nat.le_succ _)) (.inr le_rfl), Fmt.ulp,
    Nat.cast_pow, Nat.cast_ofNat, ← zpow_natCast, ← zpow_add₀ (by norm_num)]
  ring_nf

/-! ### Codes and the numbers that they hold -/

/-- A magnitude with a sign. -/
def withSign (neg : Bool) (v : ℝ) : ℝ := if neg then -v else v

@[simp] theorem withSign_zero (neg : Bool) : withSign neg 0 = 0 := by cases neg <;> simp [withSign]
@[simp] theorem withSign_false (v : ℝ) : withSign false v = v := rfl
@[simp] theorem withSign_true (v : ℝ) : withSign true v = -v := rfl
theorem abs_withSign (neg : Bool) {v : ℝ} (h : 0 ≤ v) : |withSign neg v| = v := by cases neg <;> simp [withSign, abs_of_nonneg h]

theorem finite_fin (neg : Bool) (m : Nat) (e : Int) : Stated.finite (.fin neg m e) = some (withSign neg (m * (2 : ℝ) ^ e)) := by
  cases neg <;> simp [Stated.finite, withSign]

theorem Fmt.bias_eq (f : Fmt) (hf : f.Proper) : 2 ^ f.e = 2 * (f.bias + 1) := by
  have := Nat.two_pow_pos (f.e - 1)
  obtain ⟨e, he⟩ := Nat.exists_eq_add_of_le hf.two_le_e
  rw [Fmt.bias, he, show 2 + e - 1 = e + 1 by omega, show 2 + e = (e + 1) + 1 by ring, pow_succ (n := e + 1)]
  have := Nat.two_pow_pos (e + 1)
  omega

theorem Fmt.one_le_bias (f : Fmt) (hf : f.Proper) : 1 ≤ f.bias := by
  have h4 : 2 ^ 2 ≤ 2 ^ f.e := Nat.pow_le_pow_right two_pos hf.two_le_e
  have := f.bias_eq hf
  omega

/-- The sign of a code. -/
def Fmt.negOf (f : Fmt) (c : Nat) : Bool := nbit c (f.e + f.p)

/-- The magnitude code of a code. -/
def Fmt.magOf (f : Fmt) (c : Nat) : Nat := c % 2 ^ (f.e + f.p)

theorem Fmt.signBit_add_lt (f : Fmt) (neg : Bool) {m : Nat} (h : m < 2 ^ (f.e + f.p)) : f.signBit neg + m < 2 ^ f.width := by
  rw [Fmt.width, show 1 + f.e + f.p = (f.e + f.p) + 1 by ring, pow_succ, Fmt.signBit]
  split <;> omega

@[simp] theorem Fmt.negOf_signBit_add (f : Fmt) (neg : Bool) {m : Nat} (h : m < 2 ^ (f.e + f.p)) : f.negOf (f.signBit neg + m) = neg := by
  cases neg
  · simp [Fmt.negOf, nbit, Fmt.signBit, Nat.div_eq_of_lt h]
  · simp [Fmt.negOf, nbit, Fmt.signBit, Nat.add_div_left, Nat.div_eq_of_lt h]

@[simp] theorem Fmt.magOf_signBit_add (f : Fmt) (neg : Bool) {m : Nat} (h : m < 2 ^ (f.e + f.p)) : f.magOf (f.signBit neg + m) = m := by
  cases neg <;> simp [Fmt.magOf, Fmt.signBit, Nat.mod_eq_of_lt h]

theorem Fmt.magOf_lt (f : Fmt) (c : Nat) : f.magOf c < 2 ^ (f.e + f.p) := Nat.mod_lt _ (Nat.two_pow_pos _)

/-- A code is its sign and its magnitude code. -/
theorem Fmt.signBit_add_magOf (f : Fmt) {c : Nat} (h : c < 2 ^ f.width) : f.signBit (f.negOf c) + f.magOf c = c := by
  rw [Fmt.width, show 1 + f.e + f.p = (f.e + f.p) + 1 by ring, pow_succ] at h
  have hd := Nat.div_add_mod' c (2 ^ (f.e + f.p))
  have hq : c / 2 ^ (f.e + f.p) < 2 := Nat.div_lt_of_lt_mul h
  rcases Nat.le_one_iff_eq_zero_or_eq_one.1 (Nat.lt_succ_iff.1 hq) with h0 | h0 <;> rw [h0] at hd
  · simpa [Fmt.negOf, Fmt.magOf, nbit, Fmt.signBit, h0] using hd
  · simpa [Fmt.negOf, Fmt.magOf, nbit, Fmt.signBit, h0] using hd

theorem Fmt.maxCode_lt (f : Fmt) (nan : Nat) : f.maxCode nan < 2 ^ (f.e + f.p) := by
  have h := Nat.two_pow_pos (f.e + f.p)
  have hinf : f.infCode ≤ 2 ^ (f.e + f.p) := by
    rw [Fmt.infCode, pow_add]; exact Nat.mul_le_mul_right _ (Nat.sub_le _ _)
  unfold Fmt.maxCode
  split <;> omega

/-- The exponent and fraction fields of a code. -/
theorem Fmt.fields (f : Fmt) (c : Nat) : bits c f.p f.e = f.magOf c / 2 ^ f.p ∧ c % 2 ^ f.p = f.magOf c % 2 ^ f.p := by
  constructor
  · rw [bits, Fmt.magOf, pow_add, mul_comm (2 ^ f.e), Nat.mod_mul_right_div_self]
  · rw [Fmt.magOf, pow_add, Nat.mod_mod_of_dvd _ (Dvd.intro_left _ rfl)]

theorem Fmt.decode_subnormal (f : Fmt) {nan c : Nat} (h : f.magOf c / 2 ^ f.p = 0) :
    f.decode nan c = .fin (f.negOf c) (f.magOf c % 2 ^ f.p) (1 - (f.bias : Int) - f.p) := by
  obtain ⟨hex, hfr⟩ := f.fields c
  simp only [Fmt.decode, hex, hfr, h, if_true]
  rfl

theorem Fmt.decode_normal (f : Fmt) {nan c : Nat} (h0 : f.magOf c / 2 ^ f.p ≠ 0) (h1 : f.magOf c / 2 ^ f.p ≠ 2 ^ f.e - 1) :
    f.decode nan c = .fin (f.negOf c) (2 ^ f.p + f.magOf c % 2 ^ f.p) (((f.magOf c / 2 ^ f.p : Nat) : Int) - f.bias - f.p) := by
  obtain ⟨hex, hfr⟩ := f.fields c
  simp only [Fmt.decode, hex, hfr]
  rw [if_neg h0, if_neg h1]
  rfl

/-- The greatest exponent code reads as the NaN mode says. -/
theorem Fmt.decode_top (f : Fmt) (hf : f.Proper) {nan c : Nat} (h : f.magOf c / 2 ^ f.p = 2 ^ f.e - 1) :
    f.decode nan c =
      let normal := FVal.fin (f.negOf c) (2 ^ f.p + f.magOf c % 2 ^ f.p) (((f.magOf c / 2 ^ f.p : Nat) : Int) - f.bias - f.p)
      if f.mode nan = 0 then normal
      else if f.mode nan = 1 then (if f.magOf c % 2 ^ f.p = 2 ^ f.p - 1 then .nan false else normal)
      else if f.magOf c % 2 ^ f.p = 0 then .inf (f.negOf c) else .nan (!f.narrow && !nbit (f.magOf c % 2 ^ f.p) (f.p - 1)) := by
  obtain ⟨hex, hfr⟩ := f.fields c
  have h0 : ¬ 2 ^ f.e - 1 = 0 := by have := f.one_le_bias hf; have := f.bias_eq hf; omega
  simp only [Fmt.decode, hex, hfr, h]
  rw [if_neg h0, if_pos trivial]
  split
  · next hm => rw [if_pos hm]; rfl
  · next hm => simp only [hm, one_ne_zero, if_false, if_true]; rfl
  · next h0 h1 => rw [if_neg h0, if_neg h1]; rfl

theorem Fmt.two_pow_eq (f : Fmt) : 2 ^ (f.e + f.p) = (2 ^ f.e - 1) * 2 ^ f.p + 2 ^ f.p := by
  rw [pow_add, ← Nat.succ_mul, Nat.succ_eq_add_one, Nat.sub_add_cancel Nat.one_le_two_pow]

/-- A code up to the largest finite one holds its number of the grid. -/
theorem Fmt.decode_of_le (f : Fmt) (hf : f.Proper) {nan c : Nat} (h : f.magOf c ≤ f.maxCode nan) :
    f.decode nan c = .fin (f.negOf c) (f.magOf c - (f.magOf c / 2 ^ f.p - 1) * 2 ^ f.p)
      (((f.magOf c / 2 ^ f.p - 1 : Nat) : Int) + 1 - f.bias - f.p) := by
  have hp := Nat.two_pow_pos f.p
  have hd := Nat.div_add_mod' (f.magOf c) (2 ^ f.p)
  have hm := Nat.mod_lt (f.magOf c) hp
  by_cases h0 : f.magOf c / 2 ^ f.p = 0
  · rw [f.decode_subnormal h0, h0, FVal.fin.injEq]
    rw [h0] at hd
    exact ⟨rfl, by omega, by simp⟩
  have hnormal : f.decode nan c = .fin (f.negOf c) (2 ^ f.p + f.magOf c % 2 ^ f.p) (((f.magOf c / 2 ^ f.p : Nat) : Int) - f.bias - f.p) := by
    by_cases h1 : f.magOf c / 2 ^ f.p = 2 ^ f.e - 1
    · have htop := f.two_pow_eq
      have hone := f.one_le_bias hf
      have hbias := f.bias_eq hf
      have hinf := Nat.mul_pos (show 0 < 2 ^ f.e - 1 by omega) hp
      rw [f.decode_top hf h1]
      rw [h1] at hd
      unfold Fmt.maxCode Fmt.infCode at h
      split at h
      · next hmode => rw [if_pos hmode]
      · next hmode => rw [if_neg (by omega), if_pos hmode, if_neg (by omega)]
      · omega
    · exact f.decode_normal h0 h1
  obtain ⟨k, hk⟩ := Nat.exists_eq_succ_of_ne_zero h0
  rw [hnormal, hk, FVal.fin.injEq]
  rw [hk, Nat.succ_mul] at hd
  exact ⟨rfl, by simp only [Nat.succ_eq_add_one, Nat.add_sub_cancel]; omega, by simp⟩

/-- Beyond the largest finite code a mode reads infinities and NaNs. -/
theorem Fmt.finite_decode_of_lt (f : Fmt) (hf : f.Proper) {nan c : Nat} (h : f.maxCode nan < f.magOf c) :
    Stated.finite (f.decode nan c) = none := by
  have hp := Nat.two_pow_pos f.p
  have hp2 : 2 ≤ 2 ^ f.p := Nat.le_self_pow (by have := hf.one_le_p; omega) 2
  have hd := Nat.div_add_mod' (f.magOf c) (2 ^ f.p)
  have hm := Nat.mod_lt (f.magOf c) hp
  have hlt := f.magOf_lt c
  have htop := f.two_pow_eq
  have hone := f.one_le_bias hf
  have hbias := f.bias_eq hf
  have hinf := Nat.mul_pos (show 0 < 2 ^ f.e - 1 by omega) hp
  have hbig : (2 ^ f.e - 1) * 2 ^ f.p ≤ f.magOf c := by
    unfold Fmt.maxCode Fmt.infCode at h
    split at h <;> omega
  have hq : f.magOf c / 2 ^ f.p = 2 ^ f.e - 1 := Nat.div_eq_of_lt_le hbig (by rw [Nat.succ_mul]; omega)
  rw [hq] at hd
  rw [f.decode_top hf hq]
  unfold Fmt.maxCode at h
  split at h
  · omega
  · next hmode => rw [if_neg (by omega), if_pos hmode, if_pos (by omega)]; rfl
  · next h0 h1 =>
    rw [if_neg h0, if_neg h1]
    split_ifs <;> rfl

theorem Fmt.finite_decode_eq_some_iff (f : Fmt) (hf : f.Proper) {nan c : Nat} {z : ℝ} :
    Stated.finite (f.decode nan c) = some z ↔ f.magOf c ≤ f.maxCode nan ∧ z = withSign (f.negOf c) (f.grid (f.magOf c)) := by
  rcases le_or_gt (f.magOf c) (f.maxCode nan) with h | h
  · rw [f.decode_of_le hf h, finite_fin, Option.some.injEq]
    exact ⟨fun hz => ⟨h, hz.symm⟩, fun hz => hz.2.symm⟩
  · rw [f.finite_decode_of_lt hf h]
    simp [h.not_ge]

theorem Fmt.isNeg_decode_of_le (f : Fmt) (hf : f.Proper) {nan c : Nat} (h : f.magOf c ≤ f.maxCode nan) :
    (f.decode nan c).isNeg = f.negOf c := by rw [f.decode_of_le hf h]; rfl

/-- The numbers that a format holds are those of the grid up to its largest, of either sign. -/
theorem Fmt.holds_iff (f : Fmt) (hf : f.Proper) {nan : Nat} {z : ℝ} :
    Stated.Holds f nan z ↔ ∃ neg, ∃ m ≤ f.maxCode nan, z = withSign neg (f.grid m) := by
  constructor
  · rintro ⟨c, -, hz⟩
    obtain ⟨hm, rfl⟩ := (f.finite_decode_eq_some_iff hf).1 hz
    exact ⟨_, _, hm, rfl⟩
  · rintro ⟨neg, m, hm, rfl⟩
    have hlt := hm.trans_lt (f.maxCode_lt nan)
    refine ⟨f.signBit neg + m, f.signBit_add_lt neg hlt, (f.finite_decode_eq_some_iff hf).2 ?_⟩
    rw [f.magOf_signBit_add neg hlt, f.negOf_signBit_add neg hlt]
    exact ⟨hm, rfl⟩

end Sys2Proof.Machine

/-! SUPPORT. Rounding as a choice between two neighbours, by each mode and for either sign (R87). -/

namespace Sys2Proof.Machine

/-! ### Rounding between two neighbours -/

/-- Whether a mode takes a magnitude up to the larger of its two neighbours: `fr` is its place between them, and `odd` says whether the smaller one's
least significant bit is 1 (R87). -/
def RoundsUp (mode draw : Nat) (neg : Bool) (odd : Prop) (fr : ℝ) : Prop :=
  match mode with
  | 0 => 1 / 2 < fr ∨ fr = 1 / 2 ∧ odd
  | 1 => False
  | 2 => neg = true ∧ fr ≠ 0
  | 3 => neg = false ∧ fr ≠ 0
  | _ => (draw : Int) < ⌊2 ^ 32 * fr⌋

/-- A mode that is in place for one sign is its mirror image's for the other. -/
def mirrored : Nat → Nat
  | 2 => 3
  | 3 => 2
  | n => n

theorem roundsUp_true_iff (mode draw : Nat) (odd : Prop) (fr : ℝ) : RoundsUp mode draw true odd fr ↔ RoundsUp (mirrored mode) draw false odd fr := by
  rcases mode with _ | _ | _ | _ | _ <;> simp [RoundsUp, mirrored]

theorem not_roundsUp_zero (mode draw : Nat) (neg : Bool) (odd : Prop) : ¬ RoundsUp mode draw neg odd 0 := by
  rcases mode with _ | _ | _ | _ | _ <;> simp [RoundsUp]

/-- `x` lies between the neighbours `lo` and `hi` of those numbers that `F` holds, all of them above or at zero. -/
structure Neighbours (F : ℝ → Prop) (lo x hi : ℝ) : Prop where
  symm : ∀ z, F z → F (-z)
  zero_le : 0 ≤ lo
  holds : F lo
  lo_le : lo ≤ x
  lt_hi : x < hi
  gap : ∀ z, F z → 0 ≤ z → z ≤ lo ∨ hi ≤ z

section

variable {F : ℝ → Prop} {lo x hi : ℝ} (h : Neighbours F lo x hi)

include h

theorem Neighbours.pos_hi : 0 < hi := h.zero_le.trans_lt (h.lo_le.trans_lt h.lt_hi)

theorem Neighbours.gap' {z : ℝ} (hz : F z) : z ≤ lo ∨ hi ≤ z := by
  rcases le_total 0 z with h0 | h0
  · exact h.gap z hz h0
  · exact .inl (h0.trans h.zero_le)

/-- Numbers of the opposite sign lie further away than the lower neighbour's mirror image. -/
theorem Neighbours.abs_le {z : ℝ} (hz : F z) (hx : |z| ≤ |x|) : |z| ≤ lo := by
  have hx0 := h.zero_le.trans h.lo_le
  have hF : F |z| := by
    rcases abs_choice z with h' | h' <;> rw [h']
    · exact hz
    · exact h.symm z hz
  rw [abs_of_nonneg hx0] at hx
  exact (h.gap _ hF (abs_nonneg z)).resolve_right fun h' => by linarith [h.lt_hi]

theorem Neighbours.inner : Stated.Inner F x lo := by
  have hx0 := h.zero_le.trans h.lo_le
  refine ⟨h.holds, mul_nonneg hx0 h.zero_le, ?_, fun z hz _ hzx => ?_⟩
  · rw [abs_of_nonneg h.zero_le, abs_of_nonneg hx0]; exact h.lo_le
  · rw [abs_of_nonneg h.zero_le]; exact h.abs_le hz hzx

theorem Neighbours.outer (hhi : F hi) : Stated.Outer F x hi := by
  have hx0 := h.zero_le.trans h.lo_le
  refine ⟨hhi, mul_nonneg hx0 h.pos_hi.le, ?_, fun z hz hxz hlt => ?_⟩
  · rw [abs_of_nonneg h.pos_hi.le, abs_of_nonneg hx0]; exact h.lt_hi
  · have hF : F |z| := by
      rcases abs_choice z with h' | h' <;> rw [h']
      · exact hz
      · exact h.symm z hz
    rw [abs_of_nonneg hx0] at hlt
    rw [abs_of_nonneg h.pos_hi.le]
    exact (h.gap _ hF (abs_nonneg z)).resolve_left fun h' => by linarith [h.lo_le]

/-- The nearest of all numbers is one of the two neighbours. -/
theorem Neighbours.dist_le {z : ℝ} (hz : F z) : x - lo ≤ |x - z| ∨ hi - x ≤ |x - z| := by
  rcases h.gap' hz with h' | h'
  · exact .inl (by rw [abs_of_nonneg (by linarith [h.lo_le])]; linarith)
  · exact .inr (by rw [abs_of_nonpos (by linarith [h.lt_hi])]; linarith)

/-- Only the other neighbour can be as near as the nearest one. -/
theorem Neighbours.eq_of_dist {z : ℝ} (hz : F z) : (|x - z| = x - lo → x - lo < hi - x → z = lo) ∧ (|x - z| = hi - x → hi - x < x - lo → z = hi) := by
  constructor <;> intro he hlt <;> rcases h.gap' hz with h' | h'
  · rw [abs_of_nonneg (by linarith [h.lo_le])] at he; linarith
  · rw [abs_of_nonpos (by linarith [h.lt_hi])] at he; linarith
  · rw [abs_of_nonneg (by linarith [h.lo_le])] at he; linarith
  · rw [abs_of_nonpos (by linarith [h.lt_hi])] at he; linarith

/-- The lower neighbour is what the mode chooses where it does not round up. -/
theorem Neighbours.chosen_lo {mode draw : Nat} {odd even : Prop} (hev : ¬ odd → even)
    (hup : ¬ RoundsUp mode draw false odd ((x - lo) / (hi - lo))) (hhi : x = lo ∨ F hi) : Stated.Chosen F even mode draw x lo := by
  have hd : 0 < hi - lo := by linarith [h.lo_le, h.lt_hi]
  have hx0 := h.zero_le.trans h.lo_le
  match mode with
  | 0 =>
    simp only [RoundsUp, not_or, not_and, not_lt, div_le_iff₀ hd, div_eq_iff hd.ne'] at hup
    have hnear : x - lo ≤ hi - x := by linarith [hup.1]
    have habs : |x - lo| = x - lo := abs_of_nonneg (by linarith [h.lo_le])
    refine ⟨h.holds, fun z hz => ?_, ?_⟩
    · rw [habs]; rcases h.dist_le hz with h' | h' <;> linarith
    · rintro ⟨z, hz, hne, he⟩
      rw [habs] at he
      by_cases hlt : x - lo < hi - x
      · exact absurd ((h.eq_of_dist hz).1 he hlt) hne
      · exact hev (hup.2 (by linarith))
  | 1 => exact h.inner
  | 2 => exact ⟨h.holds, h.lo_le, fun z hz hzx => (h.gap' hz).resolve_right fun h' => by linarith [h.lt_hi]⟩
  | 3 =>
    simp only [RoundsUp, true_and, not_not, div_eq_zero_iff, hd.ne', or_false, sub_eq_zero] at hup
    exact ⟨h.holds, hup.le, fun z _ hxz => hup ▸ hxz⟩
  | n + 4 =>
    refine ⟨lo, h.inner, fun _ => rfl, fun hne => ⟨hi, h.outer (hhi.resolve_left hne), ?_⟩⟩
    rw [if_neg]
    rwa [mul_div_assoc]

/-- The upper neighbour is what the mode chooses where it rounds up. -/
theorem Neighbours.chosen_hi {mode draw : Nat} {odd even : Prop} (hev : odd → even)
    (hup : RoundsUp mode draw false odd ((x - lo) / (hi - lo))) (hhi : F hi) : Stated.Chosen F even mode draw x hi := by
  have hd : 0 < hi - lo := by linarith [h.lo_le, h.lt_hi]
  have hne : x ≠ lo := by
    rintro rfl
    rw [sub_self, zero_div] at hup
    exact not_roundsUp_zero _ _ _ _ hup
  match mode with
  | 0 =>
    simp only [RoundsUp, lt_div_iff₀ hd, div_eq_iff hd.ne'] at hup
    have hnear : hi - x ≤ x - lo := by rcases hup with h' | h' <;> linarith
    have habs : |x - hi| = hi - x := by rw [abs_of_nonpos (by linarith [h.lt_hi])]; ring
    refine ⟨hhi, fun z hz => ?_, ?_⟩
    · rw [habs]; rcases h.dist_le hz with h' | h' <;> linarith
    · rintro ⟨z, hz, hzne, he⟩
      rw [habs] at he
      rcases hup with h' | h'
      · exact absurd ((h.eq_of_dist hz).2 he (by linarith)) hzne
      · exact hev h'.2
  | 1 => exact hup.elim
  | 2 => simp [RoundsUp] at hup
  | 3 =>
    exact ⟨hhi, h.lt_hi.le, fun z hz hxz => (h.gap' hz).resolve_left fun h' => hne (le_antisymm (hxz.trans h') h.lo_le)⟩
  | n + 4 =>
    refine ⟨lo, h.inner, fun h' => absurd h' hne, fun _ => ⟨hi, h.outer hhi, ?_⟩⟩
    rw [if_pos]
    rwa [mul_div_assoc]

end

/-! ### The other sign -/

theorem inner_neg {F : ℝ → Prop} (hF : ∀ z, F z → F (-z)) {x lo : ℝ} (h : Stated.Inner F x lo) : Stated.Inner F (-x) (-lo) := by
  obtain ⟨h1, h2, h3, h4⟩ := h
  refine ⟨hF _ h1, by linarith, by rwa [abs_neg, abs_neg], fun z hz hxz hle => ?_⟩
  rw [abs_neg] at hle ⊢
  simpa using h4 (-z) (hF z hz) (by linarith) (by rwa [abs_neg])

theorem outer_neg {F : ℝ → Prop} (hF : ∀ z, F z → F (-z)) {x hi : ℝ} (h : Stated.Outer F x hi) : Stated.Outer F (-x) (-hi) := by
  obtain ⟨h1, h2, h3, h4⟩ := h
  refine ⟨hF _ h1, by linarith, by rwa [abs_neg, abs_neg], fun z hz hxz hlt => ?_⟩
  rw [abs_neg] at hlt ⊢
  simpa using h4 (-z) (hF z hz) (by linarith) (by rwa [abs_neg])

/-- What a mode chooses for a number, its mirror image chooses for the number of the other sign. -/
theorem chosen_neg {F : ℝ → Prop} (hF : ∀ z, F z → F (-z)) {even : Prop} {mode draw : Nat} {x y : ℝ}
    (h : Stated.Chosen F even (mirrored mode) draw x y) : Stated.Chosen F even mode draw (-x) (-y) := by
  have hdist : ∀ u v : ℝ, |-u - v| = |u - -v| := fun u v => by rw [← abs_neg]; congr 1; ring
  match mode with
  | 0 =>
    obtain ⟨h1, h2, h3⟩ := h
    refine ⟨hF _ h1, fun z hz => ?_, ?_⟩
    · rw [hdist, hdist, neg_neg]; exact h2 _ (hF z hz)
    · rintro ⟨z, hz, hne, he⟩
      rw [hdist, hdist, neg_neg] at he
      exact h3 ⟨-z, hF z hz, fun h' => hne (by rw [← h', neg_neg]), he⟩
  | 1 => exact inner_neg hF h
  | 2 =>
    obtain ⟨h1, h2, h3⟩ := h
    exact ⟨hF _ h1, neg_le_neg h2, fun z hz hzx => by linarith [h3 (-z) (hF z hz) (by linarith)]⟩
  | 3 =>
    obtain ⟨h1, h2, h3⟩ := h
    exact ⟨hF _ h1, neg_le_neg h2, fun z hz hxz => by linarith [h3 (-z) (hF z hz) (by linarith)]⟩
  | n + 4 =>
    obtain ⟨lo, h1, h2, h3⟩ := h
    refine ⟨-lo, inner_neg hF h1, fun h' => by rw [h2 (neg_injective h')], fun hne => ?_⟩
    obtain ⟨hi, h4, h5⟩ := h3 fun h' => hne (by rw [h'])
    refine ⟨-hi, outer_neg hF h4, ?_⟩
    rw [h5, show 2 ^ 32 * (-x - -lo) / (-hi - -lo) = 2 ^ 32 * (x - lo) / (hi - lo) by
      rw [show -x - -lo = -(x - lo) by ring, show -hi - -lo = -(hi - lo) by ring, mul_neg, neg_div_neg_eq]]
    exact apply_ite Neg.neg _ _ _

open Classical in
/-- The neighbour that a mode takes is the number that it chooses. -/
theorem Neighbours.chosen {F : ℝ → Prop} {lo a hi : ℝ} (h : Neighbours F lo a hi) {mode draw : Nat} (neg : Bool) {odd even : Prop}
    (hlo : ¬ RoundsUp mode draw neg odd ((a - lo) / (hi - lo)) → ¬ odd → even)
    (hup : RoundsUp mode draw neg odd ((a - lo) / (hi - lo)) → odd → even) (hhi : a = lo ∨ F hi) :
    Stated.Chosen F even mode draw (withSign neg a)
      (withSign neg (if RoundsUp mode draw neg odd ((a - lo) / (hi - lo)) then hi else lo)) := by
  have hF : RoundsUp mode draw neg odd ((a - lo) / (hi - lo)) → F hi := fun hr => hhi.resolve_left fun he => by
    rw [he, sub_self, zero_div] at hr
    exact not_roundsUp_zero _ _ _ _ hr
  cases neg with
  | false =>
    split_ifs with hr
    · exact h.chosen_hi (hup hr) hr (hF hr)
    · exact h.chosen_lo (hlo hr) hr hhi
  | true =>
    rw [roundsUp_true_iff] at hlo hup hF ⊢
    apply chosen_neg h.symm
    split_ifs with hr
    · exact h.chosen_hi (hup hr) hr (hF hr)
    · exact h.chosen_lo (hlo hr) hr hhi

end Sys2Proof.Machine

/-! SUPPORT. What `roundShift` and `Fmt.round` do, as a step between neighbours of the grid (R87 to R89). -/

namespace Sys2Proof.Machine

/-! ### Rounding to an integer (R87) -/

/-- What lies below the last bit of a magnitude: nothing, or a part whose presence alone is known. -/
def Tail (sticky : Bool) (d : ℝ) : Prop := if sticky = true then 0 < d ∧ d < 1 else d = 0

theorem Tail.bounds {sticky : Bool} {d : ℝ} (h : Tail sticky d) : 0 ≤ d ∧ d < 1 ∧ (sticky = true ↔ d ≠ 0) := by
  cases sticky
  · simp only [Tail, Bool.false_eq_true, if_false] at h
    simp [h]
  · simp only [Tail, if_true] at h
    exact ⟨h.1.le, h.2, by simp [h.1.ne']⟩

theorem tail_false : Tail false 0 := rfl

/-- A tail is too small to reach a multiple of what it is the tail of. -/
theorem add_tail_le_iff {d : ℝ} (h0 : 0 ≤ d) (h1 : d < 1) (n k : Nat) : (n : ℝ) ≤ (k : ℝ) + d ↔ n ≤ k := by
  constructor
  · intro h
    have : (n : ℝ) < (k + 1 : Nat) := by push_cast; linarith
    exact Nat.lt_succ_iff.1 (Nat.cast_lt.1 this)
  · intro h
    have : (n : ℝ) ≤ k := Nat.cast_le.2 h
    linarith

/-- The draw against the fraction, of which stochastic rounding sees 32 bits. -/
theorem lt_draw_iff {draw rem sh : Nat} {d : ℝ} {sticky : Bool} (hd : Tail sticky d) (hs : sticky = true → 32 ≤ sh) :
    draw < rem * 2 ^ 32 / 2 ^ sh ↔ (draw : Int) < ⌊(2 : ℝ) ^ 32 * ((rem + d) / 2 ^ sh)⌋ := by
  obtain ⟨h0, h1, hst⟩ := hd.bounds
  have hp : (0 : ℝ) < 2 ^ sh := by positivity
  rw [← Nat.succ_le_iff, Nat.le_div_iff_mul_le (Nat.two_pow_pos _), ← Int.add_one_le_iff, Int.le_floor, mul_div_assoc', le_div_iff₀ hp]
  have hcast : ((((draw : Int) + 1 : Int) : ℝ)) = ((draw + 1 : Nat) : ℝ) := by push_cast; ring
  rw [hcast]
  by_cases hsh : 32 ≤ sh
  · obtain ⟨n, rfl⟩ := Nat.exists_eq_add_of_le hsh
    have h32 : (0 : ℝ) < 2 ^ 32 := by norm_num
    have hl : (draw + 1) * 2 ^ (32 + n) ≤ rem * 2 ^ 32 ↔ (draw + 1) * 2 ^ n ≤ rem := by
      rw [pow_add, ← mul_assoc, mul_right_comm]
      exact Nat.mul_le_mul_right_iff (by norm_num)
    have hr : ((draw + 1 : Nat) : ℝ) * 2 ^ (32 + n) ≤ 2 ^ 32 * (rem + d) ↔ (((draw + 1) * 2 ^ n : Nat) : ℝ) ≤ rem + d := by
      rw [pow_add, mul_left_comm, mul_le_mul_iff_right₀ h32]
      push_cast
      rfl
    rw [hr, add_tail_le_iff h0 h1]
    exact hl
  · have hd0 : d = 0 := by by_contra h; exact hsh (hs (hst.2 h))
    rw [hd0, add_zero, mul_comm ((2 : ℝ) ^ 32)]
    exact_mod_cast Iff.rfl

/-- The place of (m + d) / 2^sh between its two neighbouring integers. -/
noncomputable def part (m sh : Nat) (d : ℝ) : ℝ := ((m % 2 ^ sh : Nat) + d) / 2 ^ sh

theorem part_bounds {m sh : Nat} {d : ℝ} {sticky : Bool} (hd : Tail sticky d) : 0 ≤ part m sh d ∧ part m sh d < 1 := by
  obtain ⟨h0, h1, -⟩ := hd.bounds
  have hp : (0 : ℝ) < 2 ^ sh := by positivity
  have hlt : ((m % 2 ^ sh + 1 : Nat) : ℝ) ≤ ((2 ^ sh : Nat) : ℝ) := Nat.cast_le.2 (Nat.mod_lt _ (Nat.two_pow_pos _))
  push_cast at hlt
  exact ⟨by unfold part; positivity, by rw [part, div_lt_one hp]; linarith⟩

theorem add_div_eq_floor_add_part (m sh : Nat) (d : ℝ) : ((m : ℝ) + d) / 2 ^ sh = (m / 2 ^ sh : Nat) + part m sh d := by
  have hp : (0 : ℝ) < 2 ^ sh := by positivity
  have hm : (m : ℝ) = ((m / 2 ^ sh : Nat) : ℝ) * 2 ^ sh + (m % 2 ^ sh : Nat) := by exact_mod_cast (Nat.div_add_mod' m (2 ^ sh)).symm
  rw [part, div_eq_iff hp.ne', add_mul, div_mul_cancel₀ _ hp.ne']
  linarith

theorem part_eq_zero_iff {m sh : Nat} {d : ℝ} {sticky : Bool} (hd : Tail sticky d) :
    part m sh d = 0 ↔ (m % 2 ^ sh != 0 || sticky) = false := by
  obtain ⟨h0, -, hst⟩ := hd.bounds
  have hp : (2 : ℝ) ^ sh ≠ 0 := by positivity
  have hrem : (0 : ℝ) ≤ (m % 2 ^ sh : Nat) := Nat.cast_nonneg _
  rw [part, div_eq_zero_iff, or_iff_left hp, add_eq_zero_iff_of_nonneg hrem h0, Nat.cast_eq_zero, Bool.or_eq_false_iff, bne_eq_false_iff_eq,
    ← Bool.not_eq_true, hst, not_not]

theorem half_lt_part_iff {m sh : Nat} {d : ℝ} {sticky : Bool} (hd : Tail sticky d) (hs : sticky = true → 32 ≤ sh) (odd : Prop) :
    (1 / 2 < part m sh d ∨ part m sh d = 1 / 2 ∧ odd)
      ↔ 2 ^ sh < 2 * (m % 2 ^ sh) ∨ (2 * (m % 2 ^ sh) = 2 ^ sh ∧ 0 < sh ∧ (sticky = true ∨ odd)) := by
  obtain ⟨h0, h1, hst⟩ := hd.bounds
  have hp : (0 : ℝ) < 2 ^ sh := by positivity
  rw [part, lt_div_iff₀ hp, div_eq_iff hp.ne']
  generalize hrem : m % 2 ^ sh = rem
  rcases Nat.eq_zero_or_pos sh with rfl | hpos
  · have hd0 : d = 0 := by by_contra h; exact absurd (hs (hst.2 h)) (by norm_num)
    have hr0 : rem = 0 := by rw [← hrem, pow_zero, Nat.mod_one]
    norm_num [hd0, hr0]
  · obtain ⟨n, rfl⟩ := Nat.exists_eq_succ_of_ne_zero hpos.ne'
    have hhalf : (1 / 2 : ℝ) * 2 ^ (n + 1) = (2 ^ n : Nat) := by push_cast; ring
    rw [Nat.succ_eq_add_one, hhalf]
    have hlt : ((2 ^ n : Nat) : ℝ) < rem + d ↔ 2 ^ n < rem ∨ (rem = 2 ^ n ∧ sticky = true) := by
      rw [← not_le, ← not_iff_not, not_not, not_or, not_lt, not_and]
      constructor
      · intro h
        refine ⟨(add_tail_le_iff le_rfl one_pos rem (2 ^ n)).1 (by linarith), fun he => ?_⟩
        rw [hst, not_not]
        rw [he] at h
        linarith
      · rintro ⟨h, h'⟩
        rcases h.lt_or_eq with hl | hl
        · have : ((rem + 1 : Nat) : ℝ) ≤ (2 ^ n : Nat) := Nat.cast_le.2 hl
          push_cast at this ⊢
          linarith
        · have hd0 : d = 0 := by by_contra hne; exact h' hl (hst.2 hne)
          rw [hd0, hl]; simp
    have heq : (rem : ℝ) + d = (2 ^ n : Nat) ↔ rem = 2 ^ n ∧ ¬ sticky = true := by
      rw [hst, not_not]
      constructor
      · intro h
        have h2 : 2 ^ n ≤ rem := (add_tail_le_iff h0 h1 _ _).1 h.ge
        have h3 : (rem : ℝ) ≤ (2 ^ n : Nat) := by linarith
        obtain rfl : rem = 2 ^ n := le_antisymm (Nat.cast_le.1 h3) h2
        exact ⟨rfl, by linarith⟩
      · rintro ⟨rfl, rfl⟩; simp
    rw [hlt, heq, pow_succ]
    have e1 : 2 ^ n * 2 < 2 * rem ↔ 2 ^ n < rem := by omega
    have e2 : 2 * rem = 2 ^ n * 2 ↔ rem = 2 ^ n := by omega
    rw [e1, e2]
    by_cases hst' : sticky = true <;> by_cases he : rem = 2 ^ n <;> simp [hst', he]

open Classical in
theorem roundShift_eq (rm draw : Nat) (neg : Bool) {m sh : Nat} {sticky : Bool} {d : ℝ} (hd : Tail sticky d) (hs : sticky = true → 32 ≤ sh) :
    roundShift rm draw neg m sh sticky
      = (m / 2 ^ sh + (if RoundsUp rm draw neg (m / 2 ^ sh % 2 = 1) (part m sh d) then 1 else 0), decide (part m sh d ≠ 0)) := by
  have hin : (m % 2 ^ sh != 0 || sticky) = decide (part m sh d ≠ 0) := by
    rw [Bool.eq_iff_iff, decide_eq_true_iff, Ne, part_eq_zero_iff hd, Bool.not_eq_false]
  have key : ∀ b : Bool, (b = true ↔ RoundsUp rm draw neg (m / 2 ^ sh % 2 = 1) (part m sh d)) →
      (if b = true then m / 2 ^ sh + 1 else m / 2 ^ sh, m % 2 ^ sh != 0 || sticky)
        = (m / 2 ^ sh + (if RoundsUp rm draw neg (m / 2 ^ sh % 2 = 1) (part m sh d) then 1 else 0), decide (part m sh d ≠ 0)) := by
    intro b hb
    rw [hin]
    congr 1
    by_cases h : b = true
    · rw [if_pos h, if_pos (hb.1 h)]
    · rw [if_neg h, if_neg (mt hb.2 h), add_zero]
  unfold roundShift
  refine key _ ?_
  match rm with
  | 0 =>
    simp only [RoundsUp]
    rw [half_lt_part_iff hd hs]
    simp [and_assoc]
  | 1 => simp [RoundsUp]
  | 2 => simp only [RoundsUp, hin, Bool.and_eq_true, decide_eq_true_eq]
  | 3 => simp [RoundsUp, hin]
  | n + 4 =>
    simp only [RoundsUp, decide_eq_true_eq]
    exact lt_draw_iff hd hs

/-! ### Rounding into a format (R87 to R89) -/

/-- The exact result of an operation: ±(m + d) × 2^e, where a tail leaves more bits than any format keeps and stochastic rounding sees. -/
structure Magnitude (m : Nat) (e : Int) (sticky : Bool) (a : ℝ) : Prop where
  eq : ∃ d, Tail sticky d ∧ a = (m + d) * (2 : ℝ) ^ e
  long : sticky = true → 2 ^ 100 ≤ m

theorem magnitude_of_false (m : Nat) (e : Int) : Magnitude m e false (m * (2 : ℝ) ^ e) := ⟨⟨0, tail_false, by rw [add_zero]⟩, by simp⟩

open Classical in
/-- The code that a mode takes for a magnitude `a` whose lower neighbour on the grid has code `c`. -/
noncomputable def Fmt.step (f : Fmt) (rm draw : Nat) (neg : Bool) (a : ℝ) (c : Nat) : Nat :=
  c + if RoundsUp rm draw neg (c % 2 = 1) ((a - f.grid c) / (f.grid (c + 1) - f.grid c)) then 1 else 0

open Classical in
/-- What a magnitude that rounds to code `code` delivers: an overflow beyond the largest code, else the code with its flags (R88, R89). -/
noncomputable def Fmt.outcome (f : Fmt) (nan rm : Nat) (neg : Bool) (a : ℝ) (code : Nat) : Nat × Nat :=
  if f.maxCode nan < code then (f.signBit neg + (if f.mode nan = 2 && overflowToInf rm neg then f.infCode else f.maxCode nan), 5)
  else (f.signBit neg + code, if a = f.grid code then 0 else if a < (2 : ℝ) ^ (1 - (f.bias : Int)) then 3 else 1)

theorem bitLen_bounds {m : Nat} (hm : m ≠ 0) : 1 ≤ bitLen m ∧ 2 ^ (bitLen m - 1) ≤ m ∧ m < 2 ^ bitLen m := by
  rw [bitLen, if_neg hm]
  exact ⟨by omega, Nat.log2_self_le hm, Nat.lt_log2_self⟩

/-- The first bit of a magnitude says which power of two it reaches. -/
theorem Magnitude.bounds {m : Nat} {e : Int} {sticky : Bool} {a : ℝ} (h : Magnitude m e sticky a) (hm : m ≠ 0) :
    (2 : ℝ) ^ ((bitLen m : Int) + e - 1) ≤ a ∧ a < (2 : ℝ) ^ ((bitLen m : Int) + e) := by
  obtain ⟨d, hd, rfl⟩ := h.eq
  obtain ⟨h0, h1, -⟩ := hd.bounds
  obtain ⟨hb, hlo, hhi⟩ := bitLen_bounds hm
  have he : (0 : ℝ) < (2 : ℝ) ^ e := by positivity
  have hhi' : ((m + 1 : Nat) : ℝ) ≤ (2 ^ bitLen m : Nat) := Nat.cast_le.2 hhi
  have hlo' : ((2 ^ (bitLen m - 1) : Nat) : ℝ) ≤ m := Nat.cast_le.2 hlo
  push_cast at hhi' hlo'
  constructor
  · rw [show (bitLen m : Int) + e - 1 = ((bitLen m - 1 : Nat) : Int) + e by omega, zpow_add₀ (by norm_num), zpow_natCast]
    exact mul_le_mul_of_nonneg_right (by linarith) he.le
  · rw [zpow_add₀ (by norm_num), zpow_natCast]
    exact mul_lt_mul_of_pos_right (by linarith) he

end Sys2Proof.Machine

namespace Sys2Proof.Machine

/-- The weight of the last bit that a format keeps of a magnitude. -/
def Fmt.weight (f : Fmt) (m : Nat) (e : Int) : Int := max ((bitLen m : Int) + e - ((f.p : Int) + 1)) (1 - (f.bias : Int) - (f.p : Int))

/-- A magnitude in units of 2^q, and how many of its bits lie below. -/
def aligned (m : Nat) (e q : Int) : Nat × Nat := if q < e then (m * 2 ^ (e - q).toNat, 0) else (m, (q - e).toNat)

theorem aligned_spec (f : Fmt) (hf : f.Proper) {m : Nat} {e : Int} {sticky : Bool} {a : ℝ} (h : Magnitude m e sticky a) (hm : m ≠ 0) :
    ∃ d, Tail sticky d ∧ (sticky = true → 32 ≤ (aligned m e (f.weight m e)).2)
      ∧ a = (((aligned m e (f.weight m e)).1 : ℝ) + d) / 2 ^ (aligned m e (f.weight m e)).2 * (2 : ℝ) ^ f.weight m e := by
  obtain ⟨d, hd, rfl⟩ := h.eq
  have hp := hf.p_le
  have hlong : sticky = true → (48 : Int) ≤ f.weight m e - e := by
    intro hs
    have h100 : 100 < bitLen m := by
      by_contra hle
      exact absurd ((h.long hs).trans_lt (bitLen_bounds hm).2.2) (not_lt.2 (Nat.pow_le_pow_right two_pos (not_lt.1 hle)))
    have := le_max_left ((bitLen m : Int) + e - ((f.p : Int) + 1)) (1 - (f.bias : Int) - (f.p : Int))
    unfold Fmt.weight
    omega
  generalize f.weight m e = q at hlong ⊢
  refine ⟨d, hd, ?_⟩
  unfold aligned
  split_ifs with hq
  · have hs : sticky = false := by
      by_contra hne
      have := hlong (by simpa using hne)
      omega
    subst hs
    obtain rfl : d = 0 := hd
    refine ⟨by simp, ?_⟩
    obtain ⟨n, hn⟩ := Int.eq_ofNat_of_zero_le (show 0 ≤ e - q by omega)
    rw [hn, Int.toNat_natCast, show e = n + q by omega, zpow_add₀ (by norm_num), zpow_natCast]
    push_cast
    ring
  · refine ⟨fun hs => by have := hlong hs; dsimp only; omega, ?_⟩
    obtain ⟨n, hn⟩ := Int.eq_ofNat_of_zero_le (show 0 ≤ q - e by omega)
    rw [hn, Int.toNat_natCast, show q = n + e by omega, zpow_add₀ (by norm_num), zpow_natCast]
    field_simp

/-- Where a magnitude of so many units of a binade's last bit lies on the grid. -/
theorem Fmt.grid_of_units (f : Fmt) {M sh k : Nat} {d a : ℝ} {sticky : Bool} (hd : Tail sticky d) (ha : a = (M + d) / 2 ^ sh * f.ulp k)
    (hlt : M / 2 ^ sh < 2 ^ (f.p + 1)) (hk : k = 0 ∨ 2 ^ f.p ≤ M / 2 ^ sh) :
    f.grid (M / 2 ^ sh + k * 2 ^ f.p) ≤ a ∧ a < f.grid (M / 2 ^ sh + k * 2 ^ f.p + 1)
      ∧ (a - f.grid (M / 2 ^ sh + k * 2 ^ f.p)) / (f.grid (M / 2 ^ sh + k * 2 ^ f.p + 1) - f.grid (M / 2 ^ sh + k * 2 ^ f.p)) = part M sh d := by
  have hu := f.ulp_pos k
  obtain ⟨h0, h1⟩ := part_bounds (m := M) (sh := sh) hd
  rw [add_div_eq_floor_add_part] at ha
  rw [f.grid_succ hlt hk, f.grid_add hlt.le hk, ha]
  refine ⟨by nlinarith, by nlinarith, ?_⟩
  field_simp
  ring

/-- The whole units of a magnitude fill the bits of its binade. -/
theorem Fmt.units_bounds (f : Fmt) {m : Nat} {e : Int} {sticky : Bool} {a d : ℝ} {M sh : Nat} (h : Magnitude m e sticky a) (hm : m ≠ 0)
    (hd : Tail sticky d) (ha : a = (M + d) / 2 ^ sh * (2 : ℝ) ^ f.weight m e) :
    M / 2 ^ sh < 2 ^ (f.p + 1) ∧ (f.weight m e = 1 - (f.bias : Int) - (f.p : Int) ∨ 2 ^ f.p ≤ M / 2 ^ sh) := by
  obtain ⟨hlo, hhi⟩ := h.bounds hm
  obtain ⟨h0, h1⟩ := part_bounds (m := M) (sh := sh) hd
  rw [add_div_eq_floor_add_part] at ha
  have hw : (0 : ℝ) < (2 : ℝ) ^ f.weight m e := by positivity
  have h2 : (1 : ℝ) < 2 := by norm_num
  constructor
  · have hle : (bitLen m : Int) + e ≤ ((f.p + 1 : Nat) : Int) + f.weight m e := by
      have := le_max_left ((bitLen m : Int) + e - ((f.p : Int) + 1)) (1 - (f.bias : Int) - (f.p : Int))
      unfold Fmt.weight
      push_cast
      omega
    have hlt := hhi.trans_le (zpow_le_zpow_right₀ h2.le hle)
    rw [zpow_add₀ (by norm_num), zpow_natCast, ha] at hlt
    have := lt_of_mul_lt_mul_right hlt hw.le
    have hcast : ((M / 2 ^ sh : Nat) : ℝ) < (2 ^ (f.p + 1) : Nat) := by rw [Nat.cast_pow, Nat.cast_ofNat]; linarith
    exact Nat.cast_lt.1 hcast
  · by_cases hq : f.weight m e = 1 - (f.bias : Int) - (f.p : Int)
    · exact .inl hq
    · have heq : (bitLen m : Int) + e - 1 = (f.p : Int) + f.weight m e := by
        have := max_choice ((bitLen m : Int) + e - ((f.p : Int) + 1)) (1 - (f.bias : Int) - (f.p : Int))
        unfold Fmt.weight at hq ⊢
        omega
      rw [heq, zpow_add₀ (by norm_num), zpow_natCast, ha] at hlo
      have := le_of_mul_le_mul_right hlo hw
      have hcast : ((2 ^ f.p : Nat) : ℝ) < (M / 2 ^ sh + 1 : Nat) := by push_cast; linarith
      exact .inr (Nat.lt_succ_iff.1 (Nat.cast_lt.1 hcast))

/-- The subnormal range, told from the place of the first bit. -/
theorem Magnitude.lt_iff {m : Nat} {e : Int} {sticky : Bool} {a : ℝ} (h : Magnitude m e sticky a) (hm : m ≠ 0) (emin : Int) :
    a < (2 : ℝ) ^ emin ↔ (bitLen m : Int) + e ≤ emin := by
  obtain ⟨hlo, hhi⟩ := h.bounds hm
  have h2 : (1 : ℝ) < 2 := by norm_num
  constructor
  · intro hlt
    have := (zpow_lt_zpow_iff_right₀ h2).1 (hlo.trans_lt hlt)
    omega
  · exact fun hle => hhi.trans_le (zpow_le_zpow_right₀ h2.le hle)

theorem Fmt.round_zero (f : Fmt) (nan rm draw : Nat) (neg : Bool) (e : Int) : f.round nan rm draw neg 0 e false = (f.signBit neg, 0) := rfl

/-- The code that `round` forms of `r` units of weight `q`. -/
theorem Fmt.code_of_units (f : Fmt) {r k : Nat} {q : Int} (hq : q = (k : Int) + 1 - f.bias - f.p) (hk : k = 0 ∨ 2 ^ f.p ≤ r) :
    (if r < 2 ^ f.p then r else (q + (f.p : Int) + (f.bias : Int)).toNat * 2 ^ f.p + (r - 2 ^ f.p)) = r + k * 2 ^ f.p := by
  split_ifs with h
  · rw [hk.resolve_right (by omega), zero_mul, add_zero]
  · rw [hq, show (k : Int) + 1 - f.bias - f.p + f.p + f.bias = ((k + 1 : Nat) : Int) by push_cast; ring, Int.toNat_natCast, add_mul, one_mul]
    omega

/-- A nonzero magnitude is rounded to one of its neighbours on the grid. -/
theorem Fmt.round_eq (f : Fmt) (hf : f.Proper) (nan rm draw : Nat) (neg : Bool) {m : Nat} {e : Int} {sticky : Bool} {a : ℝ}
    (h : Magnitude m e sticky a) (hm : m ≠ 0) :
    ∃ c, f.grid c ≤ a ∧ a < f.grid (c + 1) ∧ f.round nan rm draw neg m e sticky = f.outcome nan rm neg a (f.step rm draw neg a c) := by
  classical
  obtain ⟨d, hd, hs, ha⟩ := aligned_spec f hf h hm
  obtain ⟨hlt, hge⟩ := f.units_bounds h hm hd ha
  have htiny := h.lt_iff hm (1 - (f.bias : Int))
  have hround : f.round nan rm draw neg m e sticky =
      let r := roundShift rm draw neg (aligned m e (f.weight m e)).1 (aligned m e (f.weight m e)).2 sticky
      let code := if r.1 < 2 ^ f.p then r.1 else (f.weight m e + (f.p : Int) + (f.bias : Int)).toNat * 2 ^ f.p + (r.1 - 2 ^ f.p)
      if f.maxCode nan < code then (f.signBit neg + (if f.mode nan = 2 && overflowToInf rm neg then f.infCode else f.maxCode nan), 5)
      else (f.signBit neg + code, if r.2 then (if (bitLen m : Int) + e ≤ 1 - (f.bias : Int) then 3 else 1) else 0) := by
    unfold Fmt.round
    rw [if_neg (by simp [hm])]
    rfl
  obtain ⟨k, hk⟩ := Int.eq_ofNat_of_zero_le (show 0 ≤ f.weight m e - (1 - (f.bias : Int) - (f.p : Int)) by
    have := le_max_right ((bitLen m : Int) + e - ((f.p : Int) + 1)) (1 - (f.bias : Int) - (f.p : Int)); unfold Fmt.weight; omega)
  have hq : f.weight m e = (k : Int) + 1 - f.bias - f.p := by omega
  have hk0 : k = 0 ∨ 2 ^ f.p ≤ (aligned m e (f.weight m e)).1 / 2 ^ (aligned m e (f.weight m e)).2 := hge.imp_left fun h' => by omega
  rw [hround]
  generalize (aligned m e (f.weight m e)).1 = M at *
  generalize (aligned m e (f.weight m e)).2 = sh at *
  obtain ⟨hle, hgt, hpart⟩ := f.grid_of_units hd (show a = _ * f.ulp k by rw [ha, hq, Fmt.ulp]) hlt hk0
  generalize hc : M / 2 ^ sh + k * 2 ^ f.p = c at *
  refine ⟨c, hle, hgt, ?_⟩
  have hodd : c % 2 = 1 ↔ M / 2 ^ sh % 2 = 1 := by
    obtain ⟨j, hj⟩ := Nat.exists_eq_add_of_le hf.one_le_p
    rw [← hc, hj, pow_add, pow_one, mul_left_comm, Nat.add_mul_mod_self_left]
  have hstep : f.step rm draw neg a c = c + if RoundsUp rm draw neg (M / 2 ^ sh % 2 = 1) (part M sh d) then 1 else 0 := by
    rw [Fmt.step, hpart, hodd]
  have hexact : a = f.grid (f.step rm draw neg a c) ↔ part M sh d = 0 := by
    have hgap : (0 : ℝ) < f.grid (c + 1) - f.grid c := by linarith
    rw [← hpart, div_eq_zero_iff, or_iff_left hgap.ne', sub_eq_zero, hstep]
    split_ifs with hup
    · constructor
      · intro he; exact absurd he hgt.ne
      · intro he
        rw [← hpart, he, sub_self, zero_div] at hup
        exact absurd hup (not_roundsUp_zero _ _ _ _)
    · rw [add_zero]
  rw [roundShift_eq rm draw neg hd hs]
  simp only
  rw [f.code_of_units hq (by omega), show ∀ u, M / 2 ^ sh + u + k * 2 ^ f.p = c + u from fun u => by omega, ← hstep, Fmt.outcome]
  simp only [hexact, htiny, decide_eq_true_eq, ne_eq, ite_not]

end Sys2Proof.Machine

namespace Sys2Proof.Machine

/-! ### Exact results and what they deliver -/

/-- The exact result of an operation stands for the number `x`; `z` is the sign that it has where it is zero. -/
def Real.Stands (r : Real) (x : ℝ) (z : Bool) : Prop :=
  ∃ neg m e sticky, r = .num neg m e sticky ∧ Magnitude m e sticky |x| ∧ x = withSign neg |x| ∧ (m = 0 → neg = z)

theorem withSign_lt_zero_iff (neg : Bool) {a : ℝ} (h : 0 < a) : withSign neg a < 0 ↔ neg = true := by
  cases neg
  · simp [withSign, h.le]
  · simp [withSign, h]

theorem Magnitude.pos {m : Nat} {e : Int} {sticky : Bool} {a : ℝ} (h : Magnitude m e sticky a) (hm : m ≠ 0) : 0 < a :=
  lt_of_lt_of_le (by positivity) (h.bounds hm).1

theorem Magnitude.eq_zero {e : Int} {sticky : Bool} {a : ℝ} (h : Magnitude 0 e sticky a) : a = 0 ∧ sticky = false := by
  have hs : sticky = false := by
    by_contra hne
    exact absurd (h.long (by simpa using hne)) (by norm_num)
  obtain ⟨d, hd, rfl⟩ := h.eq
  rw [hs] at hd
  obtain rfl : d = 0 := hd
  exact ⟨by simp, hs⟩

/-- A finite value stands for its number. -/
theorem stands_fin (neg : Bool) (m : Nat) (e : Int) : Real.Stands (.num neg m e false) (withSign neg (m * (2 : ℝ) ^ e)) neg := by
  have ha : |withSign neg (m * (2 : ℝ) ^ e)| = m * (2 : ℝ) ^ e := abs_withSign neg (by positivity)
  exact ⟨neg, m, e, false, rfl, by rw [ha]; exact magnitude_of_false m e, by rw [ha], fun _ => rfl⟩

theorem Fmt.step_eq_or (f : Fmt) (rm draw : Nat) (neg : Bool) (a : ℝ) (c : Nat) :
    f.step rm draw neg a c = c ∧ ¬ RoundsUp rm draw neg (c % 2 = 1) ((a - f.grid c) / (f.grid (c + 1) - f.grid c))
    ∨ f.step rm draw neg a c = c + 1 ∧ RoundsUp rm draw neg (c % 2 = 1) ((a - f.grid c) / (f.grid (c + 1) - f.grid c)) := by
  unfold Fmt.step
  split_ifs with h
  · exact .inr ⟨rfl, h⟩
  · exact .inl ⟨rfl, h⟩

theorem Fmt.step_grid (f : Fmt) (rm draw : Nat) (neg : Bool) (c : Nat) : f.step rm draw neg (f.grid c) c = c :=
  (f.step_eq_or rm draw neg (f.grid c) c).resolve_right (fun h => by
    rw [sub_self, zero_div] at h
    exact not_roundsUp_zero _ _ _ _ h.2) |>.1

/-- What an exact result delivers: the outcome of the step from its lower neighbour on the grid, or a zero of its sign. -/
theorem Fmt.deliver_of_stands (f : Fmt) (hf : f.Proper) (nan rm draw : Nat) {r : Real} {x : ℝ} {z : Bool} (h : r.Stands x z) :
    (x ≠ 0 → ∃ c, f.grid c ≤ |x| ∧ |x| < f.grid (c + 1)
      ∧ f.deliver nan rm draw r = f.outcome nan rm (decide (x < 0)) |x| (f.step rm draw (decide (x < 0)) |x| c))
    ∧ (x = 0 → f.deliver nan rm draw r = (f.signBit z, 0)) := by
  obtain ⟨neg, m, e, sticky, rfl, hmag, hx, hz⟩ := h
  by_cases hm : m = 0
  · subst hm
    obtain ⟨ha, rfl⟩ := hmag.eq_zero
    exact ⟨fun hne => absurd (abs_eq_zero.1 ha) hne, fun _ => by rw [← hz rfl]; exact f.round_zero nan rm draw neg e⟩
  · have hpos := hmag.pos hm
    have hneg : decide (x < 0) = neg := by
      rw [Bool.eq_iff_iff, decide_eq_true_iff, hx]
      exact withSign_lt_zero_iff neg hpos
    rw [hneg]
    exact ⟨fun _ => f.round_eq hf nan rm draw neg hmag hm, fun h0 => absurd hpos (by rw [h0]; simp)⟩

/-! ### Results within the format -/

theorem Fmt.holds_neg (f : Fmt) (hf : f.Proper) {nan : Nat} {z : ℝ} (h : Stated.Holds f nan z) : Stated.Holds f nan (-z) := by
  obtain ⟨neg, m, hm, rfl⟩ := (f.holds_iff hf).1 h
  exact (f.holds_iff hf).2 ⟨!neg, m, hm, by cases neg <;> simp⟩

theorem Fmt.holds_grid (f : Fmt) (hf : f.Proper) {nan c : Nat} (h : c ≤ f.maxCode nan) : Stated.Holds f nan (f.grid c) :=
  (f.holds_iff hf).2 ⟨false, c, h, rfl⟩

theorem Fmt.abs_le_of_holds (f : Fmt) (hf : f.Proper) {nan : Nat} {z : ℝ} (h : Stated.Holds f nan z) : |z| ≤ f.grid (f.maxCode nan) := by
  obtain ⟨neg, m, hm, rfl⟩ := (f.holds_iff hf).1 h
  rw [abs_withSign neg (f.grid_nonneg m)]
  exact f.grid_strictMono.monotone hm

/-- A format reaches a number: the number is no larger than the largest that the format holds. -/
theorem Fmt.reaches_iff (f : Fmt) (hf : f.Proper) {nan : Nat} {x : ℝ} :
    (∃ y, Stated.Holds f nan y ∧ |x| ≤ y) ↔ |x| ≤ f.grid (f.maxCode nan) :=
  ⟨fun ⟨_, hy, hxy⟩ => hxy.trans ((le_abs_self _).trans (f.abs_le_of_holds hf hy)), fun h => ⟨_, f.holds_grid hf le_rfl, h⟩⟩

theorem Fmt.neighbours (f : Fmt) (hf : f.Proper) {nan c : Nat} {a : ℝ} (hc : c ≤ f.maxCode nan) (hlo : f.grid c ≤ a) (hhi : a < f.grid (c + 1)) :
    Neighbours (Stated.Holds f nan) (f.grid c) a (f.grid (c + 1)) where
  symm _ := f.holds_neg hf
  zero_le := f.grid_nonneg c
  holds := f.holds_grid hf hc
  lo_le := hlo
  lt_hi := hhi
  gap z hz h0 := by
    obtain ⟨neg, m, -, rfl⟩ := (f.holds_iff hf).1 hz
    rw [← abs_of_nonneg h0, abs_withSign neg (f.grid_nonneg m), f.grid_strictMono.le_iff_le, f.grid_strictMono.le_iff_le]
    omega

theorem Fmt.signBit_even (f : Fmt) (hf : f.Proper) (neg : Bool) (m : Nat) : (f.signBit neg + m) % 2 = m % 2 := by
  have h2 := hf.one_le_p
  unfold Fmt.signBit
  split_ifs
  · obtain ⟨n, hn⟩ := Nat.exists_eq_succ_of_ne_zero (show f.e + f.p ≠ 0 by omega)
    rw [hn, pow_succ]
    omega
  · rw [zero_add]

/-- A magnitude that the format reaches is not rounded past the format's largest number. -/
theorem Fmt.step_le (f : Fmt) {nan rm draw c : Nat} {neg : Bool} {a : ℝ} (hlo : f.grid c ≤ a) (ha : a ≤ f.grid (f.maxCode nan)) :
    c ≤ f.maxCode nan ∧ f.step rm draw neg a c ≤ f.maxCode nan ∧ (a = f.grid c ∨ c + 1 ≤ f.maxCode nan) := by
  have hc := f.grid_strictMono.le_iff_le.1 (hlo.trans ha)
  have hor : a = f.grid c ∨ c + 1 ≤ f.maxCode nan := by
    rcases hc.lt_or_eq with h | h
    · exact .inr h
    · exact .inl (le_antisymm (h ▸ ha) hlo)
  refine ⟨hc, ?_, hor⟩
  rcases hor with rfl | h
  · rw [f.step_grid]; exact hc
  · rcases f.step_eq_or rm draw neg a c with h' | h' <;> omega

open Classical in
theorem Fmt.grid_step (f : Fmt) (rm draw : Nat) (neg : Bool) (a : ℝ) (c : Nat) : f.grid (f.step rm draw neg a c)
    = if RoundsUp rm draw neg (c % 2 = 1) ((a - f.grid c) / (f.grid (c + 1) - f.grid c)) then f.grid (c + 1) else f.grid c := by
  unfold Fmt.step
  split_ifs <;> rfl

/-- The neighbour that the mode takes is the number that it chooses, with its flags. -/
theorem Fmt.rounds_step (f : Fmt) (hf : f.Proper) {nan rm draw c : Nat} {neg z : Bool} {a : ℝ} (hlo : f.grid c ≤ a) (hhi : a < f.grid (c + 1))
    (ha : a ≤ f.grid (f.maxCode nan)) (hsign : neg = if withSign neg a = 0 then z else decide (withSign neg a < 0)) :
    Stated.Rounds f nan rm draw (withSign neg a) z (f.signBit neg + f.step rm draw neg a c)
      (if a = f.grid (f.step rm draw neg a c) then 0 else if a < (2 : ℝ) ^ (1 - (f.bias : Int)) then 3 else 1) := by
  obtain ⟨hc, hstep, hor⟩ := f.step_le (rm := rm) (draw := draw) (neg := neg) hlo ha
  have hlt := hstep.trans_lt (f.maxCode_lt nan)
  have hmag := f.magOf_signBit_add neg hlt
  have hnegOf := f.negOf_signBit_add neg hlt
  refine ⟨f.signBit_add_lt neg hlt, ?_, withSign neg (f.grid (f.step rm draw neg a c)), ?_, ?_, ?_⟩
  · rw [f.isNeg_decode_of_le hf (hmag.le.trans hstep), hnegOf]; exact hsign
  · rw [f.finite_decode_eq_some_iff hf, hmag, hnegOf]; exact ⟨hstep, rfl⟩
  · rw [f.grid_step, f.signBit_even hf]
    refine (f.neighbours hf hc hlo hhi).chosen neg (fun hn hodd => ?_) (fun hup hodd => ?_) (hor.imp_right fun h => f.holds_grid hf h)
    · rw [((f.step_eq_or rm draw neg a c).resolve_right fun h => hn h.2).1]; omega
    · rw [((f.step_eq_or rm draw neg a c).resolve_left fun h => h.2 hup).1]; omega
  · have h0 := (f.grid_nonneg c).trans hlo
    have hinj : withSign neg a = withSign neg (f.grid (f.step rm draw neg a c)) ↔ a = f.grid (f.step rm draw neg a c) := by cases neg <;> simp
    rw [abs_withSign neg h0]
    simp only [hinj]

/-- R87, R89: an exact result that the format reaches is rounded by the mode. -/
theorem Fmt.rounds_deliver (f : Fmt) (hf : f.Proper) {nan rm draw : Nat} {r : Real} {x : ℝ} {z : Bool} (h : r.Stands x z)
    (hx : |x| ≤ f.grid (f.maxCode nan)) : Stated.Rounds f nan rm draw x z (f.deliver nan rm draw r).1 (f.deliver nan rm draw r).2 := by
  obtain ⟨hnz, hzero⟩ := f.deliver_of_stands hf nan rm draw h
  by_cases h0 : x = 0
  · subst h0
    rw [hzero rfl]
    have := f.rounds_step hf (nan := nan) (rm := rm) (draw := draw) (c := 0) (neg := z) (z := z) (a := 0) f.grid_zero.le
      (f.grid_pos one_ne_zero) (f.grid_nonneg _) (by simp)
    have hs := f.step_grid rm draw z 0
    rw [f.grid_zero] at hs
    simpa [hs] using this
  · obtain ⟨c, hlo, hhi, he⟩ := hnz h0
    have hsign : withSign (decide (x < 0)) |x| = x := by
      rcases lt_or_ge x 0 with h' | h'
      · simp [h', abs_of_neg h']
      · simp [h'.not_gt, abs_of_nonneg h']
    have := f.rounds_step hf (rm := rm) (draw := draw) (neg := decide (x < 0)) (z := z) hlo hhi hx (by rw [hsign, if_neg h0])
    rw [hsign] at this
    rw [he, Fmt.outcome, if_neg (not_lt.2 (f.step_le hlo hx).2.1)]
    exact this

/-- R88: a number that the format holds is delivered as it is. -/
theorem Fmt.deliver_exact (f : Fmt) (hf : f.Proper) {nan rm draw c : Nat} {r : Real} {x : ℝ} {z : Bool} (h : r.Stands x z) (hx : x ≠ 0)
    (hc : c < 2 ^ f.width) (hv : Stated.finite (f.decode nan c) = some x) : f.deliver nan rm draw r = (c, 0) := by
  obtain ⟨b, hlo, hhi, he⟩ := (f.deliver_of_stands hf nan rm draw h).1 hx
  obtain ⟨hm, rfl⟩ := (f.finite_decode_eq_some_iff hf).1 hv
  have hpos : 0 < f.grid (f.magOf c) := (f.grid_nonneg _).lt_of_ne fun h0 => hx (by rw [← h0]; simp)
  have hneg : decide (withSign (f.negOf c) (f.grid (f.magOf c)) < 0) = f.negOf c := by
    rw [Bool.eq_iff_iff, decide_eq_true_iff]; exact withSign_lt_zero_iff _ hpos
  rw [abs_withSign _ hpos.le] at hlo hhi he
  obtain rfl : b = f.magOf c := by
    have h1 := f.grid_strictMono.le_iff_le.1 hlo
    have h2 := f.grid_strictMono.lt_iff_lt.1 hhi
    omega
  rw [he, hneg, f.step_grid, Fmt.outcome, if_neg (not_lt.2 hm), if_pos rfl, f.signBit_add_magOf hc]

end Sys2Proof.Machine

/-! SUPPORT. The exact results of the scalar words, what they deliver, and the statement about them (R77, R87 to R94, R108 to R114). -/

namespace Sys2Proof.Machine

/-! ### The exact results of the operations (R77, R109, R114) -/

theorem withSign_mul (p q : Bool) (a b : ℝ) : withSign p a * withSign q b = withSign (p != q) (a * b) := by
  cases p <;> cases q <;> simp

theorem withSign_div (p q : Bool) (a b : ℝ) : withSign p a / withSign q b = withSign (p != q) (a / b) := by
  cases p <;> cases q <;> simp [neg_div, div_neg]

theorem withSign_neg (p : Bool) (a : ℝ) : withSign (!p) a = -withSign p a := by cases p <;> simp

theorem withSign_eq_zero_iff (p : Bool) (a : ℝ) : withSign p a = 0 ↔ a = 0 := by cases p <;> simp

theorem sInt_cast (neg : Bool) (m : Nat) : ((sInt neg m : Int) : ℝ) = withSign neg m := by cases neg <;> simp [sInt]

theorem withSign_natAbs (v : Int) : withSign (decide (v < 0)) (v.natAbs : ℝ) = v := by
  rcases lt_or_ge v 0 with h | h
  · have : ((v.natAbs : Int) : ℝ) = ((-v : Int) : ℝ) := by rw [Int.ofNat_natAbs_of_nonpos h.le]
    rw [Int.cast_natCast] at this
    simp [h, this]
  · have : ((v.natAbs : Int) : ℝ) = v := by rw [Int.natAbs_of_nonneg h]
    rw [Int.cast_natCast] at this
    simp [h.not_gt, this]

/-- A magnitude in units of a smaller power of two. -/
theorem mul_zpow_toNat (m : Nat) {e q : Int} (h : q ≤ e) : ((m * 2 ^ (e - q).toNat : Nat) : ℝ) * (2 : ℝ) ^ q = m * (2 : ℝ) ^ e := by
  obtain ⟨n, hn⟩ := Int.eq_ofNat_of_zero_le (show 0 ≤ e - q by omega)
  rw [hn, Int.toNat_natCast, show e = n + q by omega, zpow_add₀ (by norm_num), zpow_natCast]
  push_cast
  ring

/-- An integer in units of a power of two stands for its number. -/
theorem stands_int (v e : Int) (z : Bool) (hv : v = 0 → decide (v < 0) = z) :
    Real.Stands (.num (decide (v < 0)) v.natAbs e false) (v * (2 : ℝ) ^ e) z := by
  have h := stands_fin (decide (v < 0)) v.natAbs e
  have hx : withSign (decide (v < 0)) (v.natAbs * (2 : ℝ) ^ e) = v * (2 : ℝ) ^ e := by
    rw [← withSign_natAbs v]
    cases decide (v < 0) <;> simp
  rw [hx] at h
  obtain ⟨neg, m, e', sticky, hr, hm, hx, -⟩ := h
  obtain ⟨rfl, rfl, rfl, rfl⟩ := Real.num.inj hr
  exact ⟨_, _, _, _, rfl, hm, hx, fun h0 => hv (Int.natAbs_eq_zero.1 h0)⟩

theorem sumFin_stands (rm : Nat) (n1 : Bool) (m1 : Nat) (e1 : Int) (n2 : Bool) (m2 : Nat) (e2 : Int) :
    (sumFin rm n1 m1 e1 n2 m2 e2).Stands (withSign n1 (m1 * (2 : ℝ) ^ e1) + withSign n2 (m2 * (2 : ℝ) ^ e2))
      (if m1 = 0 && m2 = 0 && n1 == n2 then n1 else rm == 2) := by
  have hsum : withSign n1 (m1 * (2 : ℝ) ^ e1) + withSign n2 (m2 * (2 : ℝ) ^ e2)
      = ((sInt n1 (m1 * 2 ^ (e1 - min e1 e2).toNat) + sInt n2 (m2 * 2 ^ (e2 - min e1 e2).toNat) : Int) : ℝ) * (2 : ℝ) ^ (min e1 e2) := by
    rw [← mul_zpow_toNat m1 (min_le_left e1 e2), ← mul_zpow_toNat m2 (min_le_right e1 e2), Int.cast_add, sInt_cast, sInt_cast]
    cases n1 <;> cases n2 <;> simp <;> ring
  rw [hsum, sumFin]
  generalize (if m1 = 0 && m2 = 0 && n1 == n2 then n1 else rm == 2) = z
  split_ifs with hv
  · rw [hv]
    simpa using stands_fin z 0 0
  · exact stands_int _ _ _ fun h => absurd h hv

theorem divReal_stands (n1 : Bool) (m1 : Nat) (e1 : Int) (n2 : Bool) {m2 : Nat} (e2 : Int) (h : m2 ≠ 0) :
    (divReal (.fin n1 m1 e1) (.fin n2 m2 e2)).Stands (withSign n1 (m1 * (2 : ℝ) ^ e1) / withSign n2 (m2 * (2 : ℝ) ^ e2)) (n1 != n2) := by
  have hpos : (0 : ℝ) < m2 := Nat.cast_pos.2 (Nat.pos_of_ne_zero h)
  have habs : (0 : ℝ) ≤ m1 * (2 : ℝ) ^ e1 / (m2 * (2 : ℝ) ^ e2) := by positivity
  rw [withSign_div, divReal]
  simp only [h, if_false]
  refine ⟨_, _, _, _, rfl, ⟨⟨((m1 * 2 ^ (guardBits + bitLen m2) % m2 : Nat) : ℝ) / m2, ?_, ?_⟩, fun hs => ?_⟩, ?_, fun _ => rfl⟩
  · unfold Tail
    split_ifs with hs
    · have hr : m1 * 2 ^ (guardBits + bitLen m2) % m2 ≠ 0 := by simpa using hs
      exact ⟨div_pos (Nat.cast_pos.2 (Nat.pos_of_ne_zero hr)) hpos, (div_lt_one hpos).2 (Nat.cast_lt.2 (Nat.mod_lt _ (Nat.pos_of_ne_zero h)))⟩
    · have hr : m1 * 2 ^ (guardBits + bitLen m2) % m2 = 0 := by simpa using hs
      rw [hr, Nat.cast_zero, zero_div]
  · rw [abs_withSign _ habs]
    generalize guardBits + bitLen m2 = k
    have hd : ((m1 * 2 ^ k : Nat) : ℝ) = m2 * (m1 * 2 ^ k / m2 : Nat) + (m1 * 2 ^ k % m2 : Nat) := by
      exact_mod_cast (Nat.div_add_mod (m1 * 2 ^ k) m2).symm
    have hq : ((m1 * 2 ^ k / m2 : Nat) : ℝ) + (m1 * 2 ^ k % m2 : Nat) / m2 = m1 * 2 ^ k / m2 := by
      push_cast at hd
      field_simp
      linarith
    rw [hq, sub_sub, zpow_sub₀ (by norm_num), zpow_add₀ (by norm_num), zpow_natCast]
    field_simp
  · have hm1 : m1 ≠ 0 := by rintro rfl; simp at hs
    have hlt := (bitLen_bounds h).2.2
    rw [Nat.le_div_iff_mul_le (Nat.pos_of_ne_zero h)]
    calc 2 ^ 100 * m2 ≤ 2 ^ guardBits * 2 ^ bitLen m2 := Nat.mul_le_mul (by unfold guardBits; norm_num) hlt.le
      _ = 1 * 2 ^ (guardBits + bitLen m2) := by rw [one_mul, pow_add]
      _ ≤ m1 * 2 ^ (guardBits + bitLen m2) := Nat.mul_le_mul_right _ (Nat.pos_of_ne_zero hm1)
  · rw [abs_withSign _ habs]

theorem isqrt_spec (x : Nat) : ∀ n r, r * r ≤ x → x < (r + 2 ^ n) * (r + 2 ^ n) →
    isqrt x n r * isqrt x n r ≤ x ∧ x < (isqrt x n r + 1) * (isqrt x n r + 1)
  | 0, _, h1, h2 => ⟨h1, h2⟩
  | n + 1, r, h1, h2 => by
    rw [isqrt]
    split_ifs with h
    · exact isqrt_spec x n _ h (by rw [pow_succ] at h2; convert h2 using 2 <;> ring)
    · exact isqrt_spec x n r h1 (not_le.1 h)

theorem isqrt_eq_sqrt (x : Nat) : isqrt x (bitLen x / 2 + 1) 0 = Nat.sqrt x := by
  have hx : x < (0 + 2 ^ (bitLen x / 2 + 1)) * (0 + 2 ^ (bitLen x / 2 + 1)) := by
    rcases eq_or_ne x 0 with rfl | h
    · positivity
    · rw [zero_add, ← pow_add]
      exact (bitLen_bounds h).2.2.trans_le (Nat.pow_le_pow_right two_pos (by omega))
  obtain ⟨h1, h2⟩ := isqrt_spec x _ 0 (Nat.zero_le _) hx
  exact Nat.eq_sqrt.2 ⟨h1, h2⟩

theorem sqrtReal_stands (n : Bool) (m : Nat) (e : Int) (h : n = false ∨ m = 0) :
    (sqrtReal (.fin n m e)).Stands (Real.sqrt (withSign n (m * (2 : ℝ) ^ e))) n := by
  rw [sqrtReal]
  by_cases hm : m = 0
  · subst hm
    simpa using stands_fin n 0 0
  obtain rfl : n = false := h.resolve_right hm
  simp only [hm, if_false, Bool.false_eq_true, isqrt_eq_sqrt]
  obtain ⟨k, hk, hk2, j, hj⟩ : ∃ k, 2 * guardBits + (if e % 2 = 0 then 0 else 1) = k ∧ 320 ≤ k ∧ ∃ j : Int, e - k = 2 * j := by
    refine ⟨_, rfl, by unfold guardBits; omega, (e - (2 * guardBits + (if e % 2 = 0 then 0 else 1) : Nat)) / 2, ?_⟩
    unfold guardBits
    split_ifs <;> omega
  rw [hk, hj, Int.mul_ediv_cancel_left _ (by norm_num)]
  generalize hx : m * 2 ^ k = x
  have hxv : (m : ℝ) * (2 : ℝ) ^ e = x * ((2 : ℝ) ^ j) ^ 2 := by
    rw [← hx, ← zpow_natCast ((2 : ℝ) ^ j), ← zpow_mul, show e = k + j * ((2 : Nat) : Int) by push_cast; omega, zpow_add₀ (by norm_num), zpow_natCast]
    push_cast
    ring
  have hroot : Real.sqrt ((m : ℝ) * (2 : ℝ) ^ e) = Real.sqrt x * (2 : ℝ) ^ j := by
    rw [hxv, Real.sqrt_mul (Nat.cast_nonneg _), Real.sqrt_sq (by positivity)]
  have hlo : (Nat.sqrt x : ℝ) ≤ Real.sqrt x := Real.nat_sqrt_le_real_sqrt
  have hhi : Real.sqrt x < Nat.sqrt x + 1 := Real.real_sqrt_lt_nat_sqrt_succ
  refine ⟨_, _, _, _, rfl, ⟨⟨Real.sqrt x - Nat.sqrt x, ?_, ?_⟩, fun _ => ?_⟩, ?_, fun _ => rfl⟩
  · unfold Tail
    split_ifs with hs
    · have hne : Nat.sqrt x * Nat.sqrt x ≠ x := by simpa using hs
      refine ⟨sub_pos.2 (hlo.lt_of_ne fun he => hne ?_), by linarith⟩
      have := Real.mul_self_sqrt (Nat.cast_nonneg (α := ℝ) x)
      rw [← he] at this
      exact_mod_cast this
    · have he : Nat.sqrt x * Nat.sqrt x = x := by simpa using hs
      rw [sub_eq_zero]
      conv_lhs => rw [← he]
      push_cast
      exact Real.sqrt_mul_self (Nat.cast_nonneg _)
  · rw [withSign_false, hroot, abs_of_nonneg (by positivity)]
    ring
  · rw [Nat.le_sqrt, ← hx, ← pow_add]
    calc 2 ^ (100 + 100) ≤ 1 * 2 ^ k := by rw [one_mul]; exact Nat.pow_le_pow_right two_pos (by omega)
      _ ≤ m * 2 ^ k := Nat.mul_le_mul_right _ (Nat.pos_of_ne_zero hm)
  · rw [withSign_false, withSign_false, abs_of_nonneg (Real.sqrt_nonneg _)]

theorem ofIntReal_stands (v : Int) : (ofIntReal v).Stands v false := by
  have := stands_int v 0 false fun h => by simp [h]
  rwa [zpow_zero, mul_one] at this

end Sys2Proof.Machine

namespace Sys2Proof.Machine

/-! ### Scalar words that deliver (R108) -/

theorem modeOf_eq_rmOf (s : State) (rm : Fin 8) : Stated.modeOf s rm = s.rmOf rm := by
  have hlt := s.hart.sc.fcsr.isLt
  unfold Stated.modeOf State.rmOf Scalar.rm bits
  rw [BitVec.toNat_ushiftRight, Nat.shiftRight_eq_div_pow, Nat.mod_eq_of_lt (Nat.div_lt_of_lt_mul (by omega))]

/-- The draw of a scalar word in a mode. -/
def scalarDrawn (s : State) (mode : Nat) : Nat := if mode = 4 then (Stated.nextDraw s.hart.sc.gens[0]).toNat else 0

theorem ofNat_mod_flags (fl : Nat) : BitVec.ofNat 8 (fl % 32) = (BitVec.ofNat 5 fl).setWidth 8 := by
  apply BitVec.eq_of_toNat_eq
  simp

/-- What a scalar word that writes xd with `w`, accrues `fl` and draws does to the scalar half before it retires. -/
def fpScalar (mode fl : Nat) (d : Reg) (w : Word) (c : Scalar) : Scalar :=
  { c with
    x := if d.val = 0 then c.x else c.x.set d.val w
    fcsr := c.fcsr ||| (BitVec.ofNat 5 fl).setWidth 8
    gens := if mode = 4 then c.gens.set 0 (Stated.nextDraw c.gens[0]) else c.gens }

theorem accrue_scalarDraw_xw (s : State) (mode fl : Nat) (d : Reg) (w : Word) :
    ((s.scalarDraw mode).1.accrue fl).xw d w = s.sc (fpScalar mode fl d w) := by
  unfold State.scalarDraw State.accrue State.xw Scalar.write fpScalar
  rw [← ofNat_mod_flags]
  by_cases hm : mode = 4 <;> by_cases hd : d.val = 0 <;> simp only [hm, hd, if_true, if_false] <;> rfl

/-- A scalar word that draws where its mode says so, accrues flags and writes xd has retired as `fpAnswered` says. -/
theorem retireX_accrue (s : State) (mode fl : Nat) (d : Reg) (w : Word) :
    retireX ((s.scalarDraw mode).1.accrue fl) d w = .next (Stated.fpAnswered s d w (BitVec.ofNat 5 fl) (Stated.drawn s mode)) := by
  rw [retireX, accrue_scalarDraw_xw]
  rfl

theorem scalarDraw_snd (s : State) (mode : Nat) : (s.scalarDraw mode).2 = scalarDrawn s mode := by
  unfold State.scalarDraw scalarDrawn
  split_ifs <;> rfl

theorem fpDeliver_eq (f : Fmt) (rm : Fin 8) (d : Reg) (r : Nat → Real) (s : State) :
    fpDeliver f rm d r s =
      let v := f.deliver 2 (Stated.modeOf s rm) (scalarDrawn s (Stated.modeOf s rm)) (r (Stated.modeOf s rm))
      .next (Stated.fpAnswered s d (BitVec.ofNat 64 v.1) (BitVec.ofNat 5 v.2) (Stated.drawn s (Stated.modeOf s rm))) := by
  unfold fpDeliver
  simp only [← modeOf_eq_rmOf, retireX_accrue, scalarDraw_snd]

theorem fr_eq_operand (s : State) (fmt : Fin 4) (r : Reg) : s.fr (fmtOf fmt.val) r = Stated.operand s fmt r := rfl

end Sys2Proof.Machine

namespace Sys2Proof.Machine

theorem proper_fp64 : fp64.Proper := ⟨by decide, by decide, by decide⟩
theorem proper_fp32 : fp32.Proper := ⟨by decide, by decide, by decide⟩
theorem proper_fp16 : fp16.Proper := ⟨by decide, by decide, by decide⟩
theorem proper_bf16 : bf16.Proper := ⟨by decide, by decide, by decide⟩
theorem proper_e4m3 : e4m3.Proper := ⟨by decide, by decide, by decide⟩
theorem proper_e5m2 : e5m2.Proper := ⟨by decide, by decide, by decide⟩
theorem proper_e2m1 : e2m1.Proper := ⟨by decide, by decide, by decide⟩

theorem proper_fmtOf (code : Nat) : (fmtOf code).Proper := by
  unfold fmtOf
  split
  · exact proper_fp64
  · exact proper_fp32
  · exact proper_fp16
  · exact proper_bf16
  · exact proper_e4m3
  · exact proper_e5m2

theorem narrow_fmtOf (k : Fin 4) : (fmtOf k.val).narrow = false := by revert k; decide

theorem finite_eq_some_iff {v : FVal} {x : ℝ} :
    Stated.finite v = some x ↔ ∃ n m e, v = .fin n m e ∧ x = withSign n (m * (2 : ℝ) ^ e) := by
  cases v with
  | nan sig => simp [Stated.finite]
  | inf n => simp [Stated.finite]
  | fin n m e =>
    rw [finite_fin, Option.some.injEq]
    constructor
    · rintro rfl; exact ⟨n, m, e, rfl, rfl⟩
    · rintro ⟨n', m', e', h, rfl⟩
      obtain ⟨rfl, rfl, rfl⟩ := FVal.fin.inj h
      rfl

theorem finite_neg {v : FVal} {x : ℝ} (h : Stated.finite v = some x) : Stated.finite v.neg = some (-x) := by
  obtain ⟨n, m, e, rfl, rfl⟩ := finite_eq_some_iff.1 h
  rw [FVal.neg, finite_fin, withSign_neg]

theorem isZero_fin (n : Bool) (m : Nat) (e : Int) : Stated.isZero (.fin n m e) = decide (m = 0) := by
  rw [Bool.eq_iff_iff]; simp [Stated.isZero]

/-! ### Sums, products and their like of finite values -/

theorem addReal_stands {a b : FVal} {x y : ℝ} (ha : Stated.finite a = some x) (hb : Stated.finite b = some y) (rm : Nat) :
    (addReal rm a b).Stands (x + y) (Stated.zeroSum rm a b) := by
  obtain ⟨n1, m1, e1, rfl, rfl⟩ := finite_eq_some_iff.1 ha
  obtain ⟨n2, m2, e2, rfl, rfl⟩ := finite_eq_some_iff.1 hb
  rw [Stated.zeroSum, isZero_fin, isZero_fin]
  exact sumFin_stands rm n1 m1 e1 n2 m2 e2

/-- The product of two finite values is exact. -/
theorem mulVal_finite {a b : FVal} {x y : ℝ} (ha : Stated.finite a = some x) (hb : Stated.finite b = some y) :
    ∃ v, mulVal a b = some v ∧ Stated.finite v = some (x * y) ∧ v.isNeg = (a.isNeg != b.isNeg)
      ∧ Stated.isZero v = (Stated.isZero a || Stated.isZero b) := by
  obtain ⟨n1, m1, e1, rfl, rfl⟩ := finite_eq_some_iff.1 ha
  obtain ⟨n2, m2, e2, rfl, rfl⟩ := finite_eq_some_iff.1 hb
  refine ⟨_, rfl, ?_, rfl, ?_⟩
  · rw [finite_fin, withSign_mul, zpow_add₀ (by norm_num)]
    push_cast
    congr 2
    ring
  · simp only [isZero_fin, Nat.mul_eq_zero, Bool.decide_or]

theorem real_stands {v : FVal} {x : ℝ} (h : Stated.finite v = some x) : v.real.Stands x v.isNeg := by
  obtain ⟨n, m, e, rfl, rfl⟩ := finite_eq_some_iff.1 h
  exact stands_fin n m e

theorem mulReal_stands {a b : FVal} {x y : ℝ} (ha : Stated.finite a = some x) (hb : Stated.finite b = some y) :
    (mulReal a b).Stands (x * y) (a.isNeg != b.isNeg) := by
  obtain ⟨v, hv, hf, hn, -⟩ := mulVal_finite ha hb
  rw [mulReal, hv, ← hn]
  exact real_stands hf

theorem fmaReal_stands {a b c : FVal} {x y z : ℝ} (ha : Stated.finite a = some x) (hb : Stated.finite b = some y) (hc : Stated.finite c = some z)
    (rm : Nat) : (fmaReal rm a b c).Stands (x * y + z)
      (if (Stated.isZero a || Stated.isZero b) && Stated.isZero c && (a.isNeg != b.isNeg) == c.isNeg then c.isNeg else rm == 2) := by
  obtain ⟨v, hv, hf, hn, hz⟩ := mulVal_finite ha hb
  have h := addReal_stands hf hc rm
  rw [Stated.zeroSum, hz, hn] at h
  rw [fmaReal, hv]
  convert h using 1
  by_cases hcond : ((Stated.isZero a || Stated.isZero b) && Stated.isZero c && (a.isNeg != b.isNeg) == c.isNeg) = true
  · rw [if_pos hcond, if_pos hcond]
    simp only [Bool.and_eq_true, beq_iff_eq] at hcond
    exact hcond.2.symm
  · rw [if_neg hcond, if_neg hcond]

theorem quotient_stands {a b : FVal} {x y : ℝ} (ha : Stated.finite a = some x) (hb : Stated.finite b = some y) (hy : y ≠ 0) :
    (divReal a b).Stands (x / y) (a.isNeg != b.isNeg) := by
  obtain ⟨n1, m1, e1, rfl, rfl⟩ := finite_eq_some_iff.1 ha
  obtain ⟨n2, m2, e2, rfl, rfl⟩ := finite_eq_some_iff.1 hb
  exact divReal_stands n1 m1 e1 n2 e2 (by rintro rfl; simp at hy)

theorem root_stands {a : FVal} {x : ℝ} (ha : Stated.finite a = some x) (hx : ¬ x < 0) : (sqrtReal a).Stands (Real.sqrt x) a.isNeg := by
  obtain ⟨n, m, e, rfl, rfl⟩ := finite_eq_some_iff.1 ha
  refine sqrtReal_stands n m e ?_
  by_contra h
  simp only [not_or, Bool.not_eq_false] at h
  have : (0 : ℝ) < m := Nat.cast_pos.2 (Nat.pos_of_ne_zero h.2)
  exact hx ((withSign_lt_zero_iff n (by positivity)).2 h.1)

/-! ### The scalar words that round -/

theorem integer_eq_intOperand (s : State) (ty : Fin 4) (r : Reg) : Stated.integer ty (Stated.reg s r) = s.intOperand ty r := by
  fin_cases ty <;> rfl

theorem exec_fadd (o : OpFp3) (s : State) : exec (.fadd o) s = fpDeliver (fmtOf o.fmt.val) o.rm o.d
    (fun m => addReal m (Stated.operand s o.fmt o.s1) (Stated.operand s o.fmt o.s2)) s := rfl
theorem exec_fsub (o : OpFp3) (s : State) : exec (.fsub o) s = fpDeliver (fmtOf o.fmt.val) o.rm o.d
    (fun m => addReal m (Stated.operand s o.fmt o.s1) (Stated.operand s o.fmt o.s2).neg) s := rfl
theorem exec_fmul (o : OpFp3) (s : State) : exec (.fmul o) s = fpDeliver (fmtOf o.fmt.val) o.rm o.d
    (fun _ => mulReal (Stated.operand s o.fmt o.s1) (Stated.operand s o.fmt o.s2)) s := rfl
theorem exec_fdiv (o : OpFp3) (s : State) : exec (.fdiv o) s = fpDeliver (fmtOf o.fmt.val) o.rm o.d
    (fun _ => divReal (Stated.operand s o.fmt o.s1) (Stated.operand s o.fmt o.s2)) s := rfl
theorem exec_fsqrt (o : OpFp2) (s : State) : exec (.fsqrt o) s = fpDeliver (fmtOf o.fmt.val) o.rm o.d (fun _ => sqrtReal (Stated.operand s o.fmt o.s1)) s := rfl
theorem exec_fma (o : OpFp4) (s : State) : exec (.fma o) s = fpDeliver (fmtOf o.fmt.val) o.rm o.d
    (fun m => fmaReal m (Stated.operand s o.fmt o.s1) (Stated.operand s o.fmt o.s2) (Stated.operand s o.fmt o.s3)) s := rfl
theorem exec_fcvt (o : OpFpCvt) (s : State) : exec (.fcvt o) s = fpDeliver (fmtOf o.ty.val) o.rm o.d (fun _ => (Stated.operand s o.fmt o.s1).real) s := rfl
theorem exec_fcvtf (o : OpFpCvt) (s : State) : exec (.fcvtf o) s = fpDeliver (fmtOf o.fmt.val) o.rm o.d
    (fun _ => ofIntReal (Stated.integer o.ty (Stated.reg s o.s1))) s := by rw [integer_eq_intOperand]; rfl

theorem exact2_eq_some {s : State} {o : OpFp3} {g : ℝ → ℝ → Option ℝ} {zero : FVal → FVal → Bool} {f : Fmt} {rm : Fin 8} {d : Reg} {x : ℝ} {z : Bool}
    (h : Stated.exact2 s o g zero = some (f, rm, d, x, z)) :
    ∃ p q, Stated.finite (Stated.operand s o.fmt o.s1) = some p ∧ Stated.finite (Stated.operand s o.fmt o.s2) = some q ∧ g p q = some x
      ∧ f = fmtOf o.fmt.val ∧ rm = o.rm ∧ d = o.d ∧ z = zero (Stated.operand s o.fmt o.s1) (Stated.operand s o.fmt o.s2) := by
  unfold Stated.exact2 at h
  simp only at h
  split at h
  · next p q hp hq =>
    obtain ⟨r, hr, he⟩ := Option.map_eq_some_iff.1 h
    obtain ⟨rfl, rfl, rfl, rfl, rfl⟩ := by simpa only [Prod.mk.injEq] using he
    exact ⟨p, q, hp, hq, hr, rfl, rfl, rfl, rfl⟩
  · simp at h

/-- A scalar word with an exact result delivers what stands for it, in a format with infinities. -/
theorem exec_of_exactOf {s : State} {i : Instr} {f : Fmt} {rm : Fin 8} {d : Reg} {x : ℝ} {z : Bool}
    (h : Stated.exactOf s i = some (f, rm, d, x, z)) :
    f.Proper ∧ f.narrow = false ∧ ∃ r, exec i s = fpDeliver f rm d r s ∧ (r (Stated.modeOf s rm)).Stands x z := by
  unfold Stated.exactOf at h
  split at h
  case h_1 o =>
    obtain ⟨p, q, hp, hq, hg, rfl, rfl, rfl, rfl⟩ := exact2_eq_some h
    obtain rfl := Option.some.inj hg
    exact ⟨proper_fmtOf _, narrow_fmtOf _, _, exec_fadd o s, addReal_stands hp hq _⟩
  case h_2 o =>
    obtain ⟨p, q, hp, hq, hg, rfl, rfl, rfl, rfl⟩ := exact2_eq_some h
    obtain rfl := Option.some.inj hg
    exact ⟨proper_fmtOf _, narrow_fmtOf _, _, exec_fsub o s, by rw [sub_eq_add_neg]; exact addReal_stands hp (finite_neg hq) _⟩
  case h_3 o =>
    obtain ⟨p, q, hp, hq, hg, rfl, rfl, rfl, rfl⟩ := exact2_eq_some h
    obtain rfl := Option.some.inj hg
    exact ⟨proper_fmtOf _, narrow_fmtOf _, _, exec_fmul o s, mulReal_stands hp hq⟩
  case h_4 o =>
    obtain ⟨p, q, hp, hq, hg, rfl, rfl, rfl, rfl⟩ := exact2_eq_some h
    simp only [Option.ite_none_left_eq_some, Option.some.injEq] at hg
    obtain ⟨hne, rfl⟩ := hg
    exact ⟨proper_fmtOf _, narrow_fmtOf _, _, exec_fdiv o s, quotient_stands hp hq hne⟩
  case h_5 o =>
    split at h
    · next a ha =>
      simp only [Option.ite_none_left_eq_some, Option.some.injEq, Prod.mk.injEq] at h
      obtain ⟨hneg, rfl, rfl, rfl, rfl, rfl⟩ := h
      exact ⟨proper_fmtOf _, narrow_fmtOf _, _, exec_fsqrt o s, root_stands ha hneg⟩
    · simp at h
  case h_6 o =>
    simp only at h
    split at h
    · next p q c hp hq hc =>
      simp only [Option.some.injEq, Prod.mk.injEq] at h
      obtain ⟨rfl, rfl, rfl, rfl, rfl⟩ := h
      exact ⟨proper_fmtOf _, narrow_fmtOf _, _, exec_fma o s, fmaReal_stands hp hq hc _⟩
    · simp at h
  case h_7 o =>
    obtain ⟨a, ha, he⟩ := Option.map_eq_some_iff.1 h
    obtain ⟨rfl, rfl, rfl, rfl, rfl⟩ := by simpa only [Prod.mk.injEq] using he
    exact ⟨proper_fmtOf _, narrow_fmtOf _, _, exec_fcvt o s, real_stands ha⟩
  case h_8 o =>
    simp only [Option.some.injEq, Prod.mk.injEq] at h
    obtain ⟨rfl, rfl, rfl, rfl, rfl⟩ := h
    refine ⟨proper_fmtOf _, narrow_fmtOf _, _, exec_fcvtf o s, ?_⟩
    exact ofIntReal_stands _
  case h_9 => simp at h

end Sys2Proof.Machine

namespace Sys2Proof.Machine

/-! ### Infinities, NaNs and overflow (R76, R88) -/

theorem Fmt.mode_of_not_narrow {f : Fmt} (h : f.narrow = false) (nan : Nat) : f.mode nan = 2 := by rw [Fmt.mode, h]; rfl

theorem Fmt.infCode_add_lt (f : Fmt) {m : Nat} (h : m < 2 ^ f.p) : f.infCode + m < 2 ^ (f.e + f.p) := by
  rw [f.two_pow_eq, Fmt.infCode]; omega

theorem Fmt.infCode_lt (f : Fmt) : f.infCode < 2 ^ (f.e + f.p) := f.infCode_add_lt (Nat.two_pow_pos _)

theorem Fmt.nanCode_lt (f : Fmt) (hf : f.Proper) : f.nanCode < 2 ^ (f.e + f.p) := by
  unfold Fmt.nanCode
  split_ifs
  · exact Nat.sub_lt (Nat.two_pow_pos _) one_pos
  · exact f.infCode_add_lt (Nat.pow_lt_pow_right one_lt_two (by have := hf.one_le_p; omega))

theorem Fmt.decode_inf (f : Fmt) (hf : f.Proper) {nan : Nat} (hm : f.mode nan = 2) (neg : Bool) :
    f.decode nan (f.signBit neg + f.infCode) = .inf neg := by
  have hmag := f.magOf_signBit_add neg f.infCode_lt
  have hq : f.magOf (f.signBit neg + f.infCode) / 2 ^ f.p = 2 ^ f.e - 1 := by
    rw [hmag, Fmt.infCode, Nat.mul_div_cancel _ (Nat.two_pow_pos _)]
  rw [f.decode_top hf hq, hm, f.negOf_signBit_add neg f.infCode_lt, hmag, Fmt.infCode, Nat.mul_mod_left]
  rfl

theorem Fmt.maxCode_eq {f : Fmt} {nan : Nat} (hm : f.mode nan = 2) : f.maxCode nan = f.infCode - 1 := by simp [Fmt.maxCode, hm]

theorem Fmt.infCode_eq (f : Fmt) (hf : f.Proper) : f.infCode = (2 * f.bias + 1) * 2 ^ f.p := by
  rw [Fmt.infCode, f.bias_eq hf]; congr 1

/-- The largest number of a format with infinities is one step below the first that it does not reach. -/
theorem Fmt.maxCode_units (f : Fmt) (hf : f.Proper) {nan : Nat} (hm : f.mode nan = 2) :
    f.maxCode nan = (2 ^ (f.p + 1) - 1) + (2 * f.bias - 1) * 2 ^ f.p ∧ f.maxCode nan + 1 = f.infCode := by
  have hb := f.one_le_bias hf
  have hp := Nat.two_pow_pos f.p
  obtain ⟨b, hb'⟩ := Nat.exists_eq_add_of_le hb
  rw [Fmt.maxCode_eq hm, f.infCode_eq hf, hb', show 2 * (1 + b) - 1 = 2 * b + 1 by omega, show 2 * (1 + b) + 1 = 2 * b + 1 + 2 by ring, add_mul, pow_succ]
  omega

theorem Fmt.grid_infCode (f : Fmt) (hf : f.Proper) : f.grid f.infCode = (2 : ℝ) ^ (f.bias + 1) := by
  rw [f.infCode_eq hf, f.grid_binade, ← zpow_natCast]
  congr 1
  push_cast
  ring

theorem Fmt.grid_maxCode (f : Fmt) (hf : f.Proper) {nan : Nat} (hm : f.mode nan = 2) :
    f.grid (f.maxCode nan) = (2 : ℝ) ^ (f.bias + 1) - (2 : ℝ) ^ ((f.bias : Int) - f.p) := by
  obtain ⟨h1, h2⟩ := f.maxCode_units hf hm
  have hp := Nat.two_pow_pos f.p
  have hstep := f.grid_succ (r := 2 ^ (f.p + 1) - 1) (k := 2 * f.bias - 1) (by have := Nat.two_pow_pos (f.p + 1); omega)
    (.inr (by rw [pow_succ]; omega))
  rw [← h1, h2, f.grid_infCode hf] at hstep
  rw [hstep, Fmt.ulp, show (((2 * f.bias - 1 : Nat) : Int) + 1 - f.bias - f.p) = (f.bias : Int) - f.p by
    have := f.one_le_bias hf; omega]
  ring

theorem Fmt.decode_maxCode (f : Fmt) (hf : f.Proper) {nan : Nat} (hm : f.mode nan = 2) (neg : Bool) :
    f.decode nan (f.signBit neg + f.maxCode nan) = .fin neg (2 ^ (f.p + 1) - 1) ((f.bias : Int) - f.p) := by
  have hmag := f.magOf_signBit_add neg (f.maxCode_lt nan)
  have hb := f.one_le_bias hf
  have hp := Nat.two_pow_pos f.p
  obtain ⟨h1, -⟩ := f.maxCode_units hf hm
  have hq : f.maxCode nan / 2 ^ f.p = 2 * f.bias := by
    rw [h1, Nat.add_mul_div_right _ _ hp, Nat.div_eq_of_lt_le (k := 1) (by rw [pow_succ]; omega) (by rw [pow_succ]; omega)]
    omega
  rw [f.decode_of_le hf hmag.le, hmag, hq, f.negOf_signBit_add neg (f.maxCode_lt nan), h1, Nat.add_sub_cancel, FVal.fin.injEq]
  exact ⟨rfl, rfl, by omega⟩

/-- The largest number of a format is a normal one. -/
theorem Fmt.normal_le_grid_maxCode (f : Fmt) (hf : f.Proper) (nan : Nat) : (2 : ℝ) ^ (1 - (f.bias : Int)) ≤ f.grid (f.maxCode nan) := by
  have hb := f.one_le_bias hf
  have hp := Nat.le_self_pow (n := f.p) (by have := hf.one_le_p; omega) 2
  have hinf := f.infCode_eq hf
  have htwo := f.two_pow_eq
  have hmul := Nat.mul_le_mul_right (2 ^ f.p) (show 3 ≤ 2 * f.bias + 1 by omega)
  have hle : 2 ^ f.p ≤ f.maxCode nan := by
    rw [← Fmt.infCode] at htwo
    unfold Fmt.maxCode
    split <;> omega
  have h := f.grid_binade 0
  rw [zero_add, one_mul, Nat.cast_zero, zero_add] at h
  rw [← h]
  exact f.grid_strictMono.monotone hle

/-- A number beyond the neighbour of the largest one overflows. -/
theorem Fmt.deliver_overflow (f : Fmt) (hf : f.Proper) {nan rm draw : Nat} {r : Real} {x : ℝ} {z : Bool} (h : r.Stands x z)
    (hx : f.grid (f.maxCode nan + 1) ≤ |x|) : f.deliver nan rm draw r =
      (f.signBit (decide (x < 0)) + (if f.mode nan = 2 && overflowToInf rm (decide (x < 0)) then f.infCode else f.maxCode nan), 5) := by
  have h0 : x ≠ 0 := by
    rintro rfl
    rw [abs_zero] at hx
    exact absurd hx (not_le.2 (f.grid_pos (Nat.succ_ne_zero _)))
  obtain ⟨c, -, hhi, he⟩ := (f.deliver_of_stands hf nan rm draw h).1 h0
  have hc : f.maxCode nan < c + 1 := by
    have := f.grid_strictMono.lt_iff_lt.1 (hx.trans_lt hhi)
    omega
  have hstep : f.maxCode nan < f.step rm draw (decide (x < 0)) |x| c := by
    have := f.grid_strictMono.lt_iff_lt.1 (hx.trans_lt hhi)
    rcases f.step_eq_or rm draw (decide (x < 0)) |x| c with h' | h' <;> omega
  rw [he, Fmt.outcome, if_pos hstep]

/-- Between the largest number and its neighbour the mode chooses. -/
theorem Fmt.deliver_band (f : Fmt) (hf : f.Proper) {nan rm draw : Nat} {r : Real} {x : ℝ} {z : Bool} (h : r.Stands x z)
    (hlo : f.grid (f.maxCode nan) < |x|) (hhi : |x| < f.grid (f.maxCode nan + 1)) :
    let up := RoundsUp rm draw (decide (x < 0)) (f.maxCode nan % 2 = 1)
      ((|x| - f.grid (f.maxCode nan)) / (f.grid (f.maxCode nan + 1) - f.grid (f.maxCode nan)))
    (up → f.deliver nan rm draw r =
      (f.signBit (decide (x < 0)) + (if f.mode nan = 2 && overflowToInf rm (decide (x < 0)) then f.infCode else f.maxCode nan), 5))
    ∧ (¬ up → f.deliver nan rm draw r = (f.signBit (decide (x < 0)) + f.maxCode nan, 1)) := by
  have h0 : x ≠ 0 := by
    rintro rfl
    rw [abs_zero] at hlo
    exact absurd hlo (not_lt.2 (f.grid_nonneg _))
  obtain ⟨c, hle, hgt, he⟩ := (f.deliver_of_stands hf nan rm draw h).1 h0
  obtain rfl : c = f.maxCode nan := by
    have h1 := f.grid_strictMono.lt_iff_lt.1 (hlo.trans hgt)
    have h2 := f.grid_strictMono.lt_iff_lt.1 (hle.trans_lt hhi)
    omega
  refine ⟨fun hup => ?_, fun hup => ?_⟩
  · have hs := ((f.step_eq_or rm draw (decide (x < 0)) |x| (f.maxCode nan)).resolve_left fun h' => h'.2 hup).1
    rw [he, hs, Fmt.outcome, if_pos (Nat.lt_succ_self _)]
  · have hs := ((f.step_eq_or rm draw (decide (x < 0)) |x| (f.maxCode nan)).resolve_right fun h' => hup h'.2).1
    rw [he, hs, Fmt.outcome, if_neg (lt_irrefl _), if_neg hlo.ne', if_neg (not_lt.2 ((f.normal_le_grid_maxCode hf nan).trans hlo.le))]

/-! ### Operands that are not all finite -/

/-- The exact result that delivers a limit: a NaN, an infinity or a zero. -/
def limitReal : FVal × Bool → Real
  | (.nan _, nv) => .nan nv
  | (.inf neg, _) => .inf neg false
  | (.fin neg _ _, _) => .num neg 0 0 false

/-- An operation whose operands have the limit `v`: only a NaN is invalid. -/
def Limited (r : Real) (v : FVal × Bool) : Prop := r = limitReal v ∧ (v.2 = true → Stated.isNaN v.1 = true)

theorem limited_addReal {a b : FVal} {v : FVal × Bool} (h : Stated.sumLimit a b = some v) (rm : Nat) : Limited (addReal rm a b) v := by
  cases a <;> cases b <;> simp only [Stated.sumLimit, Stated.isNaN, Stated.signal, Bool.or_self, Bool.or_true, Bool.or_false,
    Bool.false_or, Bool.false_eq_true, if_true, if_false, Option.some.injEq, reduceCtorEq] at h <;> subst h
  case inf.inf m n => by_cases hmn : m = n <;> simp [Limited, addReal, limitReal, hmn, Stated.isNaN]
  all_goals simp [Limited, addReal, limitReal, FVal.isSig, Stated.isNaN]

theorem limited_mulReal {a b : FVal} {v : FVal × Bool} (h : Stated.productLimit a b = some v) : Limited (mulReal a b) v := by
  cases a <;> cases b <;> simp only [Stated.productLimit, Stated.isNaN, Stated.signal, Bool.or_self, Bool.or_true, Bool.or_false,
    Bool.false_or, Bool.false_eq_true, if_true, if_false, Option.some.injEq, reduceCtorEq] at h <;> subst h
  case inf.fin m n k e => by_cases hk : k = 0 <;> simp [Limited, Stated.isNaN, mulReal, mulVal, limitReal, Stated.isZero, hk, FVal.isNeg, FVal.real]
  case fin.inf n k e m => by_cases hk : k = 0 <;> simp [Limited, Stated.isNaN, mulReal, mulVal, limitReal, Stated.isZero, hk, FVal.isNeg, FVal.real]
  all_goals simp [Limited, Stated.isNaN, mulReal, mulVal, limitReal, FVal.isSig, FVal.real, Stated.isZero, FVal.isNeg]

theorem limited_divReal {a b : FVal} {v : FVal × Bool} (h : Stated.quotientLimit a b = some v) : Limited (divReal a b) v := by
  cases a <;> cases b <;> simp only [Stated.quotientLimit, Stated.isNaN, Stated.signal, Bool.or_self, Bool.or_true, Bool.or_false,
    Bool.false_or, Bool.false_eq_true, if_true, if_false, Option.some.injEq, Option.ite_none_right_eq_some, Bool.and_eq_true,
    isZero_fin, decide_eq_true_eq] at h
  case fin.fin n1 m1 e1 n2 m2 e2 =>
    obtain ⟨⟨h1, h2⟩, rfl⟩ := h
    simp [Limited, Stated.isNaN, divReal, limitReal, h1, h2]
  all_goals subst h; simp [Limited, Stated.isNaN, divReal, limitReal, FVal.isSig, FVal.isNeg]

theorem limited_sqrtReal {a : FVal} {v : FVal × Bool} (h : Stated.rootLimit a = some v) : Limited (sqrtReal a) v := by
  cases a <;> simp only [Stated.rootLimit, Option.some.injEq, reduceCtorEq] at h <;> subst h
  case inf n => cases n <;> simp [Limited, sqrtReal, limitReal, Stated.isNaN]
  case nan sig => exact ⟨rfl, fun _ => rfl⟩

theorem limited_real {a : FVal} {v : FVal × Bool} (h : Stated.sameLimit a = some v) : Limited a.real v := by
  cases a <;> simp only [Stated.sameLimit, Option.some.injEq, reduceCtorEq] at h <;> subst h <;>
    simp [Limited, FVal.real, limitReal, Stated.isNaN]

/-- Where a product has a limit it is invalid or the value that the limit says, a NaN with its signal. -/
theorem mulVal_of_productLimit {a b : FVal} {v : FVal × Bool} (h : Stated.productLimit a b = some v) :
    mulVal a b = none ∧ v = (.nan false, true) ∨ (∃ sig, mulVal a b = some (.nan sig) ∧ v = (.nan false, sig))
      ∨ ∃ n, mulVal a b = some (.inf n) ∧ v = (.inf n, false) := by
  cases a <;> cases b <;> simp only [Stated.productLimit, Stated.isNaN, Stated.signal, Bool.or_self, Bool.or_true, Bool.or_false,
    Bool.false_or, Bool.false_eq_true, if_true, if_false, Option.some.injEq, reduceCtorEq] at h <;> subst h
  case inf.fin m n k e => by_cases hk : k = 0 <;> simp [mulVal, Stated.isZero, hk, FVal.isNeg]
  case fin.inf n k e m => by_cases hk : k = 0 <;> simp [mulVal, Stated.isZero, hk, FVal.isNeg]
  all_goals simp [mulVal, FVal.isSig, Stated.isZero, FVal.isNeg]

/-- Where a product has no limit both operands are finite. -/
theorem finite_of_productLimit_none {a b : FVal} (h : Stated.productLimit a b = none) :
    (∃ n m e, a = .fin n m e) ∧ ∃ n m e, b = .fin n m e := by
  cases a <;> cases b <;> simp [Stated.productLimit, Stated.isNaN] at h ⊢

theorem limited_fmaReal {a b c : FVal} {v : FVal × Bool} (h : Stated.fusedLimit a b c = some v) (rm : Nat) :
    Limited (fmaReal rm a b c) v := by
  unfold Stated.fusedLimit at h
  rcases hp : Stated.productLimit a b with _ | p
  · obtain ⟨⟨n1, m1, e1, rfl⟩, n2, m2, e2, rfl⟩ := finite_of_productLimit_none hp
    rw [hp] at h
    cases c <;> simp only [Stated.isNaN, Stated.signal, if_true, if_false, Bool.false_eq_true, Option.some.injEq, reduceCtorEq] at h <;>
      subst h <;> simp [Limited, fmaReal, mulVal, addReal, limitReal, Stated.isNaN]
  · rw [hp] at h
    rw [fmaReal]
    rcases mulVal_of_productLimit hp with ⟨hm, rfl⟩ | ⟨sig, hm, rfl⟩ | ⟨n, hm, rfl⟩ <;> rw [hm]
    · obtain rfl := Option.some.inj h; exact ⟨rfl, fun _ => rfl⟩
    · cases sig
      · exact limited_addReal h rm
      · obtain rfl := Option.some.inj h
        exact ⟨by simp [addReal, limitReal], fun _ => rfl⟩
    · exact limited_addReal h rm

/-- A scalar word whose operands have a limit delivers it. -/
theorem exec_of_limitOf {s : State} {i : Instr} {f : Fmt} {rm : Fin 8} {d : Reg} {v : FVal} {nv : Bool}
    (h : Stated.limitOf s i = some (f, rm, d, v, nv)) :
    f.Proper ∧ f.narrow = false ∧ ∃ r, exec i s = fpDeliver f rm d r s ∧ Limited (r (Stated.modeOf s rm)) (v, nv) := by
  unfold Stated.limitOf at h
  simp only at h
  split at h
  case h_1 o =>
    obtain ⟨v, hv, he⟩ := Option.map_eq_some_iff.1 h
    obtain ⟨rfl, rfl, rfl, rfl, rfl⟩ := by simpa only [Prod.ext_iff] using he
    exact ⟨proper_fmtOf _, narrow_fmtOf _, _, exec_fadd o s, limited_addReal hv _⟩
  case h_2 o =>
    obtain ⟨v, hv, he⟩ := Option.map_eq_some_iff.1 h
    obtain ⟨rfl, rfl, rfl, rfl, rfl⟩ := by simpa only [Prod.ext_iff] using he
    exact ⟨proper_fmtOf _, narrow_fmtOf _, _, exec_fsub o s, limited_addReal hv _⟩
  case h_3 o =>
    obtain ⟨v, hv, he⟩ := Option.map_eq_some_iff.1 h
    obtain ⟨rfl, rfl, rfl, rfl, rfl⟩ := by simpa only [Prod.ext_iff] using he
    exact ⟨proper_fmtOf _, narrow_fmtOf _, _, exec_fmul o s, limited_mulReal hv⟩
  case h_4 o =>
    obtain ⟨v, hv, he⟩ := Option.map_eq_some_iff.1 h
    obtain ⟨rfl, rfl, rfl, rfl, rfl⟩ := by simpa only [Prod.ext_iff] using he
    exact ⟨proper_fmtOf _, narrow_fmtOf _, _, exec_fdiv o s, limited_divReal hv⟩
  case h_5 o =>
    obtain ⟨v, hv, he⟩ := Option.map_eq_some_iff.1 h
    obtain ⟨rfl, rfl, rfl, rfl, rfl⟩ := by simpa only [Prod.ext_iff] using he
    exact ⟨proper_fmtOf _, narrow_fmtOf _, _, exec_fsqrt o s, limited_sqrtReal hv⟩
  case h_6 o =>
    obtain ⟨v, hv, he⟩ := Option.map_eq_some_iff.1 h
    obtain ⟨rfl, rfl, rfl, rfl, rfl⟩ := by simpa only [Prod.ext_iff] using he
    exact ⟨proper_fmtOf _, narrow_fmtOf _, _, exec_fma o s, limited_fmaReal hv _⟩
  case h_7 o =>
    obtain ⟨v, hv, he⟩ := Option.map_eq_some_iff.1 h
    obtain ⟨rfl, rfl, rfl, rfl, rfl⟩ := by simpa only [Prod.ext_iff] using he
    exact ⟨proper_fmtOf _, narrow_fmtOf _, _, exec_fcvt o s, limited_real hv⟩
  case h_8 => simp at h

/-- What a limit delivers is its code. -/
theorem Fmt.deliver_limit (f : Fmt) (hf : f.Proper) (hn : f.narrow = false) (rm draw : Nat) {r : Real} {v : FVal} {nv : Bool}
    (h : Limited r (v, nv)) :
    Stated.IsCode f v (f.deliver 2 rm draw r).1 ∧ (f.deliver 2 rm draw r).2 = if nv then 16 else 0 := by
  obtain ⟨rfl, hnv⟩ := h
  have hm := Fmt.mode_of_not_narrow hn 2
  cases v with
  | nan sig =>
    simp only [limitReal, Fmt.deliver, hm, OfNat.ofNat_ne_zero, if_false]
    exact ⟨⟨by simpa [Fmt.signBit] using f.signBit_add_lt false (f.nanCode_lt hf), rfl⟩, rfl⟩
  | inf neg =>
    obtain rfl : nv = false := by simpa [Stated.isNaN] using hnv
    simp only [limitReal, Fmt.deliver, hm]
    exact ⟨⟨f.signBit_add_lt neg f.infCode_lt, f.decode_inf hf hm neg⟩, rfl⟩
  | fin neg m e =>
    obtain rfl : nv = false := by simpa [Stated.isNaN] using hnv
    have hdec := f.decode_of_le hf (nan := 2) (c := f.signBit neg + 0) (by rw [f.magOf_signBit_add neg (Nat.two_pow_pos _)]; exact Nat.zero_le _)
    rw [f.magOf_signBit_add neg (Nat.two_pow_pos _), f.negOf_signBit_add neg (Nat.two_pow_pos _)] at hdec
    refine ⟨⟨f.signBit_add_lt neg (Nat.two_pow_pos _), ?_, ?_⟩, rfl⟩
    · exact (congrArg Stated.isZero hdec).trans (by simp [isZero_fin])
    · exact congrArg FVal.isNeg hdec

end Sys2Proof.Machine

namespace Sys2Proof.Machine

/-! ### Rounding to an integer's type (R94) -/

/-- The integers, as the numbers among which a conversion chooses. -/
def IsInteger (z : ℝ) : Prop := ∃ j : Int, z = j

theorem integer_neighbours (n : Nat) {a : ℝ} (hlo : (n : ℝ) ≤ a) (hhi : a < (n : ℝ) + 1) : Neighbours IsInteger n a (n + 1) where
  symm z := fun ⟨j, hj⟩ => ⟨-j, by rw [hj]; push_cast; rfl⟩
  zero_le := Nat.cast_nonneg n
  holds := ⟨n, by simp⟩
  lo_le := hlo
  lt_hi := hhi
  gap z := by
    rintro ⟨j, rfl⟩ -
    rcases le_or_gt j (n : Int) with h | h
    · exact .inl (by exact_mod_cast h)
    · exact .inr (by exact_mod_cast h)

/-- The nearest end of a type where an integer lies beyond it, with NV; else the integer, with NX where it was rounded (R94). -/
noncomputable def toIntOutcome (x : ℝ) (lo hi k : Int) : Int × Nat :=
  if k < lo then (lo, 16) else if hi < k then (hi, 16) else (k, by classical exact if x = k then 0 else 1)

theorem sInt_parity (neg : Bool) (r : Nat) : sInt neg r % 2 = 0 ↔ r % 2 = 0 := by
  cases neg <;> simp only [sInt, Bool.false_eq_true, if_true, if_false] <;> omega

/-- R94: a finite value is rounded to an integer by the mode, and clamped to the type. -/
theorem toIntReal_fin (rm draw : Nat) (neg : Bool) (m : Nat) (e : Int) :
    ∃ k : Int, Stated.Chosen IsInteger (k % 2 = 0) rm draw (withSign neg (m * (2 : ℝ) ^ e)) k
      ∧ ∀ (sgn : Bool) (w : Nat), toIntReal rm draw sgn w (.num neg m e false)
          = toIntOutcome (withSign neg (m * (2 : ℝ) ^ e)) (if sgn then -(2 ^ (w - 1) : Nat) else 0)
              (if sgn then (2 ^ (w - 1) : Nat) - 1 else (2 ^ w : Nat) - 1) k := by
  classical
  have key : ∀ (r : Nat) (inexact : Bool),
      (if 0 ≤ e then (m * 2 ^ e.toNat, false) else roundShift rm draw neg m (-e).toNat false) = (r, inexact) →
      (inexact = true ↔ withSign neg (m * (2 : ℝ) ^ e) ≠ ((sInt neg r : Int) : ℝ)) → ∀ (sgn : Bool) (w : Nat),
      toIntReal rm draw sgn w (.num neg m e false) = toIntOutcome (withSign neg (m * (2 : ℝ) ^ e)) (if sgn then -(2 ^ (w - 1) : Nat) else 0)
              (if sgn then (2 ^ (w - 1) : Nat) - 1 else (2 ^ w : Nat) - 1) (sInt neg r) := by
    intro r inexact hr hin sgn w
    simp only [toIntReal, hr, toIntOutcome]
    congr 2
    cases inexact
    · rw [if_neg Bool.false_ne_true, if_pos (not_ne_iff.1 fun h => absurd (hin.2 h) Bool.false_ne_true)]
    · rw [if_pos rfl, if_neg (hin.1 rfl)]; rfl
  by_cases he : 0 ≤ e
  · obtain ⟨n, rfl⟩ := Int.eq_ofNat_of_zero_le he
    have hval : (m : ℝ) * (2 : ℝ) ^ ((n : Int)) = (m * 2 ^ n : Nat) := by rw [zpow_natCast]; push_cast; rfl
    refine ⟨sInt neg (m * 2 ^ n), ?_, key _ false (by rw [if_pos he, Int.toNat_natCast]) (by rw [hval, sInt_cast]; simp)⟩
    have h := (integer_neighbours (m * 2 ^ n) le_rfl (lt_add_one _)).chosen (mode := rm) (draw := draw) neg
      (odd := m * 2 ^ n % 2 = 1) (even := sInt neg (m * 2 ^ n) % 2 = 0) (fun _ ho => (sInt_parity _ _).2 (by omega))
      (fun hup _ => by rw [sub_self, zero_div] at hup; exact absurd hup (not_roundsUp_zero _ _ _ _)) (.inl rfl)
    rw [sub_self, zero_div, if_neg (not_roundsUp_zero _ _ _ _)] at h
    rwa [hval, sInt_cast]
  · obtain ⟨n, hn⟩ := Int.eq_ofNat_of_zero_le (show 0 ≤ -e by omega)
    obtain rfl : e = -(n : Int) := by omega
    have hrs := roundShift_eq rm draw neg (m := m) (sh := n) tail_false (by simp)
    have hval : (m : ℝ) * (2 : ℝ) ^ (-(n : Int)) = (m / 2 ^ n : Nat) + part m n 0 := by
      rw [← add_div_eq_floor_add_part, add_zero, zpow_neg, zpow_natCast, div_eq_mul_inv]
    obtain ⟨h0, h1⟩ := part_bounds (m := m) (sh := n) tail_false
    have h := (integer_neighbours (m / 2 ^ n) (a := (m / 2 ^ n : Nat) + part m n 0) (by linarith) (by linarith)).chosen (mode := rm) (draw := draw) neg
      (odd := m / 2 ^ n % 2 = 1)
      (even := sInt neg (m / 2 ^ n + if RoundsUp rm draw neg (m / 2 ^ n % 2 = 1) (part m n 0) then 1 else 0) % 2 = 0)
    rw [add_sub_cancel_left, add_sub_cancel_left, div_one] at h
    refine ⟨sInt neg (m / 2 ^ n + if RoundsUp rm draw neg (m / 2 ^ n % 2 = 1) (part m n 0) then 1 else 0), ?_,
      key _ _ (by rw [if_neg he, neg_neg, Int.toNat_natCast]; exact hrs) ?_⟩
    · rw [hval, sInt_cast]
      convert h (fun hn ho => (sInt_parity _ _).2 (by rw [if_neg hn]; omega)) (fun hu ho => (sInt_parity _ _).2 (by rw [if_pos hu]; omega))
        (.inr ⟨((m / 2 ^ n : Nat) : Int) + 1, by rw [Int.cast_add, Int.cast_natCast, Int.cast_one]⟩) using 2
      split_ifs <;> simp
    · rw [decide_eq_true_iff, hval, sInt_cast]
      refine not_congr ?_
      have hinj : ∀ u v : ℝ, withSign neg u = withSign neg v ↔ u = v := by intro u v; cases neg <;> simp
      rw [hinj]
      split_ifs with hup
      · have hne : part m n 0 ≠ 0 := fun h0 => by rw [h0] at hup; exact not_roundsUp_zero _ _ _ _ hup
        simp only [hne, false_iff]
        push_cast
        intro he'
        linarith
      · simp

theorem fpToInt_eq (o : OpFpCvt) (s : State) : exec (.fcvti o) s =
    let v := toIntReal (Stated.modeOf s o.rm) (scalarDrawn s (Stated.modeOf s o.rm)) (nbit o.ty.val 0) (if nbit o.ty.val 1 then 64 else 32)
      (Stated.operand s o.fmt o.s1).real
    .next (Stated.fpAnswered s o.d (BitVec.ofInt 64 v.1) (BitVec.ofNat 5 v.2) (Stated.drawn s (Stated.modeOf s o.rm))) := by
  have h : exec (.fcvti o) s = fpToInt (fmtOf o.fmt.val) o s := rfl
  rw [h, fpToInt]
  simp only [← modeOf_eq_rmOf, retireX_accrue, scalarDraw_snd]
  rfl

/-! ### The draw matters in stochastic mode alone -/

theorem chosen_draw {F : ℝ → Prop} {even : Prop} {mode : Nat} {x y : ℝ} (s : State) (hm : mode ≤ 4)
    (h : Stated.Chosen F even mode (scalarDrawn s mode) x y) : Stated.Chosen F even mode (Stated.nextDraw s.hart.sc.gens[0]).toNat x y := by
  match mode, hm with
  | 0, _ | 1, _ | 2, _ | 3, _ => exact h
  | 4, _ => rwa [scalarDrawn, if_pos rfl] at h

theorem rounds_draw {f : Fmt} {nan mode : Nat} {x : ℝ} {z : Bool} {c fl : Nat} (s : State) (hm : mode ≤ 4)
    (h : Stated.Rounds f nan mode (scalarDrawn s mode) x z c fl) : Stated.Rounds f nan mode (Stated.nextDraw s.hart.sc.gens[0]).toNat x z c fl := by
  obtain ⟨h1, h2, y, h3, h4, h5⟩ := h
  exact ⟨h1, h2, y, h3, chosen_draw s hm h4, h5⟩

/-! ### What the scalar words deliver -/

theorem deliveredExactly : Stated.DeliveredExactly := by
  intro row hrow o s a b c f ha hb hne hc hv
  have key : ∀ {i : Instr}, (∃ z, Stated.exactOf s i = some (f, o.rm, o.d, row.2 a b, z)) →
      exec i s = .next (Stated.fpAnswered s o.d (BitVec.ofNat 64 c) 0 (Stated.drawn s (Stated.modeOf s o.rm))) := by
    rintro i ⟨z, hi⟩
    obtain ⟨hf, -, r, he, hr⟩ := exec_of_exactOf hi
    rw [he, fpDeliver_eq, f.deliver_exact hf hr hne hc hv]
    rfl
  simp only [List.mem_cons, List.not_mem_nil, or_false] at hrow
  rcases hrow with rfl | rfl | rfl <;> exact key ⟨_, by simp only [Stated.exactOf, Stated.exact2, ha, hb]; rfl⟩

theorem resultsAreRounded : Stated.ResultsAreRounded := by
  intro i s f rm d x z h hm hx
  obtain ⟨hf, -, r, he, hr⟩ := exec_of_exactOf h
  exact ⟨_, _, rounds_draw s hm (f.rounds_deliver hf hr ((f.reaches_iff hf).1 hx)), by rw [he, fpDeliver_eq]⟩

end Sys2Proof.Machine

namespace Sys2Proof.Machine

/-- An infinite overflow is that of the modes that do not turn back to the largest number (R88). -/
theorem overflowToInf_eq_false_iff {mode : Nat} {x : ℝ} (hm : mode ≤ 4) (hx : x ≠ 0) :
    overflowToInf mode (decide (x < 0)) = false ↔ mode = 1 ∨ mode = 2 ∧ 0 < x ∨ mode = 3 ∧ x < 0 := by
  have hlt : 0 < x ↔ ¬ x < 0 := ⟨fun h => h.not_gt, fun h => (not_lt.1 h).lt_of_ne hx.symm⟩
  match mode, hm with
  | 0, _ | 1, _ | 4, _ => simp [overflowToInf]
  | 2, _ => simp [overflowToInf, hlt]
  | 3, _ => simp [overflowToInf]

theorem overflows (i : Instr) (s : State) (f : Fmt) (rm : Fin 8) (d : Reg) (x : ℝ) (z : Bool)
    (h : Stated.exactOf s i = some (f, rm, d, x, z)) (hm : Stated.modeOf s rm ≤ 4) (hx : (2 : ℝ) ^ (f.bias + 1) ≤ |x|) :
    ∃ c, f.decode 2 c = (if Stated.modeOf s rm = 1 ∨ Stated.modeOf s rm = 2 ∧ 0 < x ∨ Stated.modeOf s rm = 3 ∧ x < 0
          then .fin (decide (x < 0)) (2 ^ (f.p + 1) - 1) ((f.bias : Int) - f.p) else .inf (decide (x < 0)))
      ∧ c < 2 ^ f.width
      ∧ exec i s = .next (Stated.fpAnswered s d (BitVec.ofNat 64 c) 5 (Stated.drawn s (Stated.modeOf s rm))) := by
  obtain ⟨hf, hn, r, he, hr⟩ := exec_of_exactOf h
  have hmode := Fmt.mode_of_not_narrow hn 2
  obtain ⟨-, hmax⟩ := f.maxCode_units hf hmode
  have hx0 : x ≠ 0 := by rintro rfl; rw [abs_zero] at hx; exact absurd hx (not_le.2 (by positivity))
  have hd := f.deliver_overflow hf (nan := 2) (rm := Stated.modeOf s rm) (draw := scalarDrawn s (Stated.modeOf s rm)) hr
    (by rwa [hmax, f.grid_infCode hf])
  rw [he, fpDeliver_eq, hd]
  refine ⟨_, ?_, ?_, rfl⟩
  · rw [hmode]
    by_cases hc : overflowToInf (Stated.modeOf s rm) (decide (x < 0)) = false
    · rw [if_pos ((overflowToInf_eq_false_iff hm hx0).1 hc), hc, Bool.and_false, if_neg Bool.false_ne_true, f.decode_maxCode hf hmode]
    · rw [if_neg (mt (overflowToInf_eq_false_iff hm hx0).2 hc), eq_true_of_ne_false hc]
      exact f.decode_inf hf hmode _
  · split_ifs
    · exact f.signBit_add_lt _ f.infCode_lt
    · exact f.signBit_add_lt _ (f.maxCode_lt 2)

theorem Fmt.maxCode_odd (f : Fmt) (hf : f.Proper) {nan : Nat} (hm : f.mode nan = 2) : f.maxCode nan % 2 = 1 := by
  obtain ⟨p, hp⟩ := Nat.exists_eq_add_of_le' hf.one_le_p
  have h2 : (2 * f.bias - 1) * (2 ^ p * 2) = 2 * ((2 * f.bias - 1) * 2 ^ p) := by ring
  rw [(f.maxCode_units hf hm).1, hp, pow_succ, pow_succ, h2]
  have := Nat.two_pow_pos p
  omega

/-- The band between the largest number and its neighbour: which way each mode goes. -/
theorem roundsUp_band_iff {mode draw : Nat} {x most next : ℝ} (hm : mode ≤ 4) (hlo : most < |x|) (hhi : |x| < next) (h0 : x ≠ 0) :
    RoundsUp mode draw (decide (x < 0)) True ((|x| - most) / (next - most)) ↔
      match mode with
      | 0 => most + next ≤ 2 * |x|
      | 1 => False
      | 2 => x < 0
      | 3 => 0 < x
      | _ => (draw : Int) < ⌊2 ^ 32 * (|x| - most) / (next - most)⌋ := by
  have hgap : 0 < next - most := by linarith
  have hne : (|x| - most) / (next - most) ≠ 0 := (div_pos (by linarith) hgap).ne'
  match mode, hm with
  | 0, _ =>
    simp only [RoundsUp, and_true]
    rw [← le_iff_lt_or_eq', le_div_iff₀ hgap]
    constructor <;> intro h <;> linarith
  | 1, _ => rfl
  | 2, _ => simp only [RoundsUp, decide_eq_true_eq, hne, ne_eq, not_false_eq_true, and_true]
  | 3, _ =>
    simp only [RoundsUp, decide_eq_false_iff_not, hne, ne_eq, not_false_eq_true, and_true, not_lt]
    exact ⟨fun h => h.lt_of_ne h0.symm, le_of_lt⟩
  | 4, _ => simp only [RoundsUp, mul_div_assoc]

/-- Where a mode goes up in the band, it overflows to infinity. -/
theorem overflowToInf_of_roundsUp {mode draw : Nat} {neg : Bool} {fr : ℝ} (hm : mode ≤ 4) (h : RoundsUp mode draw neg True fr) :
    overflowToInf mode neg = true := by
  match mode, hm with
  | 0, _ | 4, _ => rfl
  | 1, _ => exact h.elim
  | 2, _ => exact h.1
  | 3, _ => simp [overflowToInf, h.1]

theorem bandResults (i : Instr) (s : State) (f : Fmt) (rm : Fin 8) (d : Reg) (x : ℝ) (z : Bool) :
    let most := (2 : ℝ) ^ (f.bias + 1) - (2 : ℝ) ^ ((f.bias : Int) - f.p)
    let next := (2 : ℝ) ^ (f.bias + 1)
    Stated.exactOf s i = some (f, rm, d, x, z) → Stated.modeOf s rm ≤ 4 → most < |x| → |x| < next →
    let up := match Stated.modeOf s rm with
      | 0 => most + next ≤ 2 * |x|
      | 1 => False
      | 2 => x < 0
      | 3 => 0 < x
      | _ => ((Stated.nextDraw s.hart.sc.gens[0]).toNat : Int) < ⌊2 ^ 32 * (|x| - most) / (next - most)⌋
    ∃ c fl, c < 2 ^ f.width ∧ (up → f.decode 2 c = .inf (decide (x < 0)) ∧ fl = 5)
      ∧ (¬ up → Stated.finite (f.decode 2 c) = some (if x < 0 then -most else most) ∧ fl = 1)
      ∧ exec i s = .next (Stated.fpAnswered s d (BitVec.ofNat 64 c) fl (Stated.drawn s (Stated.modeOf s rm))) := by
  intro most next h hm hlo hhi up
  obtain ⟨hf, hn, r, he, hr⟩ := exec_of_exactOf h
  have hmode := Fmt.mode_of_not_narrow hn 2
  obtain ⟨-, hmax⟩ := f.maxCode_units hf hmode
  have hmost : f.grid (f.maxCode 2) = most := f.grid_maxCode hf hmode
  have hnext : f.grid (f.maxCode 2 + 1) = next := by rw [hmax, f.grid_infCode hf]
  have hodd : (f.maxCode 2 % 2 = 1) = True := eq_true (f.maxCode_odd hf hmode)
  have hpos : 0 < most := by
    rw [← hmost]
    exact lt_of_lt_of_le (by positivity) (f.normal_le_grid_maxCode hf 2)
  have h0 : x ≠ 0 := by rintro rfl; rw [abs_zero] at hlo; exact absurd hlo (not_lt.2 hpos.le)
  have hband := f.deliver_band hf (nan := 2) (rm := Stated.modeOf s rm) (draw := scalarDrawn s (Stated.modeOf s rm)) hr
    (by rwa [hmost]) (by rwa [hnext])
  simp only [hodd, hmost, hnext] at hband
  have hiff : RoundsUp (Stated.modeOf s rm) (scalarDrawn s (Stated.modeOf s rm)) (decide (x < 0)) True ((|x| - most) / (next - most)) ↔ up := by
    rw [roundsUp_band_iff hm hlo hhi h0]
    simp only [up]
    generalize Stated.modeOf s rm = mode at *
    match mode, hm with
    | 0, _ | 1, _ | 2, _ | 3, _ => rfl
    | 4, _ => rw [scalarDrawn, if_pos rfl]; exact Iff.rfl
  rw [he, fpDeliver_eq]
  by_cases hup : up
  · have hd := hband.1 (hiff.2 hup)
    rw [hmode, overflowToInf_of_roundsUp hm (hiff.2 hup)] at hd
    rw [hd]
    exact ⟨_, 5, f.signBit_add_lt _ f.infCode_lt, fun _ => ⟨f.decode_inf hf hmode _, rfl⟩, fun hn => absurd hup hn, rfl⟩
  · have hd := hband.2 (mt hiff.1 hup)
    rw [hd]
    have hlt := f.maxCode_lt 2
    refine ⟨_, 1, f.signBit_add_lt _ hlt, fun hn => absurd hn hup, fun _ => ⟨?_, rfl⟩, rfl⟩
    rw [f.finite_decode_eq_some_iff hf, f.magOf_signBit_add _ hlt, f.negOf_signBit_add _ hlt, hmost]
    refine ⟨le_rfl, ?_⟩
    by_cases hx : x < 0 <;> simp [hx]

theorem specialResults : Stated.SpecialResults := by
  refine ⟨overflows, bandResults, ?_, ?_, ?_⟩
  · intro i s f rm d v nv h
    obtain ⟨hf, hn, r, he, hr⟩ := exec_of_limitOf h
    obtain ⟨hc, hfl⟩ := f.deliver_limit hf hn (Stated.modeOf s rm) (scalarDrawn s (Stated.modeOf s rm)) hr
    refine ⟨_, hc, ?_⟩
    rw [he, fpDeliver_eq]
    simp only [hfl]
    cases nv <;> rfl
  · intro o s x ha hx hb
    obtain ⟨n1, m1, e1, ha', rfl⟩ := finite_eq_some_iff.1 ha
    obtain ⟨n2, m2, e2, hb', h0⟩ := finite_eq_some_iff.1 hb
    have hm1 : m1 ≠ 0 := by rintro rfl; simp at hx
    have hm2 : m2 = 0 := by
      have := (withSign_eq_zero_iff n2 _).1 h0.symm
      simpa [zpow_ne_zero] using this
    have hmode := Fmt.mode_of_not_narrow (narrow_fmtOf o.fmt) 2
    refine ⟨_, (fmtOf o.fmt.val).signBit_add_lt (n1 != n2) (fmtOf o.fmt.val).infCode_lt, ?_, ?_⟩
    · rw [ha', hb']; exact Fmt.decode_inf _ (proper_fmtOf _) hmode _
    · rw [exec_fdiv, fpDeliver_eq, ha', hb']
      simp only [divReal, hm2, hm1, if_true, if_false, Fmt.deliver, hmode]
      rfl
  · intro o s x ha hx
    obtain ⟨n, m, e, ha', rfl⟩ := finite_eq_some_iff.1 ha
    have hm : m ≠ 0 := by rintro rfl; simp at hx
    obtain rfl : n = true := (withSign_lt_zero_iff n (mul_pos (Nat.cast_pos.2 (Nat.pos_of_ne_zero hm)) (by positivity))).1 hx
    have hmode := Fmt.mode_of_not_narrow (narrow_fmtOf o.fmt) 2
    rw [exec_fsqrt, fpDeliver_eq, ha']
    simp only [sqrtReal, hm, if_true, if_false, Fmt.deliver, hmode, OfNat.ofNat_ne_zero]
    rfl

theorem fcvtiResults : Stated.FcvtiResults := by
  intro o s hm n lo hi answer
  have hsgn : nbit o.ty.val 0 = decide (o.ty.val % 2 = 1) ∧ nbit o.ty.val 1 = decide (2 ≤ o.ty.val) := by
    generalize o.ty = ty; revert ty; decide
  have hn : (if nbit o.ty.val 1 then 64 else 32) = n := by simp [hsgn.2, n]
  have hlo : (if nbit o.ty.val 0 then -((2 ^ (n - 1) : Nat) : Int) else 0) = lo := by simp [hsgn.1, lo]
  have hhi : (if nbit o.ty.val 0 then ((2 ^ (n - 1) : Nat) : Int) - 1 else ((2 ^ n : Nat) : Int) - 1) = hi := by simp [hsgn.1, hi]
  have hanswer : ∀ (k : Int) (fl : Nat), toIntReal (Stated.modeOf s o.rm) (scalarDrawn s (Stated.modeOf s o.rm)) (nbit o.ty.val 0)
      (if nbit o.ty.val 1 then 64 else 32) (Stated.operand s o.fmt o.s1).real = (k, fl) → answer k (BitVec.ofNat 5 fl) := by
    intro k fl hv
    simp only [answer, fpToInt_eq, hv]
  clear_value answer
  have hends : ∀ neg dz, toIntReal (Stated.modeOf s o.rm) (scalarDrawn s (Stated.modeOf s o.rm)) (nbit o.ty.val 0)
      (if nbit o.ty.val 1 then 64 else 32) (.inf neg dz) = (if neg then lo else hi, 16) := by
    intro neg dz
    rw [← hlo, ← hhi, ← hn]
    rfl
  refine ⟨fun x hx => ?_, fun h => ?_, fun h => ?_, fun h => ?_⟩
  · obtain ⟨neg, m, e, hv, rfl⟩ := finite_eq_some_iff.1 hx
    obtain ⟨k, hk, hto⟩ := toIntReal_fin (Stated.modeOf s o.rm) (scalarDrawn s (Stated.modeOf s o.rm)) neg m e
    have hout : ∀ v, toIntOutcome (withSign neg (m * (2 : ℝ) ^ e)) lo hi k = v → answer v.1 (BitVec.ofNat 5 v.2) := by
      intro v hv'
      refine hanswer _ _ ?_
      rw [hv, FVal.real, hto, hn, hlo, hhi, hv']
    refine ⟨k, chosen_draw s hm hk, fun h1 h2 => ?_, fun h1 => ?_, fun h1 => ?_⟩
    · have := hout _ (by rw [toIntOutcome, if_neg (not_lt.2 h1), if_neg (not_lt.2 h2)])
      split_ifs with he
      · rwa [if_pos he] at this
      · rwa [if_neg he] at this
    · exact hout _ (by rw [toIntOutcome, if_pos h1])
    · have hle : lo ≤ hi := by
        simp only [lo, hi]
        split_ifs
        · have : (0 : Int) < 2 ^ (n - 1) := by positivity
          omega
        · have : (0 : Int) < 2 ^ n := by positivity
          omega
      exact hout _ (by rw [toIntOutcome, if_neg (by omega), if_pos h1])
  · exact hanswer _ _ (by rw [h]; exact hends false false)
  · exact hanswer _ _ (by rw [h]; exact hends true false)
  · refine hanswer 0 16 ?_
    cases hv : Stated.operand s o.fmt o.s1 with
    | nan sig => rfl
    | inf neg => rw [hv] at h; simp [Stated.number] at h
    | fin neg m e => rw [hv] at h; simp [Stated.number] at h

/-- Settles O6: every result is the outcome of one step on its format's grid of numbers; special operands deliver their limits. -/
theorem exactResultsAreDelivered : Obligations.ExactResultsAreDelivered :=
  ⟨deliveredExactly, resultsAreRounded, specialResults, fcvtiResults⟩

end Sys2Proof.Machine

/-! SUPPORT. Elements of registers and tiles: what a write of one leaves of the others, and the words of statements beside those of the model
(R132, R153, R172). -/

namespace Sys2Proof.Machine

/-! ### Fields of a wide value -/

theorem testBit_getBitsAt {w : Nat} (v : BitVec w) (pos n k : Nat) : (getBitsAt v pos n).testBit k = (decide (k < n) && v.getLsbD (pos + k)) := by
  rw [getBitsAt, Nat.testBit_mod_two_pow, BitVec.testBit_toNat, BitVec.getLsbD_ushiftRight]

theorem getBitsAt_lt {w : Nat} (v : BitVec w) (pos n : Nat) : getBitsAt v pos n < 2 ^ n := Nat.mod_lt _ (Nat.two_pow_pos n)

theorem getLsbD_setBitsAt {w : Nat} (v : BitVec w) (pos n x k : Nat) (hk : k < w) :
    (setBitsAt v pos n x).getLsbD k = if pos ≤ k ∧ k < pos + n then x.testBit (k - pos) else v.getLsbD k := by
  have hmask : ((BitVec.ofNat w (2 ^ n - 1)) <<< pos).getLsbD k = decide (pos ≤ k ∧ k < pos + n) := by
    rw [BitVec.getLsbD_shiftLeft, BitVec.getLsbD_ofNat, Nat.testBit_two_pow_sub_one, Bool.eq_iff_iff]
    simp only [Bool.and_eq_true, decide_eq_true_eq, Bool.not_eq_true', decide_eq_false_iff_not]
    omega
  have hval : ((BitVec.ofNat w (x % 2 ^ n)) <<< pos).getLsbD k = (decide (pos ≤ k ∧ k < pos + n) && x.testBit (k - pos)) := by
    rw [BitVec.getLsbD_shiftLeft, BitVec.getLsbD_ofNat, Nat.testBit_mod_two_pow, Bool.eq_iff_iff]
    simp only [Bool.and_eq_true, decide_eq_true_eq, Bool.not_eq_true', decide_eq_false_iff_not]
    have h1 : k - pos < w := by omega
    constructor
    · rintro ⟨⟨-, h2⟩, -, h3, h4⟩; exact ⟨by omega, h4⟩
    · rintro ⟨h2, h3⟩; exact ⟨⟨hk, by omega⟩, h1, by omega, h3⟩
  rw [setBitsAt, BitVec.getLsbD_or, BitVec.getLsbD_and, BitVec.getLsbD_not, hmask, hval]
  by_cases h : pos ≤ k ∧ k < pos + n <;> simp [h, hk]

/-- A field reads as what was written to it. -/
theorem getBitsAt_setBitsAt_same {w : Nat} (v : BitVec w) {pos n : Nat} (x : Nat) (h : pos + n ≤ w) :
    getBitsAt (setBitsAt v pos n x) pos n = x % 2 ^ n := by
  apply Nat.eq_of_testBit_eq
  intro k
  rw [testBit_getBitsAt, Nat.testBit_mod_two_pow]
  by_cases hk : k < n
  · rw [getLsbD_setBitsAt v pos n x (pos + k) (by omega), if_pos (by omega), Nat.add_sub_cancel_left]
  · simp [hk]

/-- A field that the write does not touch is left. -/
theorem getBitsAt_setBitsAt_other {w : Nat} (v : BitVec w) {pos n pos' n' : Nat} (x : Nat) (h : pos + n ≤ pos' ∨ pos' + n' ≤ pos) :
    getBitsAt (setBitsAt v pos n x) pos' n' = getBitsAt v pos' n' := by
  apply Nat.eq_of_testBit_eq
  intro k
  rw [testBit_getBitsAt, testBit_getBitsAt]
  by_cases hk : k < n' <;> simp only [hk, decide_true, decide_false, Bool.true_and, Bool.false_and]
  by_cases hw : pos' + k < w
  · rw [getLsbD_setBitsAt v pos n x (pos' + k) hw, if_neg (by omega)]
  · rw [BitVec.getLsbD_of_ge _ _ (by omega), BitVec.getLsbD_of_ge _ _ (by omega)]

/-- A field of a value that is cut off at bit `kept`. -/
theorem getBitsAt_ofNat_mod {w : Nat} (v : BitVec w) (kept pos n : Nat) :
    (pos + n ≤ kept → getBitsAt (BitVec.ofNat w (v.toNat % 2 ^ kept)) pos n = getBitsAt v pos n)
    ∧ (kept ≤ pos → getBitsAt (BitVec.ofNat w (v.toNat % 2 ^ kept)) pos n = 0) := by
  have hbit : ∀ k, (BitVec.ofNat w (v.toNat % 2 ^ kept)).getLsbD k = (decide (k < kept) && v.getLsbD k) := by
    intro k
    rw [BitVec.getLsbD_ofNat, Nat.testBit_mod_two_pow, BitVec.testBit_toNat]
    by_cases hk : k < w
    · simp [hk]
    · simp [hk, BitVec.getLsbD_of_ge _ _ (not_lt.1 hk)]
  constructor <;> intro h <;> apply Nat.eq_of_testBit_eq <;> intro k <;> rw [testBit_getBitsAt, hbit]
  · rw [testBit_getBitsAt]
    by_cases hk : k < n
    · simp [hk, show pos + k < kept by omega]
    · simp [hk]
  · simp [show ¬ pos + k < kept by omega]

/-! ### The words of statements and those of the model -/

theorem lanes_eq_lgn (e : Exec) : Stated.lanes e = e.lgn := by
  rw [Stated.lanes, Exec.lgn, popc16, ← List.toFinset_card_of_nodup ((List.nodup_range).filter _)]
  congr 1
  ext i
  simp

theorem lgn_le (e : Exec) : e.lgn ≤ 16 := by
  rw [Exec.lgn, popc16]
  exact (List.length_filter_le _ _).trans (by simp)

theorem perAt_eq_mvl (e : Exec) (w : Nat) : Stated.perAt e w = e.mvl w := by
  rw [Stated.perAt, Exec.mvl, Exec.regBytes, Exec.d, lanes_eq_lgn]
  congr 1
  ring

theorem element_eq_elem (e : Exec) (r w i : Nat) : Stated.element e r w i = e.elem r w i := by
  unfold Stated.element Exec.elem Exec.vreg getBitsAt
  rw [perAt_eq_mvl, BitVec.toNat_ushiftRight, Nat.shiftRight_eq_div_pow]
  simp only
  by_cases h : r + i / e.mvl w < 32
  · rw [dif_pos h, dif_pos h]
  · rw [dif_neg h, dif_neg h, show BitVec.toNat (0 : VReg) = 0 from BitVec.toNat_zero]

theorem elem_lt (e : Exec) (r w i : Nat) : e.elem r w i < 2 ^ w := getBitsAt_lt _ _ _

theorem maskBit_eq_mbit (e : Exec) (m i : Nat) : Stated.maskBit e m i = e.mbit m i := by
  unfold Stated.maskBit Exec.mbit Exec.mask
  split_ifs <;> simp

theorem tileElement_eq_tile (e : Exec) (t r c : Nat) : Stated.tileElement e t r c = e.tile t r c := by
  unfold Stated.tileElement Exec.tile getBitsAt
  split_ifs
  · rw [BitVec.toNat_ushiftRight, Nat.shiftRight_eq_div_pow]
  · rfl

/-- The bits of one register that the hart holds. -/
def Exec.regBits (e : Exec) : Nat := e.regBytes * 8

theorem regBits_le (e : Exec) : e.regBits ≤ 131072 := by
  have hl := lgn_le e
  have hd : e.d ≤ 8 := by rw [Exec.d]; exact Nat.pow_le_pow_right two_pos (by omega : e.depth.val ≤ 3)
  rw [Exec.regBits, Exec.regBytes]
  calc e.lgn * 128 * e.d * 8 ≤ 16 * 128 * 8 * 8 := by gcongr
    _ = 131072 := by norm_num

/-- A width divides the bits of a register. -/
theorem mvl_mul (e : Exec) {w : Nat} (hw : w ∣ 1024) : e.mvl w * w = e.regBits := by
  rw [Exec.mvl]
  apply Nat.div_mul_cancel
  rw [Exec.regBytes, show e.lgn * 128 * e.d * 8 = 1024 * (e.lgn * e.d) by ring]
  exact Dvd.dvd.mul_right hw _

/-! ### One register, one element -/

theorem vreg_setVreg (e : Exec) (k j : Nat) (v : VReg) : (e.setVreg k v).vreg j = if j = k ∧ k < 32 then v else e.vreg j := by
  unfold Exec.setVreg Exec.vreg
  by_cases hk : k < 32 <;> by_cases hj : j < 32 <;> simp only [hk, hj, dif_pos, dif_neg, not_false_eq_true, and_true, and_false, if_false]
  · rw [Vector.getElem_set]
    by_cases h : k = j <;> simp [h, eq_comm]
  · rw [if_neg (by omega)]

/-- Two states of the execute half differ in vector registers and flags alone. -/
def Exec.SameRest (e e' : Exec) : Prop := e' = { e with v := e'.v, vstat := e'.vstat }

theorem Exec.SameRest.refl (e : Exec) : e.SameRest e := rfl

theorem Exec.SameRest.trans {a b c : Exec} (h1 : a.SameRest b) (h2 : b.SameRest c) : a.SameRest c := by
  unfold Exec.SameRest at *
  rw [h1] at h2
  exact h2

theorem sameRest_setVreg (e : Exec) (k : Nat) (v : VReg) : e.SameRest (e.setVreg k v) := by
  unfold Exec.SameRest Exec.setVreg
  split_ifs <;> rfl

theorem sameRest_accrue (e : Exec) (fl : Nat) : e.SameRest (e.accrue fl) := rfl

theorem sameRest_setElem (e : Exec) (r w i v : Nat) : e.SameRest (e.setElem r w i v) := sameRest_setVreg _ _ _

theorem Exec.SameRest.mvl {e e' : Exec} (h : e.SameRest e') (w : Nat) : e'.mvl w = e.mvl w := by rw [h]; rfl
theorem Exec.SameRest.regBits {e e' : Exec} (h : e.SameRest e') : e'.regBits = e.regBits := by rw [h]; rfl
theorem Exec.SameRest.g {e e' : Exec} (h : e.SameRest e') : e'.g = e.g := by rw [h]; rfl
theorem Exec.SameRest.mbit {e e' : Exec} (h : e.SameRest e') (m i : Nat) : e'.mbit m i = e.mbit m i := by rw [h]; rfl
theorem Exec.SameRest.laneGen {e e' : Exec} (h : e.SameRest e') (w i : Nat) : laneGen e' w i = laneGen e w i := by rw [h]; rfl

/-- A write of one element as other elements of its group and other registers see it. -/
theorem elem_setElem_same (e : Exec) {r w i : Nat} (v : Nat) (hw : w ∣ 1024) (hr : r + i / e.mvl w < 32) (hm : 0 < e.mvl w) :
    (e.setElem r w i v).elem r w i = v % 2 ^ w := by
  unfold Exec.setElem Exec.elem
  rw [(sameRest_setVreg _ _ _).mvl, vreg_setVreg, if_pos ⟨rfl, hr⟩, getBitsAt_setBitsAt_same]
  have h1 := mvl_mul e hw
  have h2 := regBits_le e
  have h3 := Nat.mod_lt i hm
  calc i % e.mvl w * w + w = (i % e.mvl w + 1) * w := by ring
    _ ≤ e.mvl w * w := Nat.mul_le_mul_right _ h3
    _ ≤ 131072 := h1.trans_le h2

theorem elem_setElem_other (e : Exec) {r w i j : Nat} (v : Nat) (h : j ≠ i) : (e.setElem r w i v).elem r w j = e.elem r w j := by
  unfold Exec.setElem Exec.elem
  rw [(sameRest_setVreg _ _ _).mvl, vreg_setVreg]
  split_ifs with hreg
  · obtain ⟨hreg, -⟩ := hreg
    have hdiv : j / e.mvl w = i / e.mvl w := by omega
    rw [hreg, getBitsAt_setBitsAt_other]
    have hmod : j % e.mvl w ≠ i % e.mvl w := by
      intro hmod
      apply h
      rw [← Nat.div_add_mod j (e.mvl w), ← Nat.div_add_mod i (e.mvl w), hdiv, hmod]
    rcases Nat.lt_or_gt_of_ne hmod with hlt | hlt
    · right
      calc j % e.mvl w * w + w = (j % e.mvl w + 1) * w := by ring
        _ ≤ i % e.mvl w * w := Nat.mul_le_mul_right _ hlt
    · left
      calc i % e.mvl w * w + w = (i % e.mvl w + 1) * w := by ring
        _ ≤ j % e.mvl w * w := Nat.mul_le_mul_right _ hlt
  · rfl

theorem vreg_setElem_other (e : Exec) {r w i k : Nat} (v : Nat) (h : k ≠ r + i / e.mvl w) : (e.setElem r w i v).vreg k = e.vreg k := by
  unfold Exec.setElem
  rw [vreg_setVreg, if_neg (by omega)]

theorem elem_congr {e e' : Exec} (h : e.SameRest e') {r w i : Nat} (hv : e'.vreg (r + i / e.mvl w) = e.vreg (r + i / e.mvl w)) :
    e'.elem r w i = e.elem r w i := by
  unfold Exec.elem
  rw [h.mvl, hv]

@[simp] theorem elem_accrue (e : Exec) (fl r w i : Nat) : (e.accrue fl).elem r w i = e.elem r w i := rfl
@[simp] theorem vreg_accrue (e : Exec) (fl k : Nat) : (e.accrue fl).vreg k = e.vreg k := rfl

/-! ### The tail of a group -/

theorem zeroFrom_spec (e : Exec) (r w vl : Nat) (hw : w ∣ 1024) (hw0 : 0 < w) : ∀ size, r + size ≤ 32 →
    e.SameRest (e.zeroFrom r w size vl) ∧ (e.zeroFrom r w size vl).vstat = e.vstat
    ∧ (∀ k, ¬(r ≤ k ∧ k < r + size) → (e.zeroFrom r w size vl).vreg k = e.vreg k)
    ∧ ∀ j < size * e.mvl w, (e.zeroFrom r w size vl).elem r w j = if j < vl then e.elem r w j else 0
  | 0, _ => ⟨rfl, rfl, fun _ _ => rfl, fun j hj => by simp at hj⟩
  | size + 1, hr => by
    obtain ⟨h1, h2, h3, h4⟩ := zeroFrom_spec e r w vl hw hw0 size (by omega)
    have hz : e.zeroFrom r w (size + 1) vl = (e.zeroFrom r w size vl).setVreg (r + size) (BitVec.ofNat 131072
        (((e.zeroFrom r w size vl).vreg (r + size)).toNat
          % 2 ^ (min (vl * w - size * e.regBits) e.regBits))) := by
      unfold Exec.zeroFrom at h1 ⊢
      rw [List.range_succ, List.foldl_append, List.foldl_cons, List.foldl_nil, ← Exec.regBits, h1.regBits]
    rw [hz]
    generalize e.zeroFrom r w size vl = u at *
    have hs := sameRest_setVreg u (r + size) (BitVec.ofNat 131072 ((u.vreg (r + size)).toNat % 2 ^ (min (vl * w - size * e.regBits) e.regBits)))
    refine ⟨h1.trans hs, ?_, fun k hk => ?_, fun j hj => ?_⟩
    · rw [Exec.setVreg]; split_ifs <;> exact h2
    · rw [vreg_setVreg, if_neg (by omega)]
      exact h3 k (by omega)
    · have hm : 0 < e.mvl w := Nat.pos_of_ne_zero fun h0 => by rw [h0] at hj; simp at hj
      rcases lt_or_ge j (size * e.mvl w) with hlt | hge
      · rw [← h4 j hlt]
        apply elem_congr hs
        rw [h1.mvl, vreg_setVreg, if_neg]
        have := Nat.div_lt_of_lt_mul (m := j) (n := e.mvl w) (k := size) (by rwa [mul_comm])
        omega
      · have hdiv : j / e.mvl w = size := Nat.div_eq_of_lt_le hge hj
        have hd := Nat.div_add_mod' j (e.mvl w)
        rw [hdiv] at hd
        have hmul := mvl_mul e hw
        have hmod := Nat.mod_lt j hm
        have hsz : size * e.regBits = size * e.mvl w * w := by rw [← hmul]; ring
        have hpos : (j % e.mvl w + 1) * w ≤ e.regBits := by rw [← hmul]; exact Nat.mul_le_mul_right _ hmod
        unfold Exec.elem
        rw [hs.mvl, h1.mvl, hdiv, vreg_setVreg, if_pos ⟨rfl, by omega⟩, h3 _ (by omega)]
        obtain ⟨hin, hout⟩ := getBitsAt_ofNat_mod (e.vreg (r + size)) (min (vl * w - size * e.regBits) e.regBits) (j % e.mvl w * w) w
        split_ifs with hjv
        · apply hin
          have h5 : (j % e.mvl w + 1) * w + size * e.mvl w * w ≤ vl * w := by
            rw [← add_mul]; exact Nat.mul_le_mul_right _ (by omega)
          rw [hsz, Nat.le_min]
          constructor <;> rw [add_mul, one_mul] at * <;> omega
        · apply hout
          have h5 : vl * w ≤ j % e.mvl w * w + size * e.mvl w * w := by
            rw [← add_mul]; exact Nat.mul_le_mul_right _ (by omega)
          rw [hsz]
          omega

end Sys2Proof.Machine

/-! SUPPORT. The element-wise loop (R92, R154): what its elements, their copies, the flags and the generators are after it. -/

namespace Sys2Proof.Machine

/-! ### One written element and its copy -/

/-- The destination group of a word and its lent copy lie within the registers, apart from each other (R50, R153). -/
structure GroupsApart (d n : Nat) (copy : Option Nat) : Prop where
  fits : d + n ≤ 32
  copy_fits : ∀ c, copy = some c → c + n ≤ 32
  apart : ∀ c, copy = some c → c + n ≤ d ∨ d + n ≤ c

/-- A register is outside the destination group and outside its copy. -/
def Outside (d n : Nat) (copy : Option Nat) (k : Nat) : Prop := ¬(d ≤ k ∧ k < d + n) ∧ ∀ c, copy = some c → ¬(c ≤ k ∧ k < c + n)

theorem div_mvl_lt {e : Exec} {w n j : Nat} (h : j < n * e.mvl w) : j / e.mvl w < n := Nat.div_lt_of_lt_mul (by rwa [mul_comm])

theorem mvl_pos_of_lt {e : Exec} {w n j : Nat} (h : j < n * e.mvl w) : 0 < e.mvl w := Nat.pos_of_ne_zero fun h0 => by rw [h0] at h; simp at h

theorem elem_setElem (e : Exec) {r w n i j : Nat} (v : Nat) (hw : w ∣ 1024) (hr : r + n ≤ 32) (hi : i < n * e.mvl w) :
    (e.setElem r w i v).elem r w j = if j = i then v % 2 ^ w else e.elem r w j := by
  have := div_mvl_lt hi
  split_ifs with h
  · rw [h]; exact elem_setElem_same e v hw (by omega) (mvl_pos_of_lt hi)
  · exact elem_setElem_other e v h

theorem elem_setElem_apart (e : Exec) {r r' w n i j : Nat} (v : Nat) (h : r' + n ≤ r ∨ r + n ≤ r') (hi : i < n * e.mvl w) (hj : j < n * e.mvl w) :
    (e.setElem r w i v).elem r' w j = e.elem r' w j := by
  have h1 := div_mvl_lt hi
  have h2 := div_mvl_lt hj
  have hne : r' + j / e.mvl w ≠ r + i / e.mvl w := by
    generalize i / e.mvl w = a at *
    generalize j / e.mvl w = b at *
    omega
  exact elem_congr (sameRest_setElem e r w i v) (vreg_setElem_other e v hne)

theorem vstat_setElem (e : Exec) (r w i v : Nat) : (e.setElem r w i v).vstat = e.vstat := by
  rw [Exec.setElem, Exec.setVreg]
  split_ifs <;> rfl

section Put

variable (e : Exec) (q : QEntry) {d w n i : Nat} (v : Nat) (hg : GroupsApart d n q.copy) (hw : w ∣ 1024) (hi : i < n * e.mvl w)

theorem put_none (h : q.copy = none) : e.put q d w i v = e.setElem d w i v := by unfold Exec.put; rw [h]

theorem put_some {c : Nat} (h : q.copy = some c) : e.put q d w i v = (e.setElem d w i v).setElem c w i v := by unfold Exec.put; rw [h]

theorem sameRest_put : e.SameRest (e.put q d w i v) := by
  rcases hc : q.copy with _ | c
  · rw [put_none e q v hc]; exact sameRest_setElem ..
  · rw [put_some e q v hc]; exact (sameRest_setElem ..).trans (sameRest_setElem ..)

theorem vstat_put : (e.put q d w i v).vstat = e.vstat := by
  rcases hc : q.copy with _ | c
  · rw [put_none e q v hc, vstat_setElem]
  · rw [put_some e q v hc, vstat_setElem, vstat_setElem]

include hi

theorem vreg_put {k : Nat} (hk : Outside d n q.copy k) : (e.put q d w i v).vreg k = e.vreg k := by
  have hdiv := div_mvl_lt hi
  obtain ⟨h1, h2⟩ := hk
  have hne : k ≠ d + i / e.mvl w := by
    generalize i / e.mvl w = a at *
    omega
  rcases hc : q.copy with _ | c
  · rw [put_none e q v hc, vreg_setElem_other e v hne]
  · have h3 := h2 c hc
    have hne' : k ≠ c + i / e.mvl w := by
      generalize i / e.mvl w = a at *
      omega
    rw [put_some e q v hc, vreg_setElem_other _ v (by rwa [(sameRest_setElem ..).mvl]), vreg_setElem_other e v hne]

include hg hw

theorem elem_put {j : Nat} (hj : j < n * e.mvl w) : (e.put q d w i v).elem d w j = if j = i then v % 2 ^ w else e.elem d w j := by
  rcases hc : q.copy with _ | c
  · rw [put_none e q v hc, elem_setElem e v hw hg.fits hi]
  · rw [put_some e q v hc, elem_setElem_apart (n := n) _ v (hg.apart c hc).symm (by rwa [(sameRest_setElem ..).mvl])
      (by rwa [(sameRest_setElem ..).mvl]), elem_setElem e v hw hg.fits hi]

theorem elem_put_copy {c j : Nat} (hc : q.copy = some c) (hj : j < n * e.mvl w) :
    (e.put q d w i v).elem c w j = if j = i then v % 2 ^ w else e.elem c w j := by
  rw [put_some e q v hc, elem_setElem (n := n) _ v hw (hg.copy_fits c hc) (by rwa [(sameRest_setElem ..).mvl]),
    elem_setElem_apart (n := n) e v (hg.apart c hc) hi hj]

end Put

/-! ### Lanes and draws -/

/-- A lane's generator is one of the hart's (R92). -/
theorem laneGen_bounds (e : Exec) {w : Nat} (i : Nat) (hw : w ∣ 1024) (hm : 0 < e.mvl w) : 1 ≤ laneGen e w i ∧ laneGen e w i < 257 := by
  have hw0 : 0 < w := Nat.pos_of_dvd_of_pos hw (by norm_num)
  have hper : e.mvl w = e.lgn * (1024 * e.d / w) := by
    obtain ⟨k, hk⟩ := hw
    rw [Exec.mvl, Exec.regBytes, show e.lgn * 128 * e.d * 8 = w * (e.lgn * (k * e.d)) by
      rw [show e.lgn * 128 * e.d * 8 = 1024 * (e.lgn * e.d) by ring, hk]; ring, Nat.mul_div_cancel_left _ hw0, hk, mul_assoc,
      Nat.mul_div_cancel_left _ hw0]
  have hj := Nat.mod_lt i hm
  have hgroup : i % e.mvl w / (1024 * e.d / w) < 16 := by
    refine (Nat.div_lt_of_lt_mul ?_).trans_le (lgn_le e)
    rwa [mul_comm, ← hper]
  unfold laneGen
  simp only
  omega

/-- How many active elements from the start up to `hi` draw from generator `g`. -/
def drawsTo (act : Nat → Bool) (lane : Nat → Nat) (start hi g : Nat) : Nat :=
  ((List.range hi).filter fun j => decide (start ≤ j) && act j && lane j == g).length

theorem drawsTo_start (act : Nat → Bool) (lane : Nat → Nat) (start g : Nat) : drawsTo act lane start start g = 0 := by
  rw [drawsTo, List.length_eq_zero_iff, List.filter_eq_nil_iff]
  intro j hj
  have := List.mem_range.1 hj
  simp [show ¬ start ≤ j by omega]

theorem drawsTo_succ (act : Nat → Bool) (lane : Nat → Nat) {start hi : Nat} (h : start ≤ hi) (g : Nat) :
    drawsTo act lane start (hi + 1) g = drawsTo act lane start hi g + if act hi = true ∧ lane hi = g then 1 else 0 := by
  rw [drawsTo, List.range_succ, List.filter_append, List.length_append, ← drawsTo]
  congr 1
  by_cases ha : act hi = true <;> by_cases hl : lane hi = g <;> simp [h, ha, hl]

theorem xorshift_eq_nextDraw (x : BitVec 32) : xorshift x = Stated.nextDraw x := rfl

/-- A draw of a lane in stochastic mode: its generator moves on, and its new state is the draw (R90). -/
theorem laneDraw_four (c : Scalar) {g : Nat} (hg : g < 257) :
    c.laneDraw 4 g = ({ c with gens := c.gens.set g (Stated.nextDraw c.gens[g]) }, (Stated.nextDraw c.gens[g]).toNat) := by
  simp only [Scalar.laneDraw, Scalar.draw, hg, dif_pos, if_true, xorshift_eq_nextDraw]

theorem laneDraw_other (c : Scalar) {rm : Nat} (g : Nat) (h : rm ≠ 4) : c.laneDraw rm g = (c, 0) := by rw [Scalar.laneDraw, if_neg h]

/-! ### The loop -/

/-- What an element-wise word of an idle hart works on: its entry, destination, mode of drawing, and the value and flags of an element by draw and
index, as they follow from the registers that it began with. -/
structure Loop where
  e : Exec
  c : Scalar
  q : QEntry
  pm : Nat
  d : Nat
  w : Nat
  n : Nat
  mode : Nat
  F : Nat → Nat → Nat × Nat

def Loop.act (l : Loop) (i : Nat) : Bool := l.q.active l.e l.pm i

/-- The generators before element `hi`. -/
def Loop.gen (l : Loop) (hi g : Nat) : BitVec 32 :=
  if h : g < 257 then (if l.mode = 4 then Stated.nextDraw^[drawsTo l.act (laneGen l.e l.w) l.q.start hi g] l.c.gens[g] else l.c.gens[g]) else 0

/-- The draw of an active element. -/
def Loop.draw (l : Loop) (i : Nat) : Nat := if l.mode = 4 then (Stated.nextDraw (l.gen i (laneGen l.e l.w i))).toNat else 0

/-- The value and flags of an active element. -/
def Loop.out (l : Loop) (i : Nat) : Nat × Nat := l.F (l.draw i) i

/-- What the loop leaves where `old` stood: the value where the element is active, 0 under IZ and else what stood there. -/
def Loop.value (l : Loop) (old i : Nat) : Nat := if l.act i then (l.out i).1 else if l.q.iz then 0 else old

/-- One round of the loop, as the model writes it. -/
def elementStep (pm d w : Nat) (mode : Nat) (f : Exec → Nat → Nat → Nat × Nat) (q : QEntry) (a : Exec × Scalar) (i : Nat) : Exec × Scalar :=
  if q.active a.1 pm i then
    let r := a.2.laneDraw mode (laneGen a.1 w i)
    let v := f a.1 r.2 i
    ((a.1.put q d w i v.1).accrue v.2, r.1)
  else if q.iz then (a.1.put q d w i 0, a.2)
  else a

theorem elementwise_eq (pm d w size : Nat) (draws : Bool) (f : Exec → Nat → Nat → Nat × Nat) (q : QEntry) (hi : Nat) (s : State) :
    elementwise pm d w size draws f q hi s =
      if q.vl = 0 then s
      else
        let r := (range q.start (min hi q.vl - q.start)).foldl (elementStep pm d w (if draws then q.frm else 0) f q) (s.hart.ep, s.hart.sc)
        { s with hart := { s.hart with ep := if q.vl ≤ hi then r.1.tail q d w size else r.1, sc := r.2 } } := rfl

/-- What stands before element `hi`. -/
structure Loop.At (l : Loop) (hi : Nat) (a : Exec × Scalar) : Prop where
  rest : l.e.SameRest a.1
  other : ∀ k, Outside l.d l.n l.q.copy k → a.1.vreg k = l.e.vreg k
  elem : ∀ j < l.n * l.e.mvl l.w, a.1.elem l.d l.w j = if l.q.start ≤ j ∧ j < hi then l.value (l.e.elem l.d l.w j) j else l.e.elem l.d l.w j
  copy : ∀ c, l.q.copy = some c → ∀ j < l.n * l.e.mvl l.w,
    a.1.elem c l.w j = if l.q.start ≤ j ∧ j < hi then l.value (l.e.elem c l.w j) j else l.e.elem c l.w j
  flags : ∀ k < 8, a.1.vstat.getLsbD k = true ↔
    l.e.vstat.getLsbD k = true ∨ ∃ j, l.q.start ≤ j ∧ j < hi ∧ l.act j = true ∧ (l.out j).2.testBit k = true
  sc : a.2 = { l.c with gens := a.2.gens }
  gens : ∀ g (h : g < 257), a.2.gens[g] = l.gen hi g

/-- The loop's operation reads only what the loop has not yet changed, and gives values of the width and flags of VSTAT. -/
structure Loop.Reads (l : Loop) (f : Exec → Nat → Nat → Nat × Nat) : Prop where
  groups : GroupsApart l.d l.n l.q.copy
  width : l.w ∣ 1024
  vl_le : l.q.vl ≤ l.n * l.e.mvl l.w
  reads : ∀ e', l.e.SameRest e' → (∀ k, Outside l.d l.n l.q.copy k → e'.vreg k = l.e.vreg k) →
    ∀ i < l.q.vl, e'.elem l.d l.w i = l.e.elem l.d l.w i → ∀ dr, f e' dr i = l.F dr i
  value_lt : ∀ dr i, (l.F dr i).1 < 2 ^ l.w
  flags_lt : ∀ dr i, (l.F dr i).2 < 64

theorem active_sameRest {q : QEntry} {e e' : Exec} (h : e.SameRest e') (pm i : Nat) : q.active e' pm i = q.active e pm i := by
  unfold QEntry.active QEntry.predBit
  split <;> simp [h.mbit]

theorem Loop.at_start (l : Loop) : l.At l.q.start (l.e, l.c) where
  rest := rfl
  other _ _ := rfl
  elem j _ := by rw [if_neg (by omega)]
  copy c _ j _ := by rw [if_neg (by omega)]
  flags k _ := by
    constructor
    · exact .inl
    · rintro (h | ⟨j, h1, h2, -⟩)
      · exact h
      · omega
  sc := rfl
  gens g h := by
    rw [Loop.gen, dif_pos h, drawsTo_start]
    split_ifs <;> rfl

theorem accrue_vstat (e : Exec) {fl : Nat} (h : fl < 64) {k : Nat} (hk : k < 8) :
    (e.accrue fl).vstat.getLsbD k = (e.vstat.getLsbD k || fl.testBit k) := by
  rw [Exec.accrue, Nat.mod_eq_of_lt h, BitVec.getLsbD_or, BitVec.getLsbD_ofNat, decide_eq_true hk, Bool.true_and]

/-- An active element moves its lane's generator, and no other, in stochastic mode. -/
theorem Loop.gen_succ (l : Loop) {i : Nat} (hi : l.q.start ≤ i) (g : Nat) :
    l.gen (i + 1) g = if l.mode = 4 ∧ l.act i = true ∧ laneGen l.e l.w i = g ∧ g < 257 then Stated.nextDraw (l.gen i g) else l.gen i g := by
  unfold Loop.gen
  rw [drawsTo_succ _ _ hi]
  by_cases hg : g < 257
  · by_cases hm : l.mode = 4
    · by_cases ha : l.act i = true ∧ laneGen l.e l.w i = g
      · rw [if_pos ha, if_pos ⟨hm, ha.1, ha.2, hg⟩]
        simp only [hg, hm, dif_pos, if_true, Function.iterate_succ_apply']
      · rw [if_neg ha, if_neg fun h => ha ⟨h.2.1, h.2.2.1⟩, add_zero]
    · rw [if_neg fun h : l.mode = 4 ∧ _ => hm h.1]
      simp only [hg, hm, dif_pos, if_false]
  · rw [if_neg fun h : l.mode = 4 ∧ _ => hg h.2.2.2]
    simp only [hg, dif_neg, not_false_eq_true]

theorem Loop.At.elem_step {l : Loop} {f : Exec → Nat → Nat → Nat × Nat} (hl : l.Reads f) {i : Nat} {a : Exec × Scalar} (ha : l.At i a)
    (hi : l.q.start ≤ i) (hv : i < l.q.vl) {v : Nat} (hval : ∀ old, l.value old i = v) (hlt : v < 2 ^ l.w) :
    (∀ j < l.n * l.e.mvl l.w, (a.1.put l.q l.d l.w i v).elem l.d l.w j
        = if l.q.start ≤ j ∧ j < i + 1 then l.value (l.e.elem l.d l.w j) j else l.e.elem l.d l.w j)
    ∧ ∀ c, l.q.copy = some c → ∀ j < l.n * l.e.mvl l.w, (a.1.put l.q l.d l.w i v).elem c l.w j
        = if l.q.start ≤ j ∧ j < i + 1 then l.value (l.e.elem c l.w j) j else l.e.elem c l.w j := by
  have him : i < l.n * a.1.mvl l.w := by rw [ha.rest.mvl]; exact hv.trans_le hl.vl_le
  have key : ∀ x old j : Nat, x = (if l.q.start ≤ j ∧ j < i then l.value old j else old) →
      (if j = i then v % 2 ^ l.w else x) = if l.q.start ≤ j ∧ j < i + 1 then l.value old j else old := by
    rintro x old j rfl
    by_cases hj : j = i
    · subst hj
      rw [if_pos rfl, if_pos ⟨hi, by omega⟩, hval, Nat.mod_eq_of_lt hlt]
    · rw [if_neg hj]
      exact if_congr (by omega) rfl rfl
  refine ⟨fun j hj => ?_, fun c hc j hj => ?_⟩
  · rw [elem_put a.1 l.q v hl.groups hl.width him (by rwa [ha.rest.mvl])]
    exact key _ _ j (ha.elem j hj)
  · rw [elem_put_copy a.1 l.q v hl.groups hl.width him hc (by rwa [ha.rest.mvl])]
    exact key _ _ j (ha.copy c hc j hj)

theorem Loop.At.step {l : Loop} {f : Exec → Nat → Nat → Nat × Nat} (hl : l.Reads f) {i : Nat} {a : Exec × Scalar} (ha : l.At i a)
    (hi : l.q.start ≤ i) (hv : i < l.q.vl) : l.At (i + 1) (elementStep l.pm l.d l.w l.mode f l.q a i) := by
  have him : i < l.n * a.1.mvl l.w := by rw [ha.rest.mvl]; exact hv.trans_le hl.vl_le
  have hact : l.q.active a.1 l.pm i = l.act i := active_sameRest ha.rest _ _
  have hflags : ∀ k, (∃ j, l.q.start ≤ j ∧ j < i + 1 ∧ l.act j = true ∧ (l.out j).2.testBit k = true)
      ↔ (∃ j, l.q.start ≤ j ∧ j < i ∧ l.act j = true ∧ (l.out j).2.testBit k = true) ∨ (l.act i = true ∧ (l.out i).2.testBit k = true) := by
    intro k
    constructor
    · rintro ⟨j, h1, h2, h3⟩
      rcases Nat.lt_succ_iff_lt_or_eq.1 h2 with h | rfl
      · exact .inl ⟨j, h1, h, h3⟩
      · exact .inr h3
    · rintro (⟨j, h1, h2, h3⟩ | h)
      · exact ⟨j, h1, by omega, h3⟩
      · exact ⟨i, hi, by omega, h⟩
  unfold elementStep
  rw [hact]
  by_cases hon : l.act i = true
  · obtain ⟨hg1, hg2⟩ := laneGen_bounds l.e i hl.width (mvl_pos_of_lt (hv.trans_le hl.vl_le))
    have hel : a.1.elem l.d l.w i = l.e.elem l.d l.w i := by
      rw [ha.elem i (hv.trans_le hl.vl_le), if_neg (by omega)]
    have hdraw : (a.2.laneDraw l.mode (laneGen a.1 l.w i)).2 = l.draw i
        ∧ (a.2.laneDraw l.mode (laneGen a.1 l.w i)).1 = { l.c with gens := (a.2.laneDraw l.mode (laneGen a.1 l.w i)).1.gens }
        ∧ ∀ g (h : g < 257), (a.2.laneDraw l.mode (laneGen a.1 l.w i)).1.gens[g] = l.gen (i + 1) g := by
      rw [ha.rest.laneGen, Loop.draw]
      by_cases hm : l.mode = 4
      · rw [hm, laneDraw_four _ hg2, ha.gens _ hg2]
        refine ⟨rfl, by conv_lhs => rw [ha.sc], fun g h => ?_⟩
        rw [l.gen_succ hi, Vector.getElem_set]
        simp only [hm, hon, h, true_and, and_true, ha.gens g h]
        by_cases hlane : laneGen l.e l.w i = g
        · rw [if_pos hlane, if_pos hlane, hlane]
        · rw [if_neg hlane, if_neg hlane]
      · rw [laneDraw_other _ _ hm, if_neg hm]
        refine ⟨rfl, ha.sc, fun g h => ?_⟩
        rw [l.gen_succ hi, if_neg (by tauto)]
        exact ha.gens g h
    obtain ⟨hd1, hd2, hd3⟩ := hdraw
    have hf : f a.1 (a.2.laneDraw l.mode (laneGen a.1 l.w i)).2 i = l.out i := by
      rw [hd1]; exact hl.reads a.1 ha.rest ha.other i hv hel _
    obtain ⟨he, hc⟩ := ha.elem_step hl hi hv (v := (l.out i).1) (fun old => by rw [Loop.value, if_pos hon]) (hl.value_lt _ _)
    rw [if_pos hon]
    simp only [hf]
    refine ⟨(ha.rest.trans (sameRest_put ..)).trans (sameRest_accrue _ _), fun k hk => ?_, he, hc, fun k hk => ?_, hd2, hd3⟩
    · rw [vreg_accrue, vreg_put _ _ _ him hk, ha.other k hk]
    · have hlt : (l.out i).2 < 64 := hl.flags_lt _ _
      rw [accrue_vstat (a.1.put l.q l.d l.w i (l.out i).1) hlt hk, vstat_put, Bool.or_eq_true, ha.flags k hk, hflags, or_assoc]
      simp only [hon, true_and]
  · have hgen : ∀ g (h : g < 257), a.2.gens[g] = l.gen (i + 1) g := by
      intro g h
      rw [l.gen_succ hi, if_neg (by tauto)]
      exact ha.gens g h
    have hfl : ∀ k < 8, a.1.vstat.getLsbD k = true ↔ l.e.vstat.getLsbD k = true
        ∨ ∃ j, l.q.start ≤ j ∧ j < i + 1 ∧ l.act j = true ∧ (l.out j).2.testBit k = true := by
      intro k hk
      rw [ha.flags k hk, hflags]
      simp only [hon, false_and, or_false, Bool.false_eq_true]
    rw [if_neg hon]
    by_cases hiz : l.q.iz = true
    · obtain ⟨he, hc⟩ := ha.elem_step hl hi hv (v := 0) (fun old => by rw [Loop.value, if_neg hon, if_pos hiz]) (Nat.two_pow_pos _)
      rw [if_pos hiz]
      refine ⟨ha.rest.trans (sameRest_put ..), fun k hk => ?_, he, hc, fun k hk => ?_, ha.sc, hgen⟩
      · rw [vreg_put _ _ _ him hk, ha.other k hk]
      · rw [vstat_put]; exact hfl k hk
    · rw [if_neg hiz]
      have hval : ∀ old, l.value old i = old := fun old => by rw [Loop.value, if_neg hon, if_neg hiz]
      have key : ∀ old j : Nat, (if l.q.start ≤ j ∧ j < i then l.value old j else old)
          = if l.q.start ≤ j ∧ j < i + 1 then l.value old j else old := by
        intro old j
        by_cases hj : j = i
        · subst hj; rw [if_neg (by omega), if_pos ⟨hi, by omega⟩, hval]
        · exact if_congr (by omega) rfl rfl
      exact ⟨ha.rest, ha.other, fun j hj => (ha.elem j hj).trans (key _ j), fun c hc j hj => (ha.copy c hc j hj).trans (key _ j), hfl, ha.sc, hgen⟩

theorem Loop.at_foldl (l : Loop) {f : Exec → Nat → Nat → Nat × Nat} (hl : l.Reads f) : ∀ n, l.q.start + n ≤ l.q.vl →
    l.At (l.q.start + n) ((range l.q.start n).foldl (elementStep l.pm l.d l.w l.mode f l.q) (l.e, l.c))
  | 0, _ => l.at_start
  | n + 1, h => by
    have := (l.at_foldl hl n (by omega)).step hl (by omega) (by omega)
    rw [range, List.range_succ, List.map_append, List.foldl_append] at *
    exact this

end Sys2Proof.Machine

/-! SUPPORT. A word that issues on an idle hart (R125 to R127): it is performed at once, and retires. -/

namespace Sys2Proof.Machine

/-- The hart as a word finds it that joins an empty queue: stopped indices of the registers that it writes are dropped (R133). -/
def State.taken (s : State) (q : QEntry) : State := s.ep (fun e => e.takePi q)

@[simp] theorem taken_sc (s : State) (q : QEntry) : (s.taken q).hart.sc = s.hart.sc := rfl

/-- The oldest entry of a queue of one leaves it empty. -/
theorem completeHead_only {s : State} {q : QEntry} (e : Exec) (he : e.queue = []) :
    (s.ep (fun _ => { e with queue := [q] })).completeHead = (s.ep (fun _ => e)).perform q q.vl := by
  have hback : (s.ep (fun _ => { e with queue := [q] })).ep (fun e => { e with queue := [] }) = s.ep (fun _ => e) := by
    show s.ep (fun _ => { e with queue := [] }) = s.ep (fun _ => e)
    rw [← he]
  rw [← hback]
  rfl

/-- An entry sent to an idle, prompt hart is performed to its end. -/
theorem send_idle {s : State} (hi : Stated.idle s) (q : QEntry) : s.send q = (s.taken q).perform q q.vl := by
  obtain ⟨-, hqueue, -, hprompt⟩ := hi
  have hsend : s.send q = (s.ep (fun _ => { s.hart.ep.takePi q with queue := [q] })).drain := by
    have hone : [q] = s.hart.ep.queue ++ [q] := by rw [hqueue, List.nil_append]
    rw [hone]
    unfold State.send
    simp only [State.ep_prompt, hprompt, if_true]
    rfl
  rw [hsend]
  exact completeHead_only (s.hart.ep.takePi q) hqueue

theorem setAdvanced_idle {s : State} (hi : Stated.idle s) (sh : Shape) : s.setAdvanced sh [] = s := by
  obtain ⟨-, -, hbind, -⟩ := hi
  show s.ep (fun e => { e with bindings := [] }) = s
  rw [← hbind]
  rfl

theorem epRoom_idle {s : State} (hi : Stated.idle s) (q : QEntry) : s.epRoom [q] = true := by
  obtain ⟨-, hqueue, -⟩ := hi
  have hlen : ∀ p : QEntry → Bool, ([q].filter p).length ≤ 1 := fun p => (List.length_filter_le p [q])
  unfold State.epRoom
  simp only [hqueue, List.nil_append, Bool.and_eq_true, decide_eq_true_eq]
  exact ⟨⟨(hlen _).trans (by norm_num), (hlen _).trans (by norm_num)⟩, (hlen _).trans (by norm_num)⟩

theorem owed_idle {s : State} (hi : Stated.idle s) (sh : Shape) : s.owed sh = .ok s [] [] := by
  obtain ⟨-, -, hbind, -⟩ := hi
  rw [State.owed, hbind]
  rfl

/-- A word that issues on an idle hart is performed whole and retires. -/
theorem dispatch_idle {i : Instr} {op : VOp} {s : State} (x1 x2 : Word) (hi : Stated.idle s) (hop : vopOf i = some op)
    (hb : s.issueBad (op.shape s.hart.ep) = false) :
    dispatch i op x1 x2 s
      = .next ((op.run (s.entry i op.whole x1 x2) s.hart.ep.vl (s.taken (s.entry i op.whole x1 x2))).retire) := by
  rw [dispatch_of_none hb (epRoom_idle hi _) (owed_idle hi _), setAdvanced_idle hi, send_idle hi]
  have hperform : ∀ (u : State) (v : Nat), u.perform (s.entry i op.whole x1 x2) v = op.run (s.entry i op.whole x1 x2) v u := by
    intro u v
    show (match vopOf i with | some op => op.run _ v u | none => u) = _
    rw [hop]
  rw [hperform]
  rfl

/-- What a performed word must leave alone to be one that only executes: all but registers, masks, tiles, flags and, where it draws, generators. -/
theorem executes_of_run {draws : Bool} {s : State} {q : QEntry} {e : Exec} {c : Scalar}
    (he : e = { (s.hart.ep.takePi q) with v := e.v, m := e.m, tiles := e.tiles, vstat := e.vstat })
    (hc : c = { s.hart.sc with gens := c.gens }) (hd : draws = false → c.gens = s.hart.sc.gens) :
    Stated.executes draws false s
      ({ (s.taken q) with hart := { (s.taken q).hart with ep := e, sc := c } } : State).retire := by
  have hgens : (if draws then c.gens else s.hart.sc.gens) = c.gens := by
    cases draws
    · exact (hd rfl).symm
    · rfl
  have hgpi : e.gpi = (s.hart.ep.takePi q).gpi := by rw [he]
  refine ⟨?_, ?_⟩
  · show _ = ({ Stated.passedBy s with hart := { (Stated.passedBy s).hart with
        sc := { (Stated.passedBy s).hart.sc with gens := if draws then c.gens else s.hart.sc.gens }
        ep := { s.hart.ep with v := e.v, m := e.m, tiles := e.tiles, vstat := e.vstat, gpi := e.gpi } } } : State)
    have he' : e = { s.hart.ep with v := e.v, m := e.m, tiles := e.tiles, vstat := e.vstat, gpi := e.gpi } := by
      rw [hgpi]; exact he
    rw [hgens, ← he']
    generalize c.gens = g at hc
    subst hc
    rfl
  · show e.gpi.Sublist s.hart.ep.gpi
    rw [hgpi]
    exact List.filter_sublist

end Sys2Proof.Machine

/-! SUPPORT. One element of MMA: the exact sum of eight products, the column's scale, and what is added to the old element (R96, R174 to R177). -/

namespace Sys2Proof.Machine

/-! ### The sum of products (R96) -/

/-- What a list of products adds up to, where they are all numbers. -/
noncomputable def sumOf (ps : List (Option FVal)) : ℝ := (ps.map fun p => (p.bind Stated.finite).getD 0).sum

/-- One step of the exact sum: an integer and the power of two in which it counts. -/
def addTerm (a : Int × Int) (p : Option FVal) : Int × Int :=
  match p with
  | some (.fin n m e) => let lo := min a.2 e; (a.1 * 2 ^ (a.2 - lo).toNat + sInt n m * 2 ^ (e - lo).toNat, lo)
  | _ => a

theorem int_mul_zpow_toNat (v : Int) {e q : Int} (h : q ≤ e) : ((v * 2 ^ (e - q).toNat : Int) : ℝ) * (2 : ℝ) ^ q = v * (2 : ℝ) ^ e := by
  obtain ⟨n, hn⟩ := Int.eq_ofNat_of_zero_le (show 0 ≤ e - q by omega)
  rw [hn, Int.toNat_natCast, show e = n + q by omega, zpow_add₀ (by norm_num), zpow_natCast]
  push_cast
  ring

theorem addTerm_value (a : Int × Int) (p : Option FVal) :
    ((addTerm a p).1 : ℝ) * (2 : ℝ) ^ (addTerm a p).2 = a.1 * (2 : ℝ) ^ a.2 + (p.bind Stated.finite).getD 0 := by
  rcases p with _ | ⟨sig⟩ | ⟨n⟩ | ⟨n, m, e⟩ <;> simp only [addTerm, Option.bind_none, Option.bind_some, Option.getD_none, add_zero]
  case some.fin =>
    rw [finite_fin, Option.getD_some, Int.cast_add, add_mul, int_mul_zpow_toNat _ (min_le_left ..), int_mul_zpow_toNat _ (min_le_right ..), sInt_cast]
    cases n <;> simp
  all_goals simp [Stated.finite]

theorem foldl_addTerm_value (ps : List (Option FVal)) : ∀ a : Int × Int,
    ((ps.foldl addTerm a).1 : ℝ) * (2 : ℝ) ^ (ps.foldl addTerm a).2 = a.1 * (2 : ℝ) ^ a.2 + sumOf ps := by
  induction ps with
  | nil => intro a; simp [sumOf]
  | cons p ps ih =>
    intro a
    rw [List.foldl_cons, ih, addTerm_value, sumOf, sumOf, List.map_cons, List.sum_cons]
    ring

/-- A product that raises NV, and one that is NaN: of 0 and an infinity too. -/
def invalidProduct (p : Option FVal) : Bool := match p with | none => true | some v => v.isSig
def nanProduct (p : Option FVal) : Bool := match p with | none => true | some v => v.isNan

/-- What a sum is, told from the tests on its products: whether one raises NV, is NaN, or is an infinity of either sign. -/
def limitBy (nv nan : Bool) (inf : Bool → Bool) : Option (FVal × Bool) :=
  let both := inf true && inf false
  if nan then some (.nan false, nv || both)
  else if both then some (.nan false, true)
  else if inf true then some (.inf true, false)
  else if inf false then some (.inf false, false)
  else none

/-- The exact sum by what it is where its products are not all numbers. -/
theorem sumProducts_eq (ps : List (Option FVal)) :
    sumProducts ps = match limitBy (ps.any invalidProduct) (ps.any nanProduct) fun n => ps.any fun p => p == some (.inf n) with
      | some v => limitReal v
      | none => .num (decide ((ps.foldl addTerm (0, 0)).1 < 0)) (ps.foldl addTerm (0, 0)).1.natAbs (ps.foldl addTerm (0, 0)).2 false := by
  have h : sumProducts ps =
      let both := (ps.any fun p => p == some (.inf true)) && ps.any fun p => p == some (.inf false)
      if ps.any nanProduct then .nan (ps.any invalidProduct || both)
      else if both then .nan true
      else if (ps.any fun p => p == some (.inf true)) then .inf true false
      else if (ps.any fun p => p == some (.inf false)) then .inf false false
      else .num (decide ((ps.foldl addTerm (0, 0)).1 < 0)) (ps.foldl addTerm (0, 0)).1.natAbs (ps.foldl addTerm (0, 0)).2 false := rfl
  rw [h, limitBy]
  simp only
  split_ifs <;> rfl

/-- Some of the eight products has the limit `v`. -/
def hasLimit (a b : Nat → FVal) (v : FVal × Bool) : Bool := (List.range 8).any fun k => Stated.productLimit (a k) (b k) == some v

theorem productsLimit_eq (a b : Nat → FVal) :
    Stated.productsLimit a b
      = limitBy (hasLimit a b (.nan false, true)) (hasLimit a b (.nan false, true) || hasLimit a b (.nan false, false))
          fun n => hasLimit a b (.inf n, false) := rfl

/-- The eight products of a cell. -/
def products (a b : Nat → FVal) : List (Option FVal) := (List.range 8).map fun k => mulVal (a k) (b k)

theorem mulVal_of_productLimit_none {a b : FVal} (h : Stated.productLimit a b = none) : ∃ n m e, mulVal a b = some (.fin n m e) := by
  obtain ⟨⟨n1, m1, e1, rfl⟩, n2, m2, e2, rfl⟩ := finite_of_productLimit_none h
  exact ⟨_, _, _, rfl⟩

/-- A product says by its value what its limit says of it. -/
theorem product_tests (a b : FVal) :
    (invalidProduct (mulVal a b) = (Stated.productLimit a b == some (.nan false, true)))
    ∧ (nanProduct (mulVal a b)
        = (Stated.productLimit a b == some (.nan false, true) || Stated.productLimit a b == some (.nan false, false)))
    ∧ ∀ n, (mulVal a b == some (.inf n)) = (Stated.productLimit a b == some (.inf n, false)) := by
  rcases hp : Stated.productLimit a b with _ | v
  · obtain ⟨n, m, e, hv⟩ := mulVal_of_productLimit_none hp
    simp [hv, invalidProduct, nanProduct, FVal.isSig, FVal.isNan]
  · rcases mulVal_of_productLimit hp with ⟨hv, rfl⟩ | ⟨sig, hv, rfl⟩ | ⟨n, hv, rfl⟩
    · simp [hv, invalidProduct, nanProduct]
    · cases sig <;> simp [hv, invalidProduct, nanProduct, FVal.isSig, FVal.isNan]
    · simp [hv, invalidProduct, nanProduct, FVal.isSig, FVal.isNan]

theorem any_or (l : List Nat) (p q : Nat → Bool) : (l.any fun k => p k || q k) = (l.any p || l.any q) := by
  induction l with
  | nil => rfl
  | cons x l ih => simp only [List.any_cons, ih]; cases p x <;> cases q x <;> simp

/-- The exact sum of the products of a cell, by its limit. -/
theorem sumProducts_products (a b : Nat → FVal) :
    sumProducts (products a b) = match Stated.productsLimit a b with
      | some v => limitReal v
      | none => .num (decide (((products a b).foldl addTerm (0, 0)).1 < 0)) ((products a b).foldl addTerm (0, 0)).1.natAbs
          ((products a b).foldl addTerm (0, 0)).2 false := by
  have hsig : (products a b).any invalidProduct = hasLimit a b (.nan false, true) := by
    rw [products, List.any_map]
    exact congrArg _ (funext fun k => (product_tests (a k) (b k)).1)
  have hnan : (products a b).any nanProduct = (hasLimit a b (.nan false, true) || hasLimit a b (.nan false, false)) := by
    rw [products, List.any_map, hasLimit, hasLimit, ← any_or]
    exact congrArg _ (funext fun k => (product_tests (a k) (b k)).2.1)
  have hinf : (fun n => (products a b).any fun p => p == some (.inf n)) = fun n => hasLimit a b (.inf n, false) := by
    funext n
    rw [products, List.any_map]
    exact congrArg _ (funext fun k => (product_tests (a k) (b k)).2.2 n)
  rw [sumProducts_eq, productsLimit_eq, hsig, hnan, hinf]

/-- Where no product has a limit, all operands are numbers. -/
theorem finite_of_productsLimit_none {a b : Nat → FVal} (h : Stated.productsLimit a b = none) :
    ∀ k < 8, ∃ x y, Stated.finite (a k) = some x ∧ Stated.finite (b k) = some y := by
  intro k hk
  rcases hp : Stated.productLimit (a k) (b k) with _ | v
  · obtain ⟨⟨n1, m1, e1, h1⟩, n2, m2, e2, h2⟩ := finite_of_productLimit_none hp
    exact ⟨_, _, by rw [h1, finite_fin], by rw [h2, finite_fin]⟩
  · have hany : hasLimit a b v = true := List.any_eq_true.2 ⟨k, List.mem_range.2 hk, by rw [hp, beq_self_eq_true]⟩
    exfalso
    rw [productsLimit_eq, limitBy] at h
    split_ifs at h with h1 h2 h3 h4
    simp only [Bool.or_eq_true, not_or] at h1
    rcases mulVal_of_productLimit hp with ⟨-, rfl⟩ | ⟨sig, -, rfl⟩ | ⟨n, -, rfl⟩
    · exact h1.1 hany
    · cases sig
      · exact h1.2 hany
      · exact h1.1 hany
    · cases n
      · exact h4 hany
      · exact h3 hany

theorem productsLimit_none_of_finite {a b : Nat → FVal} (h : ∀ k < 8, ∃ x y, Stated.finite (a k) = some x ∧ Stated.finite (b k) = some y) :
    Stated.productsLimit a b = none := by
  have hnone : ∀ v, hasLimit a b v = false := by
    intro v
    rw [hasLimit, List.any_eq_false]
    intro k hk
    obtain ⟨x, y, hx, hy⟩ := h k (List.mem_range.1 hk)
    obtain ⟨n1, m1, e1, h1, -⟩ := finite_eq_some_iff.1 hx
    obtain ⟨n2, m2, e2, h2, -⟩ := finite_eq_some_iff.1 hy
    simp [h1, h2, Stated.productLimit, Stated.isNaN]
  rw [productsLimit_eq, limitBy]
  simp [hnone]

theorem sumOf_products {a b : Nat → FVal} {p q : Nat → ℝ} (h : ∀ k < 8, Stated.finite (a k) = some (p k) ∧ Stated.finite (b k) = some (q k)) :
    sumOf (products a b) = (Finset.range 8).sum fun k => p k * q k := by
  rw [sumOf, products, List.map_map, ← List.toFinset_range, List.sum_toFinset _ List.nodup_range]
  congr 1
  apply List.map_congr_left
  intro k hk
  obtain ⟨ha, hb⟩ := h k (List.mem_range.1 hk)
  obtain ⟨v, hv, hf, -⟩ := mulVal_finite ha hb
  rw [Function.comp_apply, hv, Option.bind_some, hf, Option.getD_some]

theorem withSign_natAbs_mul (v : Int) (y : ℝ) : withSign (decide (v < 0)) (v.natAbs * y) = v * y := by
  conv_rhs => rw [← withSign_natAbs v]
  cases decide (v < 0) <;> simp

/-- The sum of products that are numbers, as an operand, is the number. -/
theorem val_sumProducts {a b : Nat → FVal} (h : Stated.productsLimit a b = none) :
    Stated.finite (sumProducts (products a b)).val = some (sumOf (products a b)) ∧ (sumProducts (products a b)).nv = 0 := by
  have hv := foldl_addTerm_value (products a b) (0, 0)
  rw [sumProducts_products, h]
  refine ⟨?_, rfl⟩
  show Stated.finite (.fin _ _ _) = _
  rw [finite_fin, withSign_natAbs_mul, hv]
  simp

/-! ### The scaled sum added to the old element (R176, R177) -/

/-- The sum of a cell's products with its column's scale, 1 where there is none, and the flags so far. -/
def scaledSum (a b : Nat → FVal) (sc : Option FVal) : FVal × Nat :=
  let u := sumProducts (products a b)
  match sc with
  | none => (u.val, u.nv)
  | some c => applyScale u c

theorem mmaElement_eq (old : Nat) (a b : Nat → FVal) (sc : Option FVal) :
    mmaElement old (products a b) sc = ((fp32.deliver 2 0 0 (addReal 0 (f32 old) (scaledSum a b sc).1)).1,
      (fp32.deliver 2 0 0 (addReal 0 (f32 old) (scaledSum a b sc).1)).2 ||| (scaledSum a b sc).2) := by
  cases sc <;> rfl

/-- The scale of a column, 1 where it has none. -/
def scaleOf (sc : Option FVal) : FVal := sc.getD (.fin false 1 0)

theorem finite_scaledSum {a b : Nat → FVal} {sc : Option FVal} {c : ℝ} (h : Stated.productsLimit a b = none) (hc : Stated.finite (scaleOf sc) = some c) :
    Stated.finite (scaledSum a b sc).1 = some (sumOf (products a b) * c) ∧ (scaledSum a b sc).2 = 0 := by
  obtain ⟨hval, hnv⟩ := val_sumProducts h
  cases sc with
  | none =>
    obtain rfl : (1 : ℝ) = c := by simpa [scaleOf, finite_fin] using hc
    rw [mul_one]
    exact ⟨hval, hnv⟩
  | some v =>
    obtain ⟨u, hu, huv, -⟩ := mulVal_finite hval hc
    have hnan : v.isNan = false := by
      obtain ⟨n, m, e, hv, -⟩ := finite_eq_some_iff.1 hc
      rw [show v = .fin n m e from hv]; rfl
    have happly : applyScale (sumProducts (products a b)) v = (u, (sumProducts (products a b)).nv) := by
      unfold applyScale
      rw [show mulVal _ v = some u from hu, hnan]
      rfl
    show Stated.finite (applyScale _ v).1 = _ ∧ (applyScale _ v).2 = 0
    rw [happly]
    exact ⟨huv, hnv⟩

/-- The scaled sum that is no number, by the statement's words. -/
noncomputable def scaledLimit (a b : Nat → FVal) (x : ℝ) (scale : FVal) : Option (FVal × Bool) :=
  if Stated.isNaN scale then some (.nan false, true)
  else match Stated.productsLimit a b, scale with
    | some (w, nv), _ => (Stated.productLimit w scale).map fun v => (v.1, nv || v.2)
    | none, .inf n => some (if x = 0 then (.nan false, true) else (.inf (decide (x < 0) != n), false))
    | none, _ => none

theorem mmaLimit_eq (a b : Nat → FVal) (x : ℝ) (scale old : FVal) :
    Stated.mmaLimit a b x scale old = match scaledLimit a b x scale with
      | some (w, nv) => (Stated.sumLimit w old).map fun v => (v.1, nv || v.2)
      | none => Stated.sumLimit (.fin false 0 0) old := rfl

/-- A limit as a value: a NaN that does not signal, or an infinity. -/
def IsLimit (v : FVal) : Prop := v = .nan false ∨ ∃ n, v = .inf n

/-- The flags of a limit. -/
def nvFlag (nv : Bool) : Nat := if nv then 16 else 0

theorem nvFlag_or (p q : Bool) : nvFlag (p || q) = nvFlag p ||| nvFlag q := by cases p <;> cases q <;> rfl

theorem isLimit_of_productsLimit {a b : Nat → FVal} {w : FVal} {nv : Bool} (h : Stated.productsLimit a b = some (w, nv)) :
    IsLimit w ∧ (sumProducts (products a b)).val = w ∧ (sumProducts (products a b)).nv = nvFlag nv := by
  have hw : IsLimit w ∧ (nv = true → w = .nan false) := by
    rw [productsLimit_eq, limitBy] at h
    split_ifs at h <;> obtain ⟨rfl, rfl⟩ := Prod.mk.inj (Option.some.inj h) <;> simp [IsLimit]
  obtain ⟨hw, hnv⟩ := hw
  rw [sumProducts_products, h]
  refine ⟨hw, ?_⟩
  rcases hw with rfl | ⟨n, rfl⟩
  · exact ⟨rfl, rfl⟩
  · obtain rfl : nv = false := by simpa using hnv
    exact ⟨rfl, rfl⟩

theorem isNan_eq (v : FVal) : v.isNan = Stated.isNaN v := by cases v <;> rfl

/-- A product of values whose first is no signalling NaN, by its limit. -/
theorem applyScale_of_productLimit {u : Real} {v sc : FVal} {r : FVal × Bool} (hv : u.val = v) (hsig : v.isSig = false) (hn : Stated.isNaN sc = false)
    (h : Stated.productLimit v sc = some r) : IsLimit r.1 ∧ applyScale u sc = (r.1, u.nv ||| nvFlag r.2) := by
  unfold applyScale
  rw [isNan_eq, hn, hv]
  rcases mulVal_of_productLimit h with ⟨hm, rfl⟩ | ⟨sig, hm, rfl⟩ | ⟨n, hm, rfl⟩ <;> rw [hm]
  · exact ⟨.inl rfl, rfl⟩
  · obtain rfl : sig = false := by
      cases v <;> cases sc <;> simp_all [mulVal, FVal.isSig, Stated.isNaN]
    exact ⟨.inl rfl, by simp [nvFlag]⟩
  · exact ⟨.inr ⟨n, rfl⟩, by simp [nvFlag]⟩

theorem isZero_of_finite {v : FVal} {x : ℝ} (h : Stated.finite v = some x) : Stated.isZero v = decide (x = 0) := by
  obtain ⟨n, m, e, rfl, rfl⟩ := finite_eq_some_iff.1 h
  rw [isZero_fin]
  have he : (2 : ℝ) ^ e ≠ 0 := by positivity
  simp [withSign_eq_zero_iff, he]

theorem isNeg_of_finite {v : FVal} {x : ℝ} (h : Stated.finite v = some x) (hx : x ≠ 0) : v.isNeg = decide (x < 0) := by
  obtain ⟨n, m, e, rfl, rfl⟩ := finite_eq_some_iff.1 h
  have hm : m ≠ 0 := by rintro rfl; simp at hx
  have hpos : (0 : ℝ) < m * (2 : ℝ) ^ e := by have := Nat.pos_of_ne_zero hm; positivity
  rw [Bool.eq_iff_iff, decide_eq_true_iff]
  exact (withSign_lt_zero_iff n hpos).symm

theorem nv_sumProducts (ps : List (Option FVal)) : ∃ nv, (sumProducts ps).nv = nvFlag nv := by
  rcases sumProducts ps with nv | _ | _
  · exact ⟨nv, rfl⟩
  · exact ⟨false, rfl⟩
  · exact ⟨false, rfl⟩

/-- Where the scaled sum is no number, it is what the statement says. -/
theorem scaledSum_of_limit {a b : Nat → FVal} {sc : Option FVal} {x : ℝ} {w : FVal} {nv : Bool}
    (hx : Stated.productsLimit a b = none → x = sumOf (products a b)) (h : scaledLimit a b x (scaleOf sc) = some (w, nv)) :
    IsLimit w ∧ scaledSum a b sc = (w, nvFlag nv) := by
  obtain ⟨nv', hnv'⟩ := nv_sumProducts (products a b)
  rcases sc with _ | c
  · unfold scaledLimit scaleOf at h
    rw [Option.getD_none] at h
    rcases hp : Stated.productsLimit a b with _ | ⟨w', nw⟩
    · simp [hp, Stated.isNaN] at h
    · obtain ⟨hw, hval, hnv⟩ := isLimit_of_productsLimit hp
      have hsame : w = w' ∧ nv = nw := by
        rw [hp] at h
        rcases hw with rfl | ⟨n, rfl⟩
        · simpa [Stated.isNaN, Stated.productLimit, Stated.signal, eq_comm (b := w), eq_comm (b := nv)] using h
        · simpa [Stated.isNaN, Stated.productLimit, isZero_fin, FVal.isNeg, eq_comm (b := w), eq_comm (b := nv)] using h
      obtain ⟨rfl, rfl⟩ := hsame
      exact ⟨hw, Prod.ext hval hnv⟩
  · unfold scaledLimit scaleOf at h
    rw [Option.getD_some] at h
    show IsLimit w ∧ applyScale _ c = _
    by_cases hn : Stated.isNaN c = true
    · rw [if_pos hn] at h
      obtain ⟨rfl, rfl⟩ := Prod.mk.inj (Option.some.inj h)
      refine ⟨.inl rfl, ?_⟩
      unfold applyScale
      rw [isNan_eq, hn, if_pos rfl, hnv']
      cases nv' <;> rfl
    · rw [if_neg hn] at h
      rw [Bool.not_eq_true] at hn
      rcases hp : Stated.productsLimit a b with _ | ⟨w', nw⟩ <;> rw [hp] at h
      · obtain ⟨hval, hnv⟩ := val_sumProducts hp
        rw [← hx hp] at hval
        rcases c with _ | n | _ <;> simp only [reduceCtorEq, Option.some.injEq] at h
        have hlim : Stated.productLimit (sumProducts (products a b)).val (.inf n) = some (w, nv) := by
          obtain ⟨n', m, e, hv, -⟩ := finite_eq_some_iff.1 hval
          rw [← h]
          have hz := isZero_of_finite hval
          have hs := isNeg_of_finite hval
          rw [hv] at hz hs ⊢
          by_cases h0 : x = 0
          · simp [Stated.productLimit, Stated.isNaN, hz, h0]
          · simp [Stated.productLimit, Stated.isNaN, hz, h0, hs h0]
        have hsig : (sumProducts (products a b)).val.isSig = false := by
          obtain ⟨n', m, e, hv, -⟩ := finite_eq_some_iff.1 hval
          rw [hv]; rfl
        obtain ⟨h1, h2⟩ := applyScale_of_productLimit rfl hsig hn hlim
        exact ⟨h1, by rw [h2, hnv]; simp⟩
      · obtain ⟨hw, hval, hnv⟩ := isLimit_of_productsLimit hp
        obtain ⟨v, hv, he⟩ := Option.map_eq_some_iff.1 h
        obtain ⟨rfl, rfl⟩ := Prod.mk.inj he
        obtain ⟨h1, h2⟩ := applyScale_of_productLimit hval (by rcases hw with rfl | ⟨n, rfl⟩ <;> rfl) hn hv
        exact ⟨h1, by rw [h2, hnv, nvFlag_or]⟩

/-- Where the scaled sum is a number, so are the products and the scale. -/
theorem finite_of_scaledLimit_none {a b : Nat → FVal} {x : ℝ} {scale : FVal} (h : scaledLimit a b x scale = none) :
    Stated.productsLimit a b = none ∧ ∃ c, Stated.finite scale = some c := by
  unfold scaledLimit at h
  rcases hp : Stated.productsLimit a b with _ | ⟨w, nv⟩ <;> rw [hp] at h
  · rcases scale with _ | _ | ⟨n, m, e⟩
    · simp [Stated.isNaN] at h
    · simp [Stated.isNaN] at h
    · exact ⟨rfl, _, finite_fin ..⟩
  · obtain ⟨hw, -⟩ := isLimit_of_productsLimit hp
    rcases hw with rfl | ⟨n, rfl⟩ <;> cases scale <;> simp [Stated.isNaN, Stated.productLimit] at h

theorem sumLimit_comm (a b : FVal) : Stated.sumLimit a b = Stated.sumLimit b a := by
  cases a <;> cases b <;> simp [Stated.sumLimit, Stated.isNaN, Stated.signal, Bool.or_comm]
  case inf.inf m n => by_cases h : m = n <;> simp [h, eq_comm]

/-- Numbers do not change what a sum with them is. -/
theorem sumLimit_finite {v : FVal} {x : ℝ} (h : Stated.finite v = some x) (old : FVal) :
    Stated.sumLimit v old = Stated.sumLimit (.fin false 0 0) old := by
  obtain ⟨n, m, e, rfl, -⟩ := finite_eq_some_iff.1 h
  cases old <;> rfl

theorem grid_maxCode_fp32 : fp32.grid (fp32.maxCode 2) = (2 : ℝ) ^ 128 - 2 ^ 104 := by
  rw [fp32.grid_maxCode proper_fp32 rfl]
  norm_num [fp32, Fmt.bias]

theorem grid_next_fp32 : fp32.grid (fp32.maxCode 2 + 1) = (2 : ℝ) ^ 128 := by
  rw [(fp32.maxCode_units proper_fp32 rfl).2, fp32.grid_infCode proper_fp32]
  norm_num [fp32, Fmt.bias]

/-- Rounding up between FP32's largest number and the next, to nearest: from halfway on. -/
theorem roundsUp_fp32_iff {x : ℝ} (h1 : (2 : ℝ) ^ 128 - 2 ^ 104 < |x|) (h2 : |x| < 2 ^ 128) :
    RoundsUp 0 0 (decide (x < 0)) True ((|x| - (2 ^ 128 - 2 ^ 104)) / (2 ^ 128 - (2 ^ 128 - 2 ^ 104))) ↔ (2 : ℝ) ^ 128 - 2 ^ 103 ≤ |x| := by
  have h0 : x ≠ 0 := by
    rintro rfl
    rw [abs_zero] at h1
    norm_num at h1
  have hpow : (2 : ℝ) ^ 104 = 2 * 2 ^ 103 := by norm_num
  refine (roundsUp_band_iff (Nat.zero_le 4) h1 h2 h0).trans ?_
  show (2 : ℝ) ^ 128 - 2 ^ 104 + 2 ^ 128 ≤ 2 * |x| ↔ _
  rw [hpow]
  generalize (2 : ℝ) ^ 128 = big
  generalize (2 : ℝ) ^ 103 = half
  constructor <;> intro h <;> linarith

theorem decode_maxCode_fp32 (neg : Bool) : fp32.decode 2 (fp32.signBit neg + fp32.maxCode 2) = .fin neg (2 ^ 24 - 1) 104 := by
  rw [fp32.decode_maxCode proper_fp32 rfl neg]
  norm_num [fp32, Fmt.bias]

/-- What FP32 makes of a number beyond its largest, to nearest: that number below halfway to the next, and infinity from there on. -/
theorem deliver_fp32_beyond {r : Real} {x : ℝ} {z : Bool} (h : r.Stands x z) :
    ((2 : ℝ) ^ 128 - 2 ^ 104 < |x| → |x| < 2 ^ 128 - 2 ^ 103 → fp32.deliver 2 0 0 r = (fp32.signBit (decide (x < 0)) + fp32.maxCode 2, 1))
    ∧ ((2 : ℝ) ^ 128 - 2 ^ 103 ≤ |x| → fp32.deliver 2 0 0 r = (fp32.signBit (decide (x < 0)) + fp32.infCode, 5)) := by
  have hp := proper_fp32
  have hodd : (fp32.maxCode 2 % 2 = 1) = True := eq_true (fp32.maxCode_odd hp rfl)
  have hpow : (0 : ℝ) < 2 ^ 103 ∧ (2 : ℝ) ^ 103 < 2 ^ 104 := by norm_num
  have hband := fun h1 h2 => fp32.deliver_band hp (nan := 2) (rm := 0) (draw := 0) h (grid_maxCode_fp32.trans_lt h1) (lt_of_lt_of_eq h2 grid_next_fp32.symm)
  have hinf : (fp32.mode 2 = 2 && overflowToInf 0 (decide (x < 0))) = true := rfl
  simp only [hodd, grid_maxCode_fp32, grid_next_fp32, if_pos hinf] at hband
  obtain ⟨hpow0, hpow1⟩ := hpow
  constructor
  · intro h1 h2
    have hlt : |x| < 2 ^ 128 := h2.trans (sub_lt_self _ hpow0)
    exact (hband h1 hlt).2 (mt (roundsUp_fp32_iff h1 hlt).1 (not_le.2 h2))
  · intro h1
    rcases lt_or_ge |x| (2 ^ 128) with hlt | hge
    · have hlo : (2 : ℝ) ^ 128 - 2 ^ 104 < |x| := (sub_lt_sub_left hpow1 _).trans_le h1
      exact (hband hlo hlt).1 ((roundsUp_fp32_iff hlo hlt).2 h1)
    · rw [fp32.deliver_overflow hp h (grid_next_fp32.trans_le hge), if_pos hinf]

/-- R96, R176: an element of MMA whose operands are all numbers. -/
theorem mmaElement_finite {old : Nat} {a b : Nat → FVal} {sc : Option FVal} {p q : Nat → ℝ} {c d : ℝ}
    (hpq : ∀ k < 8, Stated.finite (a k) = some (p k) ∧ Stated.finite (b k) = some (q k)) (hc : Stated.finite (scaleOf sc) = some c)
    (hd : Stated.finite (f32 old) = some d) :
    ∃ r z, r.Stands (d + (Finset.range 8).sum (fun k => p k * q k) * c) z ∧ mmaElement old (products a b) sc = fp32.deliver 2 0 0 r := by
  have hnone : Stated.productsLimit a b = none := productsLimit_none_of_finite fun k hk => ⟨_, _, hpq k hk⟩
  obtain ⟨hv, hfl⟩ := finite_scaledSum hnone hc
  have hst := addReal_stands hd hv 0
  rw [sumOf_products hpq] at hst
  refine ⟨_, _, hst, ?_⟩
  rw [mmaElement_eq, hfl, Nat.or_zero]

/-- R96, R176, R177: an element of MMA where an operand is no number. -/
theorem mmaElement_limit {old : Nat} {a b : Nat → FVal} {sc : Option FVal} {x : ℝ} {v : FVal} {nv : Bool}
    (hsum : Stated.productsLimit a b = none → x = sumOf (products a b)) (hlim : Stated.mmaLimit a b x (scaleOf sc) (f32 old) = some (v, nv)) :
    Stated.IsCode fp32 v (mmaElement old (products a b) sc).1 ∧ (mmaElement old (products a b) sc).2 = nvFlag nv := by
  have hp := proper_fp32
  rw [mmaElement_eq]
  rw [mmaLimit_eq] at hlim
  rcases hs : scaledLimit a b x (scaleOf sc) with _ | ⟨w, nw⟩ <;> rw [hs] at hlim
  · obtain ⟨hnone, c, hc⟩ := finite_of_scaledLimit_none hs
    obtain ⟨hv, hfl⟩ := finite_scaledSum hnone hc
    rw [← sumLimit_finite hv, sumLimit_comm] at hlim
    rw [hfl, Nat.or_zero]
    exact fp32.deliver_limit hp rfl 0 0 (limited_addReal hlim 0)
  · obtain ⟨-, hsc⟩ := scaledSum_of_limit hsum hs
    obtain ⟨u, hu, he⟩ := Option.map_eq_some_iff.1 hlim
    obtain ⟨rfl, rfl⟩ := Prod.mk.inj he
    rw [sumLimit_comm] at hu
    obtain ⟨h1, h2⟩ := fp32.deliver_limit hp rfl 0 0 (limited_addReal hu 0)
    rw [hsc]
    exact ⟨h1, by rw [h2]; exact (Nat.or_comm _ _).trans (nvFlag_or nw u.2).symm⟩

/-- R96, R176, R177: what an element of MMA is, its flags with it. -/
theorem mmaCell (old : Nat) (a b : Nat → FVal) (sc : Option FVal) :
    Stated.MmaCell a b (scaleOf sc) (f32 old) (mmaElement old (products a b) sc).1 (mmaElement old (products a b) sc).2 := by
  constructor
  · intro p q c d hpq hc hd
    obtain ⟨r, z, hst, he⟩ := mmaElement_finite hpq hc hd
    obtain ⟨hbelow, habove⟩ := deliver_fp32_beyond hst
    rw [he]
    refine ⟨fun hy => ⟨z, fp32.rounds_deliver proper_fp32 hst ((fp32.reaches_iff proper_fp32).1 hy)⟩, fun h1 h2 => ?_, fun h1 => ?_⟩
    · rw [hbelow h1 h2]
      exact ⟨decode_maxCode_fp32 _, rfl⟩
    · rw [habove h1]
      exact ⟨fp32.decode_inf proper_fp32 rfl _, rfl⟩
  · intro x v nv hx hlim
    refine mmaElement_limit (fun hnone => ?_) hlim
    have hex := finite_of_productsLimit_none hnone
    choose! p q hpq using hex
    rw [hx p q hpq, sumOf_products hpq]

end Sys2Proof.Machine

/-! SUPPORT. The tile that MMA writes, cell by cell (R172, R174 to R177). -/

namespace Sys2Proof.Machine

/-! ### One written cell -/

/-- Two states of the execute half differ in tiles and flags alone. -/
def Exec.SameButTiles (e e' : Exec) : Prop := e' = { e with tiles := e'.tiles, vstat := e'.vstat }

theorem Exec.SameButTiles.trans {a b c : Exec} (h1 : a.SameButTiles b) (h2 : b.SameButTiles c) : a.SameButTiles c := by
  unfold Exec.SameButTiles at *
  rw [h1] at h2
  exact h2

theorem Exec.SameButTiles.masks {e e' : Exec} (h : e.SameButTiles e') : e'.v = e.v ∧ e'.m = e.m := by
  have hv : e'.v = ({ e with tiles := e'.tiles, vstat := e'.vstat } : Exec).v := congrArg Exec.v h
  have hm : e'.m = ({ e with tiles := e'.tiles, vstat := e'.vstat } : Exec).m := congrArg Exec.m h
  exact ⟨hv, hm⟩

theorem Exec.SameButTiles.eq {e e' : Exec} (h : e.SameButTiles e') :
    e' = { e with v := e'.v, m := e'.m, tiles := e'.tiles, vstat := e'.vstat } := by
  obtain ⟨hv, hm⟩ := h.masks
  rw [hv, hm]
  exact h

theorem sameButTiles_setTile (e : Exec) (t r c v : Nat) : e.SameButTiles (e.setTile t r c v) := by
  unfold Exec.SameButTiles Exec.setTile
  split_ifs <;> rfl

theorem vstat_setTile (e : Exec) (t r c v : Nat) : (e.setTile t r c v).vstat = e.vstat := by
  unfold Exec.setTile
  split_ifs <;> rfl

theorem tile_setTile (e : Exec) {t r c : Nat} (v : Nat) {r' c' : Nat} (ht : t < 8) (hr : r < 32) (hr' : r' < 32) (hc : c < 16384) :
    (e.setTile t r c v).tile t r' c' = if r' = r ∧ c' = c then v % 2 ^ 32 else e.tile t r' c' := by
  have h1 : 32 * t + r < 256 := by omega
  have h2 : 32 * t + r' < 256 := by omega
  unfold Exec.setTile Exec.tile
  simp only [h1, h2, dif_pos, Vector.getElem_set]
  by_cases hrr : r' = r
  · subst hrr
    rw [if_pos rfl]
    by_cases hcc : c' = c
    · subst hcc
      rw [if_pos ⟨rfl, rfl⟩, getBitsAt_setBitsAt_same _ _ (by omega)]
    · rw [if_neg fun h => hcc h.2, getBitsAt_setBitsAt_other _ _ (by omega)]
  · rw [if_neg (by omega), if_neg fun h => hrr h.1]

theorem tiles_setTile_other (e : Exec) {t r c : Nat} (v : Nat) (hr : r < 32) (k : Fin 256) (hk : k.val / 32 ≠ t) :
    (e.setTile t r c v).tiles[k.val] = e.tiles[k.val] := by
  unfold Exec.setTile
  split_ifs
  · exact Vector.getElem_set_ne (by omega) (by omega) (by omega)
  · rfl

/-! ### All cells -/

/-- One cell written with its flags, as MMA does. -/
def cellStep (td rowBase : Nat) (val : Nat × Nat → Nat × Nat) (x : Exec) (p : Nat × Nat) : Exec :=
  (x.setTile td (rowBase + p.1) p.2 (val p).1).accrue (val p).2

/-- What the written cells leave, of distinct cells within a tile. -/
theorem foldl_cellStep {td rowBase : Nat} {val : Nat × Nat → Nat × Nat} (ht : td < 8) (hfl : ∀ p, (val p).2 < 64) (l : List (Nat × Nat)) :
    l.Nodup → (∀ p ∈ l, rowBase + p.1 < 32 ∧ p.2 < 16384) → ∀ e : Exec,
    e.SameButTiles (l.foldl (cellStep td rowBase val) e)
    ∧ (∀ k : Fin 256, k.val / 32 ≠ td → (l.foldl (cellStep td rowBase val) e).tiles[k.val] = e.tiles[k.val])
    ∧ (∀ p ∈ l, (l.foldl (cellStep td rowBase val) e).tile td (rowBase + p.1) p.2 = (val p).1 % 2 ^ 32)
    ∧ (∀ r < 32, ∀ c, (∀ p ∈ l, ¬(r = rowBase + p.1 ∧ c = p.2)) → (l.foldl (cellStep td rowBase val) e).tile td r c = e.tile td r c)
    ∧ ∀ k < 8, (l.foldl (cellStep td rowBase val) e).vstat.getLsbD k = true ↔
        e.vstat.getLsbD k = true ∨ ∃ p ∈ l, (val p).2.testBit k = true := by
  induction l with
  | nil => intro _ _ e; exact ⟨rfl, fun _ _ => rfl, by simp, fun _ _ _ _ => rfl, by simp⟩
  | cons p l ih =>
    intro hnd hin e
    obtain ⟨hp, hnd⟩ := List.nodup_cons.1 hnd
    obtain ⟨hpr, hpc⟩ := hin p (List.mem_cons_self ..)
    obtain ⟨h1, h2, h3, h4, h5⟩ := ih hnd (fun x hx => hin x (List.mem_cons_of_mem _ hx)) (cellStep td rowBase val e p)
    have hcell : ∀ r' < 32, ∀ c', (cellStep td rowBase val e p).tile td r' c'
        = if r' = rowBase + p.1 ∧ c' = p.2 then (val p).1 % 2 ^ 32 else e.tile td r' c' := fun r' hr' c' => tile_setTile e _ ht hpr hr' hpc
    rw [List.foldl_cons]
    refine ⟨(sameButTiles_setTile ..).trans h1, fun k hk => (h2 k hk).trans (tiles_setTile_other e _ hpr k hk), fun x hx => ?_,
      fun r hr c hout => ?_, fun k hk => ?_⟩
    · rcases List.mem_cons.1 hx with rfl | hx
      · rw [h4 _ hpr _ fun y hy hxy => ?_, hcell _ hpr, if_pos ⟨rfl, rfl⟩]
        obtain rfl : x = y := Prod.ext (by omega) hxy.2
        exact hp hy
      · exact h3 x hx
    · rw [h4 r hr c fun x hx => hout x (List.mem_cons_of_mem _ hx), hcell r hr, if_neg (hout p (List.mem_cons_self ..))]
    · rw [h5 k hk, cellStep, accrue_vstat _ (hfl p) hk, vstat_setTile, Bool.or_eq_true, or_assoc]
      simp only [List.mem_cons, exists_eq_or_imp]

/-! ### MMA's operands (R174, R175) -/

theorem mmaType_eq : ∀ t < 10, mmaType t =
    let ty := Stated.mmaTypes.getD t (bf16, bf16, false, false)
    ⟨ty.1, ty.2.1, ty.2.1.width, ty.2.2.1, decide (6 ≤ t)⟩ := by decide

theorem nan_entry (s : State) (i : Instr) (whole : Bool) (x1 x2 : Word) : (s.entry i whole x1 x2).nan = Stated.nanOf s := by
  show bits s.hart.ep.vcfg.toNat 3 2 = _
  rw [Stated.nanOf, BitVec.extractLsb'_toNat, Nat.shiftRight_eq_div_pow]
  rfl

theorem qn4Val_eq {nan code : Nat} (h : code < 16) : qn4Val nan code = Stated.qn4Value nan code := by
  have h8 : nbit code 3 = decide (8 ≤ code) := by
    rw [nbit, Bool.eq_iff_iff, beq_iff_eq, decide_eq_true_iff]
    omega
  have h0 : (code % 8 = 0 ∧ 8 ≤ code) ∧ nan ≠ 0 ↔ code = 8 ∧ nan ≠ 0 := by omega
  unfold qn4Val Stated.qn4Value qn4Mag
  simp only [h8, Bool.and_eq_true, decide_eq_true_eq, h0]

/-! ### What issue and performing say of MMA -/

/-- A word that issues keeps its own rules and its limit of VL. -/
theorem legal_of_issueBad {s : State} {sh : Shape} (h : s.issueBad sh = false) :
    s.hart.ctl = false ∧ sh.illegal s.hart.ep s.hart.sc.lend = false := by
  simp only [State.issueBad, Bool.or_eq_false_iff] at h
  exact h.1

theorem limits_of_legal {sh : Shape} {e : Exec} {lend : BitVec 32} (h : sh.illegal e lend = false) :
    sh.bad = false ∧ ∀ n, sh.vlMax = some n → e.vl ≤ n := by
  simp only [Shape.illegal, Bool.or_eq_false_iff] at h
  obtain ⟨⟨⟨⟨⟨⟨hbad, -⟩, hvl⟩, -⟩, -⟩, -⟩, -⟩ := h
  refine ⟨hbad, fun n hn => ?_⟩
  rw [hn] at hvl
  exact not_lt.1 (of_decide_eq_false hvl)

/-- A delivered code has the format's bits. -/
theorem Fmt.deliver_lt (f : Fmt) (hf : f.Proper) (nan rm draw : Nat) (r : Real) : (f.deliver nan rm draw r).1 < 2 ^ f.width := by
  have hsign : ∀ neg m, m < 2 ^ (f.e + f.p) → f.signBit neg + m < 2 ^ f.width := fun neg m h => f.signBit_add_lt neg h
  have hpos : ∀ m, m < 2 ^ (f.e + f.p) → m < 2 ^ f.width := fun m h => by simpa [Fmt.signBit] using hsign false m h
  have hmax := f.maxCode_lt nan
  rcases r with nv | ⟨neg, dz⟩ | ⟨neg, m, e, sticky⟩
  · simp only [Fmt.deliver]
    split_ifs
    · exact Nat.two_pow_pos _
    · exact hpos _ (f.nanCode_lt hf)
    · exact hpos _ (f.nanCode_lt hf)
  · simp only [Fmt.deliver]
    split
    · exact hsign _ _ hmax
    · exact hpos _ (f.nanCode_lt hf)
    · exact hsign _ _ f.infCode_lt
  · unfold Fmt.deliver Fmt.round
    simp only
    by_cases hz : (m = 0 && !sticky) = true
    · rw [if_pos hz]
      exact hsign neg 0 (Nat.two_pow_pos _)
    · rw [if_neg hz]
      generalize roundShift rm draw neg _ _ sticky = r
      generalize (if r.1 < 2 ^ f.p then r.1 else _) = code
      rcases Nat.lt_or_ge (f.maxCode nan) code with hc | hc
      · rw [if_pos hc]
        refine hsign _ _ ?_
        split_ifs
        · exact f.infCode_lt
        · exact hmax
      · rw [if_neg hc.not_gt]
        exact hsign _ _ (hc.trans_lt hmax)

/-- Flags are five bits (R22). -/
theorem Fmt.deliver_flags_lt (f : Fmt) (nan rm draw : Nat) (r : Real) : (f.deliver nan rm draw r).2 < 32 := by
  rcases r with nv | ⟨neg, dz⟩ | ⟨neg, m, e, sticky⟩
  · simp only [Fmt.deliver]
    split_ifs <;> norm_num [flagNV]
  · have hor : (if dz = true then flagDZ else 0) < 32 ∧ (if dz = true then flagDZ else 0) ||| flagNV < 32 := by cases dz <;> decide
    simp only [Fmt.deliver]
    split
    · exact hor.2
    · exact hor.2
    · exact hor.1
  · unfold Fmt.deliver Fmt.round
    simp only
    split_ifs <;> norm_num [flagNX, flagUF, flagOF]

theorem mmaElement_flags_lt (old : Nat) (a b : Nat → FVal) (sc : Option FVal) : (mmaElement old (products a b) sc).2 < 32 := by
  have hnv : ∀ u : Real, u.nv < 32 := fun u => by
    rcases u with nv | _ | _
    · cases nv <;> decide
    · exact Nat.zero_lt_succ 31
    · exact Nat.zero_lt_succ 31
  rw [mmaElement_eq]
  refine Nat.or_lt_two_pow (n := 5) (fp32.deliver_flags_lt ..) ?_
  unfold scaledSum
  rcases sc with _ | c
  · exact hnv _
  · have hor : (sumProducts (products a b)).nv ||| flagNV < 2 ^ 5 := Nat.or_lt_two_pow (hnv _) (by decide)
    simp only [applyScale]
    split_ifs
    · exact hor
    · split
      · exact hor
      · exact hnv _

/-- What MMA writes into a cell of its block, with its flags. -/
def mmaValue (o : OpMma) (q : QEntry) (e : Exec) (p : Nat × Nat) : Nat × Nat :=
  let ty := mmaType o.type.val
  mmaElement (if o.acc.val = 1 then e.tile o.td.val (q.rowBase + p.1) p.2 else 0)
    (products (fun k => ty.fa.decode q.nan (e.elem o.vA.val ty.fa.width (8 * p.1 + k)))
      fun k => if ty.qn4 then qn4Val q.nan (e.elem (o.vB.val + k) ty.wb p.2) else ty.fb.decode q.nan (e.elem (o.vB.val + k) ty.wb p.2))
    (if ty.scaled then some (f32 (e.elem o.vS.val 32 p.2)) else none)

/-- The cells of MMA's block. -/
def mmaCells (m vl : Nat) : List (Nat × Nat) := (List.range m).flatMap fun r => (List.range vl).map fun c => (r, c)

theorem mem_mmaCells {m vl : Nat} {p : Nat × Nat} : p ∈ mmaCells m vl ↔ p.1 < m ∧ p.2 < vl := by
  rcases p with ⟨r, c⟩
  simp [mmaCells]

theorem nodup_mmaCells (m vl : Nat) : (mmaCells m vl).Nodup := by
  have h : mmaCells m vl = (List.range m).product (List.range vl) := rfl
  rw [h]
  exact List.nodup_range.product List.nodup_range

theorem opMma_run (o : OpMma) (q : QEntry) (hi : Nat) (s : State) :
    (opMma o).run q hi s = s.ep fun e => (mmaCells (Stated.mmaRows o) q.vl).foldl (cellStep o.td.val q.rowBase (mmaValue o q s.hart.ep)) e := rfl

/-- What an MMA that issues leaves, cell by cell. -/
theorem mma_performed {o : OpMma} {s : State} (hi : Stated.idle s) (h : Stated.issues (.mma o) s) :
    ∃ t val, exec (.mma o) s = .next t ∧ Stated.onlyExecutes s t ∧ t.hart.ep.v = s.hart.ep.v ∧ t.hart.ep.m = s.hart.ep.m
      ∧ val = mmaValue o (s.entry (.mma o) true 0 0) s.hart.ep
      ∧ (∀ k : Fin 256, k.val / 32 ≠ o.td.val → t.hart.ep.tiles[k.val] = s.hart.ep.tiles[k.val])
      ∧ (∀ r < Stated.mmaRows o, ∀ c < s.hart.ep.vl, t.hart.ep.tile o.td.val (s.hart.ep.rowBase + r) c = (val (r, c)).1 % 2 ^ 32)
      ∧ (∀ r < 32, ∀ c, ¬(s.hart.ep.rowBase ≤ r ∧ r < s.hart.ep.rowBase + Stated.mmaRows o ∧ c < s.hart.ep.vl) →
          t.hart.ep.tile o.td.val r c = s.hart.ep.tile o.td.val r c)
      ∧ ∀ k < 8, t.hart.ep.vstat.getLsbD k = true ↔
          s.hart.ep.vstat.getLsbD k = true ∨ ∃ r < Stated.mmaRows o, ∃ c < s.hart.ep.vl, (val (r, c)).2.testBit k = true := by
  obtain ⟨op, hop, hb⟩ := h
  obtain rfl : opMma o = op := Option.some.inj hop
  obtain ⟨-, hlegal⟩ := legal_of_issueBad hb
  obtain ⟨hbad, hvl⟩ := limits_of_legal hlegal
  have hrows : s.hart.ep.rowBase + Stated.mmaRows o ≤ 32 := by
    simp only [opMma, Bool.or_eq_false_iff, decide_eq_false_iff_not, not_lt] at hbad
    exact hbad.2
  have hcols : s.hart.ep.vl ≤ 16384 := by
    have hnt : s.hart.ep.nt ≤ 16384 := by
      have := regBits_le s.hart.ep
      rw [Exec.regBits] at this
      show s.hart.ep.regBytes ≤ 16384
      omega
    have hmax := hvl _ rfl
    split_ifs at hmax
    · exact hmax.trans hnt
    · exact hmax.trans ((min_le_left _ _).trans hnt)
  have hexec : exec (.mma o) s = dispatch (.mma o) (opMma o) 0 0 s := rfl
  rw [hexec, dispatch_idle 0 0 hi rfl hb, opMma_run]
  have hfl : ∀ p, (mmaValue o (s.entry (.mma o) true 0 0) s.hart.ep p).2 < 64 := fun p =>
    (mmaElement_flags_lt _ _ _ _).trans (by norm_num)
  obtain ⟨h1, h2, h3, h4, h5⟩ := foldl_cellStep o.td.isLt (rowBase := s.hart.ep.rowBase) hfl _ (nodup_mmaCells (Stated.mmaRows o) s.hart.ep.vl)
    (fun p hp => by rw [mem_mmaCells] at hp; omega) (s.hart.ep.takePi (s.entry (.mma o) true 0 0))
  refine ⟨_, _, rfl, executes_of_run ?_ rfl fun _ => rfl, ?_, ?_, rfl, h2, fun r hr c hc => h3 (r, c) (mem_mmaCells.2 ⟨hr, hc⟩),
    fun r hr c hout => h4 r hr c fun p hp => ?_, fun k hk => (h5 k hk).trans ?_⟩
  · exact h1.eq
  · exact h1.masks.1
  · exact h1.masks.2
  · rw [mem_mmaCells] at hp
    omega
  · refine or_congr Iff.rfl ⟨?_, ?_⟩
    · rintro ⟨p, hp, hbit⟩
      obtain ⟨hr, hc⟩ := mem_mmaCells.1 hp
      exact ⟨p.1, hr, p.2, hc, hbit⟩
    · rintro ⟨r, hr, c, hc, hbit⟩
      exact ⟨(r, c), mem_mmaCells.2 ⟨hr, hc⟩, hbit⟩

/-- The elements of MMA's operands, in the statement's words. -/
theorem mmaValue_eq {o : OpMma} {s : State} (hty : o.type.val < 10) (r c : Nat) :
    mmaValue o (s.entry (.mma o) true 0 0) s.hart.ep (r, c)
      = mmaElement (if o.acc.val = 1 then Stated.tileElement s.hart.ep o.td.val (s.hart.ep.rowBase + r) c else 0)
          (products (Stated.mmaA o s r) fun k => Stated.mmaB o s k c)
          (if 6 ≤ o.type.val then some (Stated.mmaScale o s c) else none) := by
  have hB : ∀ k, (let ty := Stated.mmaTypes.getD o.type.val (bf16, bf16, false, false)
      if ty.2.2.1 then qn4Val (Stated.nanOf s) (s.hart.ep.elem (o.vB.val + k) ty.2.1.width c)
      else ty.2.1.decode (Stated.nanOf s) (s.hart.ep.elem (o.vB.val + k) ty.2.1.width c)) = Stated.mmaB o s k c := by
    intro k
    have hq : (Stated.mmaTypes.getD o.type.val (bf16, bf16, false, false)).2.2.1 = true
        → (Stated.mmaTypes.getD o.type.val (bf16, bf16, false, false)).2.1.width = 4 := by
      generalize o.type.val = t at hty ⊢
      revert t
      decide
    unfold Stated.mmaB
    simp only [element_eq_elem]
    split_ifs with h
    · exact qn4Val_eq (by have := elem_lt s.hart.ep (o.vB.val + k) (Stated.mmaTypes.getD o.type.val (bf16, bf16, false, false)).2.1.width c
                          rw [hq h] at this ⊢; exact this)
    · rfl
  have hA : ∀ k, (Stated.mmaTypes.getD o.type.val (bf16, bf16, false, false)).1.decode (Stated.nanOf s)
      (s.hart.ep.elem o.vA.val (Stated.mmaTypes.getD o.type.val (bf16, bf16, false, false)).1.width (8 * r + k)) = Stated.mmaA o s r k := by
    intro k
    unfold Stated.mmaA
    simp only [element_eq_elem]
  have hS : (if decide (6 ≤ o.type.val) = true then some (f32 (s.hart.ep.elem o.vS.val 32 c)) else none)
      = if 6 ≤ o.type.val then some (Stated.mmaScale o s c) else none := by
    simp only [decide_eq_true_eq]
    split_ifs with h
    · rw [Stated.mmaScale, if_neg (not_lt.2 h), element_eq_elem]
      rfl
    · rfl
  unfold mmaValue
  rw [mmaType_eq _ hty, nan_entry, tileElement_eq_tile, ← hS]
  simp only [hA]
  exact congrArg (fun b => mmaElement _ (products _ b) _) (funext hB)

/-- The code 0 is the number 0. -/
theorem mmaCell_zero (a b : Nat → FVal) (sc : Option FVal) :
    Stated.MmaCell a b (scaleOf sc) (.fin false 0 0) (mmaElement 0 (products a b) sc).1 (mmaElement 0 (products a b) sc).2 := by
  have hzero : Stated.finite (f32 0) = some 0 := by
    rw [show f32 0 = .fin false 0 (-149) from rfl, finite_fin]
    simp
  obtain ⟨hfin, hlim⟩ := mmaCell 0 a b sc
  refine ⟨fun p q c d hpq hc hd => hfin p q c d hpq hc ?_, fun x v nv hx hv => hlim x v nv hx ?_⟩
  · rw [hzero, ← hd, finite_fin]
    simp
  · rw [← hv, mmaLimit_eq, mmaLimit_eq]
    have hsum : ∀ w, Stated.sumLimit w (f32 0) = Stated.sumLimit w (.fin false 0 0) := fun w => by
      rw [sumLimit_comm, sumLimit_finite hzero, sumLimit_comm]
    simp only [hsum]

theorem mmaSums : Stated.MmaSums := by
  intro o s hi _ hty h
  obtain ⟨t, val, hexec, -, -, -, hval, -, hin, -, hvstat⟩ := mma_performed hi h
  refine ⟨t, fun r c => (val (r, c)).2, hexec, hvstat, fun r hr c hc => ?_⟩
  have hscale : scaleOf (if 6 ≤ o.type.val then some (Stated.mmaScale o s c) else none) = Stated.mmaScale o s c := by
    split_ifs with h6
    · rfl
    · rw [Stated.mmaScale, if_pos (not_le.1 h6)]
      rfl
  have hv := mmaValue_eq hty r c (s := s)
  rw [← hval] at hv
  have hlt : (val (r, c)).1 < 2 ^ 32 := by rw [hv, mmaElement_eq]; exact fp32.deliver_lt proper_fp32 ..
  rw [tileElement_eq_tile t.hart.ep, hin r hr c hc, Nat.mod_eq_of_lt hlt]
  simp only [hv]
  generalize (if 6 ≤ o.type.val then some (Stated.mmaScale o s c) else none) = sc at hscale
  rw [← hscale]
  have hacc := o.acc.isLt
  by_cases h0 : o.acc.val = 0
  · rw [if_pos h0, if_neg (show ¬ o.acc.val = 1 by omega)]
    exact mmaCell_zero _ _ _
  · rw [if_neg h0, if_pos (show o.acc.val = 1 by omega)]
    exact mmaCell _ _ _ _

theorem mmaKeepsTheRest : Stated.MmaKeepsTheRest := by
  intro o s hi h
  obtain ⟨t, val, hexec, honly, hv, hm, -, htiles, -, hout, -⟩ := mma_performed hi h
  refine ⟨t, hexec, honly, hv, hm, ?_, htiles, fun r hr c hc _ => ?_⟩
  · rw [honly.1]; rfl
  · rw [tileElement_eq_tile, tileElement_eq_tile]
    exact hout r hr c hc

/-- Settles O30, from what one element of MMA is and what its block of cells leaves. -/
theorem mmaTouchesItsRows : Obligations.MmaTouchesItsRows := ⟨mmaSums, mmaKeepsTheRest⟩

end Sys2Proof.Machine

/-! SUPPORT. An element-wise word that issues on an idle hart, in the words of statements (R49, R50, R92, R152 to R156). -/

namespace Sys2Proof.Machine

/-! ### What the word carries, in the words of statements -/

section Entry

variable (s : State) (i : Instr) (whole : Bool) (x1 x2 : Word)

theorem entry_frm : (s.entry i whole x1 x2).frm = (s.hart.ep.vcfg >>> 5).toNat := by
  have := s.hart.ep.vcfg.isLt
  show s.hart.ep.vcfg.toNat / 2 ^ 5 % 2 ^ 3 = _
  rw [BitVec.toNat_ushiftRight, Nat.shiftRight_eq_div_pow]
  omega

theorem entry_start : (s.entry i false x1 x2).start = Stated.startOf s := by
  show (if (!false && s.hart.sc.vstartArmed) = true then _ else _) = _
  simp [Stated.startOf]

theorem entry_lend (k : Nat) : (s.entry i whole x1 x2).lend.getLsbD k = (s.hart.sc.lend.getLsbD 31 && s.hart.sc.lend.getLsbD k) := by
  show (if s.hart.sc.lend.getLsbD 31 = true then s.hart.sc.lend else 0).getLsbD k = _
  cases s.hart.sc.lend.getLsbD 31 <;> simp

theorem entry_pmask : (s.entry i whole x1 x2).pmask = Stated.lentMask s := by
  show (if s.hart.sc.lend.getLsbD 31 = true then s.hart.sc.lend else 0).toNat / 2 ^ 7 % 2 ^ 4 = _
  unfold Stated.lentMask
  split_ifs <;> simp

theorem entry_copy : (s.entry i whole x1 x2).copy = Stated.lentCopy s := by
  unfold QEntry.copy Stated.lentCopy
  rw [entry_lend s i whole x1 x2 17]
  by_cases h : s.hart.sc.lend.getLsbD 31 = true
  · have hl : (s.entry i whole x1 x2).lend = s.hart.sc.lend := if_pos h
    rw [hl, h, Bool.true_and]
    simp only [true_and]
    rfl
  · rw [if_neg fun hc => h (Bool.and_eq_true_iff.1 hc).1, if_neg fun hc => h hc.1]

theorem entry_active (pm j : Nat) : (s.entry i whole x1 x2).active s.hart.ep pm j = Stated.isActive s pm j := by
  unfold QEntry.active Stated.isActive
  rw [entry_pmask, QEntry.pol, entry_lend s i whole x1 x2 11]
  have hbit : ∀ m, (s.entry i whole x1 x2).predBit s.hart.ep m j = Stated.maskBit s.hart.ep m j := fun m => (maskBit_eq_mbit _ m j).symm
  rw [hbit, hbit]
  by_cases h : s.hart.sc.lend.getLsbD 31 = true
  · rw [h, Bool.true_and]
  · have h0 : Stated.lentMask s = 0 := by unfold Stated.lentMask; rw [if_neg h]
    rw [h0, if_neg (not_not.2 rfl), if_neg (not_not.2 rfl)]

end Entry

/-! ### Lanes and draws, in the words of statements -/

theorem laneGen_eq (e : Exec) {w : Nat} (hw : 8 ∣ w) (j : Nat) : laneGen e w j = 1 + Stated.laneOf e w j := by
  obtain ⟨k, rfl⟩ := hw
  have hdiv : ∀ x, x * (8 * k) / 8 = x * k := fun x => by rw [show x * (8 * k) = 8 * (x * k) by ring, Nat.mul_div_cancel_left _ (by norm_num)]
  unfold laneGen Stated.laneOf
  rw [perAt_eq_mvl, Nat.mul_div_cancel_left k (by norm_num), Exec.d]
  simp only [hdiv]
  ring

theorem drawsTo_eq (s : State) {w : Nat} (hw : 8 ∣ w) (pm hi p : Nat) :
    drawsTo (fun j => Stated.isActive s pm j) (laneGen s.hart.ep w) (Stated.startOf s) hi (1 + p) = Stated.drawsBelow s pm w hi p := by
  unfold drawsTo Stated.drawsBelow
  congr 1
  apply List.filter_congr
  intro j _
  rw [laneGen_eq _ hw]
  congr 1
  rw [Bool.eq_iff_iff, beq_iff_eq, beq_iff_eq, Nat.add_left_cancel_iff]

theorem nextDraw_zero : Stated.nextDraw 0 = 0 := by decide

/-- The state of a lane's generator before element `i` draws. -/
def drawBefore (s : State) (pm w i : Nat) : BitVec 32 :=
  Stated.drawnTimes s (1 + Stated.laneOf s.hart.ep w i) (Stated.drawsBelow s pm w i (Stated.laneOf s.hart.ep w i))

theorem drawOf_eq (s : State) (pm w i : Nat) : Stated.drawOf s pm w i = (Stated.nextDraw (drawBefore s pm w i)).toNat := by
  unfold Stated.drawOf drawBefore Stated.drawnTimes
  split_ifs
  · rw [Function.iterate_succ_apply']
  · rw [nextDraw_zero]

/-! ### Groups (R153, R156) -/

theorem pow_of_dvd_1024 {w : Nat} (hw : w ∣ 1024) : ∃ a, w = 2 ^ a := by
  obtain ⟨a, -, rfl⟩ := (Nat.dvd_prime_pow Nat.prime_two (m := 10)).1 hw
  exact ⟨a, rfl⟩

/-- The elements that a word can have lie within each of its operand groups, whatever their widths (R153). -/
theorem vlCap_le (e : Exec) {w w2 : Nat} (hw : w ∣ 1024) (hw2 : w2 ∣ 1024) : e.g * e.mvl w ≤ max 1 (e.g * w2 / w) * e.mvl w2 := by
  have h1 := mvl_mul e hw
  have h2 := mvl_mul e hw2
  have hpos : ∀ {v : Nat}, v ∣ 1024 → 0 < v := fun h => Nat.pos_of_dvd_of_pos h (by norm_num)
  have hw0 := hpos hw
  have hw20 := hpos hw2
  refine Nat.le_of_mul_le_mul_right (c := w * w2) ?_ (Nat.mul_pos hw0 hw20)
  have hl : e.g * e.mvl w * (w * w2) = e.g * w2 * e.regBits := by rw [← h1]; ring
  have hr : max 1 (e.g * w2 / w) * e.mvl w2 * (w * w2) = max 1 (e.g * w2 / w) * w * e.regBits := by rw [← h2]; ring
  rw [hl, hr]
  apply Nat.mul_le_mul_right
  obtain ⟨a, rfl⟩ := pow_of_dvd_1024 hw
  obtain ⟨b, rfl⟩ := pow_of_dvd_1024 hw2
  rw [Exec.g, ← pow_add]
  rcases le_total a (e.group.val + b) with h | h
  · calc 2 ^ (e.group.val + b) = 2 ^ (e.group.val + b) / 2 ^ a * 2 ^ a := (Nat.div_mul_cancel (Nat.pow_dvd_pow 2 h)).symm
      _ ≤ _ := Nat.mul_le_mul_right _ (le_max_right _ _)
  · calc 2 ^ (e.group.val + b) ≤ 1 * 2 ^ a := by rw [one_mul]; exact Nat.pow_le_pow_right two_pos h
      _ ≤ _ := Nat.mul_le_mul_right _ (le_max_left _ _)

theorem operand_size (e : Exec) (r : Reg) (w2 w : Nat) : (e.operand r w2 w).size = max 1 (e.g * w2 / w) := rfl

/-- Groups that do not meet are apart. -/
theorem apart_of_meets {a b : Grp} (h : a.meets b = false) : a.reg + a.size ≤ b.reg ∨ b.reg + b.size ≤ a.reg := by
  simp only [Grp.meets, Bool.and_eq_false_iff, decide_eq_false_iff_not, not_lt] at h
  exact h.symm

/-- The copy of a destination group, where one is lent. -/
def copyGroup (d : Grp) (c : Nat) : Grp := ⟨c, d.size, d.free, d.width⟩

/-- What the issue checks say of a word with one destination: the groups fit, its copy is apart from all, and a source that it meets coincides with
it. -/
theorem groups_of_legal {s : State} {d : Grp} {srcs : List Grp} {vlMax : Option Nat} {bad : Bool} {masks : List Nat}
    (h : (⟨[d], srcs, vlMax, .same, bad, masks⟩ : Shape).illegal s.hart.ep s.hart.sc.lend = false) :
    d.ok = true ∧ (∀ g ∈ srcs, g.ok = true ∧ (d.meets g = true → d.reg = g.reg ∧ d.size = g.size ∧ d.width = g.width))
    ∧ ∀ c, Stated.lentCopy s = some c → (copyGroup d c).ok = true ∧ (copyGroup d c).meets d = false ∧ ∀ g ∈ srcs, (copyGroup d c).meets g = false := by
  simp only [Shape.illegal, Bool.or_eq_false_iff, Bool.not_eq_false'] at h
  obtain ⟨⟨⟨⟨⟨⟨-, hok⟩, -⟩, hover⟩, hcopy⟩, -⟩, -⟩ := h
  simp only [List.all_append, Bool.and_eq_true, List.all_cons, List.all_nil, and_true] at hok
  obtain ⟨⟨hd, hsrc⟩, hcok⟩ := hok
  refine ⟨hd, fun g hg => ⟨List.all_eq_true.1 hsrc g hg, fun hm => ?_⟩, fun c hc => ?_⟩
  · simp only [List.any_cons, List.any_nil, Bool.or_false, List.any_eq_false] at hover
    have := hover g hg
    simpa [hm, and_assoc] using this
  · unfold Stated.lentCopy at hc
    split_ifs at hc with hl
    obtain rfl := Option.some.inj hc
    have hcond : (s.hart.sc.lend.getLsbD 31 && s.hart.sc.lend.getLsbD 17) = true := Bool.and_eq_true_iff.2 hl
    rw [if_pos hl, List.map_cons, List.map_nil, List.all_cons, List.all_nil, Bool.and_true] at hcok
    simp only [if_pos hcond, List.map_cons, List.map_nil, List.any_cons, List.any_nil, Bool.or_false, Bool.or_eq_false_iff, List.any_eq_false,
      Bool.not_eq_true] at hcopy
    exact ⟨hcok, hcopy⟩

end Sys2Proof.Machine

/-! SUPPORT. What an element-wise word leaves of an idle hart (R92, R152, R154). -/

namespace Sys2Proof.Machine

/-! ### The tail (R154) -/

theorem tail_none (e : Exec) (q : QEntry) (d w n : Nat) (h : q.tz = false) : e.tail q d w n = e := by
  unfold Exec.tail
  rw [h]
  rfl

theorem tail_alone (e : Exec) (q : QEntry) (d w n : Nat) (h : q.tz = true) (hc : q.copy = none) : e.tail q d w n = e.zeroFrom d w n q.vl := by
  unfold Exec.tail
  rw [h, hc]
  rfl

theorem tail_copy (e : Exec) (q : QEntry) (d w n : Nat) {c : Nat} (h : q.tz = true) (hc : q.copy = some c) :
    e.tail q d w n = (e.zeroFrom d w n q.vl).zeroFrom c w n q.vl := by
  unfold Exec.tail
  rw [h, hc]
  rfl

/-- What the tail's treatment leaves of the group, of its copy, and of all else. -/
theorem tail_spec (e : Exec) (q : QEntry) {d w n : Nat} (hg : GroupsApart d n q.copy) (hw : w ∣ 1024) :
    e.SameRest (e.tail q d w n) ∧ (e.tail q d w n).vstat = e.vstat
    ∧ (∀ k, Outside d n q.copy k → (e.tail q d w n).vreg k = e.vreg k)
    ∧ (∀ j < n * e.mvl w, (e.tail q d w n).elem d w j = if q.tz = true ∧ q.vl ≤ j then 0 else e.elem d w j)
    ∧ ∀ c, q.copy = some c → ∀ j < n * e.mvl w, (e.tail q d w n).elem c w j = if q.tz = true ∧ q.vl ≤ j then 0 else e.elem c w j := by
  have hw0 : 0 < w := Nat.pos_of_dvd_of_pos hw (by norm_num)
  by_cases htz : q.tz = true
  · have hif : ∀ j x : Nat, (if j < q.vl then x else 0) = if q.tz = true ∧ q.vl ≤ j then 0 else x := fun j x => by
      by_cases hj : j < q.vl
      · rw [if_pos hj, if_neg fun h => absurd hj h.2.not_gt]
      · rw [if_neg hj, if_pos ⟨htz, not_lt.1 hj⟩]
    obtain ⟨h1, h2, h3, h4⟩ := zeroFrom_spec e d w q.vl hw hw0 n hg.fits
    rcases hc : q.copy with _ | c
    · rw [tail_alone e q d w n htz hc]
      exact ⟨h1, h2, fun k hk => h3 k hk.1, fun j hj => (h4 j hj).trans (hif j _), fun c h => by simp at h⟩
    · obtain ⟨g1, g2, g3, g4⟩ := zeroFrom_spec (e.zeroFrom d w n q.vl) c w q.vl hw hw0 n (hg.copy_fits c hc)
      have hapart := hg.apart c hc
      rw [tail_copy e q d w n htz hc]
      rw [h1.mvl] at g4
      have other : ∀ {r r' : Nat} {a b : Exec}, a.SameRest b → (r' + n ≤ r ∨ r + n ≤ r') → (∀ k, ¬(r ≤ k ∧ k < r + n) → b.vreg k = a.vreg k) →
          ∀ j < n * a.mvl w, b.elem r' w j = a.elem r' w j := by
        intro r r' a b hab hrr hv j hj
        have hdiv := div_mvl_lt hj
        refine elem_congr hab (hv _ ?_)
        generalize j / a.mvl w = x at *
        omega
      refine ⟨h1.trans g1, g2.trans h2, fun k hk => ?_, fun j hj => ?_, fun c' hc' j hj => ?_⟩
      · obtain ⟨k1, k2⟩ := hk
        exact (g3 k (k2 c rfl)).trans (h3 k k1)
      · rw [other g1 hapart.symm g3 j (by rwa [h1.mvl]), h4 j hj]
        exact hif j _
      · obtain rfl := Option.some.inj hc'
        rw [g4 j hj, other h1 hapart h3 j hj]
        exact hif j _
  · rw [Bool.not_eq_true] at htz
    rw [tail_none e q d w n htz]
    have hif : ∀ j x : Nat, x = if q.tz = true ∧ q.vl ≤ j then 0 else x := fun j x => by rw [htz, if_neg fun h => Bool.false_ne_true h.1]
    exact ⟨rfl, rfl, fun _ _ => rfl, fun j _ => hif j _, fun c _ j _ => hif j _⟩

/-! ### The loop and its tail -/

/-- An operation reads nothing of the registers but the elements of its sources and its destination at the element's index, and gives `F` of them as
they stand in `e`. -/
def ReadsOnly (e : Exec) (d wd : Nat) (srcs : List (Reg × Nat)) (vl : Nat) (f : Exec → Nat → Nat → Nat × Nat) (F : Nat → Nat → Nat × Nat) : Prop :=
  ∀ e' : Exec, ∀ i < vl, (∀ r ∈ srcs, e'.elem r.1.val r.2 i = e.elem r.1.val r.2 i) → e'.elem d wd i = e.elem d wd i → ∀ dr, f e' dr i = F dr i

/-- The issue checks leave no destination register, of group or copy, that an operation could read changed. -/
theorem Loop.reads_of_legal {s : State} {l : Loop} {w : Nat} {d : Reg} {srcs : List (Reg × Nat)} {f : Exec → Nat → Nat → Nat × Nat} {bad : Bool}
    {masks : List Nat} (he : l.e = s.hart.ep.takePi l.q) (hcopy : l.q.copy = Stated.lentCopy s) (hvl : l.q.vl = s.hart.ep.vl) (hd : l.d = d.val)
    (hn : l.n = max 1 (s.hart.ep.g * l.w / w)) (hw : w ∣ 1024) (hwd : l.w ∣ 1024) (hsrc : ∀ r ∈ srcs, r.2 ∣ 1024)
    (hlegal : (⟨[s.hart.ep.operand d l.w w], srcs.map (fun r => s.hart.ep.operand r.1 r.2 w), s.hart.ep.vlCap w, .same, bad, masks⟩ : Shape).illegal
      s.hart.ep s.hart.sc.lend = false)
    (hr : ReadsOnly s.hart.ep d.val l.w srcs s.hart.ep.vl f l.F) (hF : ∀ dr j, (l.F dr j).1 < 2 ^ l.w ∧ (l.F dr j).2 < 64) : l.Reads f := by
  obtain ⟨hdok, hsrcs, hcopies⟩ := groups_of_legal hlegal
  have hcap := (limits_of_legal hlegal).2 _ rfl
  have hsize : (s.hart.ep.operand d l.w w).size = l.n := hn.symm
  have hfit : ∀ g : Grp, g.ok = true → g.reg + g.size ≤ 32 := fun g hg => of_decide_eq_true (Bool.and_eq_true_iff.1 hg).2
  have hmvl : ∀ w, l.e.mvl w = s.hart.ep.mvl w := fun w => by rw [he]; rfl
  have helem : ∀ r w j, l.e.elem r w j = s.hart.ep.elem r w j := fun r w j => by rw [he]; rfl
  refine ⟨⟨?_, fun c hc => ?_, fun c hc => ?_⟩, hwd, ?_, fun e' hrest hout j hj hel dr => hr e' j (hvl ▸ hj) (fun r hr' => ?_) ?_ dr,
    fun dr j => (hF dr j).1, fun dr j => (hF dr j).2⟩
  · rw [hd, ← hsize]; exact hfit _ hdok
  · rw [← hsize]; exact hfit _ (hcopies c (hcopy ▸ hc)).1
  · rw [hd, ← hsize]; exact apart_of_meets (hcopies c (hcopy ▸ hc)).2.1
  · rw [hvl, hmvl, hn]
    exact hcap.trans (vlCap_le s.hart.ep hw hwd)
  · have hg : s.hart.ep.operand r.1 r.2 w ∈ srcs.map fun r => s.hart.ep.operand r.1 r.2 w := List.mem_map_of_mem hr'
    obtain ⟨-, hsame⟩ := hsrcs _ hg
    by_cases hm : (s.hart.ep.operand d l.w w).meets (s.hart.ep.operand r.1 r.2 w) = true
    · obtain ⟨h1, -, h3⟩ := hsame hm
      have h1' : d.val = r.1.val := h1
      have h3' : l.w = r.2 := h3
      rw [← h1', ← h3', ← hd, ← helem, hel]
    · rw [← helem]
      have hin : j / l.e.mvl r.2 < max 1 (s.hart.ep.g * r.2 / w) := by
        apply div_mvl_lt
        rw [hmvl]
        exact (hvl ▸ hj : j < s.hart.ep.vl).trans_le (hcap.trans (vlCap_le s.hart.ep hw (hsrc r hr')))
      have hapart := apart_of_meets (eq_false_of_ne_true hm)
      rw [hsize] at hapart
      refine elem_congr hrest (hout _ ⟨?_, fun c hc => ?_⟩)
      · rw [hd]
        have : d.val + l.n ≤ r.1.val ∨ r.1.val + max 1 (s.hart.ep.g * r.2 / w) ≤ d.val := hapart
        generalize j / l.e.mvl r.2 = x at *
        omega
      · have h := apart_of_meets ((hcopies c (hcopy ▸ hc)).2.2 _ hg)
        have : c + l.n ≤ r.1.val ∨ r.1.val + max 1 (s.hart.ep.g * r.2 / w) ≤ c := by rw [← hsize]; exact h
        generalize j / l.e.mvl r.2 = x at *
        omega
  · rw [← hd, ← helem, hel]

/-- What stands once the loop and its tail are through. -/
structure Loop.Done (l : Loop) (e : Exec) (c : Scalar) : Prop where
  rest : l.e.SameRest e
  other : ∀ k, Outside l.d l.n l.q.copy k → e.vreg k = l.e.vreg k
  elem : ∀ j < l.n * l.e.mvl l.w, e.elem l.d l.w j = if l.q.tz = true ∧ l.q.vl ≤ j then 0
    else if l.q.start ≤ j ∧ j < l.q.vl then l.value (l.e.elem l.d l.w j) j else l.e.elem l.d l.w j
  copy : ∀ k, l.q.copy = some k → ∀ j < l.n * l.e.mvl l.w, e.elem k l.w j = if l.q.tz = true ∧ l.q.vl ≤ j then 0
    else if l.q.start ≤ j ∧ j < l.q.vl then l.value (l.e.elem k l.w j) j else l.e.elem k l.w j
  flags : ∀ k < 8, e.vstat.getLsbD k = true ↔
    l.e.vstat.getLsbD k = true ∨ ∃ j, l.q.start ≤ j ∧ j < l.q.vl ∧ l.act j = true ∧ (l.out j).2.testBit k = true
  sc : c = { l.c with gens := c.gens }
  gens : ∀ g (h : g < 257), c.gens[g] = l.gen (max l.q.start l.q.vl) g

theorem Loop.done (l : Loop) {f : Exec → Nat → Nat → Nat × Nat} (hl : l.Reads f) :
    let r := (range l.q.start (l.q.vl - l.q.start)).foldl (elementStep l.pm l.d l.w l.mode f l.q) (l.e, l.c)
    l.Done (r.1.tail l.q l.d l.w l.n) r.2 := by
  intro r
  have hend : l.q.start + (l.q.vl - l.q.start) = max l.q.start l.q.vl := by omega
  have hat : l.At (max l.q.start l.q.vl) r := by
    rcases le_total l.q.start l.q.vl with h | h
    · have := l.at_foldl hl (l.q.vl - l.q.start) (by omega)
      rwa [hend] at this
    · have hr : r = (l.e, l.c) := by
        show (range l.q.start (l.q.vl - l.q.start)).foldl _ _ = _
        rw [Nat.sub_eq_zero_of_le h]
        rfl
      rw [hr, max_eq_left h]
      exact l.at_start
  obtain ⟨h1, h2, h3, h4, h5⟩ := tail_spec r.1 l.q hl.groups hl.width
  have hrange : ∀ j, (l.q.start ≤ j ∧ j < max l.q.start l.q.vl) ↔ l.q.start ≤ j ∧ j < l.q.vl := fun j => by omega
  rw [hat.rest.mvl] at h4 h5
  refine ⟨hat.rest.trans h1, fun k hk => (h3 k hk).trans (hat.other k hk), fun j hj => ?_, fun k hk j hj => ?_, fun k hk => ?_, hat.sc, hat.gens⟩
  · rw [h4 j hj, hat.elem j hj]
    simp only [hrange]
  · rw [h5 k hk j hj, hat.copy k hk j hj]
    simp only [hrange]
  · rw [h2, hat.flags k hk]
    simp only [← and_assoc, hrange]

end Sys2Proof.Machine

/-! SUPPORT. The element-wise words of an idle hart, whole (R92, R152, R154). -/

namespace Sys2Proof.Machine

/-- The loop of an element-wise word that issues on an idle hart. -/
def State.loop (s : State) (q : QEntry) (w : Nat) (d : Reg) (wd pm mode : Nat) (F : Nat → Nat → Nat × Nat) : Loop where
  e := s.hart.ep.takePi q
  c := s.hart.sc
  q := q
  pm := pm
  d := d.val
  w := wd
  n := max 1 (s.hart.ep.g * wd / w)
  mode := mode
  F := F

/-- No element below the start draws. -/
theorem drawsTo_of_le (act : Nat → Bool) (lane : Nat → Nat) {start hi : Nat} (h : hi ≤ start) (g : Nat) : drawsTo act lane start hi g = 0 := by
  rw [drawsTo, List.length_eq_zero_iff, List.filter_eq_nil_iff]
  intro j hj
  have := List.mem_range.1 hj
  simp [show ¬ start ≤ j by omega]

theorem drawsTo_max (act : Nat → Bool) (lane : Nat → Nat) (start hi g : Nat) : drawsTo act lane start (max start hi) g = drawsTo act lane start hi g := by
  rcases le_total start hi with h | h
  · rw [max_eq_right h]
  · rw [max_eq_left h, drawsTo_of_le _ _ le_rfl, drawsTo_of_le _ _ h]

theorem drawsTo_none {act : Nat → Bool} {lane : Nat → Nat} {start hi g : Nat} (h : ∀ j, lane j ≠ g) : drawsTo act lane start hi g = 0 := by
  rw [drawsTo, List.length_eq_zero_iff, List.filter_eq_nil_iff]
  intro j _
  simp [h j]

section Done

variable {s : State} {i : Instr} {x1 x2 : Word} {w wd pm mode : Nat} {d : Reg} {F : Nat → Nat → Nat × Nat}

/-- The draw of element `j` in a mode, 0 in the modes that do not draw. -/
def drawIn (s : State) (mode pm wd j : Nat) : Nat := if mode = 4 then Stated.drawOf s pm wd j else 0

theorem loop_act (j : Nat) : (s.loop (s.entry i false x1 x2) w d wd pm mode F).act j = Stated.isActive s pm j := entry_active s i false x1 x2 pm j

/-- The generators before element `hi`, in the words of statements. -/
theorem loop_gen (hi : Nat) {g : Nat} (hg : g < 257) : (s.loop (s.entry i false x1 x2) w d wd pm mode F).gen hi g =
    if mode = 4 then Stated.nextDraw^[drawsTo (fun j => Stated.isActive s pm j) (laneGen s.hart.ep wd) (Stated.startOf s) hi g] s.hart.sc.gens[g]
    else s.hart.sc.gens[g] := by
  have hact : (s.loop (s.entry i false x1 x2) w d wd pm mode F).act = fun j => Stated.isActive s pm j := funext loop_act
  rw [Loop.gen, dif_pos hg, hact, ← entry_start s i x1 x2]
  rfl

theorem loop_draw (h8 : 8 ∣ wd) (j : Nat) : (s.loop (s.entry i false x1 x2) w d wd pm mode F).draw j = drawIn s mode pm wd j := by
  unfold Loop.draw drawIn
  by_cases hm : mode = 4
  · rw [if_pos (show (s.loop (s.entry i false x1 x2) w d wd pm mode F).mode = 4 from hm), if_pos hm, drawOf_eq]
    have hlane : laneGen (s.loop (s.entry i false x1 x2) w d wd pm mode F).e wd j = 1 + Stated.laneOf s.hart.ep wd j := laneGen_eq s.hart.ep h8 j
    show (Stated.nextDraw (Loop.gen _ j (laneGen _ wd j))).toNat = _
    rw [hlane]
    unfold drawBefore Stated.drawnTimes
    split_ifs with hg
    · rw [loop_gen j hg, if_pos hm, drawsTo_eq s h8]
    · rw [Loop.gen, dif_neg hg]
  · rw [if_neg (show ¬ (s.loop (s.entry i false x1 x2) w d wd pm mode F).mode = 4 from hm), if_neg hm]

theorem loop_out (h8 : 8 ∣ wd) (j : Nat) : (s.loop (s.entry i false x1 x2) w d wd pm mode F).out j = F (drawIn s mode pm wd j) j := by
  rw [Loop.out, loop_draw h8]
  rfl

variable {e : Exec} {c : Scalar} (hd : (s.loop (s.entry i false x1 x2) w d wd pm mode F).Done e c) (h8 : 8 ∣ wd)

include hd

theorem loop_gens_other (hm : mode ≠ 4) : c.gens = s.hart.sc.gens := by
  ext g hg : 1
  rw [hd.gens g hg, loop_gen _ hg, if_neg hm]

omit hd
include h8

/-- The elements of the group or of its copy, in the statement's words. -/
theorem loop_element {r : Nat} (hr : ∀ j < max 1 (s.hart.ep.g * wd / w) * s.hart.ep.mvl wd, e.elem r wd j =
      if (s.entry i false x1 x2).tz = true ∧ s.hart.ep.vl ≤ j then 0
      else if (s.entry i false x1 x2).start ≤ j ∧ j < s.hart.ep.vl then
        (s.loop (s.entry i false x1 x2) w d wd pm mode F).value (s.hart.ep.elem r wd j) j
      else s.hart.ep.elem r wd j) (hvl : s.hart.ep.vl ≠ 0) :
    ∀ j < max 1 (s.hart.ep.g * wd / w) * Stated.perAt s.hart.ep wd,
      Stated.element e r wd j = Stated.elementAfter s r wd pm (fun j => (F (drawIn s mode pm wd j) j).1) j := by
  intro j hj
  rw [perAt_eq_mvl] at hj
  have htz : (s.entry i false x1 x2).tz = Stated.tzOf s := rfl
  have hiz : (s.loop (s.entry i false x1 x2) w d wd pm mode F).q.iz = Stated.izOf s := rfl
  rw [element_eq_elem, hr j hj, entry_start, htz, Stated.elementAfter, element_eq_elem, Loop.value, loop_act, loop_out h8, hiz]
  by_cases hjv : j < s.hart.ep.vl
  · rw [if_neg fun h => absurd hjv h.2.not_gt, if_pos hjv]
    by_cases hs : j < Stated.startOf s
    · rw [if_neg fun h => absurd hs h.1.not_gt, if_pos hs]
    · rw [if_pos ⟨not_lt.1 hs, hjv⟩, if_neg hs]
  · rw [if_neg hjv, if_neg (show ¬(Stated.startOf s ≤ j ∧ j < s.hart.ep.vl) from fun h => hjv h.2)]
    by_cases ht : Stated.tzOf s = true
    · rw [if_pos ⟨ht, not_lt.1 hjv⟩, if_pos ⟨ht, hvl⟩]
    · rw [if_neg fun h => ht h.1, if_neg fun h => ht h.1]

include hd

theorem loop_written (hvl : s.hart.ep.vl ≠ 0) (t : State) (ht : t.hart.ep = e) :
    Stated.elementsWritten s t d.val wd (max 1 (s.hart.ep.g * wd / w)) pm (fun j => (F (drawIn s mode pm wd j) j).1) := by
  subst ht
  have hm : t.hart.ep.m = s.hart.ep.m := by rw [hd.rest]; rfl
  have htiles : t.hart.ep.tiles = s.hart.ep.tiles := by rw [hd.rest]; rfl
  refine ⟨loop_element (mode := mode) (F := F) h8 hd.elem hvl,
    fun c hc => loop_element (mode := mode) (F := F) h8 (hd.copy c ?_) hvl, fun r h1 h2 => ?_, hm, htiles⟩
  · rw [← hc]; exact entry_copy s i false x1 x2
  · have hv := hd.other r.val ⟨h1, fun c hc => h2 c ?_⟩
    · unfold Exec.vreg at hv
      rw [dif_pos r.isLt, dif_pos r.isLt] at hv
      exact hv
    · rw [← hc]; exact (entry_copy s i false x1 x2).symm

theorem loop_accrued (t : State) (ht : t.hart.ep = e) : Stated.accrued s t pm (fun j => (F (drawIn s mode pm wd j) j).2) := by
  subst ht
  intro k hk
  rw [hd.flags k hk]
  refine or_congr Iff.rfl (exists_congr fun j => ?_)
  rw [loop_act, loop_out h8, ← entry_start s i x1 x2]
  rfl

theorem loop_lanes (t : State) (ht : t.hart.sc.gens = c.gens) (hmode : mode = (s.hart.ep.vcfg >>> 5).toNat) : Stated.lanesDrawn s t pm wd := by
  have hgen : ∀ g (hg : g < 257), t.hart.sc.gens[g] = if mode = 4 then
      Stated.nextDraw^[drawsTo (fun j => Stated.isActive s pm j) (laneGen s.hart.ep wd) (Stated.startOf s) s.hart.ep.vl g] s.hart.sc.gens[g]
      else s.hart.sc.gens[g] := by
    intro g hg
    simp only [ht]
    rw [hd.gens g hg, loop_gen _ hg]
    show (if mode = 4 then Stated.nextDraw^[drawsTo _ _ _ (max (s.entry i false x1 x2).start s.hart.ep.vl) g] _ else _) = _
    rw [entry_start, drawsTo_max]
  refine ⟨?_, fun p hp => ?_⟩
  · rw [hgen 0 (by norm_num), drawsTo_none fun j => by rw [laneGen_eq _ h8]; omega]
    exact ite_self _
  · rw [hgen (1 + p) (by omega), drawsTo_eq s h8, Stated.drawnTimes, dif_pos (show 1 + p < 257 by omega), hmode]

end Done

end Sys2Proof.Machine

namespace Sys2Proof.Machine

/-- A state with the two halves of its hart replaced. -/
def State.halves (s : State) (e : Exec) (c : Scalar) : State := { s with hart := { s.hart with ep := e, sc := c } }

/-- The loop of a word performed to its end. -/
theorem elementwise_whole (pm d w size : Nat) (draws : Bool) (f : Exec → Nat → Nat → Nat × Nat) {q : QEntry} {vl : Nat} (hvl : q.vl = vl) (h : vl ≠ 0)
    {s : State} {r : Exec × Scalar}
    (hr : (range q.start (q.vl - q.start)).foldl (elementStep pm d w (if draws then q.frm else 0) f q) (s.hart.ep, s.hart.sc) = r) :
    elementwise pm d w size draws f q vl s = s.halves (r.1.tail q d w size) r.2 := by
  subst hvl hr
  rw [elementwise_eq, if_neg h]
  simp only [le_refl, if_true, min_self]
  rfl

/-- The element-wise word of these operands. -/
abbrev sameOp (w : Nat) (d : Reg) (wd : Nat) (srcs : List (Reg × Nat)) (pm : Nat) (draws : Bool) (bad : Exec → Bool)
    (f : QEntry → Exec → Nat → Nat → Nat × Nat) : VOp := elementOp w d wd srcs pm draws .same bad f

/-- What an element-wise word that issues on an idle hart leaves: its elements and their copies, its flags, and the generators of its lanes (R92,
R152, R154). -/
theorem elementOp_performed {s : State} {i : Instr} (x1 x2 : Word) {w wd pm : Nat} {d : Reg} {srcs : List (Reg × Nat)} {draws : Bool}
    {bad : Exec → Bool} {f : QEntry → Exec → Nat → Nat → Nat × Nat} {F : Nat → Nat → Nat × Nat} (hi : Stated.idle s)
    (hop : vopOf i = some (sameOp w d wd srcs pm draws bad f)) (hissues : Stated.issues i s)
    (hw : w ∣ 1024) (hwd : wd ∣ 1024) (h8 : 8 ∣ wd) (hsrc : ∀ r ∈ srcs, r.2 ∣ 1024)
    (hr : ReadsOnly s.hart.ep d.val wd srcs s.hart.ep.vl (f (s.entry i false x1 x2)) F)
    (hF : ∀ dr j, (F dr j).1 < 2 ^ wd ∧ (F dr j).2 < 64) :
    let mode := if draws then (s.hart.ep.vcfg >>> 5).toNat else 0
    ∃ t, dispatch i (sameOp w d wd srcs pm draws bad f) x1 x2 s = .next t
      ∧ Stated.executes true false s t ∧ (mode ≠ 4 → Stated.onlyExecutes s t)
      ∧ Stated.elementsWritten s t d.val wd (max 1 (2 ^ s.hart.ep.group.val * wd / w)) pm (fun j => (F (drawIn s mode pm wd j) j).1)
      ∧ Stated.accrued s t pm (fun j => (F (drawIn s mode pm wd j) j).2)
      ∧ (draws = true → Stated.lanesDrawn s t pm wd) := by
  intro mode
  obtain ⟨op, hop', hb⟩ := hissues
  obtain rfl : sameOp w d wd srcs pm draws bad f = op := Option.some.inj (hop.symm.trans hop')
  obtain ⟨-, hlegal⟩ := legal_of_issueBad hb
  generalize hq : s.entry i false x1 x2 = q at hr
  have hrun : dispatch i (sameOp w d wd srcs pm draws bad f) x1 x2 s
      = .next (elementwise pm d.val wd (max 1 (s.hart.ep.g * wd / w)) draws (f q) q s.hart.ep.vl (s.taken q)).retire := by
    rw [dispatch_idle x1 x2 hi hop hb, ← hq]
    rfl
  rw [hrun]
  have hqvl : q.vl = s.hart.ep.vl := by rw [← hq]; rfl
  by_cases hvl : s.hart.ep.vl = 0
  · rw [elementwise_eq, if_pos (hqvl.trans hvl)]
    refine ⟨_, rfl, executes_of_run (e := s.hart.ep.takePi q) (c := s.hart.sc) rfl rfl fun h => by simp at h,
      fun _ => executes_of_run (e := s.hart.ep.takePi q) (c := s.hart.sc) rfl rfl fun _ => rfl, ?_, ?_, ?_⟩
    · have hafter : ∀ r (g : Nat → Nat) j, Stated.elementAfter s r wd pm g j = Stated.element s.hart.ep r wd j := fun r g j => by
        rw [Stated.elementAfter, if_neg (by omega), if_neg fun h => h.2 hvl]
      exact ⟨fun j _ => (hafter _ _ j).symm, fun c _ j _ => (hafter _ _ j).symm, fun _ _ _ => rfl, rfl, rfl⟩
    · intro k _
      refine ⟨.inl, ?_⟩
      rintro (h | ⟨j, -, hj, -⟩)
      · exact h
      · omega
    · refine fun _ => ⟨rfl, fun p hp => ?_⟩
      rw [hvl, Stated.drawnTimes, dif_pos (show 1 + p < 257 by omega)]
      exact (ite_self _).symm
  · have hmode : (if draws = true then q.frm else 0) = mode := by rw [← hq, entry_frm]
    have hreads : (s.loop q w d wd pm mode F).Reads (f q) := Loop.reads_of_legal (l := s.loop q w d wd pm mode F) rfl
      (by rw [← hq]; exact entry_copy s i false x1 x2) hqvl rfl rfl hw hwd hsrc hlegal hr hF
    obtain ⟨r, hr'⟩ : ∃ r, (range q.start (q.vl - q.start)).foldl (elementStep pm d.val wd mode (f q) q) (s.hart.ep.takePi q, s.hart.sc) = r := ⟨_, rfl⟩
    have hdone : (s.loop q w d wd pm mode F).Done (r.1.tail q d.val wd (max 1 (s.hart.ep.g * wd / w))) r.2 := by
      rw [← hr']
      exact (s.loop q w d wd pm mode F).done hreads
    rw [elementwise_whole pm d.val wd (max 1 (s.hart.ep.g * wd / w)) draws (f q) hqvl hvl (s := s.taken q) (r := r) (by rw [hmode]; exact hr')]
    generalize r.1.tail q d.val wd (max 1 (s.hart.ep.g * wd / w)) = e at *
    generalize r.2 = c at *
    subst hq
    have he : e = { (s.hart.ep.takePi (s.entry i false x1 x2)) with v := e.v, m := e.m, tiles := e.tiles, vstat := e.vstat } := by
      have h := hdone.rest
      have hm : e.m = s.hart.ep.m := by rw [h]; rfl
      have ht : e.tiles = s.hart.ep.tiles := by rw [h]; rfl
      rw [hm, ht]
      exact h
    exact ⟨((s.taken (s.entry i false x1 x2)).halves e c).retire, rfl, executes_of_run he hdone.sc fun h => by simp at h,
      fun hm => executes_of_run he hdone.sc fun _ => loop_gens_other hdone hm, loop_written hdone h8 hvl _ rfl, loop_accrued hdone h8 _ rfl,
      fun hdraws => loop_lanes hdone h8 _ rfl (if_pos hdraws)⟩

end Sys2Proof.Machine

/-! SUPPORT. Vector floating-point words beside the scalar words that compute the same (R92, R152, R163). -/

namespace Sys2Proof.Machine

/-! ### Widths -/

theorem fpWidth_eq : ∀ sew : Fin 4, Stated.fpWidth sew = (fmtOf sew.val).width := by decide

theorem width_dvd (code : Nat) : (fmtOf code).width ∣ 1024 ∧ 8 ∣ (fmtOf code).width ∧ (fmtOf code).width ≤ 64 := by
  unfold fmtOf
  split <;> decide

/-- A group of the word's own width. -/
theorem own_group (g : Nat) {w : Nat} (hw : 0 < w) : max 1 (2 ^ g * w / w) = 2 ^ g := by
  rw [Nat.mul_div_cancel _ hw]
  exact max_eq_right (Nat.one_le_two_pow)

/-! ### What scalar words answer -/

theorem operand_of_reg {s : State} {fmt : Fin 4} {r : Reg} {a : Nat} (h : Stated.reg s r = BitVec.ofNat 64 a) :
    Stated.operand s fmt r = (fmtOf fmt.val).decode 2 (a % 2 ^ (fmtOf fmt.val).width) := by
  rw [Stated.operand, h, BitVec.toNat_ofNat, Nat.mod_mod_of_dvd _ (Nat.pow_dvd_pow 2 (width_dvd fmt.val).2.2)]

/-- An operation of three operands that rounds once, on patterns of a format. -/
def fpApply (k : Nat → FVal → FVal → FVal → Real) (f : Fmt) (mode draw a b c : Nat) : Nat × Nat :=
  f.deliver 2 mode draw (k mode (f.decode 2 a) (f.decode 2 b) (f.decode 2 c))

theorem flags_setWidth {fl : Nat} (h : fl < 32) : (BitVec.ofNat 5 fl).setWidth 8 = BitVec.ofNat 8 fl := by
  rw [← ofNat_mod_flags, Nat.mod_eq_of_lt h]

theorem reg_fpAnswered (s : State) (w : Word) (fl : BitVec 5) (g : Vector (BitVec 32) 257) : Stated.reg (Stated.fpAnswered s 3 w fl g) 3 = w := by
  have hx : (Stated.fpAnswered s 3 w fl g).hart.sc.x = s.hart.sc.x.set 3 w := rfl
  show (Stated.fpAnswered s 3 w fl g).hart.sc.x[3] = w
  simp only [hx, Vector.getElem_set_self]

/-- A scalar word on x1, x2 and x3 into x3 answers what its operation gives, with the draw of generator 0 in stochastic mode. -/
theorem scalarDrawAnswer_of_deliver {i : Instr} {sew : Fin 4} {rm : Fin 8} {k : Nat → FVal → FVal → FVal → Real} (hrm : rm.val ≤ 4)
    (hexec : ∀ s, exec i s = fpDeliver (fmtOf sew.val) rm 3
      (fun m => k m (Stated.operand s sew 1) (Stated.operand s sew 2) (Stated.operand s sew 3)) s)
    (a b c : Nat) (g : BitVec 32) :
    let w := (fmtOf sew.val).width
    let v := fpApply k (fmtOf sew.val) rm.val (if rm.val = 4 then (Stated.nextDraw g).toNat else 0) (a % 2 ^ w) (b % 2 ^ w) (c % 2 ^ w)
    Stated.scalarDrawAnswer i a b c g v.1 v.2 := by
  intro w v s ha hb hc hg
  have hmode : Stated.modeOf s rm = rm.val := by rw [Stated.modeOf, if_neg (by omega)]
  rw [hexec, fpDeliver_eq, hmode, operand_of_reg ha, operand_of_reg hb, operand_of_reg hc, scalarDrawn, hg]
  refine ⟨_, rfl, reg_fpAnswered .., ?_⟩
  show s.hart.sc.fcsr ||| (BitVec.ofNat 5 v.2).setWidth 8 = _
  have hfl : v.2 < 32 := Fmt.deliver_flags_lt ..
  rw [flags_setWidth hfl]

theorem scalarAnswer_of_draw {i : Instr} {a b c r fl : Nat} (h : ∀ g, Stated.scalarDrawAnswer i a b c g r fl) : Stated.scalarAnswer i a b c r fl :=
  fun s ha hb hc => h _ s ha hb hc rfl

/-! ### The rows that round -/

/-- The operation of a vector-vector word that rounds, on its own elements. -/
def fpElementVV (k : Nat → FVal → FVal → FVal → Real) (o : OpV) (q : QEntry) (e : Exec) (dr i : Nat) : Nat × Nat :=
  let f := fmtOf o.sew.val
  fpApply k f q.frm dr (e.elem o.s1.val f.width i) (e.elem o.s2.val f.width i) (e.elem o.d.val f.width i)

/-- The operation of a vector-scalar word that rounds. -/
def fpElementVS (k : Nat → FVal → FVal → FVal → Real) (o : OpV) (q : QEntry) (e : Exec) (dr i : Nat) : Nat × Nat :=
  let f := fmtOf o.sew.val
  fpApply k f q.frm dr (e.elem o.s2.val f.width i) (q.scalar f.width) (e.elem o.d.val f.width i)

/-- A scalar word on x1, x2 and x3 into x3 delivers an operation rounded once, by format and rounding field. -/
def RoundsScalar (i : Fin 4 → Fin 8 → Instr) (k : Nat → FVal → FVal → FVal → Real) : Prop :=
  ∀ (sew : Fin 4) (rm : Fin 8) (s : State), exec (i sew rm) s = fpDeliver (fmtOf sew.val) rm 3
    (fun m => k m (Stated.operand s sew 1) (Stated.operand s sew 2) (Stated.operand s sew 3)) s

/-- The vector words of a row and its scalar word compute the same operation, rounded once. -/
structure RoundsAs (row : Stated.FpRow) (k : Nat → FVal → FVal → FVal → Real) : Prop where
  scalar : RoundsScalar row.scalar k
  vv : ∀ o : OpV, let w := (fmtOf o.sew.val).width
    let op := sameOp w o.d w [(o.s1, w), (o.s2, w)] o.pm.val true noneBad (fpElementVV k o)
    vopOf (row.vv o) = some op ∧ ∀ s, exec (row.vv o) s = dispatch (row.vv o) op 0 0 s
  vs : ∀ o : OpV, let w := (fmtOf o.sew.val).width
    let op := sameOp w o.d w [(o.s2, w)] o.pm.val true noneBad (fpElementVS k o)
    vopOf (row.vs o) = some op ∧ ∀ s, exec (row.vs o) s = dispatch (row.vs o) op (s.xr o.s1) 0 s

theorem roundsAs_vfadd : RoundsAs ⟨.vfaddVV, .vfaddVS, fun f rm => .fadd ⟨3, 1, 2, f, rm⟩⟩ fun m a b _ => addReal m a b :=
  ⟨fun _ _ _ => rfl, fun _ => ⟨rfl, fun _ => rfl⟩, fun _ => ⟨rfl, fun _ => rfl⟩⟩
theorem roundsAs_vfsub : RoundsAs ⟨.vfsubVV, .vfsubVS, fun f rm => .fsub ⟨3, 1, 2, f, rm⟩⟩ fun m a b _ => addReal m a b.neg :=
  ⟨fun _ _ _ => rfl, fun _ => ⟨rfl, fun _ => rfl⟩, fun _ => ⟨rfl, fun _ => rfl⟩⟩
theorem roundsAs_vfmul : RoundsAs ⟨.vfmulVV, .vfmulVS, fun f rm => .fmul ⟨3, 1, 2, f, rm⟩⟩ fun _ a b _ => mulReal a b :=
  ⟨fun _ _ _ => rfl, fun _ => ⟨rfl, fun _ => rfl⟩, fun _ => ⟨rfl, fun _ => rfl⟩⟩
theorem roundsAs_vfdiv : RoundsAs ⟨.vfdivVV, .vfdivVS, fun f rm => .fdiv ⟨3, 1, 2, f, rm⟩⟩ fun _ a b _ => divReal a b :=
  ⟨fun _ _ _ => rfl, fun _ => ⟨rfl, fun _ => rfl⟩, fun _ => ⟨rfl, fun _ => rfl⟩⟩
theorem roundsAs_vfma : RoundsAs ⟨.vfmaVV, .vfmaVS, fun f rm => .fma ⟨3, 1, 2, 3, f, rm⟩⟩ fmaReal :=
  ⟨fun _ _ _ => rfl, fun _ => ⟨rfl, fun _ => rfl⟩, fun _ => ⟨rfl, fun _ => rfl⟩⟩

theorem roundsAs_of_mem {row : Stated.FpRow} (h : row ∈ Stated.fpRows.take 5) : ∃ k, RoundsAs row k := by
  simp only [Stated.fpRows, List.take_succ_cons, List.take_zero, List.mem_cons, List.not_mem_nil, or_false] at h
  rcases h with rfl | rfl | rfl | rfl | rfl
  · exact ⟨_, roundsAs_vfadd⟩
  · exact ⟨_, roundsAs_vfsub⟩
  · exact ⟨_, roundsAs_vfmul⟩
  · exact ⟨_, roundsAs_vfdiv⟩
  · exact ⟨_, roundsAs_vfma⟩

/-! ### Elements of the rows that round -/

/-- What a vector-vector word of a row leaves in element `i` for a draw. -/
def fpOutVV (k : Nat → FVal → FVal → FVal → Real) (o : OpV) (s : State) (dr i : Nat) : Nat × Nat :=
  let f := fmtOf o.sew.val
  fpApply k f (s.hart.ep.vcfg >>> 5).toNat dr (s.hart.ep.elem o.s1.val f.width i) (s.hart.ep.elem o.s2.val f.width i)
    (s.hart.ep.elem o.d.val f.width i)

def fpOutVS (k : Nat → FVal → FVal → FVal → Real) (o : OpV) (s : State) (dr i : Nat) : Nat × Nat :=
  let f := fmtOf o.sew.val
  fpApply k f (s.hart.ep.vcfg >>> 5).toNat dr (s.hart.ep.elem o.s2.val f.width i) ((Stated.reg s o.s1).toNat % 2 ^ f.width)
    (s.hart.ep.elem o.d.val f.width i)

theorem fpApply_lt (k : Nat → FVal → FVal → FVal → Real) (code mode draw a b c : Nat) :
    (fpApply k (fmtOf code) mode draw a b c).1 < 2 ^ (fmtOf code).width ∧ (fpApply k (fmtOf code) mode draw a b c).2 < 64 :=
  ⟨Fmt.deliver_lt _ (proper_fmtOf code) .., (Fmt.deliver_flags_lt ..).trans (by norm_num)⟩

theorem readsOnly_fpElementVV (k : Nat → FVal → FVal → FVal → Real) (o : OpV) (i : Instr) (s : State) (x1 x2 : Word) :
    ReadsOnly s.hart.ep o.d.val (fmtOf o.sew.val).width [(o.s1, (fmtOf o.sew.val).width), (o.s2, (fmtOf o.sew.val).width)] s.hart.ep.vl
      (fpElementVV k o (s.entry i false x1 x2)) (fpOutVV k o s) := by
  intro e' j _ hsrc hd dr
  have h1 := hsrc _ (List.mem_cons_self ..)
  have h2 := hsrc _ (List.mem_cons_of_mem _ (List.mem_cons_self ..))
  unfold fpElementVV fpOutVV
  simp only at h1 h2
  simp only [h1, h2, hd, entry_frm]

theorem readsOnly_fpElementVS (k : Nat → FVal → FVal → FVal → Real) (o : OpV) (i : Instr) (s : State) :
    ReadsOnly s.hart.ep o.d.val (fmtOf o.sew.val).width [(o.s2, (fmtOf o.sew.val).width)] s.hart.ep.vl
      (fpElementVS k o (s.entry i false (s.xr o.s1) 0)) (fpOutVS k o s) := by
  intro e' j _ hsrc hd dr
  have h2 := hsrc _ (List.mem_cons_self ..)
  unfold fpElementVS fpOutVS
  simp only at h2
  simp only [h2, hd, entry_frm]
  rfl

/-- What an element-wise word of a format that rounds leaves, in every mode: `out` gives element and flags by draw and index. -/
structure RowResult (s t : State) (d : Reg) (sew : Fin 4) (pm : Nat) (out : Nat → Nat → Nat × Nat) : Prop where
  draws : Stated.executes true false s t
  only : (s.hart.ep.vcfg >>> 5).toNat ≠ 4 → Stated.onlyExecutes s t
  written : Stated.elementsWritten s t d.val (Stated.fpWidth sew) (2 ^ s.hart.ep.group.val) pm
    (fun j => (out (drawIn s (s.hart.ep.vcfg >>> 5).toNat pm (Stated.fpWidth sew) j) j).1)
  accrued : Stated.accrued s t pm (fun j => (out (drawIn s (s.hart.ep.vcfg >>> 5).toNat pm (Stated.fpWidth sew) j) j).2)
  lanes : Stated.lanesDrawn s t pm (Stated.fpWidth sew)

theorem row_performed {i : Instr} {s : State} {d : Reg} {sew : Fin 4} {pm : Nat} {srcs : List (Reg × Nat)} {f : QEntry → Exec → Nat → Nat → Nat × Nat}
    {out : Nat → Nat → Nat × Nat} (x1 : Word)
    (hop : vopOf i = some (sameOp (fmtOf sew.val).width d (fmtOf sew.val).width srcs pm true noneBad f))
    (hexec : exec i s = dispatch i (sameOp (fmtOf sew.val).width d (fmtOf sew.val).width srcs pm true noneBad f) x1 0 s)
    (hi : Stated.idle s) (hissues : Stated.issues i s) (hsrc : ∀ r ∈ srcs, r.2 = (fmtOf sew.val).width)
    (hr : ReadsOnly s.hart.ep d.val (fmtOf sew.val).width srcs s.hart.ep.vl (f (s.entry i false x1 0)) out)
    (hF : ∀ dr j, (out dr j).1 < 2 ^ (fmtOf sew.val).width ∧ (out dr j).2 < 64) :
    ∃ t, exec i s = .next t ∧ RowResult s t d sew pm out := by
  obtain ⟨hw, h8, -⟩ := width_dvd sew.val
  obtain ⟨t, ht, h1, h2, h3, h4, h5⟩ := elementOp_performed x1 0 hi hop hissues hw hw h8 (fun r hr' => hsrc r hr' ▸ hw) hr hF
  simp only [if_true] at h2 h3 h4
  rw [own_group _ (Nat.pos_of_dvd_of_pos hw (by norm_num)), ← fpWidth_eq] at h3
  rw [← fpWidth_eq] at h4 h5
  exact ⟨t, hexec.trans ht, h1, h2, h3, h4, h5 rfl⟩

theorem RoundsAs.vv_performed {row : Stated.FpRow} {k : Nat → FVal → FVal → FVal → Real} (h : RoundsAs row k) {o : OpV} {s : State}
    (hi : Stated.idle s) (hissues : Stated.issues (row.vv o) s) :
    ∃ t, exec (row.vv o) s = .next t ∧ RowResult s t o.d o.sew o.pm.val (fpOutVV k o s) :=
  row_performed 0 (h.vv o).1 ((h.vv o).2 s) hi hissues (by simp) (readsOnly_fpElementVV k o _ s 0 0) fun _ _ => fpApply_lt ..

theorem RoundsAs.vs_performed {row : Stated.FpRow} {k : Nat → FVal → FVal → FVal → Real} (h : RoundsAs row k) {o : OpV} {s : State}
    (hi : Stated.idle s) (hissues : Stated.issues (row.vs o) s) :
    ∃ t, exec (row.vs o) s = .next t ∧ RowResult s t o.d o.sew o.pm.val (fpOutVS k o s) :=
  row_performed (s.xr o.s1) (h.vs o).1 ((h.vs o).2 s) hi hissues (by simp) (readsOnly_fpElementVS k o _ s) fun _ _ => fpApply_lt ..

/-- The elements of a row that rounds are what the scalar word answers, with the draw of the element. -/
theorem RoundsScalar.answers {i : Fin 4 → Fin 8 → Instr} {k : Nat → FVal → FVal → FVal → Real} (h : RoundsScalar i k) (sew : Fin 4) {rm : Fin 8}
    (hrm : rm.val ≤ 4) {a b c : Nat} (ha : a < 2 ^ (fmtOf sew.val).width) (hb : b < 2 ^ (fmtOf sew.val).width)
    (hc : c < 2 ^ (fmtOf sew.val).width) (g : BitVec 32) :
    let v := fpApply k (fmtOf sew.val) rm.val (if rm.val = 4 then (Stated.nextDraw g).toNat else 0) a b c
    Stated.scalarDrawAnswer (i sew rm) a b c g v.1 v.2 := by
  have hans := scalarDrawAnswer_of_deliver hrm (h sew rm) a b c g
  simp only [Nat.mod_eq_of_lt ha, Nat.mod_eq_of_lt hb, Nat.mod_eq_of_lt hc] at hans
  exact hans

end Sys2Proof.Machine

/-! SUPPORT. Vector floating-point elements outside stochastic mode and in it (R92, R152, R163). -/

namespace Sys2Proof.Machine

/-! ### Draws -/

theorem drawIn_eq (s : State) {mode : Nat} (pm w j : Nat) :
    drawIn s mode pm w j = if mode = 4 then (Stated.nextDraw (drawBefore s pm w j)).toNat else 0 := by
  rw [drawIn, drawOf_eq]

/-- An element rounded as a scalar word's result, outside stochastic mode and in it. -/
theorem RoundsScalar.element {i : Fin 4 → Fin 8 → Instr} {k : Nat → FVal → FVal → FVal → Real} (h : RoundsScalar i k) (s : State) (sew : Fin 4) (pm : Nat) {rm : Fin 8}
    (hrm : rm.val ≤ 4) {a b c : Nat} (ha : a < 2 ^ (fmtOf sew.val).width) (hb : b < 2 ^ (fmtOf sew.val).width)
    (hc : c < 2 ^ (fmtOf sew.val).width) (j : Nat) :
    let v := fpApply k (fmtOf sew.val) rm.val (drawIn s rm.val pm (Stated.fpWidth sew) j) a b c
    Stated.scalarDrawAnswer (i sew rm) a b c (drawBefore s pm (Stated.fpWidth sew) j) v.1 v.2
    ∧ (rm.val < 4 → Stated.scalarAnswer (i sew rm) a b c v.1 v.2) := by
  intro v
  refine ⟨?_, fun hlt => scalarAnswer_of_draw fun g => ?_⟩
  · simp only [v, drawIn_eq]
    exact h.answers sew hrm ha hb hc _
  · have := h.answers sew hrm ha hb hc g
    simp only [v, drawIn, if_neg hlt.ne] at this ⊢
    exact this

theorem elem_lt_fp (e : Exec) (r : Reg) (sew : Fin 4) (i : Nat) : Stated.element e r.val (Stated.fpWidth sew) i < 2 ^ (fmtOf sew.val).width := by
  rw [element_eq_elem, fpWidth_eq]
  exact elem_lt ..

/-! ### Rows -/

theorem RoundsAs.vv_elements {row : Stated.FpRow} {k : Nat → FVal → FVal → FVal → Real} (h : RoundsAs row k) {o : OpV} {s : State} {rm : Fin 8}
    (hmode : rm.val = (s.hart.ep.vcfg >>> 5).toNat) (hrm : rm.val ≤ 4) (i : Nat) :
    let v := fpOutVV k o s (drawIn s (s.hart.ep.vcfg >>> 5).toNat o.pm.val (Stated.fpWidth o.sew) i) i
    let el := fun (r : Reg) i => Stated.element s.hart.ep r.val (Stated.fpWidth o.sew) i
    Stated.scalarDrawAnswer (row.scalar o.sew rm) (el o.s1 i) (el o.s2 i) (el o.d i) (drawBefore s o.pm.val (Stated.fpWidth o.sew) i) v.1 v.2
    ∧ (rm.val < 4 → Stated.scalarAnswer (row.scalar o.sew rm) (el o.s1 i) (el o.s2 i) (el o.d i) v.1 v.2) := by
  have hel := h.scalar.element s o.sew o.pm.val hrm (elem_lt_fp s.hart.ep o.s1 o.sew i) (elem_lt_fp s.hart.ep o.s2 o.sew i) (elem_lt_fp s.hart.ep o.d o.sew i) i
  simp only [fpOutVV, ← hmode, ← fpWidth_eq, ← element_eq_elem]
  exact hel

theorem RoundsAs.vs_elements {row : Stated.FpRow} {k : Nat → FVal → FVal → FVal → Real} (h : RoundsAs row k) {o : OpV} {s : State} {rm : Fin 8}
    (hmode : rm.val = (s.hart.ep.vcfg >>> 5).toNat) (hrm : rm.val ≤ 4) (i : Nat) :
    let v := fpOutVS k o s (drawIn s (s.hart.ep.vcfg >>> 5).toNat o.pm.val (Stated.fpWidth o.sew) i) i
    let el := fun (r : Reg) i => Stated.element s.hart.ep r.val (Stated.fpWidth o.sew) i
    let x := (Stated.reg s o.s1).toNat % 2 ^ Stated.fpWidth o.sew
    Stated.scalarDrawAnswer (row.scalar o.sew rm) (el o.s2 i) x (el o.d i) (drawBefore s o.pm.val (Stated.fpWidth o.sew) i) v.1 v.2
    ∧ (rm.val < 4 → Stated.scalarAnswer (row.scalar o.sew rm) (el o.s2 i) x (el o.d i) v.1 v.2) := by
  have hx : (Stated.reg s o.s1).toNat % 2 ^ Stated.fpWidth o.sew < 2 ^ (fmtOf o.sew.val).width := by
    rw [fpWidth_eq]
    exact Nat.mod_lt _ (Nat.two_pow_pos _)
  have hel := h.scalar.element s o.sew o.pm.val hrm (elem_lt_fp s.hart.ep o.s2 o.sew i) hx (elem_lt_fp s.hart.ep o.d o.sew i) i
  simp only [fpOutVS, ← hmode, ← fpWidth_eq, ← element_eq_elem]
  exact hel

/-! ### VFMIN and VFMAX (R110) -/

theorem Fmt.nanCode_lt_width (f : Fmt) (hf : f.Proper) : f.nanCode < 2 ^ f.width := by
  simpa [Fmt.signBit] using f.signBit_add_lt false (f.nanCode_lt hf)

theorem minmax_lt {f : Fmt} (hf : f.Proper) (isMax : Bool) {x y : Nat} (hx : x < 2 ^ f.width) (hy : y < 2 ^ f.width) :
    (f.minmax isMax x y).1 < 2 ^ f.width ∧ (f.minmax isMax x y).2 < 32 := by
  unfold Fmt.minmax
  simp only
  constructor
  · split_ifs
    · exact f.nanCode_lt_width hf
    · exact hy
    · exact hx
    · exact hy
    · exact hx
  · split_ifs <;> norm_num [flagNV]

/-- The vector words and the scalar word of a row are the smaller or the larger of two. -/
structure PicksAs (row : Stated.FpRow) (isMax : Bool) : Prop where
  scalar : ∀ (sew : Fin 4) (rm : Fin 8) (s : State), exec (row.scalar sew rm) s = fpMinMax isMax ⟨3, 1, 2, sew⟩ s
  vv : ∀ o : OpV, vopOf (row.vv o) = some (fpMinMaxVV isMax o) ∧ ∀ s, exec (row.vv o) s = dispatch (row.vv o) (fpMinMaxVV isMax o) 0 0 s
  vs : ∀ o : OpV, vopOf (row.vs o) = some (fpMinMaxVS isMax o) ∧ ∀ s, exec (row.vs o) s = dispatch (row.vs o) (fpMinMaxVS isMax o) (s.xr o.s1) 0 s

theorem picksAs_of_mem {row : Stated.FpRow} (h : row ∈ Stated.fpRows.drop 5) : ∃ isMax, PicksAs row isMax := by
  simp only [Stated.fpRows, List.drop_succ_cons, List.drop_zero, List.mem_cons, List.not_mem_nil, or_false] at h
  rcases h with rfl | rfl
  · exact ⟨false, fun _ _ _ => rfl, fun _ => ⟨rfl, fun _ => rfl⟩, fun _ => ⟨rfl, fun _ => rfl⟩⟩
  · exact ⟨true, fun _ _ _ => rfl, fun _ => ⟨rfl, fun _ => rfl⟩, fun _ => ⟨rfl, fun _ => rfl⟩⟩

/-- A scalar word that picks answers what it picks of patterns of its format. -/
theorem scalarDrawAnswer_of_minmax {i : Instr} {isMax : Bool} {sew : Fin 4} (hexec : ∀ s, exec i s = fpMinMax isMax ⟨3, 1, 2, sew⟩ s) (a b c : Nat)
    (g : BitVec 32) :
    let f := fmtOf sew.val
    let v := f.minmax isMax (a % 2 ^ f.width) (b % 2 ^ f.width)
    Stated.scalarDrawAnswer i a b c g v.1 v.2 := by
  intro f v s ha hb _ _
  have hmod : ∀ {r : Reg} {x : Nat}, Stated.reg s r = BitVec.ofNat 64 x → s.xn r % 2 ^ f.width = x % 2 ^ f.width := fun {r x} hr => by
    rw [show s.xn r = (Stated.reg s r).toNat from rfl, hr, BitVec.toNat_ofNat, Nat.mod_mod_of_dvd _ (Nat.pow_dvd_pow 2 (width_dvd sew.val).2.2)]
  have hfl : v.2 < 32 := (minmax_lt (proper_fmtOf _) isMax (Nat.mod_lt _ (Nat.two_pow_pos _)) (Nat.mod_lt _ (Nat.two_pow_pos _))).2
  have hv : fpMinMax isMax ⟨3, 1, 2, sew⟩ s = retireX (s.accrue v.2) 3 (BitVec.ofNat 64 v.1) := by
    unfold fpMinMax
    simp only [hmod ha, hmod hb, v, f]
  have hacc : s.accrue v.2 = ((s.scalarDraw 0).1.accrue v.2) := rfl
  rw [hexec, hv, hacc, retireX_accrue]
  refine ⟨_, rfl, reg_fpAnswered .., ?_⟩
  show s.hart.sc.fcsr ||| (BitVec.ofNat 5 v.2).setWidth 8 = _
  rw [flags_setWidth hfl]

end Sys2Proof.Machine

namespace Sys2Proof.Machine

/-! ### Rows that pick -/

/-- What an element-wise word of a format that draws nothing leaves: `out` gives element and flags by index. -/
structure PlainResult (s t : State) (d : Reg) (w n pm : Nat) (out : Nat → Nat × Nat) : Prop where
  only : Stated.onlyExecutes s t
  written : Stated.elementsWritten s t d.val w n pm (fun j => (out j).1)
  accrued : Stated.accrued s t pm (fun j => (out j).2)

theorem plain_performed {i : Instr} {s : State} {d : Reg} {w pm : Nat} {srcs : List (Reg × Nat)} {bad : Exec → Bool}
    {f : QEntry → Exec → Nat → Nat → Nat × Nat} {out : Nat → Nat × Nat} (x1 : Word) (hop : vopOf i = some (sameOp w d w srcs pm false bad f))
    (hexec : exec i s = dispatch i (sameOp w d w srcs pm false bad f) x1 0 s) (hi : Stated.idle s) (hissues : Stated.issues i s)
    (hw : w ∣ 1024) (h8 : 8 ∣ w) (hsrc : ∀ r ∈ srcs, r.2 = w)
    (hr : ReadsOnly s.hart.ep d.val w srcs s.hart.ep.vl (f (s.entry i false x1 0)) fun _ => out)
    (hF : ∀ j, (out j).1 < 2 ^ w ∧ (out j).2 < 64) :
    ∃ t, exec i s = .next t ∧ PlainResult s t d w (2 ^ s.hart.ep.group.val) pm out := by
  obtain ⟨t, ht, -, h2, h3, h4, -⟩ := elementOp_performed x1 0 hi hop hissues hw hw h8 (fun r hr' => hsrc r hr' ▸ hw) hr fun _ => hF
  rw [own_group _ (Nat.pos_of_dvd_of_pos hw (by norm_num))] at h3
  exact ⟨t, hexec.trans ht, h2 (by norm_num), h3, h4⟩

/-- What a vector-vector word of a row that picks leaves in element `i`. -/
def pickVV (isMax : Bool) (o : OpV) (s : State) (i : Nat) : Nat × Nat :=
  let f := fmtOf o.sew.val
  f.minmax isMax (s.hart.ep.elem o.s1.val f.width i) (s.hart.ep.elem o.s2.val f.width i)

def pickVS (isMax : Bool) (o : OpV) (s : State) (i : Nat) : Nat × Nat :=
  let f := fmtOf o.sew.val
  f.minmax isMax (s.hart.ep.elem o.s2.val f.width i) ((Stated.reg s o.s1).toNat % 2 ^ f.width)

theorem PicksAs.vv_performed {row : Stated.FpRow} {isMax : Bool} (h : PicksAs row isMax) {o : OpV} {s : State} (hi : Stated.idle s)
    (hissues : Stated.issues (row.vv o) s) :
    ∃ t, exec (row.vv o) s = .next t ∧ PlainResult s t o.d (fmtOf o.sew.val).width (2 ^ s.hart.ep.group.val) o.pm.val (pickVV isMax o s) := by
  obtain ⟨hw, h8, -⟩ := width_dvd o.sew.val
  refine plain_performed 0 (h.vv o).1 ((h.vv o).2 s) hi hissues hw h8 (by simp) (fun e' j _ hsrc _ _ => ?_) fun j => ?_
  · have h1 := hsrc _ (List.mem_cons_self ..)
    have h2 := hsrc _ (List.mem_cons_of_mem _ (List.mem_cons_self ..))
    simp only at h1 h2
    simp only [pickVV, h1, h2]
  · obtain ⟨h1, h2⟩ := minmax_lt (proper_fmtOf o.sew.val) isMax (elem_lt s.hart.ep o.s1.val _ j) (elem_lt s.hart.ep o.s2.val _ j)
    exact ⟨h1, h2.trans (by norm_num)⟩

theorem PicksAs.vs_performed {row : Stated.FpRow} {isMax : Bool} (h : PicksAs row isMax) {o : OpV} {s : State} (hi : Stated.idle s)
    (hissues : Stated.issues (row.vs o) s) :
    ∃ t, exec (row.vs o) s = .next t ∧ PlainResult s t o.d (fmtOf o.sew.val).width (2 ^ s.hart.ep.group.val) o.pm.val (pickVS isMax o s) := by
  obtain ⟨hw, h8, -⟩ := width_dvd o.sew.val
  refine plain_performed (s.xr o.s1) (h.vs o).1 ((h.vs o).2 s) hi hissues hw h8 (by simp) (fun e' j _ hsrc _ _ => ?_) fun j => ?_
  · have h2 := hsrc _ (List.mem_cons_self ..)
    simp only at h2
    simp only [pickVS, h2]
    rfl
  · obtain ⟨h1, h2⟩ := minmax_lt (proper_fmtOf o.sew.val) isMax (elem_lt s.hart.ep o.s2.val _ j)
      (Nat.mod_lt (Stated.reg s o.s1).toNat (Nat.two_pow_pos _))
    exact ⟨h1, h2.trans (by norm_num)⟩

/-- The elements of a row that picks are what the scalar word answers. -/
theorem PicksAs.element {row : Stated.FpRow} {isMax : Bool} (h : PicksAs row isMax) (sew : Fin 4) (rm : Fin 8) {a b : Nat}
    (ha : a < 2 ^ (fmtOf sew.val).width) (hb : b < 2 ^ (fmtOf sew.val).width) (c : Nat) :
    let v := (fmtOf sew.val).minmax isMax a b
    Stated.scalarAnswer (row.scalar sew rm) a b c v.1 v.2 := by
  refine scalarAnswer_of_draw fun g => ?_
  have := scalarDrawAnswer_of_minmax (h.scalar sew rm) a b c g
  simp only [Nat.mod_eq_of_lt ha, Nat.mod_eq_of_lt hb] at this
  exact this

/-- What a row that picks leaves in any mode: whatever the scalar word's third operand is. -/
theorem PicksAs.results {row : Stated.FpRow} {isMax : Bool} (h : PicksAs row isMax) {o : OpV} {s : State} (hi : Stated.idle s) (rm : Fin 8) :
    let w := Stated.fpWidth o.sew
    let n := 2 ^ s.hart.ep.group.val
    let el := fun (r : Reg) i => Stated.element s.hart.ep r.val w i
    (Stated.issues (row.vv o) s → ∃ (t : State) (f fl : Nat → Nat), exec (row.vv o) s = .next t ∧ Stated.onlyExecutes s t
      ∧ (∀ i c, Stated.scalarAnswer (row.scalar o.sew rm) (el o.s1 i) (el o.s2 i) c (f i) (fl i))
      ∧ Stated.elementsWritten s t o.d.val w n o.pm.val f ∧ Stated.accrued s t o.pm.val fl)
    ∧ (Stated.issues (row.vs o) s → ∃ (t : State) (f fl : Nat → Nat), exec (row.vs o) s = .next t ∧ Stated.onlyExecutes s t
      ∧ (∀ i c, Stated.scalarAnswer (row.scalar o.sew rm) (el o.s2 i) ((Stated.reg s o.s1).toNat % 2 ^ w) c (f i) (fl i))
      ∧ Stated.elementsWritten s t o.d.val w n o.pm.val f ∧ Stated.accrued s t o.pm.val fl) := by
  intro w n el
  have hw : w = (fmtOf o.sew.val).width := fpWidth_eq o.sew
  refine ⟨fun hissues => ?_, fun hissues => ?_⟩
  · obtain ⟨t, ht, h1, h2, h3⟩ := h.vv_performed hi hissues
    refine ⟨t, _, _, ht, h1, fun i c => ?_, hw ▸ h2, h3⟩
    have := h.element o.sew rm (elem_lt_fp s.hart.ep o.s1 o.sew i) (elem_lt_fp s.hart.ep o.s2 o.sew i) c
    simp only [pickVV, ← hw, ← element_eq_elem]
    exact this
  · obtain ⟨t, ht, h1, h2, h3⟩ := h.vs_performed hi hissues
    refine ⟨t, _, _, ht, h1, fun i c => ?_, hw ▸ h2, h3⟩
    have hx : (Stated.reg s o.s1).toNat % 2 ^ w < 2 ^ (fmtOf o.sew.val).width := hw ▸ Nat.mod_lt _ (Nat.two_pow_pos _)
    have := h.element o.sew rm (elem_lt_fp s.hart.ep o.s2 o.sew i) hx c
    simp only [pickVS, ← hw, ← element_eq_elem]
    exact this

/-! ### VFSQRT -/

theorem vfsqrt_performed {o : OpV1} {s : State} (hi : Stated.idle s) (hissues : Stated.issues (.vfsqrt o) s) :
    ∃ t, exec (.vfsqrt o) s = .next t ∧ RowResult s t o.d o.sew o.pm.val (fun dr i =>
      fpApply (fun _ a _ _ => sqrtReal a) (fmtOf o.sew.val) (s.hart.ep.vcfg >>> 5).toNat dr (s.hart.ep.elem o.s1.val (fmtOf o.sew.val).width i) 0 0) := by
  refine row_performed (srcs := [(o.s1, (fmtOf o.sew.val).width)]) (f := fun q e dr i =>
      fpApply (fun _ a _ _ => sqrtReal a) (fmtOf o.sew.val) q.frm dr (e.elem o.s1.val (fmtOf o.sew.val).width i) 0 0)
    0 rfl rfl hi hissues (by simp) (fun e' j _ hsrc _ dr => ?_) fun _ _ => fpApply_lt ..
  have h1 := hsrc _ (List.mem_cons_self ..)
  simp only at h1
  simp only [h1, entry_frm]

theorem vfsqrt_element (s : State) (o : OpV1) {rm : Fin 8} (hmode : rm.val = (s.hart.ep.vcfg >>> 5).toNat) (hrm : rm.val ≤ 4) (i : Nat) :
    let el := Stated.element s.hart.ep o.s1.val (Stated.fpWidth o.sew) i
    let v := fpApply (fun _ a _ _ => sqrtReal a) (fmtOf o.sew.val) (s.hart.ep.vcfg >>> 5).toNat
      (drawIn s (s.hart.ep.vcfg >>> 5).toNat o.pm.val (Stated.fpWidth o.sew) i) (s.hart.ep.elem o.s1.val (fmtOf o.sew.val).width i) 0 0
    Stated.scalarDrawAnswer (.fsqrt ⟨3, 1, o.sew, rm⟩) el 0 0 (drawBefore s o.pm.val (Stated.fpWidth o.sew) i) v.1 v.2
    ∧ (rm.val < 4 → Stated.scalarAnswer (.fsqrt ⟨3, 1, o.sew, rm⟩) el 0 0 v.1 v.2) := by
  have hscalar : RoundsScalar (fun f rm => .fsqrt ⟨3, 1, f, rm⟩) (fun _ a _ _ => sqrtReal a) := fun _ _ _ => rfl
  have hzero := Nat.two_pow_pos (fmtOf o.sew.val).width
  have hel := hscalar.element s o.sew o.pm.val hrm (elem_lt_fp s.hart.ep o.s1 o.sew i) hzero hzero i
  simp only [← hmode, ← fpWidth_eq, ← element_eq_elem]
  exact hel

/-! ### The statements -/

theorem mem_fpRows {row : Stated.FpRow} (h : row ∈ Stated.fpRows) : (∃ k, RoundsAs row k) ∨ ∃ isMax, PicksAs row isMax := by
  rw [← List.take_append_drop 5 Stated.fpRows, List.mem_append] at h
  exact h.imp roundsAs_of_mem picksAs_of_mem

theorem vectorFpElements : Stated.VectorFpElements := by
  refine ⟨fun row hrow o s hi rm hmode hrm => ?_, fun o s hi rm hmode hrm hissues => ?_⟩
  · have h4 : (s.hart.ep.vcfg >>> 5).toNat ≠ 4 := by omega
    rcases mem_fpRows hrow with ⟨k, h⟩ | ⟨isMax, h⟩
    · refine ⟨fun hissues => ?_, fun hissues => ?_⟩
      · obtain ⟨t, ht, hres⟩ := h.vv_performed hi hissues
        exact ⟨t, _, _, ht, hres.only h4, fun i => (h.vv_elements hmode hrm.le i).2 hrm, hres.written, hres.accrued⟩
      · obtain ⟨t, ht, hres⟩ := h.vs_performed hi hissues
        exact ⟨t, _, _, ht, hres.only h4, fun i => (h.vs_elements hmode hrm.le i).2 hrm, hres.written, hres.accrued⟩
    · obtain ⟨hvv, hvs⟩ := h.results hi (o := o) rm
      refine ⟨fun hissues => ?_, fun hissues => ?_⟩
      · obtain ⟨t, f, fl, ht, honly, hans, hrest⟩ := hvv hissues
        exact ⟨t, f, fl, ht, honly, fun i => hans i _, hrest⟩
      · obtain ⟨t, f, fl, ht, honly, hans, hrest⟩ := hvs hissues
        exact ⟨t, f, fl, ht, honly, fun i => hans i _, hrest⟩
  · obtain ⟨t, ht, hres⟩ := vfsqrt_performed hi hissues
    exact ⟨t, _, _, ht, hres.only (by omega), fun i => (vfsqrt_element s o hmode hrm.le i).2 hrm, hres.written, hres.accrued⟩

theorem vectorFpStochastic : Stated.VectorFpStochastic := by
  refine ⟨fun row hrow o s hi hmode => ?_, fun o s hi hmode => ?_, fun row hrow o s hi hmode => ?_⟩
  · obtain ⟨k, h⟩ := roundsAs_of_mem hrow
    have hrm : (4 : Fin 8).val = (s.hart.ep.vcfg >>> 5).toNat := hmode.symm
    refine ⟨fun hissues => ?_, fun hissues => ?_⟩
    · obtain ⟨t, ht, hres⟩ := h.vv_performed hi hissues
      exact ⟨t, _, _, ht, hres.draws, fun i => (h.vv_elements hrm le_rfl i).1, hres.written, hres.accrued, hres.lanes⟩
    · obtain ⟨t, ht, hres⟩ := h.vs_performed hi hissues
      exact ⟨t, _, _, ht, hres.draws, fun i => (h.vs_elements hrm le_rfl i).1, hres.written, hres.accrued, hres.lanes⟩
  · intro w before hissues
    have hrm : (4 : Fin 8).val = (s.hart.ep.vcfg >>> 5).toNat := hmode.symm
    obtain ⟨t, ht, hres⟩ := vfsqrt_performed hi hissues
    exact ⟨t, _, _, ht, hres.draws, fun i => (vfsqrt_element s o hrm le_rfl i).1, hres.written, hres.accrued, hres.lanes⟩
  · obtain ⟨isMax, h⟩ := picksAs_of_mem hrow
    obtain ⟨hvv, hvs⟩ := h.results hi (o := o) 0
    refine ⟨fun hissues => ?_, fun hissues => ?_⟩
    · obtain ⟨t, f, fl, ht, honly, hans, hrest⟩ := hvv hissues
      exact ⟨t, f, fl, ht, honly, fun i => hans i _, hrest⟩
    · obtain ⟨t, f, fl, ht, honly, hans, hrest⟩ := hvs hissues
      exact ⟨t, f, fl, ht, honly, fun i => hans i _, hrest⟩

end Sys2Proof.Machine

/-! SUPPORT. Vector conversions (R87 to R94, R164). -/

namespace Sys2Proof.Machine

/-! ### Modes that do not draw -/

theorem roundShift_draw {rm : Nat} (h : rm < 4) (draw draw' : Nat) (neg : Bool) (m sh : Nat) (sticky : Bool) :
    roundShift rm draw neg m sh sticky = roundShift rm draw' neg m sh sticky := by
  interval_cases rm <;> simp only [roundShift]

theorem Fmt.deliver_draw (f : Fmt) (nan : Nat) {rm : Nat} (h : rm < 4) (draw draw' : Nat) (r : Real) :
    f.deliver nan rm draw r = f.deliver nan rm draw' r := by
  rcases r with nv | ⟨neg, dz⟩ | ⟨neg, m, e, sticky⟩
  · rfl
  · rfl
  · unfold Fmt.deliver Fmt.round
    simp only [roundShift_draw h draw draw']

theorem toIntReal_draw {rm : Nat} (h : rm < 4) (draw draw' : Nat) (sgn : Bool) (w : Nat) (r : Real) :
    toIntReal rm draw sgn w r = toIntReal rm draw' sgn w r := by
  rcases r with nv | ⟨neg, dz⟩ | ⟨neg, m, e, sticky⟩
  · rfl
  · rfl
  · unfold toIntReal
    simp only [roundShift_draw h draw draw']

/-- In every mode the draw of an element may be said to be that of its lane. -/
theorem Fmt.deliver_drawIn (f : Fmt) (nan : Nat) {mode : Nat} (h : mode ≤ 4) (s : State) (pm w j : Nat) (r : Real) :
    f.deliver nan mode (drawIn s mode pm w j) r = f.deliver nan mode (Stated.drawOf s pm w j) r := by
  rcases h.lt_or_eq with hlt | rfl
  · exact f.deliver_draw nan hlt _ _ r
  · rw [drawIn, if_pos rfl]

theorem toIntReal_drawIn {mode : Nat} (h : mode ≤ 4) (s : State) (pm w j : Nat) (sgn : Bool) (n : Nat) (r : Real) :
    toIntReal mode (drawIn s mode pm w j) sgn n r = toIntReal mode (Stated.drawOf s pm w j) sgn n r := by
  rcases h.lt_or_eq with hlt | rfl
  · exact toIntReal_draw hlt _ _ sgn n r
  · rw [drawIn, if_pos rfl]

/-! ### What a value gives in a format -/

/-- Two steps of the largest number lie beyond the next one. -/
theorem Fmt.grid_succ_le_double (f : Fmt) {c : Nat} (hc : c ≠ 0) : f.grid (c + 1) ≤ 2 * f.grid c := by
  obtain ⟨r, k, rfl, hr, hk⟩ := f.exists_binade c
  have hr0 : 1 ≤ r := by
    rcases hk with rfl | h
    · omega
    · exact Nat.one_le_two_pow.trans h
  have hone : (1 : ℝ) ≤ r := by exact_mod_cast hr0
  rw [f.grid_succ hr hk, f.grid_add hr.le hk]
  nlinarith [f.ulp_pos k]

theorem Fmt.maxCode_ne_zero (f : Fmt) (hf : f.Proper) (nan : Nat) : f.maxCode nan ≠ 0 := by
  intro h
  have := f.normal_le_grid_maxCode hf nan
  rw [h, f.grid_zero] at this
  exact absurd this (not_le.2 (by positivity))

theorem Fmt.finite_maxCode (f : Fmt) (hf : f.Proper) (nan : Nat) (neg : Bool) :
    Stated.finite (f.decode nan (f.signBit neg + f.maxCode nan)) = some (if neg then -f.grid (f.maxCode nan) else f.grid (f.maxCode nan)) := by
  have hlt := f.maxCode_lt nan
  rw [f.finite_decode_eq_some_iff hf, f.magOf_signBit_add neg hlt, f.negOf_signBit_add neg hlt]
  exact ⟨le_rfl, rfl⟩

/-- R88: beyond twice its largest number a format overflows, as the mode has it. -/
theorem Fmt.deliver_far (f : Fmt) (hf : f.Proper) {nan mode draw : Nat} {r : Real} {x y : ℝ} {z : Bool} (hmode : mode ≤ 4) (h : r.Stands x z)
    (hy : Stated.Holds f nan y) (hmax : ∀ z, Stated.Holds f nan z → z ≤ y) (hx : 2 * y ≤ |x|) :
    (f.deliver nan mode draw r).2 = 5 ∧ if f.mode nan = 2 ∧ ¬(mode = 1 ∨ mode = 2 ∧ 0 < x ∨ mode = 3 ∧ x < 0)
      then f.decode nan (f.deliver nan mode draw r).1 = .inf (decide (x < 0))
      else Stated.finite (f.decode nan (f.deliver nan mode draw r).1) = some (if decide (x < 0) then -y else y) := by
  have hy' : y = f.grid (f.maxCode nan) :=
    le_antisymm ((le_abs_self _).trans (f.abs_le_of_holds hf hy)) (hmax _ (f.holds_grid hf le_rfl))
  subst hy'
  have hpos : 0 < f.grid (f.maxCode nan) := f.grid_pos (f.maxCode_ne_zero hf nan)
  have hx0 : x ≠ 0 := by
    rintro rfl
    rw [abs_zero] at hx
    linarith
  rw [f.deliver_overflow hf h ((f.grid_succ_le_double (f.maxCode_ne_zero hf nan)).trans hx)]
  refine ⟨rfl, ?_⟩
  by_cases hc : f.mode nan = 2 ∧ ¬(mode = 1 ∨ mode = 2 ∧ 0 < x ∨ mode = 3 ∧ x < 0)
  · have hinf : (f.mode nan = 2 && overflowToInf mode (decide (x < 0))) = true := by
      rw [Bool.and_eq_true, decide_eq_true_iff]
      exact ⟨hc.1, eq_true_of_ne_false (mt (overflowToInf_eq_false_iff hmode hx0).1 hc.2)⟩
    rw [if_pos hc, if_pos hinf]
    exact f.decode_inf hf hc.1 _
  · have hinf : ¬(f.mode nan = 2 && overflowToInf mode (decide (x < 0))) = true := by
      rw [Bool.and_eq_true, decide_eq_true_iff]
      rintro ⟨h2, ho⟩
      refine hc ⟨h2, fun hor => ?_⟩
      rw [(overflowToInf_eq_false_iff hmode hx0).2 hor] at ho
      cases ho
    rw [if_neg hc, if_neg hinf]
    exact f.finite_maxCode hf nan _

/-- R87 to R89, R93: what a value gives in a format. -/
theorem Fmt.converts_deliver (f : Fmt) (hf : f.Proper) {nan mode : Nat} (draw : Nat) (hnan : nan ≤ 2) (hmode : mode ≤ 4) (v : FVal) :
    Stated.Converts f nan mode draw v (f.deliver nan mode draw v.real).1 (f.deliver nan mode draw v.real).2 := by
  have hm : (if f.narrow then nan else 2) = f.mode nan := rfl
  have hm2 : f.mode nan ≤ 2 := by rw [← hm]; split_ifs <;> omega
  unfold Stated.Converts
  rw [hm]
  rcases v with sig | neg | ⟨neg, m, e⟩
  · show if f.mode nan = 0 then _ else _
    by_cases h0 : f.mode nan = 0
    · rw [if_pos h0, FVal.real, Fmt.deliver, if_pos h0]
      exact ⟨rfl, rfl⟩
    · rw [if_neg h0, FVal.real, Fmt.deliver, if_neg h0]
      exact ⟨rfl, rfl⟩
  · have hmax : ∃ y, Stated.finite (f.decode nan (f.signBit neg + f.maxCode nan)) = some (if neg then -y else y) ∧ 0 < y
        ∧ ∀ z, Stated.Holds f nan z → z ≤ y :=
      ⟨_, f.finite_maxCode hf nan neg, f.grid_pos (f.maxCode_ne_zero hf nan), fun z hz => (le_abs_self z).trans (f.abs_le_of_holds hf hz)⟩
    simp only [FVal.real, Fmt.deliver]
    have hcases : f.mode nan = 0 ∨ f.mode nan = 1 ∨ f.mode nan = 2 := by omega
    rcases hcases with h | h | h <;> simp only [h]
    · exact ⟨hmax, rfl⟩
    · exact ⟨trivial, rfl⟩
    · exact ⟨f.decode_inf hf h neg, rfl⟩
  · intro _ x hx
    have hst := real_stands hx
    refine ⟨fun hy => f.rounds_deliver hf hst ((f.reaches_iff hf).1 hy), fun y hy hmax hfar => ?_⟩
    have hpos : 0 < y := by
      have := hmax _ (f.holds_grid hf le_rfl)
      exact lt_of_lt_of_le (f.grid_pos (f.maxCode_ne_zero hf nan)) this
    have hx0 : x ≠ 0 := by
      rintro rfl
      rw [abs_zero] at hfar
      linarith
    have hneg : neg = decide (x < 0) := isNeg_of_finite hx hx0
    rw [hneg]
    have := f.deliver_far hf (draw := draw) hmode hst hy hmax hfar
    rw [← hneg] at this ⊢
    exact this

end Sys2Proof.Machine

namespace Sys2Proof.Machine

/-! ### What a value gives in an integer type (R94) -/

/-- An integer result as a pattern, with its flags. -/
def intPattern (n : Nat) (r : Int × Nat) : Nat × Nat := (pat n r.1, r.2)

theorem toIntOutcome_cases (x : ℝ) (lo hi k : Int) :
    (lo ≤ k → k ≤ hi → toIntOutcome x lo hi k = (k, if x = k then 0 else 1))
    ∧ (k < lo → toIntOutcome x lo hi k = (lo, 16)) ∧ (lo ≤ hi → hi < k → toIntOutcome x lo hi k = (hi, 16)) := by
  unfold toIntOutcome
  refine ⟨fun h1 h2 => ?_, fun h => if_pos h, fun h1 h2 => ?_⟩
  · rw [if_neg (by omega), if_neg (by omega)]
  · rw [if_neg (by omega), if_pos h2]

/-- The ends of an integer type. -/
theorem ends_le {n : Nat} (sgd : Bool) : (if sgd then -2 ^ (n - 1) else 0 : Int) ≤ if sgd then 2 ^ (n - 1) - 1 else 2 ^ n - 1 := by
  have h1 : (1 : Int) ≤ 2 ^ (n - 1) := one_le_pow₀ (by norm_num)
  have h2 : (1 : Int) ≤ 2 ^ n := one_le_pow₀ (by norm_num)
  cases sgd
  · simp only [Bool.false_eq_true, if_false]; omega
  · simp only [if_true]; omega

theorem convertsInt_toIntReal (n : Nat) (sgd : Bool) (mode draw : Nat) (v : FVal) :
    Stated.ConvertsInt n sgd mode draw v (intPattern n (toIntReal mode draw sgd n v.real)).1 (intPattern n (toIntReal mode draw sgd n v.real)).2 := by
  have hlo : (if sgd then -(2 ^ (n - 1) : Nat) else 0 : Int) = if sgd then -2 ^ (n - 1) else 0 := by push_cast; rfl
  have hhi : (if sgd then (2 ^ (n - 1) : Nat) - 1 else (2 ^ n : Nat) - 1 : Int) = if sgd then 2 ^ (n - 1) - 1 else 2 ^ n - 1 := by push_cast; rfl
  unfold Stated.ConvertsInt
  rcases v with sig | neg | ⟨neg, m, e⟩
  · exact ⟨by simp [intPattern, FVal.real, toIntReal, pat], rfl⟩
  · simp only [intPattern, FVal.real, toIntReal, hlo, hhi]
    exact ⟨rfl, rfl⟩
  · intro lo hi x hx
    obtain ⟨k, hk, hout⟩ := toIntReal_fin mode draw neg m e
    have hx' : withSign neg (m * (2 : ℝ) ^ e) = x := by rw [finite_fin] at hx; exact Option.some.inj hx
    have hr : toIntReal mode draw sgd n (FVal.real (.fin neg m e)) = toIntOutcome x lo hi k := by
      rw [FVal.real, hout, hx', hlo, hhi]
    obtain ⟨h1, h2, h3⟩ := toIntOutcome_cases x lo hi k
    rw [hx'] at hk
    rw [hr]
    refine ⟨k, hk, fun hl hh => ?_, fun hl => ?_, fun hh => ?_⟩
    · rw [h1 hl hh]
      refine ⟨rfl, ?_⟩
      by_cases he : x = k
      · exact .inl ⟨he, if_pos he⟩
      · exact .inr ⟨he, if_neg he⟩
    · rw [h2 hl]
      exact ⟨rfl, rfl⟩
    · rw [h3 (ends_le sgd) hh]
      exact ⟨rfl, rfl⟩

theorem intPattern_lt (n : Nat) (sgd : Bool) (mode draw : Nat) (r : Real) :
    (intPattern n (toIntReal mode draw sgd n r)).1 < 2 ^ n ∧ (intPattern n (toIntReal mode draw sgd n r)).2 < 64 := by
  refine ⟨?_, ?_⟩
  · have h : (0 : Int) < (2 ^ n : Nat) := by exact_mod_cast Nat.two_pow_pos n
    have h1 := Int.emod_nonneg (toIntReal mode draw sgd n r).1 h.ne'
    have h2 := Int.emod_lt_of_pos (toIntReal mode draw sgd n r).1 h
    show ((toIntReal mode draw sgd n r).1 % (2 ^ n : Nat)).toNat < 2 ^ n
    omega
  · rcases r with nv | ⟨neg, dz⟩ | ⟨neg, m, e, sticky⟩
    · exact (by norm_num : 16 < 64)
    · exact (by norm_num : 16 < 64)
    · simp only [intPattern, toIntReal]
      split_ifs <;> norm_num [flagNV, flagNX]

theorem signed_eq_sg {n v : Nat} (h : v < 2 ^ n) : signed n v = Stated.sg n v := by
  unfold signed Stated.sg
  rw [Nat.mod_eq_of_lt h]

theorem sewBits_dvd : ∀ c : Fin 4, sewBits c ∣ 1024 ∧ 8 ∣ sewBits c := by decide

/-! ### The conversion words -/

/-- What a conversion leaves, in every mode. -/
theorem convert_performed {i : Instr} {s : State} {d : Reg} {w wd ws pm : Nat} {r : Reg} {bad : Exec → Bool}
    {f : QEntry → Exec → Nat → Nat → Nat × Nat} (g : Nat → Nat → Nat × Nat)
    (hop : vopOf i = some (sameOp w d wd [(r, ws)] pm true bad f)) (hexec : exec i s = dispatch i (sameOp w d wd [(r, ws)] pm true bad f) 0 0 s)
    (hi : Stated.idle s) (hissues : Stated.issues i s) (hw : w ∣ 1024) (hwd : wd ∣ 1024) (h8 : 8 ∣ wd) (hws : ws ∣ 1024)
    (hf : ∀ e dr j, f (s.entry i false 0 0) e dr j = g dr (e.elem r.val ws j)) (hg : ∀ dr a, (g dr a).1 < 2 ^ wd ∧ (g dr a).2 < 64)
    (hdraw : ∀ j a, g (drawIn s (s.hart.ep.vcfg >>> 5).toNat pm wd j) a = g (Stated.drawOf s pm wd j) a) :
    let out := fun j => g (Stated.drawOf s pm wd j) (Stated.element s.hart.ep r.val ws j)
    ∃ t, exec i s = .next t ∧ Stated.executes true false s t
      ∧ Stated.elementsWritten s t d.val wd (max 1 (2 ^ s.hart.ep.group.val * wd / w)) pm (fun j => (out j).1)
      ∧ Stated.accrued s t pm (fun j => (out j).2) ∧ Stated.lanesDrawn s t pm wd := by
  intro out
  obtain ⟨t, ht, h1, -, h3, h4, h5⟩ := elementOp_performed 0 0 hi hop hissues hw hwd h8 (by simpa using hws)
    (F := fun dr j => g dr (s.hart.ep.elem r.val ws j))
    (fun e' j _ hsrc _ dr => by rw [hf, hsrc _ (List.mem_cons_self ..)]) fun dr j => hg dr _
  have hout : ∀ j, out j = g (drawIn s (s.hart.ep.vcfg >>> 5).toNat pm wd j) (s.hart.ep.elem r.val ws j) := fun j => by
    rw [hdraw, ← element_eq_elem]
  simp only [if_true, ← hout] at h3 h4
  exact ⟨t, hexec.trans ht, h1, h3, h4, h5 rfl⟩

theorem vfcvtResults (o : OpVCvt) (s : State) (hi : Stated.idle s) (hmode : (s.hart.ep.vcfg >>> 5).toNat ≤ 4) :
    let own := fmtOf o.sew.val
    let other := fmtOf o.other.val
    let src := if o.dir.val = 0 then own else other
    let dst := if o.dir.val = 0 then other else own
    let nan := (s.hart.ep.vcfg.extractLsb' 3 2).toNat
    nan ≤ 2 → Stated.issues (.vfcvt o) s → ∃ (t : State) (f fl : Nat → Nat), exec (.vfcvt o) s = .next t ∧ Stated.executes true false s t
      ∧ (∀ i, Stated.Converts dst nan (s.hart.ep.vcfg >>> 5).toNat (Stated.drawOf s o.pm.val dst.width i)
          (src.decode nan (Stated.element s.hart.ep o.s1.val src.width i)) (f i) (fl i))
      ∧ Stated.elementsWritten s t o.d.val dst.width (max 1 (2 ^ s.hart.ep.group.val * dst.width / own.width)) o.pm.val f
      ∧ Stated.accrued s t o.pm.val fl ∧ Stated.lanesDrawn s t o.pm.val dst.width := by
  intro own other src dst nan hnan hissues
  have hdst : dst.Proper ∧ dst.width ∣ 1024 ∧ 8 ∣ dst.width := by
    simp only [dst]
    split_ifs
    · exact ⟨proper_fmtOf _, (width_dvd o.other.val).1, (width_dvd o.other.val).2.1⟩
    · exact ⟨proper_fmtOf _, (width_dvd o.sew.val).1, (width_dvd o.sew.val).2.1⟩
  have hsrc : src.width ∣ 1024 := by
    simp only [src]
    split_ifs
    · exact (width_dvd o.sew.val).1
    · exact (width_dvd o.other.val).1
  obtain ⟨hproper, hdvd, h8⟩ := hdst
  obtain ⟨t, ht, h1, h2, h3, h4⟩ := convert_performed
    (fun dr a => dst.deliver nan (s.hart.ep.vcfg >>> 5).toNat dr (src.decode nan a).real)
    (f := fun q e dr i => dst.deliver q.nan q.frm dr (src.decode q.nan (e.elem o.s1.val src.width i)).real) rfl rfl hi hissues (width_dvd o.sew.val).1
    hdvd h8 hsrc (fun e dr j => by rw [nan_entry, entry_frm]; rfl)
    (fun dr a => ⟨dst.deliver_lt hproper .., (dst.deliver_flags_lt ..).trans (by norm_num)⟩) fun j a => dst.deliver_drawIn nan hmode s _ _ _ _
  exact ⟨t, _, _, ht, h1, fun i => dst.converts_deliver hproper _ hnan hmode _, h2, h3, h4⟩

theorem vectorConversions : Stated.VectorConversions := by
  refine ⟨fun o s hi hmode => vfcvtResults o s hi hmode, fun o s hi hmode => ⟨fun hissues => ?_, fun hissues => ?_⟩⟩
  · obtain ⟨hn, hn8⟩ := sewBits_dvd o.iw
    obtain ⟨t, ht, h1, h2, h3, h4⟩ := convert_performed
      (fun dr a => intPattern (sewBits o.iw) (toIntReal (s.hart.ep.vcfg >>> 5).toNat dr (o.signed.val == 1) (sewBits o.iw)
        ((fmtOf o.sew.val).decode 2 a).real))
      (f := fun q e dr i => intPattern (sewBits o.iw) (toIntReal q.frm dr (o.signed.val == 1) (sewBits o.iw)
        ((fmtOf o.sew.val).decode 2 (e.elem o.s1.val (fmtOf o.sew.val).width i)).real))
      rfl rfl hi hissues (width_dvd o.sew.val).1 hn hn8 (width_dvd o.sew.val).1 (fun e dr j => by rw [entry_frm])
      (fun dr a => intPattern_lt ..) fun j a => by rw [toIntReal_drawIn hmode]
    exact ⟨t, _, _, ht, h1, fun i => convertsInt_toIntReal .., h2, h3, h4⟩
  · obtain ⟨hn, hn8⟩ := sewBits_dvd o.iw
    obtain ⟨hw, hw8, -⟩ := width_dvd o.sew.val
    obtain ⟨t, ht, h1, h2, h3, h4⟩ := convert_performed
      (fun dr a => (fmtOf o.sew.val).deliver 2 (s.hart.ep.vcfg >>> 5).toNat dr
        (ofIntReal (if o.signed.val = 1 then signed (sewBits o.iw) a else (a : Int))))
      (f := fun q e dr i => (fmtOf o.sew.val).deliver 2 q.frm dr
        (ofIntReal (if o.signed.val = 1 then signed (sewBits o.iw) (e.elem o.s1.val (sewBits o.iw) i) else (e.elem o.s1.val (sewBits o.iw) i : Int))))
      rfl rfl hi hissues hw hw hw8 hn (fun e dr j => by rw [entry_frm])
      (fun dr a => ⟨Fmt.deliver_lt _ (proper_fmtOf _) .., (Fmt.deliver_flags_lt ..).trans (by norm_num)⟩) fun j a => Fmt.deliver_drawIn _ 2 hmode s _ _ _ _
    rw [own_group _ (Nat.pos_of_dvd_of_pos hw (by norm_num))] at h2
    refine ⟨t, _, _, ht, h1, fun i => ?_, h2, h3, h4⟩
    intro e z
    have he : e < 2 ^ sewBits o.iw := by
      show Stated.element _ _ _ _ < _
      rw [element_eq_elem]
      exact elem_lt ..
    have hz : (if o.signed.val = 1 then signed (sewBits o.iw) e else (e : Int)) = z := by rw [signed_eq_sg he]; rfl
    have := Fmt.converts_deliver _ (proper_fmtOf o.sew.val) (Stated.drawOf s o.pm.val (fmtOf o.sew.val).width i) le_rfl hmode
      (.fin (decide (z < 0)) z.natAbs 0)
    show Stated.Converts _ 2 _ _ (.fin (decide (z < 0)) z.natAbs 0) (Fmt.deliver _ 2 _ _ (ofIntReal (if o.signed.val = 1 then signed _ e else (e : Int)))).1
      (Fmt.deliver _ 2 _ _ (ofIntReal (if o.signed.val = 1 then signed _ e else (e : Int)))).2
    rw [hz]
    exact this

end Sys2Proof.Machine

/-! SUPPORT. FP32 numbers nearest to a value, and powers of two by table and polynomial (R98, R99). -/

namespace Sys2Proof.Machine

/-! ### Nearest FP32 numbers -/

/-- An FP32 code that holds a number. -/
theorem holds_code {c : Nat} {n : Bool} {m : Nat} {e : Int} (hc : c < 2 ^ 32) (h : f32 c = .fin n m e) :
    Stated.Holds fp32 2 (withSign n (m * (2 : ℝ) ^ e)) := ⟨c, hc, by rw [show fp32.decode 2 c = .fin n m e from h, finite_fin]⟩

theorem near_chosen {x y : ℝ} (h : Stated.Near x y) : Stated.Holds fp32 2 y ∧ ∀ z, Stated.Holds fp32 2 z → |x - y| ≤ |x - z| := by
  obtain ⟨neg, c, fl, ⟨-, -, y', hy', hch, -⟩, hy⟩ := h
  obtain rfl : y' = y := Option.some.inj (hy'.symm.trans hy)
  exact ⟨hch.1, hch.2.1⟩

/-- A number that FP32 holds bounds what is nearest. -/
theorem near_le {x y Y : ℝ} (h : Stated.Near x y) (hY : Stated.Holds fp32 2 Y) (hx : x ≤ Y) : y ≤ Y := by
  by_contra hlt
  have hlt' := not_le.1 hlt
  have := (near_chosen h).2 Y hY
  rw [abs_of_nonpos (by linarith), abs_of_nonpos (by linarith)] at this
  linarith

theorem near_ge {x y Y : ℝ} (h : Stated.Near x y) (hY : Stated.Holds fp32 2 Y) (hx : Y ≤ x) : Y ≤ y := by
  by_contra hlt
  have hlt' := not_le.1 hlt
  have := (near_chosen h).2 Y hY
  rw [abs_of_nonneg (by linarith), abs_of_nonneg (by linarith)] at this
  linarith

/-- A number that FP32 holds is nearest to itself alone. -/
theorem near_exact {x y : ℝ} (h : Stated.Near x y) (hx : Stated.Holds fp32 2 x) : y = x := le_antisymm (near_le h hx le_rfl) (near_ge h hx le_rfl)

/-- A result within FP32's range, rounded to nearest. -/
theorem near_rn32 {r : Real} {x : ℝ} {z : Bool} (h : r.Stands x z) (hx : |x| ≤ 2 ^ 127) :
    ∃ y, Stated.finite (f32 (rn32 r)) = some y ∧ Stated.Near x y := by
  have hmax : |x| ≤ fp32.grid (fp32.maxCode 2) := by
    rw [grid_maxCode_fp32]
    exact hx.trans (by norm_num)
  have hr := fp32.rounds_deliver proper_fp32 (rm := 0) (draw := 0) h hmax
  obtain ⟨-, -, y, hy, -, -⟩ := id hr
  exact ⟨y, hy, z, _, _, hr, hy⟩

/-! ### Numbers that FP32 holds -/

theorem holds_zero : Stated.Holds fp32 2 0 := by simpa using holds_code (c := 0) (n := false) (m := 0) (e := -149) (by norm_num) (by decide +kernel)

/-- A number of 24 bits in FP32's range of exponents. -/
theorem holds_bits {i k : Nat} (hi : i < 2 ^ 23) (hk : 1 ≤ k) (hk' : k < 255) : Stated.Holds fp32 2 ((2 ^ 23 + i : Nat) * (2 : ℝ) ^ ((k : Int) - 150)) := by
  have hp := proper_fp32
  have hmax : k * 2 ^ 23 + i ≤ fp32.maxCode 2 := by
    have : fp32.maxCode 2 = 255 * 2 ^ 23 - 1 := by decide +kernel
    omega
  have hg : fp32.grid ((2 ^ 23 + i) + (k - 1) * 2 ^ fp32.p) = ((2 ^ 23 + i : Nat) : ℝ) * fp32.ulp (k - 1) :=
    fp32.grid_add (by show 2 ^ 23 + i ≤ 2 ^ 24; omega) (.inr (by show 2 ^ 23 ≤ 2 ^ 23 + i; omega))
  have hulp : fp32.ulp (k - 1) = (2 : ℝ) ^ ((k : Int) - 150) := by
    rw [Fmt.ulp]
    congr 1
    have h1 : (fp32.bias : Int) = 127 := by decide +kernel
    have h2 : (fp32.p : Int) = 23 := by decide +kernel
    omega
  have hcode : (2 ^ 23 + i) + (k - 1) * 2 ^ fp32.p = k * 2 ^ 23 + i := by
    have h2 : fp32.p = 23 := by decide +kernel
    rw [h2, Nat.sub_mul]
    omega
  rw [hcode, hulp] at hg
  rw [← hg]
  exact fp32.holds_grid hp hmax

end Sys2Proof.Machine

namespace Sys2Proof.Machine

/-! ### The table of 2^(j/64) (R98) -/

/-- The 24 bits of the table's entry `j`, in units of 2^−23. -/
def tableBits (j : Nat) : Nat := exp2Table.getD j 0 - 126 * 2 ^ 23

/-- Entry `j` is nearest to 2^(j/64), told in whole numbers: by 64th powers. -/
theorem table_bits : ∀ j < 64, 2 ^ 23 ≤ tableBits j ∧ tableBits j < 2 ^ 24
    ∧ (2 * tableBits j - 1) ^ 64 < 2 ^ (24 * 64 + j) ∧ 2 ^ (24 * 64 + j) < (2 * tableBits j + 1) ^ 64 := by
  decide +kernel

theorem rpow_pow_64 (j : Nat) : ((2 : ℝ) ^ ((j : ℝ) / 64)) ^ 64 = 2 ^ j := by
  rw [← Real.rpow_natCast, ← Real.rpow_mul (by norm_num), Nat.cast_ofNat, div_mul_cancel₀ _ (by norm_num), Real.rpow_natCast]

/-- A power of two by its 64th power. -/
theorem lt_rpow_iff (n j : Nat) : (n : ℝ) / 2 ^ 24 < (2 : ℝ) ^ ((j : ℝ) / 64) ↔ n ^ 64 < 2 ^ (24 * 64 + j) := by
  have hpos : (0 : ℝ) ≤ (2 : ℝ) ^ ((j : ℝ) / 64) := by positivity
  rw [← pow_lt_pow_iff_left₀ (by positivity) hpos (n := 64) (by norm_num), rpow_pow_64, div_pow, div_lt_iff₀ (by positivity), ← pow_mul,
    ← pow_add, add_comm j]
  exact_mod_cast Iff.rfl

theorem rpow_lt_iff (n j : Nat) : (2 : ℝ) ^ ((j : ℝ) / 64) < (n : ℝ) / 2 ^ 24 ↔ 2 ^ (24 * 64 + j) < n ^ 64 := by
  have hpos : (0 : ℝ) ≤ (2 : ℝ) ^ ((j : ℝ) / 64) := by positivity
  rw [← pow_lt_pow_iff_left₀ hpos (by positivity) (n := 64) (by norm_num), rpow_pow_64, div_pow, lt_div_iff₀ (by positivity), ← pow_mul,
    ← pow_add, add_comm j]
  exact_mod_cast Iff.rfl

theorem bias_fp32 : fp32.bias = 127 := by decide +kernel
theorem p_fp32 : fp32.p = 23 := rfl

/-- FP32's numbers from 1 to 2. -/
theorem grid_one_two {n : Nat} (h1 : 2 ^ 23 ≤ n) (h2 : n ≤ 2 ^ 24) : fp32.grid (n + 126 * 2 ^ 23) = n / 2 ^ 23 := by
  have hg : fp32.grid (n + 126 * 2 ^ fp32.p) = (n : ℝ) * fp32.ulp 126 := fp32.grid_add h2 (.inr h1)
  rw [p_fp32] at hg
  rw [hg, Fmt.ulp, bias_fp32, p_fp32, div_eq_mul_inv]
  norm_num

theorem maxCode_fp32 : fp32.maxCode 2 = 255 * 2 ^ 23 - 1 := by decide +kernel

/-- The code of an FP32 number from 1 to 2 holds it. -/
theorem finite_one_two {n : Nat} (h1 : 2 ^ 23 ≤ n) (h2 : n < 2 ^ 24) :
    Stated.finite (fp32.decode 2 (n + 126 * 2 ^ 23)) = some ((n : ℝ) / 2 ^ 23) := by
  have hmax : n + 126 * 2 ^ 23 ≤ fp32.maxCode 2 := by rw [maxCode_fp32]; omega
  have hlt := hmax.trans_lt (fp32.maxCode_lt 2)
  have hmag := fp32.magOf_signBit_add false hlt
  have hneg := fp32.negOf_signBit_add false hlt
  have hzero : fp32.signBit false = 0 := rfl
  rw [hzero, zero_add] at hmag hneg
  rw [fp32.finite_decode_eq_some_iff proper_fp32, hmag, hneg, grid_one_two h1 h2.le]
  exact ⟨hmax, rfl⟩

theorem half_lt_iff {a lo hi : ℝ} (h : lo < hi) : 1 / 2 < (a - lo) / (hi - lo) ↔ (lo + hi) / 2 < a := by
  rw [lt_div_iff₀ (by linarith)]
  constructor <;> intro h' <;> linarith

/-- To nearest, the step is up beyond halfway and down below. -/
theorem step_nearest {a : ℝ} {c : Nat} :
    ((fp32.grid c + fp32.grid (c + 1)) / 2 < a → fp32.step 0 0 false a c = c + 1)
    ∧ (a < (fp32.grid c + fp32.grid (c + 1)) / 2 → fp32.step 0 0 false a c = c) := by
  have hgap := fp32.grid_strictMono (Nat.lt_succ_self c)
  have hup : RoundsUp 0 0 false (c % 2 = 1) ((a - fp32.grid c) / (fp32.grid (c + 1) - fp32.grid c))
      ↔ 1 / 2 < (a - fp32.grid c) / (fp32.grid (c + 1) - fp32.grid c) ∨ (a - fp32.grid c) / (fp32.grid (c + 1) - fp32.grid c) = 1 / 2 ∧ c % 2 = 1 := Iff.rfl
  refine ⟨fun h => ?_, fun h => ?_⟩
  · exact ((fp32.step_eq_or 0 0 false a c).resolve_left fun h' => h'.2 (hup.2 (.inl ((half_lt_iff hgap).2 h)))).1
  · refine ((fp32.step_eq_or 0 0 false a c).resolve_right fun h' => ?_).1
    have hlt : (a - fp32.grid c) / (fp32.grid (c + 1) - fp32.grid c) < 1 / 2 := by
      rw [div_lt_iff₀ (by linarith)]
      linarith
    rcases hup.1 h'.2 with h1 | h1
    · exact absurd h1 hlt.not_gt
    · exact hlt.ne h1.1

/-- A number within half a unit of an FP32 number from 1 to 2 is nearest to it; just below 1 the unit is half as large. -/
theorem near_between {n : Nat} (h1 : 2 ^ 23 ≤ n) (h2 : n < 2 ^ 24) {a : ℝ} (hlo : ((2 * n - 1 : Nat) : ℝ) / 2 ^ 24 < a)
    (hhi : a < ((2 * n + 1 : Nat) : ℝ) / 2 ^ 24) (hone : n = 2 ^ 23 → 1 ≤ a) : Stated.Near a (n / 2 ^ 23) := by
  have hg := grid_one_two h1 h2.le
  have hg' := grid_one_two (n := n + 1) (by omega) (by omega)
  have hcode : n + 1 + 126 * 2 ^ 23 = n + 126 * 2 ^ 23 + 1 := by omega
  rw [hcode, Nat.cast_add, Nat.cast_one] at hg'
  rw [Nat.cast_sub (by omega)] at hlo
  push_cast at hlo hhi
  have hn1 : (1 : ℝ) ≤ (n : ℝ) / 2 ^ 23 := by
    rw [le_div_iff₀ (by norm_num)]
    exact_mod_cast h1
  have ha0 : 0 < a := by
    refine lt_of_le_of_lt ?_ hlo
    have : (1 : ℝ) ≤ n := by exact_mod_cast (show 1 ≤ n by omega)
    exact div_nonneg (by linarith) (by norm_num)
  have hmax : a ≤ fp32.grid (fp32.maxCode 2) := by
    rw [grid_maxCode_fp32]
    have hn2 : (n : ℝ) ≤ 2 ^ 24 := by exact_mod_cast h2.le
    have h3 : a ≤ 3 := by
      refine hhi.le.trans ?_
      rw [div_le_iff₀ (by norm_num)]
      linarith
    exact h3.trans (by norm_num)
  have hfin := finite_one_two h1 h2
  have key : ∀ c, fp32.grid c ≤ a → a < fp32.grid (c + 1) → fp32.step 0 0 false a c = n + 126 * 2 ^ 23 → Stated.Near a (n / 2 ^ 23) := by
    intro c hc hc' hs
    have hr := fp32.rounds_step proper_fp32 (rm := 0) (draw := 0) (neg := false) (z := false) hc hc' hmax (by simp [ha0.ne', ha0.not_gt])
    rw [hs, show fp32.signBit false = 0 from rfl, zero_add] at hr
    exact ⟨false, _, _, hr, hfin⟩
  rcases le_or_gt ((n : ℝ) / 2 ^ 23) a with hge | hlt
  · refine key (n + 126 * 2 ^ 23) (by rwa [hg]) ?_ (step_nearest.2 ?_)
    · rw [hg']
      refine hhi.trans_le ?_
      rw [div_le_div_iff₀ (by norm_num) (by norm_num)]
      linarith
    · rw [hg, hg', ← add_div, div_div, lt_div_iff₀ (by norm_num)]
      rw [lt_div_iff₀ (by norm_num)] at hhi
      linarith
  · have hne : n ≠ 2 ^ 23 := by
      intro h
      have := hone h
      rw [h] at hlt
      norm_num at hlt
      linarith
    have hgm := grid_one_two (n := n - 1) (by omega) (by omega)
    have hcm : n - 1 + 126 * 2 ^ 23 + 1 = n + 126 * 2 ^ 23 := by omega
    rw [Nat.cast_sub (by omega), Nat.cast_one] at hgm
    refine key (n - 1 + 126 * 2 ^ 23) ?_ (by rw [hcm, hg]; exact hlt) ((step_nearest.1 ?_).trans hcm)
    · rw [hgm]
      refine le_trans ?_ hlo.le
      rw [div_le_div_iff₀ (by norm_num) (by norm_num)]
      linarith
    · rw [hcm, hg, hgm, ← add_div, div_div, div_lt_iff₀ (by norm_num)]
      rw [div_lt_iff₀ (by norm_num)] at hlo
      linarith

theorem table_decode {j : Nat} (hj : j < 64) : f32 (exp2Table.getD j 0) = .fin false (tableBits j) (-23) := by
  have hall : ((List.range 64).all fun j => f32 (exp2Table.getD j 0) == .fin false (tableBits j) (-23)) = true := by decide +kernel
  exact beq_iff_eq.1 (List.all_eq_true.1 hall j (List.mem_range.2 hj))

/-- The table holds what is nearest to 2^(j/64). -/
theorem near_table {j : Nat} (hj : j < 64) : Stated.Near ((2 : ℝ) ^ ((j : ℝ) / 64)) (tableBits j / 2 ^ 23) := by
  have hone : (1 : ℝ) ≤ (2 : ℝ) ^ ((j : ℝ) / 64) := Real.one_le_rpow (by norm_num) (by positivity)
  obtain ⟨hlo, hhi, hpow1, hpow2⟩ := table_bits j hj
  exact near_between hlo hhi ((lt_rpow_iff (2 * tableBits j - 1) j).2 hpow1) ((rpow_lt_iff (2 * tableBits j + 1) j).2 hpow2) fun _ => hone

end Sys2Proof.Machine

namespace Sys2Proof.Machine

/-! ### The polynomial (R98) -/

/-- The polynomial of R98 on a fraction, each step rounded: an FP32 code. -/
def expPoly (f : FVal) : Nat :=
  let a := rn32 (mulReal f (f32 0x3D635847))
  let a := rn32 (addReal 0 (f32 a) (f32 0x3E75FDF0))
  let a := rn32 (mulReal f (f32 a))
  let a := rn32 (addReal 0 (f32 a) (f32 0x3F317218))
  let a := rn32 (mulReal f (f32 a))
  rn32 (addReal 0 (f32 a) (f32 0x3F800000))

theorem finite_code {c : Nat} {n : Bool} {m : Nat} {e : Int} (h : f32 c = .fin n m e) : Stated.finite (f32 c) = some (withSign n (m * (2 : ℝ) ^ e)) := by
  rw [h, finite_fin]

theorem finite_c3 : Stated.finite (f32 0x3D635847) = some (0xE35847 / 2 ^ 28 : ℝ) := by
  rw [finite_code (show f32 0x3D635847 = .fin false 0xE35847 (-28) by decide +kernel), withSign_false, zpow_neg, div_eq_mul_inv]
  norm_num
theorem finite_c2 : Stated.finite (f32 0x3E75FDF0) = some (0xF5FDF0 / 2 ^ 26 : ℝ) := by
  rw [finite_code (show f32 0x3E75FDF0 = .fin false 0xF5FDF0 (-26) by decide +kernel), withSign_false, zpow_neg, div_eq_mul_inv]
  norm_num
theorem finite_c1 : Stated.finite (f32 0x3F317218) = some (0xB17218 / 2 ^ 24 : ℝ) := by
  rw [finite_code (show f32 0x3F317218 = .fin false 0xB17218 (-24) by decide +kernel), withSign_false, zpow_neg, div_eq_mul_inv]
  norm_num
theorem finite_one : Stated.finite (f32 0x3F800000) = some (1 : ℝ) := by
  rw [finite_code (show f32 0x3F800000 = .fin false (2 ^ 23) (-23) by decide +kernel), withSign_false, zpow_neg]
  norm_num

/-- A product of small numbers, rounded, with what bounds it. -/
theorem near_mul {u v : FVal} {x y X Y A : ℝ} (hu : Stated.finite u = some x) (hv : Stated.finite v = some y) (hx : 0 ≤ x ∧ x ≤ X)
    (hy : 0 ≤ y ∧ y ≤ Y) (hA : Stated.Holds fp32 2 A) (hA4 : A ≤ 4) (h : X * Y ≤ A) :
    ∃ a, Stated.finite (f32 (rn32 (mulReal u v))) = some a ∧ Stated.Near (x * y) a ∧ 0 ≤ a ∧ a ≤ A := by
  have h0 : 0 ≤ x * y := mul_nonneg hx.1 hy.1
  have hle : x * y ≤ A := (mul_le_mul hx.2 hy.2 hy.1 (hx.1.trans hx.2)).trans h
  have habs : |x * y| ≤ 2 ^ 127 := by
    rw [abs_of_nonneg h0]
    exact (hle.trans hA4).trans (by norm_num)
  obtain ⟨a, ha, hn⟩ := near_rn32 (mulReal_stands hu hv) habs
  exact ⟨a, ha, hn, near_ge hn holds_zero h0, near_le hn hA hle⟩

theorem near_add {u v : FVal} {x y X A : ℝ} (hu : Stated.finite u = some x) (hv : Stated.finite v = some y) (hx : 0 ≤ x ∧ x ≤ X)
    (hy : 0 ≤ y) (hA : Stated.Holds fp32 2 A) (hA4 : A ≤ 4) (h : X + y ≤ A) :
    ∃ a, Stated.finite (f32 (rn32 (addReal 0 u v))) = some a ∧ Stated.Near (x + y) a ∧ 0 ≤ a ∧ a ≤ A := by
  have h0 : 0 ≤ x + y := add_nonneg hx.1 hy
  have hle : x + y ≤ A := (add_le_add_left hx.2 y).trans h
  have habs : |x + y| ≤ 2 ^ 127 := by
    rw [abs_of_nonneg h0]
    exact (hle.trans hA4).trans (by norm_num)
  obtain ⟨a, ha, hn⟩ := near_rn32 (addReal_stands hu hv 0) habs
  exact ⟨a, ha, hn, near_ge hn holds_zero h0, near_le hn hA hle⟩

/-- FP32 numbers that bound the steps of the polynomial for a fraction of at most `R`. -/
structure PolyBounds (R A1 A2 A3 A4 A5 A6 : ℝ) : Prop where
  holds : Stated.Holds fp32 2 A1 ∧ Stated.Holds fp32 2 A2 ∧ Stated.Holds fp32 2 A3 ∧ Stated.Holds fp32 2 A4 ∧ Stated.Holds fp32 2 A5
    ∧ Stated.Holds fp32 2 A6
  small : A1 ≤ 4 ∧ A2 ≤ 4 ∧ A3 ≤ 4 ∧ A4 ≤ 4 ∧ A5 ≤ 4 ∧ A6 ≤ 4
  steps : R * (0xE35847 / 2 ^ 28) ≤ A1 ∧ A1 + 0xF5FDF0 / 2 ^ 26 ≤ A2 ∧ R * A2 ≤ A3 ∧ A3 + 0xB17218 / 2 ^ 24 ≤ A4 ∧ R * A4 ≤ A5 ∧ A5 + 1 ≤ A6

/-- The steps of the polynomial are nearest to their exact results. -/
theorem expPoly_near {f : FVal} {r R A1 A2 A3 A4 A5 A6 : ℝ} (hf : Stated.finite f = some r) (hr : 0 ≤ r ∧ r ≤ R)
    (hb : PolyBounds R A1 A2 A3 A4 A5 A6) :
    ∃ a1 a2 a3 a4 a5 a6, Stated.Near (r * (0xE35847 / 2 ^ 28)) a1 ∧ Stated.Near (a1 + 0xF5FDF0 / 2 ^ 26) a2 ∧ Stated.Near (r * a2) a3
      ∧ Stated.Near (a3 + 0xB17218 / 2 ^ 24) a4 ∧ Stated.Near (r * a4) a5 ∧ Stated.Near (a5 + 1) a6
      ∧ Stated.finite (f32 (expPoly f)) = some a6 ∧ 1 ≤ a6 ∧ a6 ≤ A6 := by
  obtain ⟨⟨h1, h2, h3, h4, h5, h6⟩, ⟨s1, s2, s3, s4, s5, s6⟩, l1, l2, l3, l4, l5, l6⟩ := hb
  obtain ⟨a1, f1, n1, b1⟩ := near_mul hf finite_c3 hr ⟨by norm_num, le_rfl⟩ h1 s1 l1
  obtain ⟨a2, f2, n2, b2⟩ := near_add f1 finite_c2 b1 (by norm_num) h2 s2 l2
  obtain ⟨a3, f3, n3, b3⟩ := near_mul hf f2 hr b2 h3 s3 l3
  obtain ⟨a4, f4, n4, b4⟩ := near_add f3 finite_c1 b3 (by norm_num) h4 s4 l4
  obtain ⟨a5, f5, n5, b5⟩ := near_mul hf f4 hr b4 h5 s5 l5
  obtain ⟨a6, f6, n6, b6⟩ := near_add f5 finite_one b5 (by norm_num) h6 s6 l6
  have hone : Stated.Holds fp32 2 1 := ⟨0x3F800000, by decide +kernel, finite_one⟩
  exact ⟨a1, a2, a3, a4, a5, a6, n1, n2, n3, n4, n5, n6, f6, near_ge n6 hone (by linarith [b5.1]), b6.2⟩

/-- `holds_bits`, with the number written as a fraction. -/
theorem holds_div {i k : Nat} {A : ℝ} (hi : i < 2 ^ 23) (hk : 1 ≤ k) (hk' : k < 150) (h : A = (2 ^ 23 + i : Nat) / 2 ^ (150 - k)) : Stated.Holds fp32 2 A := by
  have hb := holds_bits hi hk (by omega)
  have hexp : (k : Int) - 150 = -((150 - k : Nat) : Int) := by omega
  rwa [hexp, zpow_neg, zpow_natCast, ← div_eq_mul_inv, ← h] at hb

/-- Any fraction of R99. -/
theorem polyBounds_wide : PolyBounds (1 / 64) (1 / 64) (1 / 2) (1 / 64) 1 (1 / 64) (65 / 64) where
  holds := by
    have h64 : Stated.Holds fp32 2 (1 / 64) := holds_div (i := 0) (k := 121) (by norm_num) (by norm_num) (by norm_num) (by norm_num)
    have hhalf : Stated.Holds fp32 2 (1 / 2) := holds_div (i := 0) (k := 126) (by norm_num) (by norm_num) (by norm_num) (by norm_num)
    have hone : Stated.Holds fp32 2 1 := holds_div (i := 0) (k := 127) (by norm_num) (by norm_num) (by norm_num) (by norm_num)
    have hlast : Stated.Holds fp32 2 (65 / 64) := holds_div (i := 131072) (k := 127) (by norm_num) (by norm_num) (by norm_num) (by norm_num)
    exact ⟨h64, hhalf, h64, hone, h64, hlast⟩
  small := by norm_num
  steps := by norm_num

/-- A fraction short of 1/64 by FP32's spacing from 127 to 128: the product with the table's last entry stays below 2. -/
theorem polyBounds_tight : PolyBounds (1 / 64 - 1 / 2 ^ 17) (14891996 / 2 ^ 34) (16179500 / 2 ^ 26) (16171600 / 2 ^ 32) (11692251 / 2 ^ 24)
    (11686542 / 2 ^ 30) (8479910 / 2 ^ 23) where
  holds := by
    refine ⟨holds_div (i := 6503388) (k := 116) ?_ ?_ ?_ ?_, holds_div (i := 7790892) (k := 124) ?_ ?_ ?_ ?_,
      holds_div (i := 7782992) (k := 118) ?_ ?_ ?_ ?_, holds_div (i := 3303643) (k := 126) ?_ ?_ ?_ ?_,
      holds_div (i := 3297934) (k := 120) ?_ ?_ ?_ ?_, holds_div (i := 91302) (k := 127) ?_ ?_ ?_ ?_⟩ <;> norm_num
  small := by norm_num
  steps := by norm_num

end Sys2Proof.Machine

namespace Sys2Proof.Machine

/-! ### The argument in 64ths, and its fraction (R99) -/

/-- 64ths of a finite value rounded down, and what is above them as a significand and exponent. -/
def expParts (neg : Bool) (m : Nat) (e : Int) : Int × Nat × Int :=
  if 0 ≤ e + 6 then (sInt neg m * 2 ^ (e + 6).toNat, 0, 0)
  else
    let d : Int := (2 ^ (-(e + 6)).toNat : Nat)
    ((sInt neg m).fdiv d, ((sInt neg m).fmod d).toNat, e)

theorem sInt_mul_zpow (neg : Bool) (m : Nat) (e : Int) : withSign neg (m * (2 : ℝ) ^ e) = ((sInt neg m : Int) : ℝ) * (2 : ℝ) ^ e := by
  rw [sInt_cast]
  cases neg <;> simp

theorem two_zpow_toNat {n : Int} (h : 0 ≤ n) : (2 : ℝ) ^ n = ((2 ^ n.toNat : Nat) : ℝ) := by
  conv_lhs => rw [← Int.toNat_of_nonneg h]
  rw [zpow_natCast]
  push_cast
  rfl

theorem expParts_spec (neg : Bool) (m : Nat) (e : Int) {x : ℝ} (hx : x = withSign neg (m * (2 : ℝ) ^ e)) :
    ⌊x * 64⌋ = (expParts neg m e).1
    ∧ Stated.finite (.fin false (expParts neg m e).2.1 (expParts neg m e).2.2) = some (x - ((expParts neg m e).1 : ℝ) / 64) := by
  have h64 : x * 64 = ((sInt neg m : Int) : ℝ) * (2 : ℝ) ^ (e + 6) := by
    rw [hx, sInt_mul_zpow, zpow_add₀ (by norm_num)]
    norm_num
    ring
  rw [finite_fin, withSign_false, Option.some.injEq]
  unfold expParts
  split
  · next h =>
    rw [two_zpow_toNat h] at h64
    have hk : x * 64 = ((sInt neg m * 2 ^ (e + 6).toNat : Int) : ℝ) := by
      rw [h64]
      push_cast
      rfl
    refine ⟨by rw [hk, Int.floor_intCast], ?_⟩
    rw [← hk]
    norm_num
  · next h =>
    have hd : (2 : ℝ) ^ (e + 6) * ((2 ^ (-(e + 6)).toNat : Nat) : ℝ) = 1 := by
      rw [← two_zpow_toNat (by omega), ← zpow_add₀ (by norm_num)]
      simp
    have hpos : (0 : Int) < (2 ^ (-(e + 6)).toNat : Nat) := by exact_mod_cast Nat.two_pow_pos _
    generalize (2 ^ (-(e + 6)).toNat : Nat) = d at hd hpos ⊢
    have hmod := Int.fmod_nonneg_of_pos (sInt neg m) hpos
    have hlt := Int.fmod_lt_of_pos (sInt neg m) hpos
    have hs : (((sInt neg m).fmod d : Int) : ℝ) + (d : ℝ) * (((sInt neg m).fdiv d : Int) : ℝ) = ((sInt neg m : Int) : ℝ) := by
      exact_mod_cast Int.fmod_add_mul_fdiv (sInt neg m) d
    have hdpos : (0 : ℝ) < d := by exact_mod_cast hpos
    have hz : (0 : ℝ) < (2 : ℝ) ^ (e + 6) := by positivity
    have hval : x * 64 = (((sInt neg m).fdiv d : Int) : ℝ) + (((sInt neg m).fmod d : Int) : ℝ) * (2 : ℝ) ^ (e + 6) := by
      rw [h64, ← hs]
      linear_combination (((sInt neg m).fdiv d : Int) : ℝ) * hd
    refine ⟨?_, ?_⟩
    · rw [Int.floor_eq_iff, hval]
      have h0 : (0 : ℝ) ≤ (((sInt neg m).fmod d : Int) : ℝ) := by exact_mod_cast hmod
      have h1 : (((sInt neg m).fmod d : Int) : ℝ) < d := by exact_mod_cast hlt
      refine ⟨by linarith [mul_nonneg h0 hz.le], ?_⟩
      have := mul_lt_mul_of_pos_right h1 hz
      linarith [mul_comm (d : ℝ) ((2 : ℝ) ^ (e + 6))]
    · have hcast : ((((sInt neg m).fmod d).toNat : Nat) : ℝ) = (((sInt neg m).fmod d : Int) : ℝ) := by exact_mod_cast Int.toNat_of_nonneg hmod
      have h6 : (2 : ℝ) ^ (e + 6) = (2 : ℝ) ^ e * 64 := by
        rw [zpow_add₀ (by norm_num)]
        norm_num
      rw [h6] at hval
      rw [hcast]
      linarith

/-- The order of finite values is that of their numbers. -/
theorem lt_iff_of_finite {u v : FVal} {x y : ℝ} (hu : Stated.finite u = some x) (hv : Stated.finite v = some y) : u.lt v = decide (x < y) := by
  obtain ⟨n1, m1, e1, rfl, rfl⟩ := finite_eq_some_iff.1 hu
  obtain ⟨n2, m2, e2, rfl, rfl⟩ := finite_eq_some_iff.1 hv
  have hscale : ∀ (n : Bool) (m : Nat) (e : Int), min e1 e2 ≤ e →
      withSign n (m * (2 : ℝ) ^ e) = ((sInt n (m * 2 ^ (e - min e1 e2).toNat) : Int) : ℝ) * (2 : ℝ) ^ min e1 e2 := by
    intro n m e he
    rw [← sInt_mul_zpow, Nat.cast_mul, mul_assoc, ← two_zpow_toNat (by omega), ← zpow_add₀ (by norm_num), sub_add_cancel]
  have hpos : (0 : ℝ) < (2 : ℝ) ^ min e1 e2 := by positivity
  rw [decide_eq_decide.2 (by rw [hscale n1 m1 e1 (min_le_left ..), hscale n2 m2 e2 (min_le_right ..), mul_lt_mul_iff_left₀ hpos, Int.cast_lt])]
  rfl

/-- A number of FP32 from 127 is a whole number of its spacing there. -/
theorem spacing_127 {c : Nat} {x : ℝ} (hx : Stated.finite (f32 c) = some x) (h127 : 127 ≤ x) : ∃ z : Int, x * 2 ^ 17 = z := by
  obtain ⟨hmax, -⟩ := (fp32.finite_decode_eq_some_iff proper_fp32).1 hx
  have hm : fp32.magOf c - (fp32.magOf c / 2 ^ fp32.p - 1) * 2 ^ fp32.p < 2 ^ 24 := by
    rw [p_fp32]
    omega
  rw [f32, fp32.decode_of_le proper_fp32 hmax, finite_fin, Option.some.injEq] at hx
  generalize fp32.magOf c - (fp32.magOf c / 2 ^ fp32.p - 1) * 2 ^ fp32.p = m at hm hx
  generalize (((fp32.magOf c / 2 ^ fp32.p - 1 : Nat) : Int) + 1 - fp32.bias - fp32.p) = e at hx
  have he : 0 ≤ e + 17 := by
    by_contra hneg
    have h1 : (2 : ℝ) ^ e ≤ (2 : ℝ) ^ (-18 : Int) := zpow_le_zpow_right₀ (by norm_num) (by omega)
    have h2 : (m : ℝ) ≤ 2 ^ 24 := by exact_mod_cast hm.le
    have h3 : |x| ≤ 2 ^ 24 * (2 : ℝ) ^ (-18 : Int) := by
      rw [← hx, abs_withSign _ (by positivity)]
      exact mul_le_mul h2 h1 (by positivity) (by positivity)
    have h4 := h127.trans ((le_abs_self x).trans h3)
    norm_num at h4
  refine ⟨sInt (fp32.negOf c) m * 2 ^ (e + 17).toNat, ?_⟩
  have hsplit : (2 : ℝ) ^ (e + 17) = (2 : ℝ) ^ e * 2 ^ 17 := by
    rw [zpow_add₀ (by norm_num)]
    norm_num
  rw [two_zpow_toNat he] at hsplit
  push_cast at hsplit ⊢
  rw [hsplit, ← hx, sInt_mul_zpow, mul_assoc]

/-- So it lies short of the next 64th by at least that spacing. -/
theorem fraction_tight {c : Nat} {x : ℝ} {k : Int} (hx : Stated.finite (f32 c) = some x) (h127 : 127 ≤ x) (h : x - (k : ℝ) / 64 < 1 / 64) :
    x - (k : ℝ) / 64 ≤ 1 / 64 - 1 / 2 ^ 17 := by
  obtain ⟨z, hz⟩ := spacing_127 hx h127
  have hlt : (z : ℝ) < ((k + 1) * 2 ^ 11 : Int) := by
    rw [← hz]
    push_cast
    linarith
  have hle : (z : ℝ) + 1 ≤ ((k + 1) * 2 ^ 11 : Int) := by exact_mod_cast Int.add_one_le_of_lt (by exact_mod_cast hlt)
  rw [← hz] at hle
  push_cast at hle
  linarith

end Sys2Proof.Machine

namespace Sys2Proof.Machine

/-! ### A power of two between the ends of the range (R99) -/

/-- A value scaled by a power of two and rounded; what is not finite stays. -/
def scaledBy (v : FVal) (code : Nat) (m : Int) : Nat × Nat :=
  match v with
  | .fin n bm be => fp32.round 2 0 0 n bm (be + m) false
  | _ => (code, 0)

/-- The power of two of `k` 64ths and a fraction: code and flags. -/
def expNode (k : Int) (f : FVal) : Nat × Nat :=
  let j := (k % 64).toNat
  let b := rn32 (mulReal (f32 (exp2Table.getD j 0)) (f32 (expPoly f)))
  scaledBy (f32 b) b ((k - (j : Int)) / 64)

/-- VFEXP2 of a finite code. -/
theorem vfexp2_fin {c : Nat} {neg : Bool} {m : Nat} {e : Int} (h : f32 c = .fin neg m e) :
    vfexp2 c = if !(FVal.fin neg m e).lt (.fin false 128 0) then (0x7F800000, flagOF + flagNX)
      else if (FVal.fin neg m e).lt (.fin true 160 0) then (0, flagUF + flagNX)
      else expNode (expParts neg m e).1 (.fin false (expParts neg m e).2.1 (expParts neg m e).2.2) := by
  unfold vfexp2
  rw [h]
  rfl

/-- The rounded steps of R98 and R99 for a fraction `r`, entry `j` of the table and the exponent `m`. -/
def ExpSteps (r : ℝ) (j : Nat) (m : Int) (c fl : Nat) : Prop :=
  ∃ a1 a2 a3 a4 a5 a6 t b : ℝ, Stated.Near (r * (0xE35847 / 2 ^ 28)) a1 ∧ Stated.Near (a1 + 0xF5FDF0 / 2 ^ 26) a2 ∧ Stated.Near (r * a2) a3
    ∧ Stated.Near (a3 + 0xB17218 / 2 ^ 24) a4 ∧ Stated.Near (r * a4) a5 ∧ Stated.Near (a5 + 1) a6
    ∧ Stated.Near ((2 : ℝ) ^ ((j : ℝ) / 64)) t ∧ Stated.Near (t * a6) b ∧ Stated.Rounds fp32 2 0 0 (b * (2 : ℝ) ^ m) false c fl

theorem scaledBy_rounds {v : FVal} {b : ℝ} (hv : Stated.finite v = some b) (hb : 0 < b) (code : Nat) (m : Int)
    (hmax : b * (2 : ℝ) ^ m ≤ fp32.grid (fp32.maxCode 2)) :
    Stated.Rounds fp32 2 0 0 (b * (2 : ℝ) ^ m) false (scaledBy v code m).1 (scaledBy v code m).2 := by
  obtain ⟨n, bm, be, rfl, rfl⟩ := finite_eq_some_iff.1 hv
  have hn : n = false := by
    cases n with
    | false => rfl
    | true =>
      rw [withSign_true, neg_pos] at hb
      exact absurd hb (not_lt.2 (mul_nonneg (Nat.cast_nonneg bm) (zpow_nonneg two_pos.le be)))
  subst hn
  have hfin : Stated.finite (.fin false bm (be + m)) = some (withSign false (bm * (2 : ℝ) ^ be) * (2 : ℝ) ^ m) := by
    rw [finite_fin, withSign_false, withSign_false, zpow_add₀ (by norm_num), mul_assoc]
  have hpos : 0 < withSign false (bm * (2 : ℝ) ^ be) * (2 : ℝ) ^ m := mul_pos hb (zpow_pos two_pos m)
  exact fp32.rounds_deliver proper_fp32 (rm := 0) (draw := 0) (real_stands hfin) (by rwa [abs_of_pos hpos])

theorem tableBits_le {j : Nat} (hj : j < 64) : tableBits j ≤ 16596492 := by
  have : ∀ j < 64, tableBits j ≤ 16596492 := by decide +kernel
  exact this j hj

theorem finite_table {j : Nat} (hj : j < 64) : Stated.finite (f32 (exp2Table.getD j 0)) = some ((tableBits j : ℝ) / 2 ^ 23) := by
  rw [table_decode hj, finite_fin, withSign_false, zpow_neg, div_eq_mul_inv, ← zpow_natCast]
  rfl

theorem holds_one : Stated.Holds fp32 2 1 := holds_div (i := 0) (k := 127) (by norm_num) (by norm_num) (by norm_num) (by norm_num)

/-- Every step of a power of two is rounded to nearest, where the bounds leave the last one in range. -/
theorem expNode_steps {k : Int} {f : FVal} {r R A1 A2 A3 A4 A5 A6 B : ℝ} (hf : Stated.finite f = some r) (hr : 0 ≤ r ∧ r ≤ R)
    (hb : PolyBounds R A1 A2 A3 A4 A5 A6) (hB : Stated.Holds fp32 2 B) (hB4 : B ≤ 4) (hTB : 16596492 / 2 ^ 23 * A6 ≤ B)
    (hmax : B * (2 : ℝ) ^ (k / 64) ≤ fp32.grid (fp32.maxCode 2)) :
    ExpSteps r (k % 64).toNat (k / 64) (expNode k f).1 (expNode k f).2 := by
  have hj : (k % 64).toNat < 64 := by omega
  have hm : (k - ((k % 64).toNat : Int)) / 64 = k / 64 := by omega
  unfold expNode
  simp only [hm]
  generalize (k % 64).toNat = j at hj ⊢
  obtain ⟨a1, a2, a3, a4, a5, a6, n1, n2, n3, n4, n5, n6, f6, hone, h6⟩ := expPoly_near hf hr hb
  have ht := finite_table hj
  have ht1 : (1 : ℝ) ≤ (tableBits j : ℝ) / 2 ^ 23 := by
    rw [one_le_div (by norm_num)]
    exact_mod_cast (table_bits j hj).1
  have ht2 : (tableBits j : ℝ) / 2 ^ 23 ≤ 16596492 / 2 ^ 23 := by
    gcongr
    exact_mod_cast tableBits_le hj
  obtain ⟨b, fb, nb, -, hbB⟩ := near_mul ht f6 ⟨zero_le_one.trans ht1, ht2⟩ ⟨zero_le_one.trans hone, h6⟩ hB hB4 hTB
  have hb1 : 1 ≤ b := near_ge nb holds_one (one_le_mul_of_one_le_of_one_le ht1 hone)
  refine ⟨a1, a2, a3, a4, a5, a6, _, b, n1, n2, n3, n4, n5, n6, near_table hj, nb, scaledBy_rounds fb (by linarith) _ _ ?_⟩
  exact (mul_le_mul_of_nonneg_right hbB (by positivity)).trans hmax

/-- An exponent is at most 127, and 127 only from 127 on. -/
theorem expNode_range {c : Nat} {f : FVal} {x : ℝ} {k : Int} (hx : Stated.finite (f32 c) = some x) (hk : ⌊x * 64⌋ = k) (h128 : x < 128)
    (hf : Stated.finite f = some (x - (k : ℝ) / 64)) :
    ExpSteps (x - (k : ℝ) / 64) (k % 64).toNat (k / 64) (expNode k f).1 (expNode k f).2 := by
  obtain ⟨hlo, hhi⟩ := Int.floor_eq_iff.1 hk
  have h0 : 0 ≤ x - (k : ℝ) / 64 := by linarith
  have h1 : x - (k : ℝ) / 64 < 1 / 64 := by linarith
  have hk128 : k < 128 * 64 := by
    have : (k : ℝ) < ((128 * 64 : Int) : ℝ) := by
      push_cast
      linarith
    exact_mod_cast this
  rcases lt_or_ge x 127 with h127 | h127
  · have hk127 : k / 64 ≤ 126 := by
      have : (k : ℝ) < ((127 * 64 : Int) : ℝ) := by
        push_cast
        linarith
      have : k < 127 * 64 := by exact_mod_cast this
      omega
    refine expNode_steps hf ⟨h0, h1.le⟩ polyBounds_wide (B := 65 / 32)
      (holds_div (i := 131072) (k := 128) (by norm_num) (by norm_num) (by norm_num) (by norm_num)) (by norm_num) (by norm_num) ?_
    have hz : (2 : ℝ) ^ (k / 64) ≤ (2 : ℝ) ^ (126 : Int) := zpow_le_zpow_right₀ (by norm_num) hk127
    refine (mul_le_mul_of_nonneg_left hz (by norm_num)).trans ?_
    rw [grid_maxCode_fp32]
    norm_num
  · refine expNode_steps hf ⟨h0, fraction_tight hx h127 h1⟩ polyBounds_tight (B := (2 ^ 24 - 1) / 2 ^ 23)
      (holds_div (i := 8388607) (k := 127) (by norm_num) (by norm_num) (by norm_num) (by norm_num)) (by norm_num) (by norm_num) ?_
    have hz : (2 : ℝ) ^ (k / 64) ≤ (2 : ℝ) ^ (127 : Int) := zpow_le_zpow_right₀ (by norm_num) (by omega)
    refine (mul_le_mul_of_nonneg_left hz (by norm_num)).trans ?_
    rw [grid_maxCode_fp32]
    norm_num

end Sys2Proof.Machine

namespace Sys2Proof.Machine

/-! ### VFEXP2 of a code (R99) -/

theorem finite_whole (n : Bool) (m : Nat) : Stated.finite (.fin n m 0) = some (withSign n m) := by simp [finite_fin]

/-- What VFEXP2 of a finite code gives, by its range. -/
theorem vfexp2_finite {c : Nat} {x : ℝ} (hx : Stated.finite (f32 c) = some x) :
    (128 ≤ x → vfexp2 c = (0x7F800000, 5)) ∧ (x < -160 → vfexp2 c = (0, 3))
    ∧ (-160 ≤ x → x < 128 → ∃ j < 64, ∃ m : Int, ⌊x * 64⌋ = 64 * m + (j : Nat)
        ∧ ExpSteps (x - (⌊x * 64⌋ : ℝ) / 64) j m (vfexp2 c).1 (vfexp2 c).2) := by
  obtain ⟨neg, m, e, hv, hval⟩ := finite_eq_some_iff.1 hx
  have hlt := lt_iff_of_finite (hv ▸ hx) (finite_whole false 128)
  have hlow := lt_iff_of_finite (hv ▸ hx) (finite_whole true 160)
  rw [withSign_false] at hlt
  rw [withSign_true] at hlow
  rw [vfexp2_fin hv, hlt, hlow]
  refine ⟨fun h => ?_, fun h => ?_, fun h1 h2 => ?_⟩
  · rw [decide_eq_false (by push_cast; linarith)]
    rfl
  · rw [decide_eq_true (by push_cast; linarith), decide_eq_true (by push_cast; linarith)]
    rfl
  · obtain ⟨hk, hf⟩ := expParts_spec neg m e hval
    rw [decide_eq_true (by push_cast; linarith), decide_eq_false (by push_cast; linarith)]
    simp only [Bool.not_true, Bool.false_eq_true, if_false]
    rw [hk]
    exact ⟨_, by omega, _, by omega, expNode_range hx hk h2 hf⟩

/-- Steps on a whole number are exact. -/
theorem expSteps_whole {k : Int} {c fl : Nat} (hk : -126 ≤ k) (hk' : k ≤ 127) (h : ExpSteps 0 0 k c fl) :
    Stated.finite (fp32.decode 2 c) = some ((2 : ℝ) ^ k) ∧ fl = 0 := by
  obtain ⟨a1, a2, a3, a4, a5, a6, t, b, n1, n2, n3, n4, n5, n6, nt, nb, hr⟩ := h
  rw [zero_mul] at n1 n3 n5
  obtain rfl := near_exact n5 holds_zero
  rw [zero_add] at n6
  obtain rfl := near_exact n6 holds_one
  rw [Nat.cast_zero, zero_div, Real.rpow_zero] at nt
  obtain rfl := near_exact nt holds_one
  rw [mul_one] at nb
  obtain rfl := near_exact nb holds_one
  rw [one_mul] at hr
  obtain ⟨-, -, y, hy, hch, hfl⟩ := hr
  have hholds : Stated.Holds fp32 2 ((2 : ℝ) ^ k) := by
    obtain ⟨n, hn⟩ : ∃ n : Nat, k + 127 = n := ⟨(k + 127).toNat, by omega⟩
    have hb := holds_bits (i := 0) (k := n) (by norm_num) (by omega) (by omega)
    have hcast : ((2 ^ 23 + 0 : Nat) : ℝ) = (2 : ℝ) ^ (23 : Int) := by norm_num
    rwa [hcast, ← zpow_add₀ (by norm_num), show (23 : Int) + (n - 150) = k by omega] at hb
  have hle := hch.2.1 _ hholds
  rw [sub_self, abs_zero, abs_nonpos_iff, sub_eq_zero] at hle
  rw [hy, ← hle, hfl, if_pos hle]
  exact ⟨rfl, rfl⟩

theorem vfexp2_whole {c : Nat} {k : Int} (hk : -126 ≤ k) (hk' : k ≤ 127) (hx : Stated.finite (f32 c) = some (k : ℝ)) :
    Stated.finite (fp32.decode 2 (vfexp2 c).1) = some ((2 : ℝ) ^ k) ∧ (vfexp2 c).2 = 0 := by
  have h1 : (-126 : ℝ) ≤ k := by exact_mod_cast hk
  have h2 : (k : ℝ) ≤ 127 := by exact_mod_cast hk'
  obtain ⟨j, hj, m, hm, hs⟩ := (vfexp2_finite hx).2.2 (by linarith) (by linarith)
  have hfloor : ⌊(k : ℝ) * 64⌋ = k * 64 := by
    rw [show (k : ℝ) * 64 = ((k * 64 : Int) : ℝ) by push_cast; rfl, Int.floor_intCast]
  rw [hfloor] at hm hs
  obtain rfl : j = 0 := by omega
  obtain rfl : m = k := by omega
  push_cast at hs
  rw [mul_div_cancel_right₀ _ (by norm_num), sub_self] at hs
  exact expSteps_whole hk hk' hs

/-- Codes that are not finite. -/
theorem vfexp2_inf {c : Nat} {neg : Bool} (h : f32 c = .inf neg) : vfexp2 c = (if neg then 0 else 0x7F800000, 0) := by
  unfold vfexp2
  rw [h]

theorem vfexp2_nan {c : Nat} {sig : Bool} (h : f32 c = .nan sig) : vfexp2 c = (0x7FC00000, if sig then flagNV else 0) := by
  unfold vfexp2
  rw [h]

/-- A power of two is a code of FP32, with flags of R89. -/
theorem vfexp2_lt (c : Nat) : (vfexp2 c).1 < 2 ^ 32 ∧ (vfexp2 c).2 < 64 := by
  cases hv : f32 c with
  | nan sig =>
    rw [vfexp2_nan hv]
    cases sig <;> decide
  | inf neg =>
    rw [vfexp2_inf hv]
    cases neg <;> decide
  | fin neg m e =>
    obtain ⟨hhi, hlo, hmid⟩ := vfexp2_finite (hv ▸ finite_fin neg m e)
    generalize withSign neg (m * (2 : ℝ) ^ e) = x at hhi hlo hmid
    rcases lt_or_ge x (-160) with h1 | h1
    · rw [hlo h1]
      decide
    rcases lt_or_ge x 128 with h2 | h2
    · obtain ⟨_, -, _, -, a1, a2, a3, a4, a5, a6, t, b, -, -, -, -, -, -, -, -, hc, -, y, -, -, hfl⟩ := hmid h1 h2
      refine ⟨hc, ?_⟩
      rw [hfl]
      split_ifs <;> decide
    · rw [hhi h2]
      decide

/-- VFEXP2 that issues is of FP32. -/
theorem sew_of_vfexp2 {o : OpV1} {s : State} (hissues : Stated.issues (.vfexp2 o) s) : fmtBits o.sew = 32 := by
  obtain ⟨op, hop, hb⟩ := hissues
  obtain rfl : opVfexp2 o = op := Option.some.inj hop
  obtain ⟨hbad, -⟩ := limits_of_legal (legal_of_issueBad hb).2
  have hsew : o.sew.val = 1 := by simpa [opVfexp2, elementOp] using hbad
  rw [fmtBits, hsew]
  decide +kernel

/-- What VFEXP2 of a code answers. -/
theorem vfexp2_answer (c : Nat) :
    let v := fp32.decode 2 c
    let r := vfexp2 c
    (∀ k : Int, -126 ≤ k → k ≤ 127 → Stated.finite v = some (k : ℝ) → Stated.finite (fp32.decode 2 r.1) = some ((2 : ℝ) ^ k) ∧ r.2 = 0)
    ∧ (v = .inf false → r.1 = 0x7F800000 ∧ r.2 = 0) ∧ (v = .inf true → r.1 = 0 ∧ r.2 = 0)
    ∧ (Stated.number v = none → r.1 = 0x7FC00000 ∧ (r.2 = 16 ↔ Stated.signals v)) := by
  intro v r
  refine ⟨fun k hk hk' hx => vfexp2_whole hk hk' hx, fun h => ?_, fun h => ?_, fun h => ?_⟩
  · simp [r, vfexp2_inf h]
  · simp [r, vfexp2_inf h]
  · cases hv : v with
    | nan sig => cases sig <;> simp [r, vfexp2_nan hv, Stated.signals, flagNV]
    | inf neg => simp [hv, Stated.number] at h
    | fin neg m e => simp [hv, Stated.number] at h

/-- Powers of two (R98, R99, R163). -/
theorem vectorExp2 : Stated.VectorExp2 := by
  intro o s hi hissues
  have hw := sew_of_vfexp2 hissues
  obtain ⟨t, ht, hres⟩ := plain_performed (i := .vfexp2 o) (w := fmtBits o.sew) (srcs := [(o.s1, fmtBits o.sew)])
    (out := fun i => vfexp2 (s.hart.ep.elem o.s1.val (fmtBits o.sew) i)) 0 rfl rfl hi hissues (by rw [hw]; decide) (by rw [hw]; decide) (by simp)
    (fun e' j _ hsrc _ _ => congrArg vfexp2 (hsrc _ (List.mem_cons_self ..))) fun j => by
      rw [hw]
      exact vfexp2_lt _
  rw [hw] at hres
  refine ⟨t, _, _, ht, hres.only, hres.written, hres.accrued, fun i => ?_⟩
  rw [element_eq_elem]
  obtain ⟨hwhole, hpos, hneg, hnan⟩ := vfexp2_answer (s.hart.ep.elem o.s1.val 32 i)
  refine ⟨hwhole, fun x hx => ?_, hpos, hneg, hnan⟩
  obtain ⟨hhi, hlo, hmid⟩ := vfexp2_finite hx
  refine ⟨fun h => ?_, fun h => ?_, fun h1 h2 => ?_⟩
  · simp [hhi h]
  · simp [hlo h]
  · obtain ⟨j, hj, m, hm, a1, a2, a3, a4, a5, a6, t, b, hsteps⟩ := hmid h1 h2
    exact ⟨j, m, a1, a2, a3, a4, a5, a6, t, b, hj, hm, hsteps⟩

end Sys2Proof.Machine

/-! SUPPORT. Reductions: the model's tree over a list of leaves is the tree of R97 over an indexed family (R92, R97, R169). -/

namespace Sys2Proof.Machine

/-! ### One node -/

/-- A node's operation `op`, told its draw, is `f`, told the state of the generator; both stay within `w` bits. -/
structure Node (op : Nat → Nat → Nat → Nat × Nat) (rm : Nat) (f : BitVec 32 → Nat → Nat → Nat × Nat) (w : Nat) : Prop where
  eq : ∀ gen x y, x < 2 ^ w → y < 2 ^ w → op (if rm = 4 then (Stated.nextDraw gen).toNat else 0) x y = f gen x y
  lt : ∀ gen x y, x < 2 ^ w → y < 2 ^ w → (f gen x y).1 < 2 ^ w ∧ (f gen x y).2 < 64

/-- What the model carries through the tree is what the statement carries: generators and flags. -/
structure Carries (c0 : Scalar) (c : Scalar × Nat) (c' : Stated.Carried) : Prop where
  rest : c.1 = { c0 with gens := c.1.gens }
  gens : ∀ g (h : g < 257), c.1.gens[g] = c'.1 g
  flags : c.2 = c'.2
  lt : c.2 < 64

/-- An operand that is absent or of `w` bits. -/
def Fits (w : Nat) (a : Option Nat) : Prop := ∀ x ∈ a, x < 2 ^ w

theorem laneDraw_eq (c : Scalar) (rm : Nat) {g : Nat} (hg : g < 257) :
    c.laneDraw rm g = ({ c with gens := if rm = 4 then c.gens.set g (Stated.nextDraw c.gens[g]) else c.gens },
      if rm = 4 then (Stated.nextDraw c.gens[g]).toNat else 0) := by
  by_cases h : rm = 4
  · subst h
    rw [laneDraw_four c hg, if_pos rfl, if_pos rfl]
  · rw [laneDraw_other c g h, if_neg h, if_neg h]

section Tree

variable {op : Nat → Nat → Nat → Nat × Nat} {rm w : Nat} {f : BitVec 32 → Nat → Nat → Nat × Nat} {c0 : Scalar}

theorem combine_eq (hn : Node op rm f w) {g : Nat} (hg : g < 257) {a b : Option Nat} (ha : Fits w a) (hb : Fits w b) {c : Scalar × Nat}
    {c' : Stated.Carried} (hc : Carries c0 c c') :
    (combine op rm g a b c).1 = (Stated.combined f (rm == 4) g a b c').1
    ∧ Carries c0 (combine op rm g a b c).2 (Stated.combined f (rm == 4) g a b c').2 ∧ Fits w (Stated.combined f (rm == 4) g a b c').1 := by
  cases a with
  | none => exact ⟨rfl, hc, hb⟩
  | some x => cases b with
    | none => exact ⟨rfl, hc, ha⟩
    | some y =>
      have hx := ha x rfl
      have hy := hb y rfl
      obtain ⟨hlt, hfl⟩ := hn.lt (c'.1 g) x y hx hy
      have hop := hn.eq (c'.1 g) x y hx hy
      simp only [combine, Stated.combined]
      rw [laneDraw_eq c.1 rm hg, hc.gens g hg]
      simp only [hop]
      refine ⟨trivial, ⟨?_, fun k hk => ?_, ?_, ?_⟩, fun z hz => ?_⟩
      · conv_lhs => rw [hc.rest]
      · by_cases h4 : rm = 4
        · simp only [h4, if_true, beq_self_eq_true, Vector.getElem_set, Function.update_apply]
          by_cases hk' : g = k
          · rw [if_pos hk', if_pos hk'.symm]
          · rw [if_neg hk', if_neg (Ne.symm hk'), hc.gens k hk]
        · simp only [h4, if_false, beq_iff_eq]
          exact hc.gens k hk
      · rw [hc.flags]
      · exact Nat.or_lt_two_pow (n := 6) hc.lt hfl
      · obtain rfl := Option.mem_some_iff.1 hz
        exact hlt

/-- What a level leaves of a node. -/
abbrev levelNode (f : BitVec 32 → Nat → Nat → Nat × Nat) (draws : Bool) (lane : Nat → Nat) (half : Nat) (leaf : Nat → Option Nat) (c : Stated.Carried) (i : Nat) :
    Option Nat := (Stated.combined f draws (lane i) (leaf i) (leaf (i + half)) (Stated.levelTo f draws lane half leaf c i)).1

theorem treeLevel_eq (hn : Node op rm f w) {lane : Nat → Nat} (hlane : ∀ i, lane i < 257) {half : Nat} {leaf : Nat → Option Nat}
    (hleaf : ∀ i, Fits w (leaf i)) (c1 : Stated.Carried) : ∀ (n i : Nat) (c : Scalar × Nat),
    Carries c0 c (Stated.levelTo f (rm == 4) lane half leaf c1 i) →
    ∃ c', treeLevel op rm lane i ((List.range' i n).map leaf) ((List.range' i n).map fun j => leaf (j + half)) c
        = ((List.range' i n).map (levelNode f (rm == 4) lane half leaf c1), c')
      ∧ Carries c0 c' (Stated.levelTo f (rm == 4) lane half leaf c1 (i + n))
  | 0, i, c, hc => ⟨c, rfl, hc⟩
  | n + 1, i, c, hc => by
    obtain ⟨h1, h2, -⟩ := combine_eq hn (hlane i) (hleaf i) (hleaf (i + half)) hc
    obtain ⟨c', h3, h4⟩ := treeLevel_eq hn hlane hleaf c1 n (i + 1) _ h2
    refine ⟨c', ?_, ?_⟩
    · simp only [List.range'_succ, List.map_cons, treeLevel, h3, h1]
    · rwa [Nat.add_right_comm] at h4

theorem fits_levelNode (hn : Node op rm f w) {lane : Nat → Nat} {half : Nat} {leaf : Nat → Option Nat} (hleaf : ∀ i, Fits w (leaf i)) (c1 : Stated.Carried)
    (i : Nat) : Fits w (levelNode f (rm == 4) lane half leaf c1 i) := by
  unfold levelNode Stated.combined
  split
  · exact hleaf _
  · exact hleaf _
  · next x y hx hy =>
    intro z hz
    obtain rfl := Option.mem_some_iff.1 hz
    exact (hn.lt _ x y (hleaf i x hx) (hleaf _ y hy)).1

/-- The model's tree is the tree of R97. -/
theorem reduceTree_eq (hn : Node op rm f w) {lane : Nat → Nat} (hlane : ∀ i, lane i < 257) : ∀ (k : Nat) {leaf : Nat → Option Nat},
    (∀ i, Fits w (leaf i)) → ∀ {c : Scalar × Nat} {c1 : Stated.Carried}, Carries c0 c c1 →
    (reduceTree op rm lane k ((List.range (2 ^ k)).map leaf) c).1 = (Stated.treeOf f (rm == 4) lane k leaf c1).1
    ∧ Carries c0 (reduceTree op rm lane k ((List.range (2 ^ k)).map leaf) c).2 (Stated.treeOf f (rm == 4) lane k leaf c1).2
    ∧ Fits w (Stated.treeOf f (rm == 4) lane k leaf c1).1
  | 0, leaf, hleaf, c, c1, hc => ⟨rfl, hc, hleaf 0⟩
  | k + 1, leaf, hleaf, c, c1, hc => by
    obtain ⟨c', hlevel, hc'⟩ := treeLevel_eq hn hlane (half := 2 ^ k) hleaf c1 (2 ^ k) 0 c hc
    have htake : ((List.range (2 ^ (k + 1))).map leaf).take (2 ^ k) = (List.range' 0 (2 ^ k)).map leaf := by
      rw [← List.map_take, List.take_range, List.range_eq_range', min_eq_left (Nat.pow_le_pow_right two_pos (Nat.le_succ k))]
    have hdrop : ((List.range (2 ^ (k + 1))).map leaf).drop (2 ^ k) = (List.range' 0 (2 ^ k)).map fun j => leaf (j + 2 ^ k) := by
      have hshift : List.range' (2 ^ k) (2 ^ k) = (List.range' 0 (2 ^ k)).map (2 ^ k + ·) := by rw [List.map_add_range', add_zero]
      rw [← List.map_drop, List.range_eq_range', List.drop_range', pow_succ, mul_two, Nat.add_sub_cancel, mul_one, zero_add, hshift, List.map_map]
      exact List.map_congr_left fun j _ => congrArg leaf (Nat.add_comm ..)
    rw [reduceTree, htake, hdrop, hlevel, ← List.range_eq_range']
    rw [zero_add] at hc'
    exact reduceTree_eq hn hlane k (fits_levelNode hn hleaf c1) hc'

end Tree

end Sys2Proof.Machine

namespace Sys2Proof.Machine

/-! ### What a reduction writes -/

/-- Element 0 replaced, the tail zeroed where the policy asks, and flags accrued. -/
def Exec.reduced (e : Exec) (tz : Bool) (d w v fl : Nat) : Exec :=
  (if tz then (e.setElem d w 0 v).zeroFrom d w 1 1 else e.setElem d w 0 v).accrue fl

theorem reduced_spec (e : Exec) (tz : Bool) {d w v fl : Nat} (hw : w ∣ 1024) (hm : 0 < e.mvl w) (hd : d < 32) (hv : v < 2 ^ w) (hfl : fl < 64) :
    e.SameRest (e.reduced tz d w v fl) ∧ (e.reduced tz d w v fl).vstat = e.vstat ||| BitVec.ofNat 8 fl
    ∧ (e.reduced tz d w v fl).elem d w 0 = v
    ∧ (∀ i, 1 ≤ i → i < e.mvl w → (e.reduced tz d w v fl).elem d w i = if tz = true then 0 else e.elem d w i)
    ∧ ∀ k, k ≠ d → (e.reduced tz d w v fl).vreg k = e.vreg k := by
  have hset : ∀ j, (e.setElem d w 0 v).elem d w j = if j = 0 then v else e.elem d w j := fun j => by
    rw [elem_setElem e (n := 1) v hw (by omega) (by omega), Nat.mod_eq_of_lt hv]
  have hrest := sameRest_setElem e d w 0 v
  have hother : ∀ k, k ≠ d → (e.setElem d w 0 v).vreg k = e.vreg k := fun k hk => vreg_setElem_other e v (by rwa [Nat.zero_div, add_zero])
  have hstat : (e.setElem d w 0 v).vstat ||| BitVec.ofNat 8 (fl % 64) = e.vstat ||| BitVec.ofNat 8 fl := by rw [vstat_setElem, Nat.mod_eq_of_lt hfl]
  cases tz with
  | false =>
    refine ⟨hrest.trans (sameRest_accrue ..), hstat, (hset 0).trans (if_pos rfl), fun i h1 _ => ?_, hother⟩
    exact (hset i).trans (if_neg (by omega))
  | true =>
    obtain ⟨h1, h2, h3, h4⟩ := zeroFrom_spec (e.setElem d w 0 v) d w 1 hw (Nat.pos_of_dvd_of_pos hw (by norm_num)) 1 (by omega)
    have hmvl := hrest.mvl w
    refine ⟨(hrest.trans h1).trans (sameRest_accrue ..), ?_, ?_, fun i hi hi' => ?_, fun k hk => ?_⟩
    · rw [← hstat, ← h2]
      rfl
    · exact ((h4 0 (by omega)).trans (if_pos one_pos)).trans ((hset 0).trans (if_pos rfl))
    · exact ((h4 i (by omega)).trans (if_neg (by omega))).trans (if_pos rfl).symm
    · exact (h3 k (by omega)).trans (hother k hk)

/-- The depth of the tree over `n` leaves. -/
theorem log2Up_eq {n k : Nat} (hle : n ≤ 2 ^ k) (hlt : k = 0 ∨ 2 ^ (k - 1) < n) : log2Up n = k := by
  unfold log2Up
  split
  · next h => exact (hlt.resolve_right (by have := Nat.one_le_two_pow (n := k - 1); omega)).symm
  · next h =>
    obtain ⟨j, rfl⟩ := Nat.exists_eq_succ_of_ne_zero (show k ≠ 0 by rintro rfl; simp at hle; omega)
    have hlt := hlt.resolve_left (Nat.succ_ne_zero j)
    rw [Nat.succ_sub_one] at hlt
    have hlog : Nat.log2 (n - 1) = j := (Nat.log2_eq_iff (by omega)).2 ⟨by omega, by omega⟩
    rw [hlog]

/-! ### A reduction that issues (R97, R169) -/

/-- The leaves of the tree: the active elements. -/
def reductionLeaf (s : State) (o : OpV) (w i : Nat) : Option Nat :=
  if i < s.hart.ep.vl ∧ Stated.isActive s o.pm.val i = true then some (Stated.element s.hart.ep o.s1.val w i) else none

theorem fits_reductionLeaf (s : State) (o : OpV) (w i : Nat) : Fits w (reductionLeaf s o w i) := by
  unfold reductionLeaf
  intro x hx
  split_ifs at hx
  · obtain rfl := Option.mem_some_iff.1 hx
    rw [element_eq_elem]
    exact elem_lt ..
  · simp at hx

/-- The generators as the tree finds them. -/
def generators (s : State) (g : Nat) : BitVec 32 := if h : g < 257 then s.hart.sc.gens[g] else 0

/-- What the tree and the start value give, with what is carried past them. -/
def reduction (f : BitVec 32 → Nat → Nat → Nat × Nat) (draws : Bool) (s : State) (o : OpV) (w k : Nat) : Option Nat × Stated.Carried :=
  let tree := Stated.treeOf f draws (fun i => 1 + Stated.laneOf s.hart.ep w i) k (reductionLeaf s o w) (generators s, 0)
  Stated.combined f draws 1 (some (Stated.element s.hart.ep o.s2.val w 0)) tree.1 tree.2

/-- What a reduction leaves, in the words of statements. -/
structure Reduced (s t : State) (o : OpV) (w : Nat) (draws : Bool) (done : Option Nat × Stated.Carried) : Prop where
  executes : Stated.executes draws false s t
  value : Stated.element t.hart.ep o.d.val w 0 = done.1.getD 0
  vstat : t.hart.ep.vstat = s.hart.ep.vstat ||| BitVec.ofNat 8 done.2.2
  gens : ∀ g (h : g < 257), t.hart.sc.gens[g] = done.2.1 g
  tail : ∀ i, 1 ≤ i → i < Stated.perAt s.hart.ep w →
    Stated.element t.hart.ep o.d.val w i = if Stated.tzOf s = true then 0 else Stated.element s.hart.ep o.d.val w i
  others : ∀ r : Fin 32, r ≠ o.d → t.hart.ep.v[r.val] = s.hart.ep.v[r.val]
  masks : t.hart.ep.m = s.hart.ep.m
  tiles : t.hart.ep.tiles = s.hart.ep.tiles

/-- The model's tree over leaves, and the start value's combination. -/
def modelReduction (op : Nat → Nat → Nat → Nat × Nat) (rm : Nat) (e : Exec) (c : Scalar) (leaf : Nat → Option Nat) (start w k : Nat) :
    Option Nat × Scalar × Nat :=
  let t := reduceTree op rm (laneGen e w) k ((List.range (2 ^ k)).map leaf) (c, 0)
  combine op rm 1 (some start) t.1 t.2

/-- A reduction's run. -/
theorem reduceOp_run {w : Nat} {o : OpV} {draws : Bool} {op : Nat → Nat → Nat → Nat → Nat × Nat} {q : QEntry} {s : State} (hvl : q.vl = s.hart.ep.vl)
    (h0 : s.hart.ep.vl ≠ 0) {k : Nat} (hk : log2Up s.hart.ep.vl = k) {leaf : Nat → Option Nat}
    (hleaf : ∀ i, (if i < q.vl && q.active s.hart.ep o.pm.val i then some (s.hart.ep.elem o.s1.val w i) else none) = leaf i) :
    let r := modelReduction (op q.frm) (if draws then q.frm else 0) s.hart.ep s.hart.sc leaf (s.hart.ep.elem o.s2.val w 0) w k
    (reduceOp w o draws op).run q s.hart.ep.vl s = s.halves (s.hart.ep.reduced q.tz o.d.val w (r.1.getD 0) r.2.2) r.2.1 := by
  have hl := funext hleaf
  subst hk hl
  simp only [reduceOp]
  rw [hvl, if_neg h0]
  rfl

/-- What the model's tree gives and carries is what the statement's does. -/
theorem reduction_eq {s : State} {o : OpV} {w rm : Nat} {op : Nat → Nat → Nat → Nat × Nat} {f : BitVec 32 → Nat → Nat → Nat × Nat}
    (hn : Node op rm f w) (hw : w ∣ 1024) (h8 : 8 ∣ w) (hm : 0 < s.hart.ep.mvl w) (k : Nat) :
    let r := modelReduction op rm s.hart.ep s.hart.sc (reductionLeaf s o w) (s.hart.ep.elem o.s2.val w 0) w k
    let done := reduction f (rm == 4) s o w k
    r.1 = done.1 ∧ Carries s.hart.sc r.2 done.2 ∧ Fits w done.1 := by
  intro r done
  have hstart : Carries s.hart.sc (s.hart.sc, 0) (generators s, 0) := ⟨rfl, fun g h => (dif_pos h).symm, rfl, by norm_num⟩
  have hlanes : laneGen s.hart.ep w = fun i => 1 + Stated.laneOf s.hart.ep w i := funext fun i => laneGen_eq s.hart.ep h8 i
  have hlane : ∀ i, 1 + Stated.laneOf s.hart.ep w i < 257 := fun i => by
    rw [← laneGen_eq s.hart.ep h8]
    exact (laneGen_bounds s.hart.ep i hw hm).2
  obtain ⟨h1, h2, h3⟩ := reduceTree_eq hn hlane k (fits_reductionLeaf s o w) hstart
  rw [← hlanes] at h1 h2 h3
  have hfirst : Fits w (some (s.hart.ep.elem o.s2.val w 0)) := fun x hx => by
    obtain rfl := Option.mem_some_iff.1 hx
    exact elem_lt ..
  have hdone : done = Stated.combined f (rm == 4) 1 (some (s.hart.ep.elem o.s2.val w 0))
      (Stated.treeOf f (rm == 4) (laneGen s.hart.ep w) k (reductionLeaf s o w) (generators s, 0)).1
      (Stated.treeOf f (rm == 4) (laneGen s.hart.ep w) k (reductionLeaf s o w) (generators s, 0)).2 := by
    rw [← element_eq_elem, hlanes]
    rfl
  rw [hdone, ← h1]
  exact combine_eq hn (by norm_num) hfirst (h1 ▸ h3) h2

theorem combined_some (f : BitVec 32 → Nat → Nat → Nat × Nat) (draws : Bool) (g a : Nat) (b : Option Nat) (c : Stated.Carried) :
    ∃ x, (Stated.combined f draws g (some a) b c).1 = some x := by
  cases b
  · exact ⟨_, rfl⟩
  · exact ⟨_, rfl⟩

/-! ### A reduction that draws nothing moves no generator -/

theorem combined_gens (f : BitVec 32 → Nat → Nat → Nat × Nat) (g : Nat) (a b : Option Nat) (c : Stated.Carried) :
    (Stated.combined f false g a b c).2.1 = c.1 := by
  cases a
  · rfl
  · cases b <;> rfl

theorem levelTo_gens (f : BitVec 32 → Nat → Nat → Nat × Nat) (lane : Nat → Nat) (half : Nat) (leaf : Nat → Option Nat) (c : Stated.Carried) :
    ∀ n, (Stated.levelTo f false lane half leaf c n).1 = c.1
  | 0 => rfl
  | n + 1 => (combined_gens ..).trans (levelTo_gens f lane half leaf c n)

theorem treeOf_gens (f : BitVec 32 → Nat → Nat → Nat × Nat) (lane : Nat → Nat) : ∀ (k : Nat) (leaf : Nat → Option Nat) (c : Stated.Carried),
    (Stated.treeOf f false lane k leaf c).2.1 = c.1
  | 0, _, _ => rfl
  | k + 1, leaf, c => (treeOf_gens f lane k _ _).trans (levelTo_gens f lane (2 ^ k) leaf c (2 ^ k))

theorem reduction_gens (f : BitVec 32 → Nat → Nat → Nat × Nat) (s : State) (o : OpV) (w k : Nat) :
    (reduction f false s o w k).2.1 = generators s := (combined_gens ..).trans (treeOf_gens ..)

theorem reduceOp_performed {s : State} {i : Instr} {o : OpV} {w rm : Nat} {draws : Bool} {op : Nat → Nat → Nat → Nat → Nat × Nat}
    {f : BitVec 32 → Nat → Nat → Nat × Nat} (hi : Stated.idle s) (hop : vopOf i = some (reduceOp w o draws op)) (hissues : Stated.issues i s)
    (h0 : s.hart.ep.vl ≠ 0) (hw : w ∣ 1024) (h8 : 8 ∣ w) (hrm : rm = if draws then (s.hart.ep.vcfg >>> 5).toNat else 0)
    (hn : Node (op (s.hart.ep.vcfg >>> 5).toNat) rm f w) {k : Nat} (hle : s.hart.ep.vl ≤ 2 ^ k) (hlt : k = 0 ∨ 2 ^ (k - 1) < s.hart.ep.vl) :
    ∃ t, dispatch i (reduceOp w o draws op) 0 0 s = .next t ∧ Reduced s t o w (rm == 4) (reduction f (rm == 4) s o w k) := by
  obtain ⟨op', hop', hb⟩ := hissues
  obtain rfl : reduceOp w o draws op = op' := Option.some.inj (hop.symm.trans hop')
  have hcap : s.hart.ep.vl ≤ s.hart.ep.g * s.hart.ep.mvl w := (limits_of_legal (legal_of_issueBad hb).2).2 _ rfl
  have hm : 0 < s.hart.ep.mvl w := mvl_pos_of_lt ((Nat.pos_of_ne_zero h0).trans_le hcap)
  rw [dispatch_idle 0 0 hi hop hb]
  have hwhole : (reduceOp w o draws op).whole = true := rfl
  rw [hwhole]
  have hleaf : ∀ j, (if j < (s.entry i true 0 0).vl && (s.entry i true 0 0).active s.hart.ep o.pm.val j then some (s.hart.ep.elem o.s1.val w j) else none)
      = reductionLeaf s o w j := fun j => by
    rw [entry_active, reductionLeaf, element_eq_elem]
    simp only [Bool.and_eq_true, decide_eq_true_eq]
    rfl
  have hrun := reduceOp_run (w := w) (o := o) (draws := draws) (op := op) (q := s.entry i true 0 0) (s := s.taken (s.entry i true 0 0)) rfl h0
    (log2Up_eq hle hlt) hleaf
  rw [entry_frm, ← hrm] at hrun
  obtain ⟨h1, h2, h3⟩ := reduction_eq (o := o) hn hw h8 hm k
  obtain ⟨x, hx⟩ : ∃ x, (reduction f (rm == 4) s o w k).1 = some x := combined_some ..
  have hr : modelReduction (op (s.hart.ep.vcfg >>> 5).toNat) rm (s.taken (s.entry i true 0 0)).hart.ep (s.taken (s.entry i true 0 0)).hart.sc
      (reductionLeaf s o w) ((s.taken (s.entry i true 0 0)).hart.ep.elem o.s2.val w 0) w k
      = modelReduction (op (s.hart.ep.vcfg >>> 5).toNat) rm s.hart.ep s.hart.sc (reductionLeaf s o w) (s.hart.ep.elem o.s2.val w 0) w k := rfl
  simp only [hr] at hrun
  have hgens := reduction_gens f s o w k
  generalize modelReduction (op (s.hart.ep.vcfg >>> 5).toNat) rm s.hart.ep s.hart.sc (reductionLeaf s o w) (s.hart.ep.elem o.s2.val w 0) w k = r
    at hrun h1 h2
  obtain ⟨hrest, hstat, hval, htail, hother⟩ := reduced_spec (s.hart.ep.takePi (s.entry i true 0 0)) (Stated.tzOf s) hw hm o.d.isLt (h3 x hx)
    (h2.flags ▸ h2.lt)
  have hmodel : (s.hart.ep.takePi (s.entry i true 0 0)).reduced (Stated.tzOf s) o.d.val w (r.1.getD 0) r.2.2
      = (s.hart.ep.takePi (s.entry i true 0 0)).reduced (Stated.tzOf s) o.d.val w x (reduction f (rm == 4) s o w k).2.2 := by
    rw [h1, hx, h2.flags, Option.getD_some]
  refine ⟨_, rfl, ?_⟩
  rw [show (reduceOp w o draws op).run (s.entry i true 0 0) s.hart.ep.vl (s.taken (s.entry i true 0 0)) = _ from hrun]
  rw [show (s.taken (s.entry i true 0 0)).hart.ep.reduced (s.entry i true 0 0).tz o.d.val w (r.1.getD 0) r.2.2 = _ from hmodel]
  generalize (s.hart.ep.takePi (s.entry i true 0 0)).reduced (Stated.tzOf s) o.d.val w x (reduction f (rm == 4) s o w k).2.2 = e at hrest hstat hval htail hother
  have hmasks : e.m = s.hart.ep.m := by rw [hrest]; rfl
  have htiles : e.tiles = s.hart.ep.tiles := by rw [hrest]; rfl
  have he : e = { (s.hart.ep.takePi (s.entry i true 0 0)) with v := e.v, m := e.m, tiles := e.tiles, vstat := e.vstat } := by
    rw [hmasks, htiles]
    exact hrest
  have hstill : (rm == 4) = false → r.2.1.gens = s.hart.sc.gens := fun hd => Vector.ext fun g hg => by
    rw [h2.gens g hg, hd, hgens]
    exact dif_pos hg
  exact {
    executes := executes_of_run he h2.rest hstill
    value := by
      rw [hx, Option.getD_some, ← hval]
      exact element_eq_elem ..
    vstat := hstat
    gens := h2.gens
    tail := fun j h1 hj => by
      rw [perAt_eq_mvl] at hj
      rw [element_eq_elem, element_eq_elem]
      exact htail j h1 hj
    others := fun k hk => by
      have := hother k.val fun h => hk (Fin.ext h)
      simp only [Exec.vreg, k.isLt, dif_pos] at this
      exact this
    masks := hmasks
    tiles := htiles }

end Sys2Proof.Machine

namespace Sys2Proof.Machine

/-! ### VREDFSUM and VREDFMAX -/

/-- The model's node of VREDFSUM, told mode and draw. -/
def sumOp (f : Fmt) (rm dr a b : Nat) : Nat × Nat := f.deliver 2 rm dr (addReal rm (f.decode 2 a) (f.decode 2 b))

/-- The model's node of VREDFMAX. -/
def maxOp (f : Fmt) (_ _ a b : Nat) : Nat × Nat := f.minmax true a b

theorem vopOf_vredfsum (o : OpV) : vopOf (.vredfsum o) = some (reduceOp (fmtOf o.sew.val).width o true (sumOp (fmtOf o.sew.val))) := rfl
theorem vopOf_vredfmax (o : OpV) : vopOf (.vredfmax o) = some (reduceOp (fmtOf o.sew.val).width o false (maxOp (fmtOf o.sew.val))) := rfl

/-- A node of VREDFSUM, told the state of its generator. -/
def sumNode (f : Fmt) (rm : Nat) (gen : BitVec 32) (a b : Nat) : Nat × Nat :=
  fpApply (fun m a b _ => addReal m a b) f rm (if rm = 4 then (Stated.nextDraw gen).toNat else 0) (a % 2 ^ f.width) (b % 2 ^ f.width) 0

/-- A node of VREDFMAX. -/
def maxNode (f : Fmt) (_ : BitVec 32) (a b : Nat) : Nat × Nat := f.minmax true (a % 2 ^ f.width) (b % 2 ^ f.width)

theorem node_sum (code rm : Nat) :
    Node (sumOp (fmtOf code) rm) rm (sumNode (fmtOf code) rm) (fmtOf code).width where
  eq gen x y hx hy := by
    rw [sumNode, Nat.mod_eq_of_lt hx, Nat.mod_eq_of_lt hy]
    rfl
  lt gen x y _ _ := fpApply_lt ..

theorem node_max (code rm : Nat) : Node (maxOp (fmtOf code) rm) 0 (maxNode (fmtOf code)) (fmtOf code).width where
  eq gen x y hx hy := by rw [maxOp, maxNode, Nat.mod_eq_of_lt hx, Nat.mod_eq_of_lt hy]
  lt gen x y hx hy := by
    rw [maxNode, Nat.mod_eq_of_lt hx, Nat.mod_eq_of_lt hy]
    obtain ⟨h1, h2⟩ := minmax_lt (proper_fmtOf code) true hx hy
    exact ⟨h1, h2.trans (by norm_num)⟩

theorem sumNode_answers {sew : Fin 4} {rm : Fin 8} (hrm : rm.val ≤ 4) (a b : Nat) (g : BitVec 32) :
    let v := sumNode (fmtOf sew.val) rm.val g a b
    Stated.scalarDrawAnswer (.fadd ⟨3, 1, 2, sew, rm⟩) a b 0 g v.1 v.2 :=
  scalarDrawAnswer_of_deliver (k := fun m a b _ => addReal m a b) hrm (fun _ => rfl) a b 0 g

theorem maxNode_answers (sew : Fin 4) (a b : Nat) (g : BitVec 32) :
    let v := maxNode (fmtOf sew.val) g a b
    Stated.scalarDrawAnswer (.fmax ⟨3, 1, 2, sew⟩) a b 0 g v.1 v.2 := scalarDrawAnswer_of_minmax (fun _ => rfl) a b 0 g

/-- Reductions (R92, R97, R169). -/
theorem vectorFpReductions : Stated.VectorFpReductions := by
  intro o s hi h0 rm hmode hrm w lane gens start leaf k hle hlt row hrow hissues
  obtain ⟨hw, h8, -⟩ := width_dvd o.sew.val
  have hwidth : w = (fmtOf o.sew.val).width := fpWidth_eq o.sew
  simp only [List.mem_cons, List.not_mem_nil, or_false] at hrow
  rcases hrow with rfl | rfl
  · have hn : Node (sumOp (fmtOf o.sew.val) (s.hart.ep.vcfg >>> 5).toNat) rm.val (sumNode (fmtOf o.sew.val) rm.val) (fmtOf o.sew.val).width := by
      rw [← hmode]
      exact node_sum ..
    obtain ⟨t, ht, hres⟩ := reduceOp_performed hi (vopOf_vredfsum o) hissues h0 hw h8 (hmode.trans (if_pos rfl).symm) hn hle hlt
    rw [← hwidth] at hres
    exact ⟨t, _, ht, hres.executes, fun a b g => sumNode_answers hrm a b g, ⟨hres.value, hres.vstat, hres.gens⟩, hres.tail, hres.others, hres.masks,
      hres.tiles⟩
  · obtain ⟨t, ht, hres⟩ := reduceOp_performed hi (vopOf_vredfmax o) hissues h0 hw h8 rfl (node_max o.sew.val _) hle hlt
    rw [← hwidth] at hres
    exact ⟨t, _, ht, hres.executes, fun a b g => maxNode_answers o.sew a b g, ⟨hres.value, hres.vstat, hres.gens⟩, hres.tail, hres.others, hres.masks,
      hres.tiles⟩

/-- Settles O20, from the elements of the rows, their draws, the conversions, the powers of two and the reductions. -/
theorem vectorFpElementsAreScalarResults : Obligations.VectorFpElementsAreScalarResults :=
  ⟨vectorFpElements, vectorFpStochastic, vectorConversions, vectorExp2, vectorFpReductions⟩

end Sys2Proof.Machine

/-! SUPPORT. A Strelvis command whose flags have a bit that VSTAT does not have (R152, R313). -/

namespace Sys2Proof.Machine

/-- A BKOP of hart 0 of the context at work, all of whose parts are complete; of its eight bits of flags bit 6 is set, which is none of the six
flags of R152. -/
def strayCommand : BkCmd :=
  ⟨State.reset.withHart.hart.owner, State.reset.withHart.hart.loc, 1, 0, kindBkop, [], some 0, 0, 1, [], 0x40, 0, [], none⟩

/-- The hart that issued it executes, and the units' next event is the command's completion. -/
def strayState : State := { State.reset.withHart with bks := [strayCommand], input := ⟨0, 0, 0, []⟩ }

/-- VSTAT of a command's hart in a next state. -/
def vstatAfter (o : Owner) : Out → Option (BitVec 8)
  | .next t => (t.hartOf o).map (·.ep.vstat)
  | _ => none

/-- It is the completion's turn: no checks come first. -/
theorem strayState_turn : strayState.bks.filter strayState.bkCheckable = []
    ∧ strayState.bks.filter (fun c => (c.state == 1 || c.state == 4) && c.parts.isEmpty && strayState.ctxRuns c.owner.asid) = [strayCommand]
    ∧ (strayState.hartOf strayCommand.owner).map (·.ep.vstat) = some 0 := by decide +kernel

/-- The hart's VSTAT takes the six flags of R152, and so nothing of the command's. -/
theorem strayState_vstat : vstatAfter strayCommand.owner (exec .strelvisPart strayState) = some 0 := by decide +kernel

/-- Refutes O48: a command's flags have eight bits, of which a completion accrues the six that VSTAT has (R152), while the statement of
`StrelvisUnitsWork` has it accrue all eight. A BKOP whose flags are 0x40 leaves VSTAT 0. -/
theorem not_enginesWork : ¬ Obligations.EnginesWork := by
  unfold Obligations.EnginesWork Stated.StrelvisUnitsWork
  rintro ⟨-, ⟨-, hends, -⟩, -⟩
  obtain ⟨hchecks, hturn, hbefore⟩ := strayState_turn
  obtain ⟨h, hh, hzero⟩ := Option.map_eq_some_iff.1 hbefore
  obtain ⟨t, ht, -, -, -, hvstat⟩ := (hends strayState strayCommand [] rfl hchecks hturn (Option.isSome_of_eq_some hh)).1 (.inr (.inl (by decide)))
  obtain ⟨g, hg, hflags, -⟩ := hvstat h hh
  have hafter := strayState_vstat
  rw [ht, vstatAfter, hg, Option.map_some, Option.some.injEq, hflags, hzero] at hafter
  exact absurd hafter (by decide)

end Sys2Proof.Machine

/-! SUPPORT. A state in which two parties stand at one hart slot, of which YIELD marks both (R143). -/

namespace Sys2Proof.Machine

/-- Hart 0 of the context at work, and beside it a party of the same number: no statement of YIELD's excludes it. -/
def twinState : State := { State.reset.withHart with others := [State.reset.withHart.hart] }

/-- The hart may execute a configure word, and no hold lies on its core. -/
theorem configurable_twinState : Stated.configurable twinState ∧ twinState.higherHold twinState.hart = false := by decide +kernel

/-- YIELD offers the turn to the party at the hart's own number, and so marks the hart itself as passed over. -/
theorem twinState_skipped : twinState.hart.skipped = 0 ∧ twinState.offerTurn.hart.skipped = 60 := by decide +kernel

/-- YIELD on a hart of a core without a hold of higher priority offers the turn and retires. -/
theorem exec_yield_of_no_hold {s : State} (hc : s.hart.ctl = false) (hh : s.higherHold s.hart = false) :
    exec .yield s = .next s.offerTurn.retire := by
  show execYield s = _
  simp [execYield, hc, hh]

/-- Where YIELD leaves every other party as it was but for how often it has been passed over, the hart's own count stands too. -/
theorem skipped_of_passedOver {s u : State} (h : Stated.passedOver s u) : u.hart.skipped = s.hart.skipped := by
  obtain ⟨n, rfl⟩ := h
  rfl

/-- Refutes O17: the statement of YIELD holds of states in which another party has the hart's number, ready on its core. The turn is offered by
number, so that the hart itself is then marked as passed over 60 times, and `passedOver` has it unchanged. -/
theorem not_configurationWords : ¬ Obligations.ConfigurationWords := by
  unfold Obligations.ConfigurationWords Stated.YieldCompletes
  rintro ⟨-, -, hyield⟩
  obtain ⟨hconf, hhold⟩ := configurable_twinState
  obtain ⟨hbefore, hafter⟩ := twinState_skipped
  obtain ⟨-, u, hu, hpassed, -⟩ := (hyield twinState hconf).1 (by simp [hhold])
  rw [exec_yield_of_no_hold hconf.1 hhold] at hu
  cases hu
  have hskipped := skipped_of_passedOver hpassed
  change twinState.offerTurn.hart.skipped = twinState.hart.skipped at hskipped
  rw [hbefore, hafter] at hskipped
  exact absurd hskipped (by decide)

end Sys2Proof.Machine

/-! SUPPORT. What work at home leaves unchanged: the stores of the home itself, the write-backs of caches, and translation (R210, R211, R343). -/

namespace Sys2Proof.Machine

/-- `t` is `s` after work at home. Memory, the record of discarded frames, the pots' tables, TLBs, the collector, the caches and the other parties can
have changed; of the hart that executes, at most its scalar cache, and a monitor that is set can have fired. -/
structure HomeWork (s t : State) : Prop where
  rest : t = { s with
    mem := t.mem, discarded := t.discarded, potLines := t.potLines, potMaps := t.potMaps, ranges := t.ranges, potStacks := t.potStacks, msc := t.msc
    others := t.others, vdc := t.vdc, tlb := t.tlb, bigPages := t.bigPages, collector := t.collector, hart := t.hart }
  hart : t.hart = { s.hart with scache := t.hart.scache, sc := { s.hart.sc with monitor := t.hart.sc.monitor } }
  quiet : s.hart.sc.monitor = none → t.hart.sc.monitor = none

/-- Work of the home itself and of the pots, which touches no cache. -/
structure PotWork (s t : State) : Prop extends HomeWork s t where
  msc : t.msc = s.msc
  vdc : t.vdc = s.vdc
  scache : t.hart.scache = s.hart.scache
  collector : t.collector = s.collector

/-- Work of the home itself, which touches no cache and no pot's table. -/
structure StoreWork (s t : State) : Prop extends PotWork s t where
  potStacks : t.potStacks = s.potStacks
  potLines : t.potLines = s.potLines
  potMaps : t.potMaps = s.potMaps
  ranges : t.ranges = s.ranges

theorem HomeWork.refl (s : State) : HomeWork s s := ⟨rfl, rfl, id⟩

theorem HomeWork.trans {s t u : State} (h : HomeWork s t) (k : HomeWork t u) : HomeWork s u where
  rest := k.rest.trans (by rw [h.rest])
  hart := k.hart.trans (by rw [h.hart])
  quiet := fun q => k.quiet (h.quiet q)

theorem PotWork.refl (s : State) : PotWork s s := ⟨.refl s, rfl, rfl, rfl, rfl⟩

theorem PotWork.trans {s t u : State} (h : PotWork s t) (k : PotWork t u) : PotWork s u :=
  ⟨h.toHomeWork.trans k.toHomeWork, k.msc.trans h.msc, k.vdc.trans h.vdc, k.scache.trans h.scache, k.collector.trans h.collector⟩

theorem StoreWork.refl (s : State) : StoreWork s s := ⟨.refl s, rfl, rfl, rfl, rfl⟩

theorem StoreWork.trans {s t u : State} (h : StoreWork s t) (k : StoreWork t u) : StoreWork s u :=
  ⟨h.toPotWork.trans k.toPotWork, k.potStacks.trans h.potStacks, k.potLines.trans h.potLines, k.potMaps.trans h.potMaps, k.ranges.trans h.ranges⟩

/-- A fold of works at home. -/
theorem HomeWork.foldl {α : Type} {f : State → α → State} (h : ∀ s a, HomeWork s (f s a)) (l : List α) (s : State) : HomeWork s (l.foldl f s) := by
  induction l generalizing s with
  | nil => exact .refl s
  | cons a l ih => exact (h s a).trans (ih _)

theorem PotWork.foldl {α : Type} {f : State → α → State} (h : ∀ s a, PotWork s (f s a)) (l : List α) (s : State) : PotWork s (l.foldl f s) := by
  induction l generalizing s with
  | nil => exact .refl s
  | cons a l ih => exact (h s a).trans (ih _)

theorem StoreWork.foldl {α : Type} {f : State → α → State} (h : ∀ s a, StoreWork s (f s a)) (l : List α) (s : State) : StoreWork s (l.foldl f s) := by
  induction l generalizing s with
  | nil => exact .refl s
  | cons a l ih => exact (h s a).trans (ih _)

section
variable {s t : State} (h : HomeWork s t)
include h

theorem HomeWork.part : t.part = s.part := by rw [h.rest]
theorem HomeWork.contexts : t.contexts = s.contexts := by rw [h.rest]
theorem HomeWork.farms : t.farms = s.farms := by rw [h.rest]
theorem HomeWork.dies : t.dies = s.dies := by rw [h.rest]
theorem HomeWork.holders : t.holders = s.holders := by rw [h.rest]
theorem HomeWork.holds : t.holds = s.holds := by rw [h.rest]
theorem HomeWork.faults : t.faults = s.faults := by rw [h.rest]
theorem HomeWork.prompt : t.prompt = s.prompt := by rw [h.rest]
theorem HomeWork.potQueue : t.potQueue = s.potQueue := by rw [h.rest]
theorem HomeWork.copies : t.copies = s.copies := by rw [h.rest]
theorem HomeWork.bks : t.bks = s.bks := by rw [h.rest]
theorem HomeWork.ctl : t.hart.ctl = s.hart.ctl := by rw [h.hart]
theorem HomeWork.loc : t.hart.loc = s.hart.loc := by rw [h.hart]; rfl
theorem HomeWork.coreId : t.hart.coreId = s.hart.coreId := by rw [h.hart]; rfl
theorem HomeWork.asid : t.hart.asid = s.hart.asid := by rw [h.hart]
theorem HomeWork.farm : t.hart.farm = s.hart.farm := by rw [h.hart]
theorem HomeWork.status : t.hart.status = s.hart.status := by rw [h.hart]
theorem HomeWork.fcsr : t.hart.sc.fcsr = s.hart.sc.fcsr := by rw [h.hart]
theorem HomeWork.ep : t.hart.ep = s.hart.ep := by rw [h.hart]
theorem HomeWork.x : t.hart.sc.x = s.hart.sc.x := by rw [h.hart]
theorem HomeWork.pc : t.hart.sc.pc = s.hart.sc.pc := by rw [h.hart]
theorem HomeWork.instret : t.hart.sc.instret = s.hart.sc.instret := by rw [h.hart]
theorem HomeWork.die (k : Nat) : t.die k = s.die k := by unfold State.die; rw [h.dies]
theorem HomeWork.ctxOf (a : Nat) : t.ctxOf a = s.ctxOf a := by unfold State.ctxOf; rw [h.contexts]

end

/-- A set monitor fires; where none is set, nothing of the hart changes. -/
theorem PotWork.hart_of_quiet {s t : State} (h : PotWork s t) (q : s.hart.sc.monitor = none) : t.hart = s.hart := by
  rw [h.hart, h.scache, h.quiet q, ← q]

/-! ### Stores of the home -/

/-- A change of memory, of the record of discarded frames, of the TLBs or of the pots' tables alone. -/
theorem potWork_of_eq {s t : State} (rest : t = { s with
    mem := t.mem, discarded := t.discarded, potLines := t.potLines, potMaps := t.potMaps, ranges := t.ranges, potStacks := t.potStacks
    tlb := t.tlb, bigPages := t.bigPages }) : PotWork s t := by
  have hh : t.hart = s.hart := by rw [rest]
  refine ⟨⟨rest.trans ?_, ?_, ?_⟩, ?_, ?_, ?_, ?_⟩
  · rw [rest]
  · rw [hh]
  · rw [hh]; exact id
  · rw [rest]
  · rw [rest]
  · rw [hh]
  · rw [rest]

/-- A change of memory, of the record of discarded frames or of the TLBs alone. -/
theorem storeWork_of_eq {s t : State} (rest : t = { s with mem := t.mem, discarded := t.discarded, tlb := t.tlb, bigPages := t.bigPages }) :
    StoreWork s t := by
  refine ⟨potWork_of_eq (rest.trans ?_), ?_, ?_, ?_, ?_⟩ <;> rw [rest]

theorem storeWork_fire (s : State) (line : Nat) : StoreWork s (s.fire line) := by
  refine ⟨⟨⟨rfl, ?_, ?_⟩, rfl, rfl, ?_, rfl⟩, rfl, rfl, rfl, rfl⟩ <;> unfold State.fire State.mapHarts <;> dsimp only <;> split
  · split <;> rfl
  · rfl
  · next h => simp [h]
  · exact id
  · split <;> rfl
  · rfl

theorem storeWork_homeStore (s : State) (pa : Nat) (bs : List Byte) : StoreWork s (s.homeStore pa bs) := by
  have hw : StoreWork s { s with mem := Memory.writeN s.mem pa bs } := storeWork_of_eq rfl
  unfold State.homeStore
  dsimp only
  split
  · exact hw
  · exact hw.trans (.foldl storeWork_fire _ _)

theorem storeWork_homeStoreNat (s : State) (pa n v : Nat) : StoreWork s (s.homeStoreNat pa n v) := storeWork_homeStore _ _ _

theorem storeWork_revive (s : State) (pa : Nat) : StoreWork s (s.revive pa) := by
  unfold State.revive
  dsimp only
  split
  · exact .refl s
  · exact (storeWork_of_eq rfl).trans (storeWork_homeStoreNat _ _ _ _)

theorem storeWork_poke (s : State) (pa n v : Nat) : StoreWork s (s.poke pa n v) := (storeWork_revive s pa).trans (storeWork_of_eq rfl)

theorem storeWork_ringAppend (s : State) (desc n : Nat) (baseOk : Nat → Bool) (place : Nat → Option Nat) (e : List Byte) :
    StoreWork s (s.ringAppend desc n baseOk place e) := by
  unfold State.ringAppend
  dsimp only
  split
  · exact .refl s
  · split
    · exact (storeWork_revive _ _).trans (storeWork_homeStoreNat _ _ _ _)
    · split
      · exact .refl s
      · exact (((storeWork_revive _ _).trans (storeWork_homeStore _ _ _)).trans (storeWork_revive _ _)).trans (storeWork_homeStoreNat _ _ _ _)

theorem storeWork_dirtyAppend (s : State) (c : Context) (va : Nat) (big : Bool) : StoreWork s (s.dirtyAppend c va big) := by
  unfold State.dirtyAppend
  split
  · exact .refl s
  · exact storeWork_ringAppend _ _ _ _ _ _

/-- A collector entry leaves the collector, and what is left is the work of a ring. -/
theorem storeWork_appendRange (s : State) (e : CollEntry) : StoreWork { s with collector := s.collector.filter (· != e) } (s.appendRange e) := by
  unfold State.appendRange
  generalize ({ s with collector := s.collector.filter (· != e) } : State) = t
  dsimp only
  split
  · exact .refl t
  · split
    · exact .refl t
    · split
      · exact .refl t
      · split
        · exact .refl t
        · exact storeWork_ringAppend _ _ _ _ _ _

/-- Appending collector entries takes them out of the collector; no cache changes. -/
theorem homeWork_foldl_appendRange (l : List CollEntry) (s : State) :
    HomeWork s (l.foldl State.appendRange s) ∧ (l.foldl State.appendRange s).vdc = s.vdc
    ∧ (l.foldl State.appendRange s).hart.scache = s.hart.scache
    ∧ (l.foldl State.appendRange s).collector = s.collector.filter (fun e => !l.contains e) := by
  induction l generalizing s with
  | nil => exact ⟨.refl s, rfl, rfl, by simp⟩
  | cons e l ih =>
    have hstep := storeWork_appendRange s e
    have hleave : HomeWork s { s with collector := s.collector.filter (· != e) } := ⟨rfl, rfl, id⟩
    obtain ⟨hwork, hvdc, hscache, hcoll⟩ := ih (s.appendRange e)
    refine ⟨(hleave.trans hstep.toHomeWork).trans hwork, hvdc.trans hstep.vdc, hscache.trans hstep.scache, ?_⟩
    · rw [List.foldl_cons, hcoll, hstep.collector, List.filter_filter]
      exact List.filter_congr fun a _ => by
        by_cases ha : a = e <;> simp [ha]

/-! ### Translation -/

theorem storeWork_markPte (s : State) (c : Context) (va ea e : Nat) (big : Bool) (k : Kind) : StoreWork s (s.markPte c va ea e big k).1 := by
  unfold State.markPte
  generalize Pte.setBit (if k.writes then Pte.setBit e 7 else e) 6 = e'
  dsimp only
  split
  · exact .refl s
  · have hd : StoreWork s (if k.writes && !Pte.d e then s.dirtyAppend c va big else s) := by
      split
      · exact storeWork_dirtyAppend _ _ _ _
      · exact .refl s
    exact hd.trans (show StoreWork _ (State.homeStoreNat _ ea 8 e') from storeWork_homeStoreNat _ _ _ _)

theorem storeWork_noteDsc (s : State) (ea e : Nat) : StoreWork s (s.noteDsc ea e) := by
  unfold State.noteDsc
  dsimp only
  repeat' split
  all_goals exact storeWork_of_eq rfl

theorem storeWork_noteBig (s : State) (asid va : Nat) (big : Bool) : StoreWork s (s.noteBig asid va big) := by
  unfold State.noteBig
  split
  · exact storeWork_of_eq rfl
  · exact .refl s

theorem storeWork_finish {s t : State} {c : Context} {core unit va ea e : Nat} {big : Bool} {k : Kind} {pa pte : Nat}
    (h : s.finish c core unit va ea e big k = .ok t pa pte) : StoreWork s t := by
  unfold State.finish at h
  dsimp only at h
  split at h
  · cases h
  · split at h
    · cases h
    · split at h
      · cases h
      · cases h
        exact (((storeWork_noteBig _ _ _ _).trans (storeWork_noteDsc _ _ _)).trans (storeWork_markPte _ _ _ _ _ _ _)).trans (storeWork_of_eq rfl)

/-- A translation that is made marks its page's entry, and nothing else than the home and the TLBs changes. -/
theorem storeWork_xlate {s t : State} {c : Context} {core unit va : Nat} {k : Kind} {hart : Bool} {pa pte : Nat}
    (h : s.xlate c core unit va k hart = .ok t pa pte) : StoreWork s t := by
  have hwalk : ∀ {w : Walk}, (match w with
      | .fault cause dev => Xlat.fault cause dev
      | .replay => .replay
      | .found ea e big => s.finish c core unit va ea e big k) = .ok t pa pte → StoreWork s t := by
    intro w h
    cases w with
    | found ea e big => exact storeWork_finish h
    | fault cause dev => cases h
    | replay => cases h
  unfold State.xlate at h
  dsimp only at h
  split at h
  · exact hwalk h
  · split at h
    · exact hwalk h
    · split at h
      · split at h
        · cases h
        · exact hwalk h
      · exact storeWork_finish h

/-- An object that is found, or whose page faults, leaves everything but the home and the TLBs. -/
theorem storeWork_object_ok {s t : State} {c : Context} {core va cause pa : Nat} (h : s.object c core va cause = .ok t pa) : StoreWork s t := by
  unfold State.object at h
  split at h
  · cases h
  · split at h
    · cases h
    · split at h
      · next hx => split at h <;> cases h; exact storeWork_xlate hx
      all_goals cases h

theorem storeWork_object_fault {s t : State} {c : Context} {core va cause k : Nat} {dev : Bool} (h : s.object c core va cause = .fault t k dev) :
    StoreWork s t := by
  unfold State.object at h
  split at h
  · cases h; exact .refl s
  · split at h
    · cases h; exact .refl s
    · split at h
      · next hx => split at h <;> cases h; exact storeWork_xlate hx
      · cases h; exact .refl s
      all_goals cases h

/-! ### Barriers and pots at home -/

theorem storeWork_barSet (s : State) (pa arrived pending : Nat) : StoreWork s (s.barSet pa arrived pending) := by
  unfold State.barSet
  dsimp only
  split <;> exact (storeWork_revive _ _).trans (storeWork_homeStore _ _ _)

theorem storeWork_barNorm (s : State) (pa : Nat) : StoreWork s (s.barNorm pa) := by
  unfold State.barNorm
  split
  · exact storeWork_barSet _ _ _ _
  · exact .refl s

theorem storeWork_potAdd (s : State) (pa n : Nat) : StoreWork s (s.potAdd pa n).1 := by
  unfold State.potAdd
  dsimp only
  split
  · exact storeWork_poke _ _ _ _
  · exact (storeWork_poke _ _ _ _).trans (storeWork_poke _ _ _ _)

theorem potWork_setRanges (s : State) (pa : Nat) (rs : List (Nat × Nat)) : PotWork s (s.setRanges pa rs) :=
  (potWork_of_eq rfl).trans (storeWork_poke _ _ _ _).toPotWork

theorem potWork_returnStack (s : State) (k : Stack) : PotWork s (s.returnStack k) := by
  have hw : PotWork s { s with potStacks := s.potStacks.filter (· != k) } := potWork_of_eq rfl
  unfold State.returnStack
  dsimp only
  split
  · exact hw.trans (potWork_setRanges _ _ _)
  · exact hw.trans (storeWork_potAdd _ _ _).toPotWork

theorem potWork_callIn (s : State) (pa : Nat) : PotWork s (s.callIn pa) :=
  (PotWork.foldl potWork_returnStack _ s).trans (storeWork_poke _ _ _ _).toPotWork

/-! ### Write-backs and releases -/

theorem homeWork_noteMsc (s : State) (pa : Nat) (who : List Nat) : HomeWork s (s.noteMsc pa who) := by
  unfold State.noteMsc
  split
  · split <;> exact ⟨rfl, rfl, id⟩
  · exact .refl s

theorem homeWork_merge (s : State) (line : Nat) (data : BitVec 512) (mask : BitVec 64) (who : List Nat) : HomeWork s (s.merge line data mask who) := by
  unfold State.merge
  split
  · exact .refl s
  · exact ((storeWork_revive _ _).toHomeWork.trans (homeWork_noteMsc _ _ _)).trans
      ((storeWork_of_eq rfl).trans (storeWork_fire _ _)).toHomeWork

theorem homeWork_patchVdc (s : State) (core line : Nat) (data : BitVec 512) (mask : BitVec 64) : HomeWork s (s.patchVdc core line data mask) :=
  ⟨rfl, rfl, id⟩

theorem homeWork_wbLine (s : State) (core who : Nat) (l : SLine) : HomeWork s (s.wbLine core who l) := by
  unfold State.wbLine
  split
  · exact .refl s
  · exact (homeWork_patchVdc _ _ _ _ _).trans (homeWork_merge _ _ _ _ _)

theorem homeWork_flushScalar (s : State) (h : Hart) (p : SLine → Bool) (drop : Bool) : HomeWork s (s.flushScalar h p drop) := by
  unfold State.flushScalar
  dsimp only
  refine (HomeWork.foldl (fun s l => homeWork_wbLine s h.coreId h.loc l) _ s).trans ⟨rfl, ?_, ?_⟩
  · simp only [State.updHart, State.mapHarts]
    split <;> rfl
  · simp only [State.updHart, State.mapHarts]
    split <;> exact id

theorem homeWork_flushVdc (s : State) (p : VLine → Bool) (drop : Bool) : HomeWork s (s.flushVdc p drop) :=
  (HomeWork.foldl (fun s _ => homeWork_merge s _ _ _ _) _ s).trans ⟨rfl, rfl, id⟩

/-- A release at scope P changes the caches and the home alone (R211). -/
theorem homeWork_release_three (s : State) : HomeWork s (s.release 3) :=
  (homeWork_flushScalar _ _ _ _).trans (homeWork_flushVdc _ _ _)

theorem homeWork_flushSlices (s : State) (core : Nat) (lg : BitVec 16) : HomeWork s (s.flushSlices core lg) := homeWork_flushVdc _ _ _

end Sys2Proof.Machine

/-! SUPPORT. Admission takes the lowest free lane groups of a core, and its hart stands in the slot (R128, R139). -/

namespace Sys2Proof.Machine

/-! ### Lane groups (R128) -/

/-- The word with one bit set. -/
theorem getLsbD_two_pow {i : Nat} (hi : i < 16) (j : Nat) : (BitVec.ofNat 16 (2 ^ i)).getLsbD j = decide (i = j) := by
  rw [BitVec.getLsbD_ofNat, Nat.testBit_two_pow]
  by_cases h : i = j <;> simp [h]
  omega

/-- A bit that was clear adds one to the number of set bits. -/
theorem popc16_or_bit {a : BitVec 16} {i : Nat} (hi : i < 16) (ha : a.getLsbD i = false) :
    popc16 (a ||| BitVec.ofNat 16 (2 ^ i)) = popc16 a + 1 := by
  have hcard (b : BitVec 16) : popc16 b = ((List.range 16).filter (fun k => b.getLsbD k)).toFinset.card :=
    (List.toFinset_card_of_nodup (List.nodup_range.filter _)).symm
  have hset : ((List.range 16).filter (fun k => (a ||| BitVec.ofNat 16 (2 ^ i)).getLsbD k)).toFinset
      = insert i ((List.range 16).filter (fun k => a.getLsbD k)).toFinset := by
    ext j
    simp only [BitVec.getLsbD_or, getLsbD_two_pow hi, List.mem_toFinset, List.mem_filter, List.mem_range, Finset.mem_insert, Bool.or_eq_true,
      decide_eq_true_eq]
    by_cases hj : j = i
    · simp [hj, hi]
    · simp [hj, Ne.symm hj]
  rw [hcard, hset, Finset.card_insert_of_notMem (by simp [ha]), hcard]

/-- One place of `lowest`: its bit is taken while some are left to take. -/
def takeBit (b : BitVec 16) (a : Nat × BitVec 16) (i : Nat) : Nat × BitVec 16 :=
  if b.getLsbD i && 0 < a.1 then (a.1 - 1, a.2 ||| BitVec.ofNat 16 (2 ^ i)) else a

theorem lowest_eq (n : Nat) (b : BitVec 16) : lowest n b = ((List.range 16).foldl (takeBit b) (n, 0)).2 := rfl

/-- Over places that are still clear, `takeBit` adds as many bits as are set there, up to the number left to take. -/
theorem popc16_foldl_takeBit (b : BitVec 16) (l : List Nat) (hn : l.Nodup) (a : Nat × BitVec 16)
    (hl : ∀ i ∈ l, i < 16 ∧ a.2.getLsbD i = false) :
    popc16 (l.foldl (takeBit b) a).2 = popc16 a.2 + min a.1 (l.filter (fun i => b.getLsbD i)).length := by
  induction l generalizing a with
  | nil => simp
  | cons i l ih =>
    obtain ⟨hil, hnl⟩ := List.nodup_cons.1 hn
    obtain ⟨hi, hai⟩ := hl i (by simp)
    rw [List.foldl_cons]
    by_cases hb : b.getLsbD i = true ∧ 0 < a.1
    · have hstep : takeBit b a i = (a.1 - 1, a.2 ||| BitVec.ofNat 16 (2 ^ i)) := by simp [takeBit, hb]
      rw [hstep, ih hnl _ fun j hj => ?_]
      · simp only [popc16_or_bit hi hai, List.filter_cons, hb.1, if_true, List.length_cons]
        omega
      · obtain ⟨hj16, haj⟩ := hl j (by simp [hj])
        have hne : j ≠ i := fun h => hil (h ▸ hj)
        exact ⟨hj16, by rw [BitVec.getLsbD_or, haj, getLsbD_two_pow hi]; simp [Ne.symm hne]⟩
    · have hstep : takeBit b a i = a := by simp only [takeBit]; rw [if_neg (by simpa using hb)]
      rw [hstep, ih hnl a fun j hj => hl j (by simp [hj])]
      by_cases hi' : b.getLsbD i = true
      · have : a.1 = 0 := Nat.eq_zero_of_not_pos fun h => hb ⟨hi', h⟩
        simp [this]
      · simp [hi']

/-- `lowest` takes as many bits as are set, up to `n`. -/
theorem popc16_lowest (n : Nat) (b : BitVec 16) : popc16 (lowest n b) = min n (popc16 b) := by
  have h := popc16_foldl_takeBit b (List.range 16) List.nodup_range (n, 0) (fun i hi => ⟨List.mem_range.1 hi, by simp⟩)
  rw [lowest_eq, h]
  simp [popc16]

/-! ### Admission (R139) -/

/-- The free lane groups of a core follow from the harts alone. -/
theorem State.freeLgs_congr {s t : State} (h : t.allHarts = s.allHarts) (core : Nat) : t.freeLgs core = s.freeLgs core := by
  unfold State.freeLgs State.coreHarts
  rw [h]

theorem State.allHarts_pads (s : State) (core asid : Nat) : ((s.cleanPad core).holdPad core asid).allHarts = s.allHarts := by
  have hclean : (s.cleanPad core).allHarts = s.allHarts := by unfold State.cleanPad; split <;> rfl
  rw [← hclean]
  unfold State.holdPad
  split
  · rfl
  · split <;> rfl

/-- What is left free for a farm is no more than what is free. -/
theorem State.freeFor_le (s : State) (core asid farm : Nat) : s.freeFor core asid farm ≤ popc16 (s.freeLgs core) := by
  unfold State.freeFor
  dsimp only
  split
  · exact le_refl _
  · split
    · exact le_refl _
    · exact Nat.sub_le _ _

/-- The hart that takes a slot is one of the state's harts. -/
theorem State.mem_allHarts_seatHart (s : State) (h : Hart) : h ∈ (s.seatHart h).allHarts := by
  unfold State.seatHart
  dsimp only
  split
  · exact List.mem_cons_self
  · exact List.mem_cons_of_mem _ (by simp)

/-- A hart to which its farm's priority is given. -/
def Hart.withPrio (asid handle p : Nat) (g : Hart) : Hart := if !g.ctl && g.asid = asid && g.farm = handle then { g with prio := p } else g

theorem State.allHarts_setPrio (s : State) (asid handle p : Nat) :
    (s.setPrio asid handle p).allHarts = s.allHarts.map (Hart.withPrio asid handle p) := rfl

/-- A hart that has the farm's new priority already stays as it is. -/
theorem State.mem_allHarts_setPrio {s : State} {h : Hart} (hh : h ∈ s.allHarts) (asid handle : Nat) {p : Nat} (hp : h.prio = p) :
    h ∈ (s.setPrio asid handle p).allHarts := by
  have hfix : Hart.withPrio asid handle p h = h := by unfold Hart.withPrio; split <;> simp [← hp]
  rw [State.allHarts_setPrio]
  exact List.mem_map.2 ⟨h, hh, hfix⟩

/-- The hart that a farm's admission places on a core with a free slot. -/
theorem State.mem_allHarts_admitHart {s : State} {f : Farm} {core slot : Nat} (h : s.freeSlot core = some slot) :
    freshHart f core slot (lowest f.reserve (s.freeLgs core)) ∈ (s.admitHart f core).allHarts := by
  have hlgs : ((s.cleanPad core).holdPad core f.asid).freeLgs core = s.freeLgs core := State.freeLgs_congr (s.allHarts_pads core f.asid) core
  rw [← hlgs]
  simp only [State.admitHart, h]
  generalize ((s.cleanPad core).holdPad core f.asid) = t
  refine State.mem_allHarts_setPrio ?_ f.asid f.handle (p := f.prio0) rfl
  exact State.mem_allHarts_seatHart (t.flushVdc _ true) _

/-- A core of a list that is not empty is picked, and no hart and no farm changes. -/
theorem State.pickCore_spec (s : State) (wish : Nat) {cs : List Nat} (hcs : cs ≠ []) :
    (s.pickCore wish cs).1 ∈ cs ∧ ∃ n, (s.pickCore wish cs).2 = { s with free := n } := by
  unfold State.pickCore
  split
  · next h => exact ⟨by simpa using (Bool.and_eq_true_iff.1 h).2, _, rfl⟩
  · have hpos : 0 < cs.length := List.length_pos_iff.2 hcs
    unfold State.choose
    dsimp only
    split
    · exact ⟨by simp [hpos], s.free, rfl⟩
    · have hlt : Config.choice s.free % cs.length < cs.length := Nat.mod_lt _ hpos
      exact ⟨by simp [hlt], _, rfl⟩

/-- The cores of the next admission are those on which the farm's hart can be placed. -/
theorem State.nextAdmission_spec {s : State} {f : Farm} {cs : List Nat} (h : s.nextAdmission = some (f, cs)) :
    cs ≠ [] ∧ ∀ core ∈ cs, s.canPlace f core = true := by
  obtain ⟨g, -, hg⟩ := List.exists_of_findSome?_eq_some h
  split at hg
  · split at hg
    · cases hg
    · next hne => 
      cases hg
      exact ⟨hne, fun core hc => (List.mem_filter.1 hc).2⟩
  · cases hg

/-- The cores of the next hold are not none. -/
theorem State.nextHold_ne_nil {s : State} {f : Farm} {cs : List Nat} (h : s.nextHold = some (f, cs)) : cs ≠ [] := by
  obtain ⟨k, -, hk⟩ := List.exists_of_findSome?_eq_some h
  split at hk
  · cases hk
  · split at hk
    · cases hk
    · split at hk
      · cases hk
      · next hne => cases hk; exact hne

/-- The number of lane groups of an admitted hart is its RESERVE. -/
theorem lanes_freshHart {s : State} {f : Farm} {core : Nat} (h : s.canPlace f core = true) (slot : Nat) :
    Stated.lanes (freshHart f core slot (lowest f.reserve (s.freeLgs core))).ep = f.reserve := by
  have hres : f.reserve ≤ s.freeFor core f.asid f.handle := by
    simp only [State.canPlace, Bool.and_eq_true, decide_eq_true_eq] at h
    exact h.1.1.2
  have hle := hres.trans (s.freeFor_le core f.asid f.handle)
  rw [lanes_eq_lgn]
  show popc16 (lowest f.reserve (s.freeLgs core)) = f.reserve
  rw [popc16_lowest]
  exact min_eq_left hle

/-- Admission places the next hart of the first farm that can place one. -/
theorem exec_hartAdmission_places {s : State} {f : Farm} {cs : List Nat} (hhold : s.nextHold = none) (hadm : s.nextAdmission = some (f, cs)) :
    ∃ t, exec .hartAdmission s = .next t ∧ ∃ core ∈ cs, ∃ slot, freshHart f core slot (lowest f.reserve (s.freeLgs core)) ∈ t.allHarts
      ∧ s.canPlace f core = true := by
  obtain ⟨hne, hcan⟩ := State.nextAdmission_spec hadm
  obtain ⟨hmem, n, hn⟩ := s.pickCore_spec s.input.value hne
  have hexec : exec .hartAdmission s = .next ((s.pickCore s.input.value cs).2.admitHart f (s.pickCore s.input.value cs).1) := by
    show execHartAdmission s = _
    simp only [execHartAdmission, hhold, hadm]
  have hslot : (s.freeSlot (s.pickCore s.input.value cs).1).isSome := by
    have h := hcan _ hmem
    simp only [State.canPlace, Bool.and_eq_true] at h
    exact h.1.1.1.2
  obtain ⟨slot, hslot⟩ := Option.isSome_iff_exists.1 hslot
  refine ⟨_, hexec, _, hmem, slot, ?_, hcan _ hmem⟩
  rw [hn]
  exact State.mem_allHarts_admitHart (s := { s with free := n }) hslot

/-- A hold that is due is put on one of its cores. -/
theorem exec_hartAdmission_holds {s : State} {f : Farm} {cs : List Nat} (hhold : s.nextHold = some (f, cs)) :
    ∃ core ∈ cs, ∃ n, exec .hartAdmission s = .next { s.hold f core with free := n } := by
  obtain ⟨hmem, n, hn⟩ := s.pickCore_spec s.input.value (State.nextHold_ne_nil hhold)
  refine ⟨_, hmem, n, ?_⟩
  show execHartAdmission s = _
  simp only [execHartAdmission, hhold, hn]
  rfl

/-! ### FDLAUNCH (R373) -/

/-- The registers of a die with the write of FDLAUNCH in progress. -/
def Die.launching (v : Nat) (d : Die) : Die :=
  { d with fdlaunch := BitVec.ofNat 64 (v % 2 ^ 52), fdBusy := true, fdCtx := d.fdasid.toNat, fdresult := 0 }

/-- The registers of a die whose launch has answered. -/
def Die.launched (w : Word) (d : Die) : Die := { d with fdresult := w, fdBusy := false }

theorem State.die_updDie {s : State} {k : Nat} (hk : k < 4) (f : Die → Die) : (s.updDie k f).die k = f (s.die k) := by
  simp [State.updDie, State.die, hk]

/-- A launch whose context does not run answers −3. -/
theorem State.runLaunch_of_no_context {s : State} {k : Nat}
    (h : s.contexts.find? (fun c => c.state == 1 && c.asid == (s.die k).fdCtx) = none) : s.runLaunch k = s.updDie k (Die.launched (-3)) := by
  simp only [State.runLaunch, h]
  rfl

/-- A launch whose descriptor is misaligned answers −1. -/
theorem State.runLaunch_of_misaligned {s : State} {k : Nat} {c : Context}
    (h : s.contexts.find? (fun c => c.state == 1 && c.asid == (s.die k).fdCtx) = some c) (hv : (s.die k).fdlaunch.toNat % 64 ≠ 0) :
    s.runLaunch k = s.updDie k (Die.launched (-1)) := by
  simp only [State.runLaunch, h]
  rw [if_pos (by simp [hv])]
  rfl

/-- A launch whose descriptor is read answers what FARM's work answers. -/
theorem State.runLaunch_of_result {s s' t : State} {k : Nat} {c : Context} {pa pte : Nat} {w : Word}
    (h : s.contexts.find? (fun c => c.state == 1 && c.asid == (s.die k).fdCtx) = some c) (halign : (s.die k).fdlaunch.toNat % 64 = 0)
    (hrange : (s.die k).fdlaunch.toNat < windowBase)
    (hx : s.xlate c (16 * k) secondLevel (s.die k).fdlaunch.toNat .read false = .ok s' pa pte)
    (hl : s'.launch c (16 * k) (s'.homeBytes pa 64) = .result t w) : s.runLaunch k = t.updDie k (Die.launched w) := by
  have hlow : ¬ 2 ^ 52 ≤ (s.die k).fdlaunch.toNat := by unfold windowBase at hrange; omega
  have hwin : inWindow (s.die k).fdlaunch.toNat = false := by simp [inWindow, hrange]
  simp only [State.runLaunch, h]
  rw [if_neg (by simp only [halign, hwin, hlow]; decide), hx]
  simp only [hl]
  rfl

/-- The state in which a launch works: after the release, with the write in the die's registers. -/
def State.launching (s : State) (k v : Nat) : State := (s.release 3).updDie k (Die.launching v)

/-- A write of FDLAUNCH releases; it is ignored while a launch is in progress, and else starts one. -/
theorem exec_fdlaunch (s : State) : exec .fdlaunch s = .next (if (s.die s.input.unit).fdBusy then s.release 3
    else (s.launching s.input.unit (s.input.value % 2 ^ 64)).runLaunch s.input.unit) := by
  have hbits : setBits 0 0 52 (BitVec.ofNat 64 s.input.value).toNat = BitVec.ofNat 64 (s.input.value % 2 ^ 64 % 2 ^ 52) := by
    simp [setBits, bits, BitVec.toNat_ofNat]
  have hwrite : s.devWrite s.input.unit 0x008 (BitVec.ofNat 64 s.input.value) = s.fdLaunch s.input.unit (BitVec.ofNat 64 s.input.value) := rfl
  show Host.Outcome.next (s.devWrite s.input.unit 0x008 (BitVec.ofNat 64 s.input.value)) = _
  rw [hwrite]
  simp only [State.fdLaunch, hbits, (homeWork_release_three s).die]
  rfl

section
variable {s : State} {v : Nat} (hk : s.input.unit < 4)
include hk

/-- The die's registers while the launch works. -/
theorem State.die_launching : (s.launching s.input.unit v).die s.input.unit = Die.launching v (s.die s.input.unit) := by
  rw [State.launching, State.die_updDie hk, (homeWork_release_three s).die]

omit hk in
theorem State.contexts_launching (k : Nat) : (s.launching k v).contexts = s.contexts := by
  rw [State.launching, State.updDie_contexts, (homeWork_release_three s).contexts]

/-- The context of a launch is that of FDASID. -/
theorem State.find_launching : (s.launching s.input.unit v).contexts.find?
      (fun c => c.state == 1 && c.asid == ((s.launching s.input.unit v).die s.input.unit).fdCtx)
    = s.contexts.find? (fun c => c.state == 1 && c.asid == (s.die s.input.unit).fdasid.toNat) := by
  rw [State.contexts_launching, State.die_launching hk]
  rfl

/-- The address of the descriptor is FDLAUNCH's bits 51:0. -/
theorem State.fdlaunch_launching : ((s.launching s.input.unit v).die s.input.unit).fdlaunch.toNat = v % 2 ^ 52 := by
  rw [State.die_launching hk]
  show (BitVec.ofNat 64 (v % 2 ^ 52)).toNat = _
  rw [BitVec.toNat_ofNat]
  omega

/-- The die's answer once it has launched. -/
theorem State.fdresult_launched {t : State} (w : Word) :
    ((t.updDie s.input.unit (Die.launched w)).die s.input.unit).fdresult = w
    ∧ ((t.updDie s.input.unit (Die.launched w)).die s.input.unit).fdBusy = false := by
  rw [State.die_updDie hk]
  exact ⟨rfl, rfl⟩

end

/-- Settles O47: admission and holds take the core picked from those that the farm can have, and FDLAUNCH starts the launch it writes. -/
theorem farmsAreServed : Obligations.FarmsAreServed := by
  unfold Obligations.FarmsAreServed
  refine ⟨fun s f cs hhold hadm => ?_, fun s f cs hhold => ?_, fun s hk => ?_⟩
  · obtain ⟨t, ht, core, hcore, slot, hmem, hcan⟩ := exec_hartAdmission_places hhold hadm
    have hplace : 16 * (core / 16) + core % 16 = core := by omega
    exact ⟨t, ht, _, hmem, rfl, rfl, Eq.substr (p := (· ∈ cs)) hplace hcore, rfl, rfl, rfl, rfl, rfl, lanes_freshHart hcan slot, rfl, rfl, rfl⟩
  · obtain ⟨core, hcore, n, ht⟩ := exec_hartAdmission_holds hhold
    refine ⟨core, hcore, _, ht, ?_⟩
    have hlift : s.holds.filter (fun h => h.core != core && !(h.asid == f.asid && h.farm == f.handle))
        = s.holds.filter (fun h => h.core ≠ core ∧ ¬(h.asid = f.asid ∧ h.farm = f.handle)) :=
      List.filter_congr fun h _ => by rw [Bool.eq_iff_iff]; simp
    simp only [State.hold, hlift]
  · intro k v u here
    have hidle (hb : (s.die k).fdBusy = false) : exec .fdlaunch s = .next ((s.launching k v).runLaunch k) := by
      rw [exec_fdlaunch, if_neg (by simp [k, hb])]
    refine ⟨fun hb => ?_, fun hb hnone => ?_, fun c hb hsome halign => ?_, fun c s' pa pte t w hb hsome halign hrange hx hl => ?_⟩
    · rw [exec_fdlaunch, if_pos hb]
    · refine ⟨_, (hidle hb).trans (congrArg _ (State.runLaunch_of_no_context ?_)), State.fdresult_launched hk _⟩
      rw [State.find_launching hk]; exact hnone
    · refine ⟨_, (hidle hb).trans (congrArg _ (State.runLaunch_of_misaligned (c := c) ?_ ?_)), State.fdresult_launched hk _⟩
      · rw [State.find_launching hk]; exact hsome
      · rw [State.fdlaunch_launching hk]; omega
    · refine (hidle hb).trans (congrArg _ (State.runLaunch_of_result (c := c) (pte := pte) ?_ ?_ ?_ ?_ hl))
      · rw [State.find_launching hk]; exact hsome
      · rw [State.fdlaunch_launching hk]; omega
      · rw [State.fdlaunch_launching hk]; exact hrange
      · rw [State.fdlaunch_launching hk]; exact hx

end Sys2Proof.Machine

/-! SUPPORT. Values in home memory: what a read of some bytes finds after stores of the home, on a page that is not discarded (R9, R226). -/

namespace Sys2Proof.Machine

/-! ### Little-endian values -/

@[simp] theorem length_leBytes (n v : Nat) : (leBytes n v).length = n := by
  induction n generalizing v with
  | zero => rfl
  | succ n ih => simp [leBytes, ih]

@[simp] theorem leValue_leBytes (n v : Nat) : leValue (leBytes n v) = v % 256 ^ n := by
  induction n generalizing v with
  | zero => simp [leBytes, leValue, Nat.mod_one]
  | succ n ih =>
    have hb : (BitVec.ofNat 8 v).toNat = v % 256 := BitVec.toNat_ofNat v 8
    rw [leBytes, leValue, ih, hb, Nat.pow_succ', Nat.mod_mul]

/-! ### Memory -/

/-- Bytes written one after another are written together. -/
theorem Memory.writeN_append (m : List Host.Cell) (a : Nat) (bs cs : List Byte) :
    Memory.writeN m a (bs ++ cs) = Memory.writeN (Memory.writeN m a bs) (a + bs.length) cs := by
  induction bs generalizing m a with
  | nil => rfl
  | cons b bs ih => simp only [List.cons_append, Memory.writeN, ih, List.length_cons]; congr 1; omega

/-- Two memories with the same bytes in a range hold the same value there. -/
theorem Memory.readNat_congr {m m' : List Host.Cell} {a n : Nat} (h : ∀ x, a ≤ x → x < a + n → Memory.read m x = Memory.read m' x) :
    Memory.readNat m a n = Memory.readNat m' a n := by
  have key : Memory.readN m a n = Memory.readN m' a n := by
    induction n generalizing a with
    | zero => rfl
    | succ n ih =>
      rw [Memory.readN, Memory.readN, h a (le_refl a) (by omega), ih fun x h1 h2 => h x (by omega) (by omega)]
  rw [Memory.readNat, Memory.readNat, key]

/-- A value that a store does not reach stands. -/
theorem Memory.readNat_writeN_apart {m : List Host.Cell} (hw : Memory.wf m = true) {a n b : Nat} {bs : List Byte}
    (h : a + n ≤ b ∨ b + bs.length ≤ a) : Memory.readNat (Memory.writeN m b bs) a n = Memory.readNat m a n :=
  Memory.readNat_congr fun x h1 h2 => by rw [Memory.read_writeN _ _ _ hw, if_neg (by omega)]

/-- The bytes that have been written are read back. -/
theorem Memory.readN_writeN {m : List Host.Cell} (hw : Memory.wf m = true) (a : Nat) (bs : List Byte) :
    Memory.readN (Memory.writeN m a bs) a bs.length = bs := by
  have hlen := Memory.length_readN (Memory.writeN m a bs) a bs.length
  have hget : ∀ (m : List Host.Cell) (a n i : Nat), i < n → (Memory.readN m a n)[i]? = some (Memory.read m (a + i)) := by
    intro m a n
    induction n generalizing a with
    | zero => intro i hi; omega
    | succ n ih =>
      intro i hi
      cases i with
      | zero => rfl
      | succ i =>
        rw [Memory.readN, List.getElem?_cons_succ, ih (a + 1) i (by omega)]
        congr 2; omega
  apply List.ext_getElem?
  intro i
  by_cases hi : i < bs.length
  · rw [hget _ _ _ _ hi, Memory.read_writeN _ _ _ hw, if_pos ⟨by omega, by omega⟩]
    simp [hi]
  · rw [List.getElem?_eq_none (by omega), List.getElem?_eq_none (by omega)]

theorem Memory.readNat_writeN_same {m : List Host.Cell} (hw : Memory.wf m = true) (a n v : Nat) :
    Memory.readNat (Memory.writeN m a (leBytes n v)) a n = v % 256 ^ n := by
  have h := Memory.readN_writeN hw a (leBytes n v)
  rw [length_leBytes] at h
  rw [Memory.readNat, h, leValue_leBytes]

/-! ### Values at home -/

/-- The statements' value is the model's. -/
theorem valueAt_eq_homeNat (s : State) (pa n : Nat) : Stated.valueAt s pa n = s.homeNat pa n := by
  induction n generalizing pa with
  | zero => rfl
  | succ n ih =>
    have hrange : range pa (n + 1) = pa :: range (pa + 1) n := by
      simp only [range, List.range_succ_eq_map, List.map_cons, List.map_map, Nat.add_zero]
      congr 1
      exact List.map_congr_left fun i _ => by simp only [Function.comp_apply]; omega
    rw [Stated.valueAt, ih, State.homeNat, State.homeNat, State.homeBytes, State.homeBytes, hrange, List.map_cons, leValue]

/-- A byte of a page that stands is read from memory. -/
theorem State.homeByte_of_kept {s : State} {pa : Nat} (h : Stated.kept s pa) : s.homeByte pa = Memory.read s.mem pa := by
  unfold State.homeByte
  rw [if_neg]
  simp only [List.any_eq_true, beq_iff_eq, not_exists, not_and]
  exact h

/-- The bytes of a line lie on one page. -/
theorem kept_in_line {s : State} {pa : Nat} (hpa : pa % 64 = 0) (h : Stated.kept s pa) {k : Nat} (hk : k < 64) : Stated.kept s (pa + k) := by
  have hpage : (pa + k) / 65536 = pa / 65536 := by omega
  unfold Stated.kept
  rw [hpage]
  exact h

/-- A value within a line of a page that stands is read from memory. -/
theorem State.homeNat_of_kept {s : State} {pa : Nat} (hpa : pa % 64 = 0) (h : Stated.kept s pa) {k n : Nat} (hk : k + n ≤ 64) :
    s.homeNat (pa + k) n = Memory.readNat s.mem (pa + k) n := by
  have key : ∀ n k, k + n ≤ 64 → (range (pa + k) n).map s.homeByte = Memory.readN s.mem (pa + k) n := by
    intro n
    induction n with
    | zero => intro k _; rfl
    | succ n ih =>
      intro k hk
      have hrange : range (pa + k) (n + 1) = (pa + k) :: range (pa + (k + 1)) n := by
        simp only [range, List.range_succ_eq_map, List.map_cons, List.map_map, Nat.add_zero]
        congr 1
        exact List.map_congr_left fun i _ => by simp only [Function.comp_apply]; omega
      rw [hrange, List.map_cons, ih (k + 1) (by omega), Memory.readN, State.homeByte_of_kept (kept_in_line hpa h (by omega))]
      rfl
  rw [State.homeNat, State.homeBytes, key n k hk, Memory.readNat]

/-- A page that stands is not revived. -/
theorem State.revive_of_kept {s : State} {pa : Nat} (h : Stated.kept s pa) : s.revive pa = s := by
  have hnone : s.discarded.find? (fun e => e.1 == pa / 65536 * 65536) = none := by simpa using h
  simp only [State.revive, hnone]

/-! ### Stores of the home -/

/-- Monitors that fire leave the home as it is. -/
theorem State.foldl_fire_home (l : List Nat) (s : State) :
    (l.foldl State.fire s).mem = s.mem ∧ (l.foldl State.fire s).discarded = s.discarded := by
  induction l generalizing s with
  | nil => exact ⟨rfl, rfl⟩
  | cons a l ih => exact ih (s.fire a)

theorem State.homeStore_mem (s : State) (pa : Nat) (bs : List Byte) : (s.homeStore pa bs).mem = Memory.writeN s.mem pa bs := by
  unfold State.homeStore
  dsimp only
  split
  · rfl
  · exact (State.foldl_fire_home _ _).1

theorem State.homeStore_discarded (s : State) (pa : Nat) (bs : List Byte) : (s.homeStore pa bs).discarded = s.discarded := by
  unfold State.homeStore
  dsimp only
  split
  · rfl
  · exact (State.foldl_fire_home _ _).2

/-- A change of the home in a page that stands is a write of memory. -/
theorem State.poke_of_kept {s : State} {pa : Nat} (h : Stated.kept s pa) (n v : Nat) :
    s.poke pa n v = { s with mem := Memory.writeN s.mem pa (leBytes n v) } := by
  simp only [State.poke, State.revive_of_kept h]

/-- The pages that stand depend on the record of discarded frames alone. -/
theorem kept_congr {s t : State} (hd : t.discarded = s.discarded) {pa : Nat} (h : Stated.kept s pa) : Stated.kept t pa := by
  unfold Stated.kept; rw [hd]; exact h

/-- The bytes of a line are the same where memory agrees on it. -/
theorem State.homeByte_congr {s t : State} (hd : t.discarded = s.discarded) {pa : Nat} (h : Memory.read t.mem pa = Memory.read s.mem pa) :
    t.homeByte pa = s.homeByte pa := by
  simp only [State.homeByte, hd, h]

/-! ### Fields of records -/

/-- A field that starts behind the first bytes is a field of the rest. -/
theorem fieldAt_append_right {a b : List Byte} {k n : Nat} (h : a.length ≤ k) : fieldAt (a ++ b) k n = fieldAt b (k - a.length) n := by
  rw [fieldAt, fieldAt, List.drop_append, List.drop_of_length_le h, List.nil_append]

/-- A field that is the first bytes. -/
theorem fieldAt_leBytes_append (n v : Nat) (b : List Byte) : fieldAt (leBytes n v ++ b) 0 n = v % 256 ^ n := by
  rw [fieldAt, List.drop_zero, List.take_left' (length_leBytes n v), leValue_leBytes]

theorem length_faultRecord (cause source access asid hartid : Nat) (pc : Word) (tval elem lend base stride remain tag : Nat) :
    (faultRecord cause source access asid hartid pc tval elem lend base stride remain tag).length = 64 := by
  simp [faultRecord]

/-- A fault record holds its fields (R336). -/
theorem holds_faultRecord (cause source access asid hartid : Nat) (pc : Word) (tval elem lend base stride remain tag : Nat) :
    let fs := [(0, 1, cause), (1, 1, source), (2, 1, access), (3, 1, 0), (4, 4, asid * 65536 + hartid), (8, 8, pc.toNat), (16, 8, tval), (24, 4, elem),
      (28, 4, lend), (32, 8, base), (40, 8, stride), (48, 8, remain), (56, 4, tag), (60, 4, 0)]
    Stated.fits fs → Stated.holds (faultRecord cause source access asid hartid pc tval elem lend base stride remain tag) fs := by
  intro fs hfit f hf
  rw [← Nat.mod_eq_of_lt (hfit f hf)]
  simp only [fs, List.mem_cons, List.not_mem_nil, or_false] at hf
  have hlast : fieldAt (leBytes 4 0) 0 4 = 0 % 256 ^ 4 := by simpa using fieldAt_leBytes_append 4 0 []
  rcases hf with rfl | rfl | rfl | rfl | rfl | rfl | rfl | rfl | rfl | rfl | rfl | rfl | rfl | rfl <;>
    simp [faultRecord, List.append_assoc, fieldAt_append_right, fieldAt_leBytes_append, -Nat.reducePow, hlast]

end Sys2Proof.Machine

/-! SUPPORT. FEND: what it flushes, and the hart that it retires (R142, R212, R213, R216). -/

namespace Sys2Proof.Machine

/-! ### What the flushes leave -/

theorem State.merge_scache (s : State) (line : Nat) (data : BitVec 512) (mask : BitVec 64) (who : List Nat) :
    (s.merge line data mask who).hart.scache = s.hart.scache := by
  have hmsc (t : State) (pa : Nat) : (t.noteMsc pa who).hart = t.hart := by
    unfold State.noteMsc
    split
    · split <;> rfl
    · rfl
  unfold State.merge
  split
  · rfl
  · exact (storeWork_fire _ _).scache.trans ((congrArg Hart.scache (hmsc _ _)).trans (storeWork_revive _ _).scache)

theorem State.wbLine_scache (s : State) (core who : Nat) (l : SLine) : (s.wbLine core who l).hart.scache = s.hart.scache := by
  unfold State.wbLine
  split
  · rfl
  · exact State.merge_scache _ _ _ _ _

/-- A fold whose steps keep a part of the state keeps it. -/
theorem foldl_keeps {α β : Type} {f : State → α → State} {g : State → β} (h : ∀ s a, g (f s a) = g s) (l : List α) (s : State) :
    g (l.foldl f s) = g s := by
  induction l generalizing s with
  | nil => rfl
  | cons a l ih => exact (ih _).trans (h s a)

theorem State.flushVdc_scache (s : State) (p : VLine → Bool) (drop : Bool) : (s.flushVdc p drop).hart.scache = s.hart.scache :=
  foldl_keeps (g := fun s => s.hart.scache) (fun s _ => State.merge_scache s _ _ _ _) _ s

/-- The lines that a hart's own flush names are clean after it. -/
theorem State.flushScalar_scache (s : State) (p : SLine → Bool) :
    (s.flushScalar s.hart p false).hart.scache = s.hart.scache.map (fun l => if p l then { l with dirty := 0 } else l) := by
  have hwork : HomeWork s ((s.hart.scache.filter p).foldl (fun s' l => s'.wbLine s.hart.coreId s.hart.loc l) s) :=
    .foldl (fun s' l => homeWork_wbLine s' _ _ l) _ s
  have hscache := foldl_keeps (g := fun s => s.hart.scache) (fun s' l => State.wbLine_scache s' s.hart.coreId s.hart.loc l) (s.hart.scache.filter p) s
  simp only [State.flushScalar, State.updHart, State.mapHarts, hwork.loc, if_true, Bool.false_eq_true, if_false]
  rw [hscache]

/-- A release at scope P leaves no dirty byte in the hart's scalar lines, but for those of SWM pages (R211, R213). -/
theorem scalarClean_release (s : State) : Stated.scalarClean (s.release 3) := by
  have hrel : (s.release 3).hart.scache = (s.flushScalar s.hart (fun l => !l.swm) false).hart.scache := State.flushVdc_scache _ _ _
  unfold Stated.scalarClean
  rw [hrel, State.flushScalar_scache]
  intro l hl
  obtain ⟨k, -, rfl⟩ := List.mem_map.1 hl
  by_cases hk : k.swm = true <;> simp [hk]

/-- No line that a flush drops is left in the vector data caches. -/
theorem State.flushVdc_dropped (s : State) (p : VLine → Bool) : ∀ l ∈ (s.flushVdc p true).vdc, p l = false := by
  intro l hl
  have := (List.mem_filter.1 hl).2
  simpa using this

/-- No entry that has been appended is left in the collector. -/
theorem State.appendRanges_collector (s : State) (p : CollEntry → Bool) : ∀ e ∈ (s.appendRanges p).collector, p e = false := by
  intro e he
  have hcoll := (homeWork_foldl_appendRange (s.collector.filter p) s).2.2.2
  rw [State.appendRanges, hcoll, List.mem_filter] at he
  obtain ⟨hmem, hnot⟩ := he
  by_contra hp
  simp [hmem, hp] at hnot

/-- The state `t` is one in which FEND of `s` has flushed: the caches and the collector keep nothing of the hart (R142 steps 2 to 4). -/
structure Flushed (s t : State) : Prop extends HomeWork s t where
  clean : Stated.scalarClean t
  slices : ∀ l ∈ t.vdc, l.core = s.hart.coreId → s.hart.ep.lg.getLsbD (sliceOf l.line) = false
  ranges : ∀ e ∈ t.collector, e.core = s.hart.coreId → e.asid ≠ s.hart.asid

/-- FEND's flushes. -/
def State.fendFlushes (s : State) : State :=
  let u := s.release 3
  (u.flushSlices u.hart.coreId u.hart.ep.lg).appendRanges (fun e => e.core == u.hart.coreId && e.asid == u.hart.asid)

theorem flushed_fendFlushes (s : State) : Flushed s s.fendFlushes := by
  have key : ∀ u, HomeWork s u → Stated.scalarClean u →
      Flushed s ((u.flushSlices u.hart.coreId u.hart.ep.lg).appendRanges (fun e => e.core == u.hart.coreId && e.asid == u.hart.asid)) := by
    intro u hu hclean
    have hsl := homeWork_flushSlices u u.hart.coreId u.hart.ep.lg
    obtain ⟨hap, hvdc, hscache, -⟩ := homeWork_foldl_appendRange ((u.flushSlices u.hart.coreId u.hart.ep.lg).collector.filter
      (fun e => e.core == u.hart.coreId && e.asid == u.hart.asid)) (u.flushSlices u.hart.coreId u.hart.ep.lg)
    have hkeep : (u.flushSlices u.hart.coreId u.hart.ep.lg).hart.scache = u.hart.scache := State.flushVdc_scache _ _ _
    refine ⟨(hu.trans hsl).trans hap, ?_, ?_, ?_⟩
    · intro l hl
      exact hclean l (by rw [← hkeep, ← hscache]; exact hl)
    · intro l hl hcore
      have hp := State.flushVdc_dropped u (fun l => l.core == u.hart.coreId && u.hart.ep.lg.getLsbD (sliceOf l.line)) l
        (by rw [State.appendRanges, hvdc] at hl; exact hl)
      rw [hu.coreId, hu.ep] at hp
      simpa [hcore] using hp
    · intro e he hcore hasid
      have hp := State.appendRanges_collector _ _ e he
      rw [hu.coreId, hu.asid] at hp
      simp [hcore, hasid] at hp
  exact key _ (homeWork_release_three s) (scalarClean_release s)

theorem Flushed.pot {s t u : State} (h : Flushed s t) (k : PotWork t u) : Flushed s u where
  toHomeWork := h.toHomeWork.trans k.toHomeWork
  clean := fun l hl => h.clean l (by rw [← k.scache]; exact hl)
  slices := fun l hl => h.slices l (by rw [← k.vdc]; exact hl)
  ranges := fun e he => h.ranges e (by rw [← k.collector]; exact he)

/-! ### The retirement (R142) -/

theorem potWork_lastOnCore (s : State) (h : Hart) (f : Farm) : PotWork s (s.lastOnCore h f) := by
  unfold State.lastOnCore
  split
  · exact .refl s
  · split
    · exact .refl s
    · exact potWork_returnStack _ _

/-- FEND retires, and its hart has ended. -/
def State.endsHere (s : State) : State := { s.retire with hart := s.retire.hart.ended }

theorem hartEnded_endsHere {s t : State} (h : Flushed s t) : Stated.hartEnded s t.endsHere :=
  ⟨rfl, rfl, rfl, h.x, h.ep, congrArg (· + 1) h.instret, h.clean, h.slices, h.ranges⟩

/-- The core's stack of the farm's pot goes home before the hart ends. -/
def State.fendStacks (s : State) (f : Farm) : State :=
  if f.pot = 0 then s.fendFlushes else s.fendFlushes.lastOnCore (s.release 3).hart f

theorem flushed_fendStacks (s : State) (f : Farm) : Flushed s (s.fendStacks f) := by
  unfold State.fendStacks
  split
  · exact flushed_fendFlushes s
  · exact (flushed_fendFlushes s).pot (potWork_lastOnCore _ _ _)

/-- The farm has one retired hart more, the last one at `loc`. -/
def Farm.lost (loc : Nat) (pc : Word) (f : Farm) : Farm := { f with retired := f.retired + 1, lastLoc := loc, lastPc := pc }

/-- A farm that is changed is found with its change. -/
theorem State.find_updFarm (s : State) {g : Farm → Farm} (hg : ∀ f, (g f).asid = f.asid ∧ (g f).handle = f.handle) (a h : Nat) :
    (s.updFarm a h g).farms.find? (fun f => f.asid == a && f.handle == h) = (s.farms.find? (fun f => f.asid == a && f.handle == h)).map g := by
  have hpred : (fun f : Farm => f.asid == a && f.handle == h) ∘ (fun f : Farm => if f.asid = a && f.handle = h then g f else f)
      = fun f : Farm => f.asid == a && f.handle == h := by
    funext f
    simp only [Function.comp_apply]
    split
    · rw [(hg f).1, (hg f).2]
    · rfl
  show (s.farms.map _).find? _ = _
  rw [List.find?_map, hpred]
  cases hf : s.farms.find? (fun f => f.asid == a && f.handle == h) with
  | none => rfl
  | some f =>
    have hm := List.find?_some hf
    simp only [Option.map_some, Option.some.injEq]
    rw [if_pos (by simpa using hm)]

/-- The farm of a hart has the hart's context and handle. -/
theorem farmHere_eq {s : State} {f : Farm} (h : s.farmHere = some f) : f.asid = s.hart.asid ∧ f.handle = s.hart.farm := by
  simpa using List.find?_some h

theorem farmHere_of_homeWork {s t : State} (h : HomeWork s t) : t.farmHere = s.farmHere := by
  unfold State.farmHere
  rw [h.farms, h.asid, h.farm]

/-- FEND by whether its hart's farm stands, and whether that has retired all its harts. -/
theorem State.fend_eq (s : State) : s.fend = match s.fendFlushes.farmHere with
    | none => s.fendFlushes.endsHere
    | some f =>
      let u := (s.fendStacks f).endsHere.updFarm f.asid f.handle (Farm.lost (s.release 3).hart.loc (s.release 3).hart.sc.pc)
      match u.farms.find? (fun g => g.asid == f.asid && g.handle == f.handle) with
      | none => u
      | some g => if g.retired = g.harts then u.completeFarm g else u := by
  unfold State.fend State.fendStacks
  rfl

/-- FEND of a hart without a farm. -/
theorem State.fend_of_no_farm {s : State} (h : s.farmHere = none) : s.fend = s.fendFlushes.endsHere := by
  have hfarm : s.fendFlushes.farmHere = none := (farmHere_of_homeWork (flushed_fendFlushes s).toHomeWork).trans h
  rw [State.fend_eq, hfarm]

/-- The state in which FEND has counted its hart in its farm. -/
def State.fendCounts (s : State) (f : Farm) : State :=
  (s.fendStacks f).endsHere.updFarm f.asid f.handle (Farm.lost s.hart.loc s.hart.sc.pc)

/-- The farm is found with its hart counted. -/
theorem State.find_fendCounts {s : State} {f : Farm} (h : s.farmHere = some f) :
    (s.fendCounts f).farms.find? (fun g => g.asid == f.asid && g.handle == f.handle) = some (f.lost s.hart.loc s.hart.sc.pc) := by
  have hfarms : (s.fendStacks f).endsHere.farms = s.farms := (flushed_fendStacks s f).toHomeWork.farms
  have hfind : s.farms.find? (fun g => g.asid == f.asid && g.handle == f.handle) = some f := by
    rw [(farmHere_eq h).1, (farmHere_eq h).2]; exact h
  rw [State.fendCounts, State.find_updFarm _ (g := Farm.lost _ _) (fun _ => ⟨rfl, rfl⟩), hfarms, hfind]
  rfl

/-- FEND of a hart of a farm: the last hart completes the farm. -/
theorem State.fend_of_farm {s : State} {f : Farm} (h : s.farmHere = some f) : s.fend =
    if f.retired + 1 = f.harts then (s.fendCounts f).completeFarm (f.lost s.hart.loc s.hart.sc.pc) else s.fendCounts f := by
  have hfarm : s.fendFlushes.farmHere = some f := (farmHere_of_homeWork (flushed_fendFlushes s).toHomeWork).trans h
  have hcount : (s.fendStacks f).endsHere.updFarm f.asid f.handle (Farm.lost (s.release 3).hart.loc (s.release 3).hart.sc.pc) = s.fendCounts f := by
    rw [(homeWork_release_three s).loc, (homeWork_release_three s).pc]; rfl
  rw [State.fend_eq, hfarm]
  dsimp only
  rw [hcount, State.find_fendCounts h]
  rfl

theorem hartEnded_fendCounts (s : State) (f : Farm) : Stated.hartEnded s (s.fendCounts f) := hartEnded_endsHere (flushed_fendStacks s f)

end Sys2Proof.Machine

/-! SUPPORT. The completion of a farm: barriers and pots at home, the end of its holdings, and the record of one that parks (R142, R255, R257). -/

namespace Sys2Proof.Machine

/-! ### Values of a line that stands -/

/-- A line at home whose page stands, in canonical memory. -/
structure LineAt (s : State) (pa : Nat) : Prop where
  align : pa % 64 = 0
  kept : Stated.kept s pa
  wf : Memory.wf s.mem = true

/-- The values of a line are those of memory. -/
theorem LineAt.value {s : State} {pa : Nat} (h : LineAt s pa) (k : Nat) {n : Nat} (hk : k + n ≤ 64) :
    Stated.valueAt s (pa + k) n = Memory.readNat s.mem (pa + k) n := by
  rw [valueAt_eq_homeNat, State.homeNat_of_kept h.align h.kept hk]

theorem LineAt.byte {s : State} {pa : Nat} (h : LineAt s pa) {k : Nat} (hk : k < 64) : s.homeByte (pa + k) = Memory.read s.mem (pa + k) :=
  State.homeByte_of_kept (kept_in_line h.align h.kept hk)

/-- The line stands after bytes were written and nothing was discarded. -/
theorem LineAt.of_writeN {s t : State} {pa a : Nat} {bs : List Byte} (h : LineAt s pa) (hm : t.mem = Memory.writeN s.mem a bs)
    (hd : t.discarded = s.discarded) : LineAt t pa :=
  ⟨h.align, kept_congr hd h.kept, by rw [hm]; exact Memory.wf_writeN _ _ h.wf⟩

theorem valueAt_lt (s : State) (pa n : Nat) : Stated.valueAt s pa n < 256 ^ n := by
  induction n generalizing pa with
  | zero => simp [Stated.valueAt]
  | succ n ih =>
    have h := ih (pa + 1)
    have hb : (s.homeByte pa).toNat < 256 := (s.homeByte pa).isLt
    rw [Stated.valueAt, Nat.pow_succ']
    omega

/-! ### Barriers (R255, R257) -/

theorem State.barCount_eq (s : State) (pa : Nat) : s.barCount pa = (Stated.barrier s pa).1 := (valueAt_eq_homeNat s pa 4).symm
theorem State.barArrived_eq (s : State) (pa : Nat) : s.barArrived pa = (Stated.barrier s pa).2.1 := (valueAt_eq_homeNat s (pa + 4) 4).symm
theorem State.barPending_eq (s : State) (pa : Nat) : s.barPending pa = (Stated.barrier s pa).2.2.1 := (valueAt_eq_homeNat s (pa + 8) 4).symm
theorem State.barPhase_eq (s : State) (pa : Nat) : s.barPhase pa = (Stated.barrier s pa).2.2.2 := (valueAt_eq_homeNat s (pa + 12) 4).symm

/-- The object keeps R257 exactly where it is a barrier. -/
theorem State.barOk_iff (s : State) (pa : Nat) : s.barOk pa = true ↔ ¬ Stated.noBarrier s pa := by
  have hbytes : (s.homeBytes (pa + 16) 48).all (· == 0) = true ↔ ¬ ∃ i, 16 ≤ i ∧ i < 64 ∧ s.homeByte (pa + i) ≠ 0 := by
    simp only [State.homeBytes, range, List.all_map, List.all_eq_true, List.mem_range, Function.comp_apply, beq_iff_eq, not_exists, not_and, not_not]
    constructor
    · intro h i h1 h2
      have := h (i - 16) (by omega)
      rwa [show pa + 16 + (i - 16) = pa + i by omega] at this
    · intro h x hx
      rw [Nat.add_assoc]
      exact h (16 + x) (by omega) (by omega)
  rw [State.barOk, Bool.and_eq_true, hbytes, State.barCount_eq, Stated.noBarrier, not_or]
  simp [Stated.barrier]

section
variable {s : State} {pa : Nat} (h : LineAt s pa)
include h

/-- What a barrier's update writes. -/
theorem State.barSet_mem (arrived pending : Nat) : ∃ bs : List Byte, bs.length ≤ 12 ∧ (s.barSet pa arrived pending).discarded = s.discarded
    ∧ (s.barSet pa arrived pending).mem = Memory.writeN s.mem (pa + 4) bs
    ∧ bs = if arrived = s.barCount pa ∧ pending = 0 then leBytes 4 0 ++ leBytes 4 0 ++ leBytes 4 (s.barPhase pa + 1)
        else leBytes 4 arrived ++ leBytes 4 pending := by
  unfold State.barSet
  rw [State.revive_of_kept h.kept]
  dsimp only
  split
  · next hc => exact ⟨_, by simp, State.homeStore_discarded _ _ _, State.homeStore_mem _ _ _, (if_pos (by simpa using hc)).symm⟩
  · next hc => exact ⟨_, by simp, State.homeStore_discarded _ _ _, State.homeStore_mem _ _ _, (if_neg (by simpa using hc)).symm⟩

theorem lineAt_barSet (arrived pending : Nat) : LineAt (s.barSet pa arrived pending) pa := by
  obtain ⟨bs, -, hd, hm, -⟩ := State.barSet_mem h arrived pending
  exact h.of_writeN hm hd

/-- An update of a barrier leaves its COUNT. -/
theorem count_barSet (arrived pending : Nat) : Stated.valueAt (s.barSet pa arrived pending) pa 4 = Stated.valueAt s pa 4 := by
  obtain ⟨bs, hlen, hd, hm, -⟩ := State.barSet_mem h arrived pending
  have h0 := (lineAt_barSet h arrived pending).value 0 (n := 4) (by omega)
  have h1 := h.value 0 (n := 4) (by omega)
  rw [Nat.add_zero] at h0 h1
  rw [h0, h1, hm, Memory.readNat_writeN_apart h.wf (by omega)]

/-- A barrier after ARRIVED and PENDING take new values. -/
theorem barrier_barSet {arrived pending : Nat} (ha : arrived < 2 ^ 32) (hp : pending < 2 ^ 32) :
    Stated.barrier (s.barSet pa arrived pending) pa
      = Stated.barrierAfter (Stated.barrier s pa).1 arrived pending (Stated.barrier s pa).2.2.2 := by
  obtain ⟨bs, hlen, hd, hm, hbs⟩ := State.barSet_mem h arrived pending
  have ht := lineAt_barSet h arrived pending
  have hval (k : Nat) (hk : k + 4 ≤ 64) : Stated.valueAt (s.barSet pa arrived pending) (pa + k) 4
      = Memory.readNat (Memory.writeN s.mem (pa + 4) bs) (pa + k) 4 := by rw [ht.value k hk, hm]
  have hphase : s.barPhase pa = Stated.valueAt s (pa + 12) 4 := State.barPhase_eq s pa
  have hcount := count_barSet h arrived pending
  rw [State.barCount_eq] at hbs
  unfold Stated.barrierAfter
  by_cases hc : arrived = (Stated.barrier s pa).1 ∧ pending = 0
  · rw [if_pos hc] at hbs ⊢
    have hw1 := Memory.wf_writeN (pa + 4) (leBytes 4 0) h.wf
    have hw2 := Memory.wf_writeN (pa + 8) (leBytes 4 0) hw1
    have hsplit : Memory.writeN s.mem (pa + 4) bs = Memory.writeN (Memory.writeN (Memory.writeN s.mem (pa + 4) (leBytes 4 0)) (pa + 8) (leBytes 4 0))
        (pa + 12) (leBytes 4 (s.barPhase pa + 1)) := by
      rw [hbs, Memory.writeN_append, Memory.writeN_append]
      simp
    have h4 : Stated.valueAt (s.barSet pa arrived pending) (pa + 4) 4 = 0 := by
      rw [hval 4 (by omega), hsplit, Memory.readNat_writeN_apart hw2 (by omega), Memory.readNat_writeN_apart hw1 (by omega),
        Memory.readNat_writeN_same h.wf]
      rfl
    have h8 : Stated.valueAt (s.barSet pa arrived pending) (pa + 8) 4 = 0 := by
      rw [hval 8 (by omega), hsplit, Memory.readNat_writeN_apart hw2 (by omega), Memory.readNat_writeN_same hw1]
      rfl
    have h12 : Stated.valueAt (s.barSet pa arrived pending) (pa + 12) 4 = (Stated.valueAt s (pa + 12) 4 + 1) % 2 ^ 32 := by
      rw [hval 12 (by omega), hsplit, Memory.readNat_writeN_same hw2, hphase]
      rfl
    simp only [Stated.barrier, hcount, h4, h8, h12]
  · rw [if_neg hc] at hbs ⊢
    have hw1 := Memory.wf_writeN (pa + 4) (leBytes 4 arrived) h.wf
    have hsplit : Memory.writeN s.mem (pa + 4) bs = Memory.writeN (Memory.writeN s.mem (pa + 4) (leBytes 4 arrived)) (pa + 8) (leBytes 4 pending) := by
      rw [hbs, Memory.writeN_append]
      simp
    have h4 : Stated.valueAt (s.barSet pa arrived pending) (pa + 4) 4 = arrived := by
      rw [hval 4 (by omega), hsplit, Memory.readNat_writeN_apart hw1 (by omega), Memory.readNat_writeN_same h.wf]
      exact Nat.mod_eq_of_lt ha
    have h8 : Stated.valueAt (s.barSet pa arrived pending) (pa + 8) 4 = pending := by
      rw [hval 8 (by omega), hsplit, Memory.readNat_writeN_same hw1]
      exact Nat.mod_eq_of_lt hp
    have h12 : Stated.valueAt (s.barSet pa arrived pending) (pa + 12) 4 = Stated.valueAt s (pa + 12) 4 := by
      rw [hval 12 (by omega), h.value 12 (by omega), hsplit, Memory.readNat_writeN_apart hw1 (by simp), Memory.readNat_writeN_apart h.wf (by simp)]
    simp only [Stated.barrier, hcount, h4, h8, h12]

/-- An update of a barrier leaves it one. -/
theorem noBarrier_barSet (arrived pending : Nat) : Stated.noBarrier (s.barSet pa arrived pending) pa ↔ Stated.noBarrier s pa := by
  obtain ⟨bs, hlen, hd, hm, -⟩ := State.barSet_mem h arrived pending
  have ht := lineAt_barSet h arrived pending
  have hcount := count_barSet h arrived pending
  have hbyte (i : Nat) (h1 : 16 ≤ i) (h2 : i < 64) : (s.barSet pa arrived pending).homeByte (pa + i) = s.homeByte (pa + i) := by
    rw [ht.byte h2, h.byte h2, hm, Memory.read_writeN _ _ _ h.wf, if_neg (by omega)]
  unfold Stated.noBarrier
  rw [hcount]
  refine or_congr Iff.rfl (exists_congr fun i => ?_)
  constructor <;> rintro ⟨h1, h2, h3⟩
  · exact ⟨h1, h2, by rwa [hbyte i h1 h2] at h3⟩
  · exact ⟨h1, h2, by rwa [hbyte i h1 h2]⟩

/-- A barrier as its next operation finds it. -/
theorem barNorm_spec (hb : ¬ Stated.noBarrier s pa) :
    LineAt (s.barNorm pa) pa ∧ Stated.barrier (s.barNorm pa) pa = Stated.barrierNow s pa ∧ ¬ Stated.noBarrier (s.barNorm pa) pa := by
  have harr : (Stated.barrier s pa).2.1 < 2 ^ 32 := valueAt_lt s (pa + 4) 4
  unfold State.barNorm
  simp only [(State.barOk_iff s pa).2 hb, State.barArrived_eq, State.barCount_eq, State.barPending_eq, Bool.true_and, Bool.and_eq_true, beq_iff_eq]
  split
  · next hc =>
    refine ⟨lineAt_barSet h _ _, ?_, fun hn => hb ((noBarrier_barSet h _ _).1 hn)⟩
    rw [barrier_barSet h harr (by omega), Stated.barrierNow, hc.2]
  · next hc =>
    refine ⟨h, ?_, hb⟩
    rw [Stated.barrierNow]
    simp only [Stated.barrierAfter, if_neg hc]

omit h in
/-- Where no arrival can be counted, nothing is normalised either. -/
theorem barNorm_of_full (hb : Stated.noBarrier s pa ∨ (Stated.barrierNow s pa).1 ≤ (Stated.barrierNow s pa).2.1) : s.barNorm pa = s := by
  unfold State.barNorm
  split
  · next hc =>
    exfalso
    simp only [Bool.and_eq_true, beq_iff_eq, State.barArrived_eq, State.barCount_eq, State.barPending_eq] at hc
    obtain ⟨⟨hok, harr⟩, hpend⟩ := hc
    have hno := (State.barOk_iff s pa).1 hok
    have hpos : (Stated.barrier s pa).1 ≠ 0 := fun h0 => hno (.inl h0)
    rcases hb with hb | hb
    · exact hno hb
    · simp only [Stated.barrierNow, Stated.barrierAfter, harr, hpend, and_self, if_true] at hb
      omega
  · rfl

/-- A barrier that can count an arrival counts it. -/
theorem barArrive_spec (hb : ¬ Stated.noBarrier s pa) (hlt : (Stated.barrierNow s pa).2.1 < (Stated.barrierNow s pa).1) :
    ∃ v, (s.barNorm pa).barArrive pa = some v ∧ LineAt v pa ∧ Stated.barrier v pa = Stated.barrierAfter (Stated.barrierNow s pa).1
      ((Stated.barrierNow s pa).2.1 + 1) (Stated.barrierNow s pa).2.2.1 (Stated.barrierNow s pa).2.2.2 := by
  obtain ⟨hline, hbar, hno⟩ := barNorm_spec h hb
  have hcount : (Stated.barrierNow s pa).1 < 2 ^ 32 := by rw [← hbar]; exact valueAt_lt _ _ 4
  have hpend : (Stated.barrierNow s pa).2.2.1 < 2 ^ 32 := by rw [← hbar]; exact valueAt_lt _ _ 4
  refine ⟨(s.barNorm pa).barSet pa ((Stated.barrierNow s pa).2.1 + 1) (Stated.barrierNow s pa).2.2.1, ?_, lineAt_barSet hline _ _, ?_⟩
  · unfold State.barArrive
    simp only [State.barArrived_eq, State.barCount_eq, State.barPending_eq, hbar]
    rw [if_pos]
    simp only [(State.barOk_iff _ _).2 hno, Bool.true_and, decide_eq_true_eq]
    omega
  · rw [barrier_barSet hline (by omega) hpend, hbar]

/-- An object that breaks R257, or a barrier that expects no further arrival, counts none. -/
theorem barArrive_none (hb : Stated.noBarrier s pa ∨ (Stated.barrierNow s pa).1 ≤ (Stated.barrierNow s pa).2.1) :
    (s.barNorm pa).barArrive pa = none := by
  rw [barNorm_of_full hb]
  unfold State.barArrive
  rw [if_neg]
  simp only [Bool.and_eq_true, decide_eq_true_eq, not_and, State.barOk_iff]
  intro hno
  have hle := hb.resolve_left hno
  obtain ⟨-, hbar, -⟩ := barNorm_spec h hno
  rw [barNorm_of_full hb] at hbar
  rw [State.barArrived_eq, State.barCount_eq, hbar]
  omega

end

end Sys2Proof.Machine

/-! SUPPORT. How a farm's completion ends, and O42. -/

namespace Sys2Proof.Machine

/-! ### The end of a farm's holdings (R203) -/

/-- `t` is `s` after scratchpads were zeroed and holdings have ended: no byte of global memory has changed. -/
structure PadWork (s t : State) : Prop where
  rest : t = { s with mem := t.mem, holders := t.holders, usedPads := t.usedPads }
  wf : Memory.wf s.mem = true → Memory.wf t.mem = true
  read : Memory.wf s.mem = true → ∀ a < 2 ^ 52, Memory.read t.mem a = Memory.read s.mem a

theorem PadWork.refl (s : State) : PadWork s s := ⟨rfl, id, fun _ _ _ => rfl⟩

theorem PadWork.trans {s t u : State} (h : PadWork s t) (k : PadWork t u) : PadWork s u where
  rest := k.rest.trans (by rw [h.rest])
  wf := fun w => k.wf (h.wf w)
  read := fun w a ha => (k.read (h.wf w) a ha).trans (h.read w a ha)

theorem padWork_cleanPad (s : State) (core : Nat) : PadWork s (s.cleanPad core) := by
  unfold State.cleanPad
  split
  · refine ⟨rfl, Memory.wf_clear _ _, fun w a ha => ?_⟩
    rw [Memory.read_clear _ _ _ w, if_neg]
    unfold padAddr
    omega
  · exact .refl s

theorem padWork_endHolds (s : State) (asid : Nat) : PadWork s (s.endHolds asid) := by
  have hfold : ∀ (l : List Nat) (t : State), PadWork t (l.foldl State.cleanPad t) := by
    intro l
    induction l with
    | nil => exact .refl
    | cons a l ih => exact fun t => (padWork_cleanPad t a).trans (ih _)
  unfold State.endHolds
  split
  · exact .refl s
  · dsimp only
    refine PadWork.trans ?_ (hfold _ _)
    exact ⟨rfl, id, fun _ _ _ => rfl⟩

theorem PadWork.hart {s t : State} (h : PadWork s t) : t.hart = s.hart := by rw [h.rest]
theorem PadWork.farms {s t : State} (h : PadWork s t) : t.farms = s.farms := by rw [h.rest]
theorem PadWork.potStacks {s t : State} (h : PadWork s t) : t.potStacks = s.potStacks := by rw [h.rest]
theorem PadWork.discarded {s t : State} (h : PadWork s t) : t.discarded = s.discarded := by rw [h.rest]

/-- No value of global memory changes with the holdings. -/
theorem PadWork.value {s t : State} (h : PadWork s t) (w : Memory.wf s.mem = true) {pa n : Nat} (hpa : pa + n ≤ 2 ^ 52) :
    Stated.valueAt t pa n = Stated.valueAt s pa n := by
  induction n generalizing pa with
  | zero => rfl
  | succ n ih =>
    rw [Stated.valueAt, Stated.valueAt, ih (by omega), State.homeByte_congr h.discarded (h.read w pa (by omega))]

/-! ### The ends of a completion (R142) -/

/-- The farm's slots are free. -/
def State.farmEnds (s : State) (f : Farm) : State :=
  ({ s with farms := s.farms.filter (fun g => !(g.asid == f.asid && g.handle == f.handle)) }).endHolds f.asid

/-- The fault record of a completion. -/
def Farm.faultBytes (f : Farm) (cause : Nat) (dev : Bool) : List Byte :=
  faultRecord cause 3 (accessByte .rmw (if nbit f.flags 0 then 3 else 2) dev) f.asid f.lastLoc f.lastPc f.done 0 0 0 0 0 f.handle

/-- The completion parks. -/
def State.farmParks (s : State) (f : Farm) (cause : Nat) (dev : Bool) : State :=
  let t := s.updFarm f.asid f.handle (fun g => { g with state := 3 })
  { t with faults := t.faults ++ [⟨f.lastLoc / 64, .farm f.asid f.handle, f.faultBytes cause dev, none⟩] }

/-- The object's own fault (R248, R257). -/
def Farm.ownFault (f : Farm) : Nat := if nbit f.flags 0 then 0x17 else 0x18

/-- A completion on an object that is found. -/
def State.farmArrives (s : State) (f : Farm) (pa : Nat) : State :=
  if nbit f.flags 0 then
    if s.isPot pa && s.potKind pa = 0 then ((s.potAdd pa 1).1.progress f.asid).farmEnds f else s.farmParks f f.ownFault false
  else match (s.barNorm pa).barArrive pa with
    | some s => (s.progress f.asid).farmEnds f
    | none => (s.barNorm pa).farmParks f f.ownFault false

/-- A farm that names no object, or whose context is gone, completes at once. -/
theorem State.completeFarm_of_no_object {s : State} {f : Farm} (h : f.done = 0 ∨ s.ctxOf f.asid = none) : s.completeFarm f = s.farmEnds f := by
  unfold State.completeFarm State.farmEnds
  by_cases h0 : f.done = 0
  · simp only [h0, if_true]
  · simp only [h0, if_false, h.resolve_left h0]

/-- An address of 2^52 or more parks the completion. -/
theorem State.completeFarm_of_far {s : State} {f : Farm} {c : Context} (h0 : f.done ≠ 0) (hc : s.ctxOf f.asid = some c) (h : 2 ^ 52 ≤ f.done) :
    s.completeFarm f = s.farmParks f f.ownFault false := by
  unfold State.completeFarm State.farmParks Farm.faultBytes Farm.ownFault
  simp only [h0, if_false, hc, h, if_true]

section
variable {s u : State} {f : Farm} {c : Context} (h0 : f.done ≠ 0) (hc : s.ctxOf f.asid = some c) (h : f.done < 2 ^ 52)
include h0 hc h

theorem State.completeFarm_of_wait (ho : s.object c (16 * (f.lastLoc / 64)) f.done f.ownFault = .wait u) : s.completeFarm f = u := by
  unfold Farm.ownFault at ho
  unfold State.completeFarm
  simp only [h0, if_false, hc, Nat.not_le.2 h, ho]

theorem State.completeFarm_of_fault {cause : Nat} {dev : Bool} (ho : s.object c (16 * (f.lastLoc / 64)) f.done f.ownFault = .fault u cause dev) :
    s.completeFarm f = u.farmParks f cause dev := by
  unfold Farm.ownFault at ho
  unfold State.completeFarm State.farmParks Farm.faultBytes
  simp only [h0, if_false, hc, Nat.not_le.2 h, ho]

theorem State.completeFarm_of_ok {pa : Nat} (ho : s.object c (16 * (f.lastLoc / 64)) f.done f.ownFault = .ok u pa) :
    s.completeFarm f = u.farmArrives f pa := by
  unfold Farm.ownFault at ho
  unfold State.completeFarm
  simp only [h0, if_false, hc, Nat.not_le.2 h, ho]
  unfold State.farmArrives Farm.ownFault
  by_cases hflag : nbit f.flags 0 = true
  · simp only [hflag, if_true]
    by_cases hpot : (u.isPot pa && decide (u.potKind pa = 0)) = true
    · rw [if_pos hpot, if_pos hpot]; rfl
    · rw [if_neg hpot, if_neg hpot]
      unfold State.farmParks Farm.faultBytes
      simp only [hflag, if_true]
  · simp only [hflag]
    cases harr : (u.barNorm pa).barArrive pa with
    | none => 
      unfold State.farmParks Farm.faultBytes
      simp only [hflag]
      rfl
    | some v => rfl

end

theorem nbit_zero (n : Nat) : nbit n 0 = true ↔ n % 2 = 1 := by simp [nbit]

theorem Farm.ownFault_eq (f : Farm) : f.ownFault = if f.flags % 2 = 1 then 0x17 else 0x18 := by
  unfold Farm.ownFault
  simp only [nbit_zero]

theorem farmGone_farmEnds {s u : State} {f : Farm} (h : u.farms = s.farms) : Stated.farmGone s (u.farmEnds f) f := by
  unfold Stated.farmGone State.farmEnds
  rw [(padWork_endHolds _ _).farms]
  show u.farms.filter _ = _
  rw [h]
  exact List.filter_congr fun g _ => by rw [Bool.eq_iff_iff]; simp

theorem completionParked_farmParks (s : State) (f : Farm) (cause : Nat) (dev : Bool) : Stated.completionParked s (s.farmParks f cause dev) f cause dev := by
  have haccess : accessByte .rmw (if nbit f.flags 0 then 3 else 2) dev = 3 + 4 * (if f.flags % 2 = 1 then 3 else 2) + if dev = true then 128 else 0 := by
    simp only [nbit_zero]; rfl
  refine ⟨f.faultBytes cause dev, length_faultRecord .., fun hfit => ?_, ?_⟩
  · rw [Farm.faultBytes, haccess]
    exact holds_faultRecord _ _ _ _ _ _ _ _ _ _ _ _ _ hfit
  · have hmap : s.farms.map (fun g => if g.asid = f.asid && g.handle = f.handle then { g with state := 3 } else g)
        = s.farms.map (fun g => if g.asid = f.asid ∧ g.handle = f.handle then { g with state := 3 } else g) :=
      List.map_congr_left fun g _ => by simp
    unfold State.farmParks State.updFarm
    rw [hmap]

/-- A farm that ends leaves the hart that executes. -/
theorem State.farmEnds_hart (s : State) (f : Farm) : (s.farmEnds f).hart = s.hart := (padWork_endHolds _ _).hart

theorem State.farmParks_hart (s : State) (f : Farm) (cause : Nat) (dev : Bool) : (s.farmParks f cause dev).hart = s.hart := rfl

/-- An arrival is work of the home. -/
theorem storeWork_barArrive {s v : State} {pa : Nat} (h : s.barArrive pa = some v) : StoreWork s v := by
  unfold State.barArrive at h
  split at h
  · cases h; exact storeWork_barSet _ _ _ _
  · cases h

theorem State.farmArrives_hart {s : State} (f : Farm) (pa : Nat) (q : s.hart.sc.monitor = none) : (s.farmArrives f pa).hart = s.hart := by
  have hnorm := (storeWork_barNorm s pa).hart_of_quiet q
  unfold State.farmArrives
  split
  · split
    · simp only [State.farmEnds_hart, State.progress_hart]
      exact (storeWork_potAdd s pa 1).hart_of_quiet q
    · exact State.farmParks_hart _ _ _ _
  · split
    · next v harr =>
      have hwork := (storeWork_barNorm s pa).trans (storeWork_barArrive harr)
      simp only [State.farmEnds_hart, State.progress_hart]
      exact hwork.hart_of_quiet q
    · exact (State.farmParks_hart _ _ _ _).trans hnorm

theorem State.object_wait_hart {s u : State} {c : Context} {core va cause : Nat} (h : s.object c core va cause = .wait u) : u.hart = s.hart := by
  unfold State.object at h
  split at h
  · cases h
  · split at h
    · cases h
    · split at h
      · split at h <;> cases h
      · cases h
      · cases h; rfl
      · cases h
        unfold State.stall
        split <;> rfl

theorem State.farmEnds_potStacks (s : State) (f : Farm) : (s.farmEnds f).potStacks = s.potStacks := (padWork_endHolds _ _).potStacks

/-- A completion leaves a hart without a monitor as it is. -/
theorem State.completeFarm_hart {s : State} (f : Farm) (q : s.hart.sc.monitor = none) : (s.completeFarm f).hart = s.hart := by
  by_cases hnone : f.done = 0 ∨ s.ctxOf f.asid = none
  · rw [State.completeFarm_of_no_object hnone, State.farmEnds_hart]
  · obtain ⟨h0, hctx⟩ := not_or.1 hnone
    obtain ⟨c, hc⟩ := Option.ne_none_iff_exists'.1 hctx
    by_cases hlt : f.done < 2 ^ 52
    · cases hobj : s.object c (16 * (f.lastLoc / 64)) f.done f.ownFault with
      | wait u => rw [State.completeFarm_of_wait h0 hc hlt hobj, State.object_wait_hart hobj]
      | fault u cause dev =>
        rw [State.completeFarm_of_fault h0 hc hlt hobj, State.farmParks_hart, (storeWork_object_fault hobj).hart_of_quiet q]
      | ok u pa =>
        have hu := (storeWork_object_ok hobj).hart_of_quiet q
        rw [State.completeFarm_of_ok h0 hc hlt hobj, State.farmArrives_hart f pa (by rw [hu]; exact q), hu]
    · rw [State.completeFarm_of_far h0 hc (Nat.not_lt.1 hlt), State.farmParks_hart]

/-! ### Pots (R250) -/

/-- RESID after an amount is added, which saturates. -/
theorem resid_potAdd {s : State} {pa : Nat} (h : LineAt s pa) (n : Nat) :
    Stated.resid (s.potAdd pa n).1 pa = min (Stated.resid s pa + n) (2 ^ 64 - 1) ∧ Memory.wf (s.potAdd pa n).1.mem = true := by
  have hresid : s.potResid pa = Stated.resid s pa := (valueAt_eq_homeNat s pa 8).symm
  have hset (v : Nat) : LineAt (s.poke pa 8 v) pa ∧ Stated.resid (s.poke pa 8 v) pa = v % 2 ^ 64 := by
    have hmem : (s.poke pa 8 v).mem = Memory.writeN s.mem pa (leBytes 8 v) := by rw [State.poke_of_kept h.kept]
    have hline : LineAt (s.poke pa 8 v) pa := h.of_writeN hmem (by rw [State.poke_of_kept h.kept])
    have hval := hline.value 0 (n := 8) (by omega)
    rw [Nat.add_zero, hmem, Memory.readNat_writeN_same h.wf] at hval
    exact ⟨hline, hval⟩
  unfold State.potAdd
  dsimp only
  rw [hresid]
  split
  · next hle =>
    unfold potMax at hle
    exact ⟨by rw [(hset _).2]; omega, (hset _).1.wf⟩
  · next hgt =>
    obtain ⟨hline, hval⟩ := hset potMax
    have hkept : Stated.kept (s.poke pa 8 potMax) (pa + 19) := kept_in_line hline.align hline.kept (by omega)
    generalize (s.potFlags pa / 2 * 2 + 1) = fl
    have hmem : ((s.poke pa 8 potMax).poke (pa + 19) 1 fl).mem = Memory.writeN (s.poke pa 8 potMax).mem (pa + 19) (leBytes 1 fl) := by
      rw [State.poke_of_kept hkept]
    have hline' : LineAt ((s.poke pa 8 potMax).poke (pa + 19) 1 fl) pa := hline.of_writeN hmem (by rw [State.poke_of_kept hkept])
    have h1 := hline'.value 0 (n := 8) (by omega)
    rw [hmem, Memory.readNat_writeN_apart hline.wf (by omega), ← hline.value 0 (by omega)] at h1
    refine ⟨?_, hline'.wf⟩
    unfold potMax at hgt hval h1 ⊢
    exact h1.trans (hval.trans (by omega))

/-! ### O42 -/

/-- FEND of a hart of which nothing is incomplete. -/
theorem exec_fend_completes {s : State} (hc : s.hart.ctl = false) (hq : s.hart.ep.queue = []) (hcopies : ∀ c ∈ s.copies, c.owner ≠ s.hart.owner)
    (hbks : ∀ c ∈ s.bks, c.owner ≠ s.hart.owner) : exec .fend s = .next s.fend := by
  have h1 : s.copiesDone none = true := by simpa [State.copiesDone] using hcopies
  have h2 : s.bksDone none = true := by simpa [State.bksDone] using hbks
  show execFend s = _
  simp [execFend, hc, drain_of_queue_nil hq, h1, h2]

/-- FEND of a hart with an incomplete command waits. -/
theorem exec_fend_waits {s : State} (hc : s.hart.ctl = false) (hq : s.hart.ep.queue = [])
    (h : (∃ c ∈ s.copies, c.owner = s.hart.owner) ∨ ∃ c ∈ s.bks, c.owner = s.hart.owner) :
    exec .fend s = .next { s with hart := { s.hart with waiting := false } } := by
  have hdone : (s.copiesDone none && s.bksDone none) = false := by
    rw [Bool.and_eq_false_iff]
    refine h.imp ?_ ?_ <;> rintro ⟨c, hc, ho⟩
    · simpa [State.copiesDone] using ⟨c, hc, ho⟩
    · simpa [State.bksDone] using ⟨c, hc, ho⟩
  show execFend s = _
  simp [execFend, hc, drain_of_queue_nil hq, hdone, waitHere]

theorem fendRetiresItsHart : Stated.FendRetiresItsHart := by
  refine ⟨fun s hc hq hcopies hbks _ => ⟨fun hmore => ⟨_, exec_fend_completes hc hq hcopies hbks, ?_, ?_⟩, fun f hf hlast => ?_⟩,
    fun s hc hq h => exec_fend_waits hc hq h⟩
  · cases hf : s.farmHere with
    | none => rw [State.fend_of_no_farm hf]; exact hartEnded_endsHere (flushed_fendFlushes s)
    | some f => rw [State.fend_of_farm hf, if_neg (hmore f hf).ne]; exact hartEnded_fendCounts s f
  · intro f hf
    rw [State.fend_of_farm hf, if_neg (hmore f hf).ne]
    exact ⟨_, List.mem_of_find?_eq_some (State.find_fendCounts hf), rfl, rfl, rfl⟩
  · have hg : f.lost s.hart.loc s.hart.sc.pc = { f with retired := f.harts, lastLoc := s.hart.loc, lastPc := s.hart.sc.pc } := by
      simp [Farm.lost, hlast]
    have hended := hartEnded_fendCounts s f
    refine ⟨s.fendCounts f, hended, ?_, ?_, ?_⟩
    · rw [← hg]; exact List.mem_of_find?_eq_some (State.find_fendCounts hf)
    · rw [exec_fend_completes hc hq hcopies hbks, State.fend_of_farm hf, if_pos hlast, hg]
    · exact State.completeFarm_hart _ hended.2.2.1

/-- A value of the object stands through the end of the farm. -/
theorem value_farmEnds {s : State} {f : Farm} (w : Memory.wf s.mem = true) {pa n : Nat} (hpa : pa + n ≤ 2 ^ 52) :
    Stated.valueAt ((s.progress f.asid).farmEnds f) pa n = Stated.valueAt s pa n := by
  let t : State := { s.progress f.asid with farms := (s.progress f.asid).farms.filter (fun g => !(g.asid == f.asid && g.handle == f.handle)) }
  have hpad : PadWork t ((s.progress f.asid).farmEnds f) := padWork_endHolds t f.asid
  have hval : Stated.valueAt t pa n = Stated.valueAt s pa n := by
    rw [valueAt_eq_homeNat, valueAt_eq_homeNat]
    rfl
  exact (hpad.value w hpa).trans hval

section
variable {u : State} {f : Farm} {pa : Nat} (h : LineAt u pa) (hpa : pa < 2 ^ 52)
include h hpa

/-- The completion of a farm on a barrier (R142, R257). -/
theorem farmArrives_barrier (hf : f.flags % 2 = 0) :
    let b := Stated.barrierNow u pa
    (¬ Stated.noBarrier u pa → b.2.1 < b.1 → Stated.farmGone u (u.farmArrives f pa) f
      ∧ Stated.barrier (u.farmArrives f pa) pa = Stated.barrierAfter b.1 (b.2.1 + 1) b.2.2.1 b.2.2.2)
    ∧ (Stated.noBarrier u pa ∨ b.1 ≤ b.2.1 → Stated.completionParked u (u.farmArrives f pa) f 0x18 false) := by
  have hflag : nbit f.flags 0 = false := by simp [nbit, hf]
  have hown : f.ownFault = 0x18 := by simp [Farm.ownFault, hflag]
  have halign := h.align
  refine ⟨fun hno hroom => ?_, fun hfull => ?_⟩
  · obtain ⟨v, harr, hv, hbarrier⟩ := barArrive_spec h hno hroom
    have hwork := (storeWork_barNorm u pa).trans (storeWork_barArrive harr)
    have heq : u.farmArrives f pa = (v.progress f.asid).farmEnds f := by simp [State.farmArrives, hflag, harr]
    rw [heq]
    refine ⟨farmGone_farmEnds hwork.farms, ?_⟩
    rw [← hbarrier]
    simp only [Stated.barrier]
    rw [value_farmEnds hv.wf (by omega), value_farmEnds hv.wf (by omega), value_farmEnds hv.wf (by omega), value_farmEnds hv.wf (by omega)]
  · have hnone := barArrive_none h hfull
    rw [barNorm_of_full hfull] at hnone
    have heq : u.farmArrives f pa = u.farmParks f 0x18 false := by simp [State.farmArrives, hflag, hnone, barNorm_of_full hfull, hown]
    rw [heq]
    exact completionParked_farmParks _ _ _ _

/-- The completion of a farm on a pot (R142, R250). -/
theorem farmArrives_pot (hf : f.flags % 2 = 1) :
    (u.isPot pa = true → Stated.kindOf u pa = 0 → Stated.farmGone u (u.farmArrives f pa) f
      ∧ Stated.resid (u.farmArrives f pa) pa = min (Stated.resid u pa + 1) (2 ^ 64 - 1) ∧ (u.farmArrives f pa).potStacks = u.potStacks)
    ∧ (u.isPot pa = false ∨ Stated.kindOf u pa ≠ 0 → Stated.completionParked u (u.farmArrives f pa) f 0x17 false) := by
  have hflag : nbit f.flags 0 = true := (nbit_zero _).2 hf
  have hown : f.ownFault = 0x17 := by simp [Farm.ownFault, hflag]
  have hkindOf : u.potKind pa = Stated.kindOf u pa := (valueAt_eq_homeNat u (pa + 18) 1).symm
  have halign := h.align
  refine ⟨fun hpot hkind => ?_, fun hnot => ?_⟩
  · obtain ⟨hresid, hwf⟩ := resid_potAdd h 1
    have hwork := storeWork_potAdd u pa 1
    have heq : u.farmArrives f pa = ((u.potAdd pa 1).1.progress f.asid).farmEnds f := by simp [State.farmArrives, hflag, hpot, hkindOf, hkind]
    rw [heq]
    generalize (u.potAdd pa 1).1 = v at hresid hwf hwork
    have hval := value_farmEnds (f := f) (pa := pa) (n := 8) hwf (by omega)
    exact ⟨farmGone_farmEnds hwork.farms, hval.trans hresid, (State.farmEnds_potStacks _ _).trans hwork.potStacks⟩
  · have hif : ¬(u.isPot pa && decide (u.potKind pa = 0)) = true := by
      rw [hkindOf]
      rcases hnot with hnot | hnot <;> simp [hnot]
    have heq : u.farmArrives f pa = u.farmParks f 0x17 false := by
      unfold State.farmArrives
      rw [if_pos hflag, if_neg hif, hown]
    rw [heq]
    exact completionParked_farmParks _ _ _ _

end

theorem farmsComplete : Stated.FarmsComplete := by
  intro s f c hc t own
  have hown : f.ownFault = own := f.ownFault_eq
  refine ⟨fun h0 => ?_, fun hbig => ?_, fun h0 hlt => ⟨fun u cause dev hobj => ?_, fun u hobj => ?_, fun u pa hobj halign hpa hkept hwf => ?_⟩⟩
  · show Stated.farmGone s (s.completeFarm f) f
    rw [State.completeFarm_of_no_object (.inl h0)]
    exact farmGone_farmEnds rfl
  · show Stated.completionParked s (s.completeFarm f) f own false
    rw [State.completeFarm_of_far (by omega) hc hbig, hown]
    exact completionParked_farmParks _ _ _ _
  · show Stated.completionParked u (s.completeFarm f) f cause dev
    rw [← hown] at hobj
    rw [State.completeFarm_of_fault h0 hc hlt hobj]
    exact completionParked_farmParks _ _ _ _
  · rw [← hown] at hobj
    exact State.completeFarm_of_wait h0 hc hlt hobj
  · rw [← hown] at hobj
    have ht : t = u.farmArrives f pa := State.completeFarm_of_ok h0 hc hlt hobj
    have hline : LineAt u pa := ⟨halign, hkept, hwf⟩
    rw [ht]
    exact ⟨farmArrives_barrier hline hpa, farmArrives_pot hline hpa⟩

/-- Settles O42: FEND's flushes leave nothing of its hart in the caches, and a completion ends or parks its farm by its object. -/
theorem fendsAndCompletions : Obligations.FendsAndCompletions := ⟨fendRetiresItsHart, farmsComplete⟩

end Sys2Proof.Machine

/-! SUPPORT. Index-valued pots: each operation of the home and of a core's table keeps every index in its one place, or takes it away (R141, R247). -/

namespace Sys2Proof.Machine

/-! ### Ranges of indices -/

/-- The ranges of a list that hold index `i`. -/
def holdsIndex (rs : List (Nat × Nat)) (i : Nat) : Nat := rs.countP (fun r => r.1 ≤ i && i < r.2)

/-- Whether the range lo to hi - 1 holds index `i`. -/
def inRange (lo hi i : Nat) : Nat := if lo ≤ i ∧ i < hi then 1 else 0

theorem holdsIndex_cons (r : Nat × Nat) (rs : List (Nat × Nat)) (i : Nat) : holdsIndex (r :: rs) i = holdsIndex rs i + inRange r.1 r.2 i := by
  simp [holdsIndex, inRange, List.countP_cons]

theorem holdsIndex_append (rs qs : List (Nat × Nat)) (i : Nat) : holdsIndex (rs ++ qs) i = holdsIndex rs i + holdsIndex qs i :=
  List.countP_append

/-- A range that joins ranges apart from it brings its indices, and no range is empty. -/
theorem holdsIndex_addRange (rs : List (Nat × Nat)) (lo hi : Nat) (hne : ∀ r ∈ rs, r.1 < r.2)
    (h : ∀ i, holdsIndex rs i + inRange lo hi i ≤ 1) :
    (∀ i, holdsIndex (addRange rs lo hi) i = holdsIndex rs i + inRange lo hi i) ∧ ∀ r ∈ addRange rs lo hi, r.1 < r.2 := by
  have hempty (hle : hi ≤ lo) (i : Nat) : inRange lo hi i = 0 := if_neg (by omega)
  induction rs generalizing lo hi with
  | nil =>
    unfold addRange
    split
    · next hle => exact ⟨fun i => by simp [hempty hle], by simp⟩
    · next hlt => exact ⟨fun i => by rw [holdsIndex_cons], by simpa using hlt⟩
  | cons r rs ih =>
    obtain ⟨a, b⟩ := r
    have hab : a < b := hne (a, b) (by simp)
    have hrs : ∀ r ∈ rs, r.1 < r.2 := fun r hr => hne r (by simp [hr])
    have hcons (i : Nat) : holdsIndex rs i + inRange a b i + inRange lo hi i ≤ 1 := by have := h i; rwa [holdsIndex_cons] at this
    unfold addRange
    split
    · next hle => exact ⟨fun i => by simp [hempty hle], hne⟩
    · next hlt =>
      split
      · refine ⟨fun i => by rw [holdsIndex_cons], ?_⟩
        intro r hr
        rcases List.mem_cons.1 hr with rfl | hr
        · simpa using hlt
        · exact hne r hr
      · split
        · obtain ⟨hcount, hmem⟩ := ih lo hi hrs (fun i => by have := hcons i; omega) hempty
          refine ⟨fun i => by simp only [holdsIndex_cons, hcount]; omega, ?_⟩
          intro r hr
          rcases List.mem_cons.1 hr with rfl | hr
          · exact hab
          · exact hmem r hr
        · next hgap1 hgap2 =>
          have htouch (i : Nat) : inRange (min a lo) (max b hi) i = inRange a b i + inRange lo hi i := by
            have ha := hcons a
            have hl := hcons lo
            have hi' := hcons i
            unfold inRange at ha hl hi' ⊢
            split_ifs at ha hl hi' ⊢ <;> omega
          obtain ⟨hcount, hmem⟩ := ih (min a lo) (max b hi) hrs (fun i => by rw [htouch]; have := hcons i; omega)
            (fun hle => by omega)
          exact ⟨fun i => by simp only [holdsIndex_cons, hcount, htouch]; omega, hmem⟩

/-! ### Where the indices of a pot stand -/

/-- The home ranges of a pot. -/
def State.homeRanges (s : State) (pa : Nat) : List (Nat × Nat) := (s.ranges.filter (fun r => r.pa == pa)).flatMap (·.ranges)

/-- The stacks of a pot that hold index `i`. -/
def stackedIndex (ks : List Stack) (pa i : Nat) : Nat := ks.countP (fun k => k.pa == pa && k.lo ≤ i && i < k.hi)

theorem places_eq (s : State) (pa i : Nat) : Stated.places s pa i = holdsIndex (s.homeRanges pa) i + stackedIndex s.potStacks pa i := rfl

theorem stackedIndex_cons (k : Stack) (ks : List Stack) (pa i : Nat) :
    stackedIndex (k :: ks) pa i = stackedIndex ks pa i + if k.pa = pa then inRange k.lo k.hi i else 0 := by
  unfold stackedIndex inRange
  rw [List.countP_cons]
  by_cases hk : k.pa = pa <;> simp [hk]

/-- The stacks' keys: one stack for a core, context and pot. -/
def stackKeys (ks : List Stack) : List (Nat × Nat × Nat) := ks.map (fun k => (k.core, k.asid, k.pa))

/-- Taking one of distinct stacks out of a table takes its indices out. -/
theorem stackedIndex_remove {ks : List Stack} (hn : ks.Nodup) {k : Stack} (hk : k ∈ ks) (pa i : Nat) :
    stackedIndex (ks.filter (· != k)) pa i + (if k.pa = pa then inRange k.lo k.hi i else 0) = stackedIndex ks pa i := by
  induction ks with
  | nil => simp at hk
  | cons a ks ih =>
    obtain ⟨hna, hnk⟩ := List.nodup_cons.1 hn
    by_cases ha : a = k
    · subst ha
      have hrest : ks.filter (· != a) = ks := List.filter_eq_self.2 fun b hb => by
        simp only [bne_iff_ne, ne_eq]
        exact fun h => hna (h ▸ hb)
      rw [List.filter_cons_of_neg (by simp), hrest, stackedIndex_cons]
    · have hk' : k ∈ ks := (List.mem_cons.1 hk).resolve_left fun h => ha h.symm
      rw [List.filter_cons_of_pos (by simpa using ha), stackedIndex_cons, stackedIndex_cons, ← ih hnk hk']
      omega

/-! ### The home of an index-valued pot -/

/-- An index-valued pot's line at home and its ranges there. -/
structure IndexHome (s : State) (pa : Nat) : Prop extends LineAt s pa where
  kind : s.potKind pa = 1
  single : (s.ranges.map (·.pa)).Nodup
  nonempty : ∀ r ∈ s.homeRanges pa, r.1 < r.2

/-- The record of a pot's ranges is found. -/
theorem IndexHome.rangesOf {s : State} {pa : Nat} (h : (s.ranges.map (·.pa)).Nodup) : s.rangesOf pa = s.homeRanges pa := by
  unfold State.rangesOf State.homeRanges
  generalize s.ranges = l at h ⊢
  induction l with
  | nil => rfl
  | cons r rs ih =>
    rw [List.map_cons, List.nodup_cons] at h
    by_cases hr : r.pa = pa
    · have hrest : rs.filter (fun r => r.pa == pa) = [] := List.filter_eq_nil_iff.2 fun q hq => by
        simp only [beq_iff_eq]
        exact fun hqp => h.1 (List.mem_map.2 ⟨q, hq, hqp.trans hr.symm⟩)
      simp [hr, hrest]
    · have hb : (r.pa == pa) = false := by simpa using hr
      rw [List.find?_cons, hb, List.filter_cons_of_neg (by simp [hr])]
      exact ih h.2

/-- The ranges of a pot's home once they are replaced. -/
def replaceRanges (l : List RangeSet) (pa : Nat) (rs : List (Nat × Nat)) : List RangeSet :=
  if rs.isEmpty then l.filter (fun r => r.pa != pa) else ⟨pa, rs⟩ :: l.filter (fun r => r.pa != pa)

theorem State.setRanges_eq (s : State) (pa : Nat) (rs : List (Nat × Nat)) :
    s.setRanges pa rs = ({ s with ranges := replaceRanges s.ranges pa rs }).poke pa 8 (rangeCount rs) := rfl

theorem replaceRanges_home (l : List RangeSet) (pa : Nat) (rs : List (Nat × Nat)) (q : Nat) :
    ((replaceRanges l pa rs).filter (fun r => r.pa == q)).flatMap (·.ranges)
      = if q = pa then rs else (l.filter (fun r => r.pa == q)).flatMap (·.ranges) := by
  have hrest : (l.filter (fun r => r.pa != pa)).filter (fun r => r.pa == q) = if q = pa then [] else l.filter (fun r => r.pa == q) := by
    rw [List.filter_filter]
    split
    · next h => exact List.filter_eq_nil_iff.2 fun r _ => by simp [h]
    · next h =>
      refine List.filter_congr fun r _ => ?_
      by_cases hr : r.pa = q
      · simp [hr, h]
      · simp [hr]
  unfold replaceRanges
  split
  · next he =>
    rw [hrest]
    split
    · simpa using he
    · rfl
  · rw [List.filter_cons]
    split
    · next hq =>
      have hq' : q = pa := (by simpa using hq : pa = q).symm
      rw [hrest, if_pos hq', if_pos hq']
      simp
    · next hq =>
      have hq' : q ≠ pa := fun h => hq (by simp [h])
      rw [hrest, if_neg hq', if_neg hq']

theorem replaceRanges_single {l : List RangeSet} (h : (l.map (·.pa)).Nodup) (pa : Nat) (rs : List (Nat × Nat)) :
    ((replaceRanges l pa rs).map (·.pa)).Nodup := by
  have hrest : ((l.filter (fun r => r.pa != pa)).map (·.pa)).Nodup := h.sublist (List.filter_sublist.map _)
  unfold replaceRanges
  split
  · exact hrest
  · rw [List.map_cons, List.nodup_cons]
    refine ⟨?_, hrest⟩
    simp

/-- A change of a line's bytes up to KIND leaves an index-valued pot one. -/
theorem IndexHome.poke {s : State} {pa : Nat} (h : IndexHome s pa) {k : Nat} (hk : k + 8 ≤ 18) (v : Nat) : IndexHome (s.poke (pa + k) 8 v) pa := by
  have hkept : Stated.kept s (pa + k) := kept_in_line h.align h.kept (by omega)
  have hmem : (s.poke (pa + k) 8 v).mem = Memory.writeN s.mem (pa + k) (leBytes 8 v) := by rw [State.poke_of_kept hkept]
  have hranges : (s.poke (pa + k) 8 v).ranges = s.ranges := (storeWork_poke _ _ _ _).ranges
  have hline : LineAt (s.poke (pa + k) 8 v) pa := h.toLineAt.of_writeN hmem (by rw [State.poke_of_kept hkept])
  have hkind : (s.poke (pa + k) 8 v).potKind pa = s.potKind pa := by
    show State.homeNat _ (pa + 18) 1 = s.homeNat (pa + 18) 1
    rw [← valueAt_eq_homeNat, ← valueAt_eq_homeNat, hline.value 18 (by omega), h.toLineAt.value 18 (by omega), hmem,
      Memory.readNat_writeN_apart h.wf (by simp only [length_leBytes]; omega)]
  exact ⟨hline, hkind.trans h.kind, by rw [hranges]; exact h.single, by unfold State.homeRanges; rw [hranges]; exact h.nonempty⟩

/-- A pot whose home ranges are replaced by others. -/
theorem IndexHome.setRanges {s : State} {pa : Nat} (h : IndexHome s pa) {rs : List (Nat × Nat)} (hrs : ∀ r ∈ rs, r.1 < r.2) :
    IndexHome (s.setRanges pa rs) pa ∧ (s.setRanges pa rs).homeRanges pa = rs ∧ (s.setRanges pa rs).potStacks = s.potStacks := by
  have hhome : State.homeRanges { s with ranges := replaceRanges s.ranges pa rs } pa = rs := by
    show ((replaceRanges s.ranges pa rs).filter _).flatMap _ = rs
    rw [replaceRanges_home, if_pos rfl]
  have hnew : IndexHome { s with ranges := replaceRanges s.ranges pa rs } pa :=
    ⟨⟨h.align, h.kept, h.wf⟩, h.kind, replaceRanges_single h.single pa rs, by rw [hhome]; exact hrs⟩
  have hwork := storeWork_poke { s with ranges := replaceRanges s.ranges pa rs } pa 8 (rangeCount rs)
  rw [State.setRanges_eq]
  refine ⟨hnew.poke (k := 0) (by omega) _, ?_, hwork.potStacks⟩
  have heq : (State.poke { s with ranges := replaceRanges s.ranges pa rs } pa 8 (rangeCount rs)).homeRanges pa
      = State.homeRanges { s with ranges := replaceRanges s.ranges pa rs } pa := by
    unfold State.homeRanges
    rw [hwork.ranges]
  rw [heq, hhome]

/-- The home ranges of another pot stand. -/
theorem State.setRanges_homeRanges_other (s : State) {pa q : Nat} (hq : q ≠ pa) (rs : List (Nat × Nat)) :
    (s.setRanges pa rs).homeRanges q = s.homeRanges q := by
  rw [State.setRanges_eq]
  unfold State.homeRanges
  rw [(storeWork_poke _ _ _ _).ranges]
  exact (replaceRanges_home _ _ _ _).trans (if_neg hq)

/-! ### Stacks go home (R247) -/

/-- A stack that is not of the pot goes home: the pot's places stand. -/
theorem State.returnStack_other {s : State} {k : Stack} {pa : Nat} (hk : k.pa ≠ pa) :
    (s.returnStack k).homeRanges pa = s.homeRanges pa ∧ (s.returnStack k).potStacks = s.potStacks.filter (· != k) := by
  let t : State := { s with potStacks := s.potStacks.filter (· != k) }
  show (if t.potKind k.pa = 1 then t.setRanges k.pa (addRange (t.rangesOf k.pa) k.lo k.hi) else (t.potAdd k.pa k.amount).1).homeRanges pa = t.homeRanges pa
    ∧ (if t.potKind k.pa = 1 then t.setRanges k.pa (addRange (t.rangesOf k.pa) k.lo k.hi) else (t.potAdd k.pa k.amount).1).potStacks = t.potStacks
  split
  · exact ⟨State.setRanges_homeRanges_other t (Ne.symm hk) _, (storeWork_poke _ _ _ _).potStacks⟩
  · have hwork := storeWork_potAdd t k.pa k.amount
    refine ⟨?_, hwork.potStacks⟩
    unfold State.homeRanges
    rw [hwork.ranges]

/-- A stack of an index-valued pot goes home: its indices join those there. -/
theorem State.returnStack_same {s : State} {k : Stack} (h : IndexHome s k.pa)
    (hapart : ∀ i, holdsIndex (s.homeRanges k.pa) i + inRange k.lo k.hi i ≤ 1) :
    IndexHome (s.returnStack k) k.pa
    ∧ (∀ i, holdsIndex ((s.returnStack k).homeRanges k.pa) i = holdsIndex (s.homeRanges k.pa) i + inRange k.lo k.hi i)
    ∧ (s.returnStack k).potStacks = s.potStacks.filter (· != k) := by
  have ht : IndexHome { s with potStacks := s.potStacks.filter (· != k) } k.pa := ⟨⟨h.align, h.kept, h.wf⟩, h.kind, h.single, h.nonempty⟩
  obtain ⟨hcount, hmem⟩ := holdsIndex_addRange (s.homeRanges k.pa) k.lo k.hi h.nonempty hapart
  have heq : s.returnStack k = State.setRanges { s with potStacks := s.potStacks.filter (· != k) } k.pa (addRange (s.homeRanges k.pa) k.lo k.hi) := by
    unfold State.returnStack
    dsimp only
    rw [if_pos ht.kind, IndexHome.rangesOf ht.single]
    rfl
  obtain ⟨hhome, hranges, hstacks⟩ := ht.setRanges hmem
  rw [heq]
  exact ⟨hhome, fun i => by rw [hranges, hcount], hstacks⟩

/-- A pot's indices each have at most one place, its home keeps them, and its table has one stack for a core, context and pot. -/
structure IndexPot (s : State) (pa : Nat) : Prop extends IndexHome s pa where
  once : ∀ i, Stated.places s pa i ≤ 1
  keys : (stackKeys s.potStacks).Nodup

theorem nodup_of_keys {ks : List Stack} (h : (stackKeys ks).Nodup) : ks.Nodup := List.Nodup.of_map _ h

theorem keys_filter {ks : List Stack} (h : (stackKeys ks).Nodup) (p : Stack → Bool) : (stackKeys (ks.filter p)).Nodup :=
  h.sublist (List.filter_sublist.map _)

/-- A stack that goes home moves its indices, and each keeps its place count. -/
theorem places_returnStack {s : State} {pa : Nat} (h : IndexPot s pa) {k : Stack} (hk : k ∈ s.potStacks) :
    (∀ i, Stated.places (s.returnStack k) pa i = Stated.places s pa i) ∧ (s.returnStack k).potStacks = s.potStacks.filter (· != k) := by
  have hremove := stackedIndex_remove (nodup_of_keys h.keys) hk pa
  by_cases hkpa : k.pa = pa
  · subst hkpa
    obtain ⟨-, hhome, hstacks⟩ := State.returnStack_same h.toIndexHome fun i => by
      have h1 := h.once i
      have h2 := hremove i
      rw [places_eq] at h1
      rw [if_pos rfl] at h2
      omega
    refine ⟨fun i => ?_, hstacks⟩
    have h2 := hremove i
    rw [if_pos rfl] at h2
    rw [places_eq, places_eq, hhome, hstacks]
    omega
  · obtain ⟨hhome, hstacks⟩ := State.returnStack_other (s := s) hkpa
    refine ⟨fun i => ?_, hstacks⟩
    have h2 := hremove i
    rw [if_neg hkpa] at h2
    rw [places_eq, places_eq, hhome, hstacks]
    omega

/-- A pot keeps its form when one of its own stacks goes home. -/
theorem indexPot_returnStack {s : State} {k : Stack} (h : IndexPot s k.pa) (hk : k ∈ s.potStacks) : IndexPot (s.returnStack k) k.pa := by
  obtain ⟨hplaces, hstacks⟩ := places_returnStack h hk
  have hhome := (State.returnStack_same h.toIndexHome fun i => by
    have h1 := h.once i
    have h2 := stackedIndex_remove (nodup_of_keys h.keys) hk k.pa i
    rw [places_eq] at h1
    rw [if_pos rfl] at h2
    omega).1
  exact ⟨hhome, fun i => by rw [hplaces]; exact h.once i, by rw [hstacks]; exact keys_filter h.keys _⟩

/-- After a call-in every index of the pot is at home (R247). -/
theorem places_callIn {s : State} {pa : Nat} (h : IndexPot s pa) :
    IndexPot (s.callIn pa) pa ∧ (∀ i, Stated.places (s.callIn pa) pa i = Stated.places s pa i)
    ∧ (s.callIn pa).potStacks.filter (fun k => k.pa == pa) = [] := by
  have key : ∀ (l : List Stack) (t : State), IndexPot t pa → t.potStacks.filter (fun k => k.pa == pa) = l →
      IndexPot (l.foldl State.returnStack t) pa ∧ (∀ i, Stated.places (l.foldl State.returnStack t) pa i = Stated.places t pa i)
      ∧ (l.foldl State.returnStack t).potStacks.filter (fun k => k.pa == pa) = [] := by
    intro l
    induction l with
    | nil => exact fun t ht hl => ⟨ht, fun _ => rfl, hl⟩
    | cons k l ih =>
      intro t ht hl
      have hmem : k ∈ t.potStacks.filter (fun k => k.pa == pa) := by rw [hl]; simp
      obtain ⟨hk, hkpa⟩ := List.mem_filter.1 hmem
      have hkpa : k.pa = pa := by simpa using hkpa
      subst hkpa
      obtain ⟨hplaces, hstacks⟩ := places_returnStack ht hk
      have hnk : k ∉ l := by
        have hnodup := (nodup_of_keys ht.keys).filter (fun q => q.pa == k.pa)
        rw [hl] at hnodup
        exact (List.nodup_cons.1 hnodup).1
      have hrest : (t.returnStack k).potStacks.filter (fun q => q.pa == k.pa) = l := by
        rw [hstacks, List.filter_comm, hl, List.filter_cons_of_neg (by simp)]
        exact List.filter_eq_self.2 fun q hq => by
          simp only [bne_iff_ne, ne_eq]
          exact fun h => hnk (h ▸ hq)
      obtain ⟨hpot, hsame, hnone⟩ := ih (t.returnStack k) (indexPot_returnStack ht hk) hrest
      exact ⟨hpot, fun i => (hsame i).trans (hplaces i), hnone⟩
  obtain ⟨hpot, hsame, hnone⟩ := key _ s h rfl
  have hwork := storeWork_poke ((s.potStacks.filter (fun k => k.pa == pa)).foldl State.returnStack s) (pa + 8) 8 0
  have hplaces (i : Nat) : Stated.places (s.callIn pa) pa i
      = Stated.places ((s.potStacks.filter (fun k => k.pa == pa)).foldl State.returnStack s) pa i := by
    unfold State.callIn Stated.places
    rw [hwork.ranges, hwork.potStacks]
  refine ⟨⟨hpot.toIndexHome.poke (by omega) 0, fun i => ?_, ?_⟩, fun i => ?_, ?_⟩
  · rw [hplaces, hsame]; exact h.once i
  · unfold State.callIn; rw [hwork.potStacks]; exact hpot.keys
  · rw [hplaces, hsame]
  · unfold State.callIn; rw [hwork.potStacks]; exact hnone

end Sys2Proof.Machine

/-! SUPPORT. STRIP: the index that it takes had one place and has none, and every other index keeps its place (R140, R141). -/

namespace Sys2Proof.Machine

/-! ### A core's table -/

/-- The stacks but that of a core, context and pot. -/
def otherStacks (ks : List Stack) (core asid pa : Nat) : List Stack :=
  ks.filter (fun t => !(t.core == core && t.asid == asid && t.pa == pa))

/-- The stack of a core, context and pot is the only one that `otherStacks` leaves out. -/
theorem otherStacks_of_some {s : State} (h : (stackKeys s.potStacks).Nodup) {core asid pa : Nat} {k : Stack} (hk : s.stackOf core asid pa = some k) :
    otherStacks s.potStacks core asid pa = s.potStacks.filter (· != k) := by
  have hmem := List.mem_of_find?_eq_some hk
  have hkey : k.core = core ∧ k.asid = asid ∧ k.pa = pa := by
    have := List.find?_some hk
    simpa [and_assoc] using this
  obtain ⟨rfl, rfl, rfl⟩ := hkey
  refine List.filter_congr fun t ht => ?_
  rw [Bool.eq_iff_iff]
  simp only [Bool.not_eq_true', bne_iff_ne, ne_eq]
  constructor
  · rintro hne rfl
    simp at hne
  · intro hne
    by_contra hsame
    simp only [Bool.not_eq_false, Bool.and_eq_true, beq_iff_eq] at hsame
    exact hne (List.inj_on_of_nodup_map h ht hmem (by simp [hsame]))

theorem otherStacks_of_none {s : State} {core asid pa : Nat} (hk : s.stackOf core asid pa = none) : otherStacks s.potStacks core asid pa = s.potStacks := by
  refine List.filter_eq_self.2 fun t ht => ?_
  rw [Bool.not_eq_true']
  exact Bool.eq_false_iff.2 (List.find?_eq_none.1 hk t ht)

/-- Leaving stacks out leaves no more indices. -/
theorem stackedIndex_filter_le (ks : List Stack) (p : Stack → Bool) (pa i : Nat) : stackedIndex (ks.filter p) pa i ≤ stackedIndex ks pa i :=
  List.filter_sublist.countP_le

/-- A pot of which stacks are left out keeps its form. -/
theorem IndexPot.withStacks {s : State} {pa : Nat} (h : IndexPot s pa) (p : Stack → Bool) : IndexPot { s with potStacks := s.potStacks.filter p } pa := by
  refine ⟨⟨⟨h.align, h.kept, h.wf⟩, h.kind, h.single, h.nonempty⟩, fun i => ?_, keys_filter h.keys p⟩
  have h1 := h.once i
  have h2 := stackedIndex_filter_le s.potStacks p pa i
  rw [places_eq] at h1 ⊢
  show holdsIndex (s.homeRanges pa) i + stackedIndex (s.potStacks.filter p) pa i ≤ 1
  omega

/-- The least recently used stack of a full table goes home before another is put there (R247). -/
def State.evictFor (s : State) (core : Nat) : State :=
  match (s.potStacks.filter (fun t => t.core == core)).getLast? with
  | some old => if 32 ≤ (s.potStacks.filter (fun t => t.core == core)).length then s.returnStack old else s
  | none => s

theorem potWork_evictFor (s : State) (core : Nat) : PotWork s (s.evictFor core) := by
  unfold State.evictFor
  split
  · split
    · exact potWork_returnStack _ _
    · exact .refl s
  · exact .refl s

theorem places_evictFor {s : State} {pa : Nat} (h : IndexPot s pa) (core i : Nat) : Stated.places (s.evictFor core) pa i = Stated.places s pa i := by
  unfold State.evictFor
  split
  · next old hold =>
    split
    · exact (places_returnStack h (List.mem_of_mem_filter (List.mem_of_getLast? hold))).1 i
    · rfl
  · rfl

theorem State.putStack_eq (s : State) (k : Stack) : s.putStack k =
    let t : State := { s with potStacks := otherStacks s.potStacks k.core k.asid k.pa }
    if k.amount = 0 && k.hi ≤ k.lo then t else { t.evictFor k.core with potStacks := k :: (t.evictFor k.core).potStacks } := by
  unfold State.putStack State.evictFor otherStacks
  rfl

theorem potWork_putStack (s : State) (k : Stack) : PotWork s (s.putStack k) := by
  have hw : PotWork s { s with potStacks := otherStacks s.potStacks k.core k.asid k.pa } := potWork_of_eq rfl
  rw [State.putStack_eq]
  dsimp only
  split
  · exact hw
  · exact (hw.trans (potWork_evictFor _ _)).trans (potWork_of_eq rfl)

/-- Where the indices of a pot stand after the core's stack of it is replaced. -/
theorem places_putStack {s : State} {k : Stack} (h : IndexPot s k.pa) (i : Nat) : Stated.places (s.putStack k) k.pa i
    = holdsIndex (s.homeRanges k.pa) i + stackedIndex (otherStacks s.potStacks k.core k.asid k.pa) k.pa i + inRange k.lo k.hi i := by
  have hpot : IndexPot { s with potStacks := otherStacks s.potStacks k.core k.asid k.pa } k.pa := h.withStacks _
  rw [State.putStack_eq]
  dsimp only
  split
  · next hc =>
    have hempty : inRange k.lo k.hi i = 0 := if_neg (by simp at hc; omega)
    rw [hempty]
    rfl
  · have hevict := places_evictFor hpot k.core i
    rw [places_eq] at hevict ⊢
    rw [stackedIndex_cons, if_pos rfl, ← Nat.add_assoc]
    congr 1

/-! ### The highest indices at home -/

theorem State.takeTop_none {s : State} {pa g : Nat} (h : s.rangesOf pa = []) : s.takeTop pa g = (s, none) := by
  simp [State.takeTop, h]

/-- The ranges left at home once the `g` highest indices of the last range are taken. -/
def withoutTop (rs : List (Nat × Nat)) (lo hi g : Nat) : List (Nat × Nat) :=
  rs.dropLast ++ (if hi - min g (hi - lo) = lo then [] else [(lo, hi - min g (hi - lo))])

/-- The last range gives its highest indices. -/
theorem takeTop_some {s : State} {pa g lo hi : Nat} (h : IndexPot s pa) (hg : 1 ≤ g) (hlast : (s.homeRanges pa).getLast? = some (lo, hi)) :
    lo < hi ∧ (s.takeTop pa g).2 = some (hi - min g (hi - lo), hi) ∧ IndexPot (s.takeTop pa g).1 pa
    ∧ (∀ i, Stated.places (s.takeTop pa g).1 pa i + inRange (hi - min g (hi - lo)) hi i = Stated.places s pa i)
    ∧ (s.takeTop pa g).1.potStacks = s.potStacks := by
  have hsplit : s.homeRanges pa = (s.homeRanges pa).dropLast ++ [(lo, hi)] := (List.dropLast_append_getLast? _ hlast).symm
  have hlt : lo < hi := h.nonempty (lo, hi) (List.mem_of_getLast? hlast)
  have heq : s.takeTop pa g = (s.setRanges pa (withoutTop (s.homeRanges pa) lo hi g), some (hi - min g (hi - lo), hi)) := by
    unfold State.takeTop
    rw [IndexHome.rangesOf h.single]
    simp only [hlast]
    rfl
  have hne : ∀ r ∈ withoutTop (s.homeRanges pa) lo hi g, r.1 < r.2 := by
    intro r hr
    rcases List.mem_append.1 hr with hr | hr
    · exact h.nonempty r (List.dropLast_subset _ hr)
    · split at hr
      · simp at hr
      · next hneq =>
        rw [List.mem_singleton.1 hr]
        show lo < hi - min g (hi - lo)
        omega
  have hcount (i : Nat) : holdsIndex (withoutTop (s.homeRanges pa) lo hi g) i + inRange (hi - min g (hi - lo)) hi i = holdsIndex (s.homeRanges pa) i := by
    conv_rhs => rw [hsplit]
    unfold withoutTop
    rw [holdsIndex_append, holdsIndex_append, holdsIndex_cons, Nat.add_assoc]
    congr 1
    split
    · next heq => simp [holdsIndex, heq]
    · simp only [holdsIndex_cons]
      simp only [holdsIndex, List.countP_nil, Nat.zero_add, inRange]
      split_ifs <;> omega
  obtain ⟨hhome, hranges, hstacks⟩ := h.toIndexHome.setRanges hne
  have hplaces (i : Nat) : Stated.places (s.setRanges pa (withoutTop (s.homeRanges pa) lo hi g)) pa i + inRange (hi - min g (hi - lo)) hi i
      = Stated.places s pa i := by
    rw [places_eq, places_eq, hranges, hstacks, ← hcount i]
    omega
  rw [heq]
  refine ⟨hlt, rfl, ⟨hhome, fun i => ?_, ?_⟩, hplaces, hstacks⟩
  · have h1 := h.once i
    have h2 := hplaces i
    show Stated.places (s.setRanges pa (withoutTop (s.homeRanges pa) lo hi g)) pa i ≤ 1
    omega
  · show (stackKeys (s.setRanges pa (withoutTop (s.homeRanges pa) lo hi g)).potStacks).Nodup
    rw [hstacks]; exact h.keys

theorem potWork_takeTop (s : State) (pa g : Nat) : PotWork s (s.takeTop pa g).1 := by
  unfold State.takeTop
  dsimp only
  split
  · exact .refl s
  · exact potWork_setRanges _ _ _

/-! ### STRIP (R140) -/

/-- What a STRIP takes: from the core's own stack, else at the pot's home. -/
def State.stripped (s : State) (core asid va pa : Nat) : State × Option Nat :=
  match s.stripLocal core asid pa with
  | some r => (r.1, some r.2)
  | none => s.stripHome core asid va pa

theorem storeWork_setHolder (s : State) (pa core : Nat) : StoreWork s (s.setHolder pa core) := by
  unfold State.setHolder
  dsimp only
  split
  · exact .refl s
  · exact storeWork_poke _ _ _ _

theorem potWork_stripped (s : State) (core asid va pa : Nat) : PotWork s (s.stripped core asid va pa).1 := by
  unfold State.stripped
  split
  · next r hr =>
    unfold State.stripLocal at hr
    split at hr
    · split at hr <;> cases hr
      exact potWork_putStack _ _
    · cases hr
  · unfold State.stripHome
    dsimp only
    by_cases h0 : s.potResid pa = 0
    · have hw := (potWork_callIn s pa).trans (potWork_takeTop (s.callIn pa) pa 1)
      simp only [h0, if_true]
      split
      · next heq => rw [heq] at hw; exact hw
      · next heq => rw [heq] at hw; exact hw
    · have hw := (storeWork_setHolder s pa core).toPotWork.trans (potWork_takeTop (s.setHolder pa core) pa (max 1 (s.potResid pa / 8)))
      simp only [h0, if_false]
      split
      · next heq => rw [heq] at hw; exact hw
      · next heq => rw [heq] at hw; exact hw.trans (potWork_putStack _ _)

/-- The index that is taken had one place and has none; every other keeps its place. Or no place holds any. -/
def takesOne (s : State) (pa : Nat) (r : State × Option Nat) : Prop :=
  (r.2 = none ∧ ∀ i, Stated.places s pa i = 0)
  ∨ ∃ i, r.2 = some i ∧ Stated.places s pa i = 1 ∧ Stated.places r.1 pa i = 0 ∧ ∀ j, j ≠ i → Stated.places r.1 pa j = Stated.places s pa j

/-- One index of a pot taken away. -/
theorem takesOne_of_count {s t : State} {pa i : Nat} (h : ∀ j, Stated.places s pa j ≤ 1)
    (hcount : ∀ j, Stated.places t pa j + inRange i (i + 1) j = Stated.places s pa j) : takesOne s pa (t, some i) := by
  have hi : inRange i (i + 1) i = 1 := if_pos (by omega)
  have h1 := hcount i
  have h2 := h i
  refine .inr ⟨i, rfl, by omega, by show Stated.places t pa i = 0; omega, fun j hj => ?_⟩
  have hj' : inRange i (i + 1) j = 0 := if_neg (by omega)
  have h3 := hcount j
  show Stated.places t pa j = _
  omega

/-- The core's own stack gives its highest index. -/
theorem takesOne_stripLocal {s : State} {core asid pa : Nat} (h : IndexPot s pa) {r : State × Nat} (hr : s.stripLocal core asid pa = some r) :
    takesOne s pa (r.1, some r.2) := by
  unfold State.stripLocal at hr
  split at hr
  · next k hk =>
    split at hr
    · next hlt =>
      cases hr
      have hmem := List.mem_of_find?_eq_some hk
      have hkey : (k.core = core ∧ k.asid = asid) ∧ k.pa = pa := by simpa using List.find?_some hk
      obtain ⟨⟨rfl, rfl⟩, rfl⟩ := hkey
      refine takesOne_of_count h.once fun j => ?_
      have hput := places_putStack (k := { k with hi := k.hi - 1 }) h j
      have hremove := stackedIndex_remove (nodup_of_keys h.keys) hmem k.pa j
      rw [if_pos rfl] at hremove
      have hother := otherStacks_of_some h.keys hk
      have hsplit : inRange k.lo (k.hi - 1) j + inRange (k.hi - 1) (k.hi - 1 + 1) j = inRange k.lo k.hi j := by
        unfold inRange
        split_ifs <;> omega
      dsimp only at hput
      rw [hother] at hput
      show Stated.places (s.putStack { k with hi := k.hi - 1 }) k.pa j + inRange (k.hi - 1) (k.hi - 1 + 1) j = _
      rw [hput, places_eq, ← hremove]
      omega
    · cases hr
  · cases hr

/-- The setting of a holder's bit leaves the pot's indices. -/
theorem indexPot_setHolder {s : State} {pa : Nat} (h : IndexPot s pa) (core : Nat) : IndexPot (s.setHolder pa core) pa
    ∧ (∀ i, Stated.places (s.setHolder pa core) pa i = Stated.places s pa i) ∧ (s.setHolder pa core).homeRanges pa = s.homeRanges pa := by
  have hwork := storeWork_setHolder s pa core
  have hhome : IndexHome (s.setHolder pa core) pa := by
    unfold State.setHolder
    dsimp only
    split
    · exact h.toIndexHome
    · exact h.toIndexHome.poke (by omega) _
  have hplaces (i : Nat) : Stated.places (s.setHolder pa core) pa i = Stated.places s pa i := by
    unfold Stated.places
    rw [hwork.ranges, hwork.potStacks]
  refine ⟨⟨hhome, fun i => ?_, ?_⟩, hplaces, ?_⟩
  · rw [hplaces]; exact h.once i
  · rw [hwork.potStacks]; exact h.keys
  · unfold State.homeRanges; rw [hwork.ranges]

/-- A pot with no range at home and no stack holds no index. -/
theorem places_of_none {s : State} {pa : Nat} (h : s.homeRanges pa = []) (hk : s.potStacks.filter (fun k => k.pa == pa) = []) (i : Nat) :
    Stated.places s pa i = 0 := by
  have hstack : stackedIndex s.potStacks pa i = 0 := List.countP_eq_zero.2 fun k hkm => by
    have := List.filter_eq_nil_iff.1 hk k hkm
    simp only [beq_iff_eq] at this
    simp [this]
  rw [places_eq, h, hstack]
  rfl

/-- An empty home calls the stacks in and gives the highest index of all. -/
theorem takesOne_callIn {s : State} {pa : Nat} (h : IndexPot s pa) (core asid va : Nat) (h0 : s.potResid pa = 0) :
    takesOne s pa (s.stripHome core asid va pa) := by
  obtain ⟨hpot, hsame, hnone⟩ := places_callIn h
  unfold State.stripHome
  simp only [h0, if_true]
  cases hlast : ((s.callIn pa).homeRanges pa).getLast? with
  | none =>
    have hempty : (s.callIn pa).homeRanges pa = [] := List.getLast?_eq_none_iff.1 hlast
    rw [State.takeTop_none ((IndexHome.rangesOf hpot.single).trans hempty)]
    exact .inl ⟨rfl, fun i => (hsame i).symm.trans (places_of_none hempty hnone i)⟩
  | some r =>
    obtain ⟨lo, hi⟩ := r
    obtain ⟨hlt, htop, -, hcount, -⟩ := takeTop_some hpot (le_refl 1) hlast
    have htake : (s.callIn pa).takeTop pa 1 = (((s.callIn pa).takeTop pa 1).1, some (hi - min 1 (hi - lo), hi)) := Prod.ext rfl htop
    rw [htake]
    generalize ((s.callIn pa).takeTop pa 1).1 = t at hcount
    have hone : hi - min 1 (hi - lo) + 1 = hi := by omega
    refine takesOne_of_count h.once fun j => ?_
    rw [← hsame j, ← hcount j, hone]

/-- A home with indices gives some of its highest, of which the core keeps all but one. -/
theorem takesOne_refill {s : State} {core asid va pa : Nat} (h : IndexPot s pa) (h0 : s.potResid pa ≠ 0) (hne : s.homeRanges pa ≠ [])
    (hempty : ∀ k, s.stackOf core asid pa = some k → k.hi ≤ k.lo) : takesOne s pa (s.stripHome core asid va pa) := by
  obtain ⟨hpot, hsame, hranges⟩ := indexPot_setHolder h core
  obtain ⟨⟨lo, hi⟩, hlast⟩ := Option.ne_none_iff_exists'.1 (fun hn => hne (List.getLast?_eq_none_iff.1 hn))
  rw [← hranges] at hlast
  obtain ⟨hlt, htop, hpot', hcount, hstacks⟩ := takeTop_some hpot (le_max_left 1 (s.potResid pa / 8)) hlast
  have hwork := storeWork_setHolder s pa core
  have hone : 1 ≤ min (max 1 (s.potResid pa / 8)) (hi - lo) := by omega
  generalize min (max 1 (s.potResid pa / 8)) (hi - lo) = g at htop hcount hone
  unfold State.stripHome
  simp only [h0, if_false]
  have htake : (s.setHolder pa core).takeTop pa (max 1 (s.potResid pa / 8))
      = (((s.setHolder pa core).takeTop pa (max 1 (s.potResid pa / 8))).1, some (hi - g, hi)) := Prod.ext rfl htop
  rw [htake]
  generalize ((s.setHolder pa core).takeTop pa (max 1 (s.potResid pa / 8))).1 = t at hpot' hcount hstacks
  refine takesOne_of_count h.once fun j => ?_
  have hput := places_putStack (k := ⟨core, asid, va, pa, 0, hi - g, hi - 1⟩) hpot' j
  dsimp only at hput
  have hother : stackedIndex (otherStacks t.potStacks core asid pa) pa j = stackedIndex t.potStacks pa j := by
    cases hk : t.stackOf core asid pa with
    | none => rw [otherStacks_of_none hk]
    | some k =>
      have hks : s.stackOf core asid pa = some k := by
        unfold State.stackOf at hk ⊢
        rw [hstacks, hwork.potStacks] at hk
        exact hk
      have hkempty : inRange k.lo k.hi j = 0 := if_neg (by have := hempty k hks; omega)
      have hremove := stackedIndex_remove (nodup_of_keys hpot'.keys) (List.mem_of_find?_eq_some hk) pa j
      rw [hkempty, ite_self] at hremove
      rw [otherStacks_of_some hpot'.keys hk]
      exact hremove
  have hsplit : inRange (hi - g) (hi - 1) j + inRange (hi - 1) (hi - 1 + 1) j = inRange (hi - g) hi j := by
    unfold inRange
    split_ifs <;> omega
  rw [hput, hother, ← hsame j, ← hcount j, places_eq]
  omega

/-- STRIP takes one index of the pot from its place, where there is one (R140, R141). -/
theorem takesOne_stripped {s : State} {pa : Nat} (h : IndexPot s pa) (hresid : s.potResid pa ≠ 0 → s.homeRanges pa ≠ []) (core asid va : Nat) :
    takesOne s pa (s.stripped core asid va pa) := by
  unfold State.stripped
  split
  · next r hr => exact takesOne_stripLocal h hr
  · next hnone =>
    by_cases h0 : s.potResid pa = 0
    · exact takesOne_callIn h core asid va h0
    · refine takesOne_refill h h0 (hresid h0) fun k hk => ?_
      unfold State.stripLocal at hnone
      rw [hk] at hnone
      by_contra hlt
      simp [Nat.not_le.1 hlt] at hnone

end Sys2Proof.Machine

/-! SUPPORT. FARM, STRIP and FQUERY as instructions, and O41 (R137 to R141, R144). -/

namespace Sys2Proof.Machine

/-! ### Words that answer in a register -/

/-- A word that writes xd and retires. -/
theorem retireX_eq (s : State) (d : Reg) (w : Word) : retireX s d w = .next (Stated.answered s d w) := by
  unfold retireX State.xw Scalar.write Stated.answered Stated.regs State.sc State.retire State.retireTo
  by_cases hd : d.val = 0 <;> simp [hd, Stated.retired]

/-- The x registers after a word that writes xd. -/
theorem xw_x (s : State) (d : Reg) (w : Word) : (s.xw d w).hart.sc.x = Stated.regs s d w := by
  unfold State.xw State.sc Scalar.write Stated.regs
  by_cases hd : d.val = 0 <;> simp [hd]

theorem regs_congr {s t : State} (h : t.hart.sc.x = s.hart.sc.x) (d : Reg) (w : Word) : Stated.regs t d w = Stated.regs s d w := by
  unfold Stated.regs
  rw [h]

/-- A word that notes progress, writes xd and retires. -/
def State.answeredNoted (s : State) (d : Reg) (w : Word) : State := ((s.xw d w).note).retire

theorem State.note_hart_eq (s : State) : s.note.hart = s.hart := by unfold State.note; split <;> rfl

/-- A write of a register changes the registers alone. -/
theorem Scalar.write_rest (c : Scalar) (d : Reg) (w : Word) : c.write d w = { c with x := (c.write d w).x } := by
  unfold Scalar.write
  split <;> rfl

/-- What retires with a noted answer, after work of the home. -/
theorem retiredWith_answeredNoted {s t : State} (h : HomeWork s t) (d : Reg) (w : Word) :
    (t.answeredNoted d w).hart.sc.x = Stated.regs s d w ∧ Stated.retiredWith s (t.answeredNoted d w) d := by
  have hhart : ((t.xw d w).note).hart = { t.hart with sc := t.hart.sc.write d w } := State.note_hart_eq _
  have hx : (t.answeredNoted d w).hart.sc.x = Stated.regs s d w := by
    show ((t.xw d w).note).hart.sc.x = _
    rw [State.note_hart_eq, xw_x, regs_congr h.x]
  refine ⟨hx, ⟨w, hx⟩, ?_, ?_, ?_, ?_, ?_⟩
  · show ((t.xw d w).note).hart.sc.pc + 4 = _
    rw [hhart, Scalar.write_rest, ← h.pc]
  · show ((t.xw d w).note).hart.sc.instret + 1 = _
    rw [hhart, Scalar.write_rest, ← h.instret]
  · show ((t.xw d w).note).hart.sc.fcsr = _
    rw [hhart, Scalar.write_rest, ← h.fcsr]
  · show ((t.xw d w).note).hart.ep = _
    rw [hhart, ← h.ep]
  · show ((t.xw d w).note).hart.status = _
    rw [hhart, ← h.status]

/-- Values at home follow from memory and the record of discarded frames. -/
theorem State.homeNat_congr {s t : State} (hm : t.mem = s.mem) (hd : t.discarded = s.discarded) (pa n : Nat) : t.homeNat pa n = s.homeNat pa n := by
  unfold State.homeNat State.homeBytes State.homeByte
  rw [hm, hd]

/-! ### STRIP (R140) -/

/-- STRIP of a hart whose farm has no pot. -/
theorem exec_strip_of_no_pot {s : State} {f : Farm} (o : OpD) (hc : s.hart.ctl = false) (hf : s.farmHere = some f) (h0 : f.pot = 0) :
    exec (.strip o) s = .next (s.answeredNoted o.d (-1)) := by
  have hcomm : (s.note.xw o.d (-1)) = (s.xw o.d (-1)).note := by
    unfold State.note
    rw [State.xw_hart_ctl, hc]
    rfl
  show execStrip o s = _
  simp only [execStrip, hc, hf, h0, if_true, Bool.false_eq_true, if_false, hcomm]
  rfl

/-- The word that STRIP writes. -/
def stripWord : Option Nat → Word
  | some i => BitVec.ofNat 64 i
  | none => -1

/-- A strip request that is served within its step answers what it takes. -/
theorem potRequest_strip {u : State} {q : PotReq} (hop : q.op = .strip) (hpot : u.isPot q.pa = true) (hprompt : u.prompt = true)
    (hq : ∀ r ∈ u.potQueue, r.pa ≠ q.pa) :
    u.potRequest q = (u.stripped u.hart.coreId u.hart.asid q.va q.pa).1.answeredNoted q.d
      (stripWord (u.stripped u.hart.coreId u.hart.asid q.va q.pa).2) := by
  have hwait : u.potQueue.any (fun r => r.pa == q.pa) = false := by simpa using hq
  unfold State.potRequest State.stripped State.potQuick
  rw [hop]
  dsimp only
  cases hl : u.stripLocal u.hart.coreId u.hart.asid q.pa with
  | some r => rfl
  | none =>
    have hfault : u.potFault q = none := by simp [State.potFault, hop, hpot]
    have hidle : u.potIdle q = false := by simp [State.potIdle, hop]
    simp only [Option.map_none, hprompt, hwait, Bool.not_false, Bool.and_true, if_true, State.potAnswer, hfault, State.potServe, hidle, hop]
    generalize u.stripHome u.hart.coreId u.hart.asid q.va q.pa = r
    obtain ⟨v, taken⟩ := r
    cases taken <;> rfl

theorem storeWork_objectAt {s t : State} {va width own pa pte : Nat} {k : Kind} (hc : s.hart.ctl = false)
    (h : s.objectAt va k width own = .ok t pa pte) : StoreWork s t := by
  unfold State.objectAt at h
  dsimp only at h
  split at h
  · cases h
  · split at h
    · cases h
    · rw [hc] at h
      simp only [Bool.false_eq_true, if_false] at h
      split at h
      · cases h
      · unfold State.page at h
        cases hx : s.xlate s.ctx s.hart.coreId s.hart.slot va k true with
        | ok s' pa' pte' =>
          rw [hx] at h
          dsimp only at h
          split at h <;> cases h
          exact storeWork_xlate hx
        | fault cause dev => rw [hx] at h; cases h
        | replay => rw [hx] at h; cases h
        | collapse => rw [hx] at h; cases h

/-- The use of a pot by a page of the context is noted in its maps alone. -/
theorem potWork_usePot (s : State) (m : PotMap) : PotWork s (s.usePot m) ∧ (s.usePot m).ranges = s.ranges ∧ (s.usePot m).potStacks = s.potStacks
    ∧ (s.usePot m).potLines = s.potLines ∧ (s.usePot m).mem = s.mem ∧ (s.usePot m).discarded = s.discarded := by
  unfold State.usePot
  split
  · exact ⟨potWork_of_eq rfl, rfl, rfl, rfl, rfl, rfl⟩
  · exact ⟨.refl s, rfl, rfl, rfl, rfl, rfl⟩

/-- STRIP of a hart whose farm's pot passes its checks. -/
theorem exec_strip_of_pot {s s' : State} {f : Farm} {pa pte : Nat} (o : OpD) (hc : s.hart.ctl = false) (hf : s.farmHere = some f) (h0 : f.pot ≠ 0)
    (hobj : s.objectAt f.pot .rmw 3 0x17 = .ok s' pa pte) (hpot : s'.isPot pa = true) (hprompt : s'.prompt = true) (hq : ∀ q ∈ s'.potQueue, q.pa ≠ pa) :
    ∃ u, PotWork s' u ∧ u.ranges = s'.ranges ∧ u.potStacks = s'.potStacks ∧ u.mem = s'.mem ∧ u.discarded = s'.discarded
      ∧ exec (.strip o) s = .next ((u.stripped u.hart.coreId u.hart.asid f.pot pa).1.answeredNoted o.d
        (stripWord (u.stripped u.hart.coreId u.hart.asid f.pot pa).2)) := by
  obtain ⟨hwork, hranges, hstacks, hlines, hmem, hdisc⟩ := potWork_usePot s' ⟨s'.hart.asid, f.pot, pa⟩
  have hctl : s'.hart.ctl = false := (storeWork_objectAt hc hobj).ctl.trans hc
  refine ⟨_, hwork, hranges, hstacks, hmem, hdisc, ?_⟩
  have hpot' : (s'.usePot ⟨s'.hart.asid, f.pot, pa⟩).isPot pa = true := by unfold State.isPot; rw [hlines]; exact hpot
  have hexec : exec (.strip o) s = .next ((s'.usePot ⟨s'.hart.asid, f.pot, pa⟩).potRequest ⟨s'.hart.loc, .strip, f.pot, pa, 1, o.d⟩) := by
    show execStrip o s = _
    unfold execStrip potAt
    simp only [hc, hf, h0, hobj, hpot, hctl, Bool.false_eq_true, if_false, Bool.not_true]
  have hprompt' : (s'.usePot ⟨s'.hart.asid, f.pot, pa⟩).prompt = true := hwork.prompt.trans hprompt
  have hq' : ∀ r ∈ (s'.usePot ⟨s'.hart.asid, f.pot, pa⟩).potQueue, r.pa ≠ pa := by rw [hwork.potQueue]; exact hq
  generalize s'.usePot ⟨s'.hart.asid, f.pot, pa⟩ = u at hexec hpot' hprompt' hq'
  rw [hexec, potRequest_strip (q := ⟨s'.hart.loc, .strip, f.pot, pa, 1, o.d⟩) rfl hpot' hprompt' hq']

/-- The forms in which statements and lemmas speak of an index-valued pot. -/
theorem indexPot_of_stated {s : State} {pa : Nat} (h : Stated.potReady s pa) (hidx : Stated.indexOk s pa) :
    IndexPot s pa ∧ (s.potResid pa ≠ 0 → s.homeRanges pa ≠ []) := by
  obtain ⟨-, -, halign, hwf, hkept, hkeys, -⟩ := h
  obtain ⟨hkind, hsingle, honce, hresid, hne, -⟩ := hidx
  have hk : s.potKind pa = Stated.kindOf s pa := (valueAt_eq_homeNat s (pa + 18) 1).symm
  have hr : s.potResid pa = Stated.resid s pa := (valueAt_eq_homeNat s pa 8).symm
  refine ⟨⟨⟨⟨halign, hkept, hwf⟩, hk.trans hkind, hsingle, hne⟩, honce, hkeys⟩, fun h0 hnil => h0 ?_⟩
  rw [hr, hresid]
  show (List.map _ (s.homeRanges pa)).sum = 0
  rw [hnil]
  rfl

/-- FQUERY answers what it reports of its handle (R144). -/
theorem exec_fquery {s : State} (o : OpDS) (hc : s.hart.ctl = false) : exec (.fquery o) s = retireX s o.d (s.fquery (s.xn o.s1)) := by
  show execFquery o s = _
  simp [execFquery, hc]

/-- A handle of no live farm was given to one that has completed, or was never given. -/
theorem State.fquery_of_none {s : State} {h : Nat} (hnone : s.farms.find? (fun f => f.asid == s.hart.asid && f.handle == h) = none) :
    s.fquery h = if 0 < h ∧ h < s.ctx.farmNext then 0xC000000000000000 else 0 := by
  rw [State.fquery, hnone]
  by_cases hgiven : 0 < h ∧ h < s.ctx.farmNext
  · simp [hgiven]
  · simp only [Bool.and_eq_true, decide_eq_true_eq, hgiven, if_false]

theorem xn_eq_reg (s : State) (r : Reg) : s.xn r = (Stated.reg s r).toNat := rfl

theorem stripsAndQueries : Stated.StripsAndQueries := by
  refine ⟨fun o s f hc hf h0 => ?_, fun o s s' f pa pte hc hf h0 hobj hpot hprompt hq => ?_, fun o s hc => ⟨fun f hf => ?_, fun hnone => ?_⟩⟩
  · obtain ⟨hx, -, hpc, -, -, hep, -⟩ := retiredWith_answeredNoted (HomeWork.refl s) o.d (-1)
    exact ⟨_, exec_strip_of_no_pot o hc hf h0, hx, hpc, hep⟩
  · obtain ⟨u, hu, hranges, hstacks, hmem, hdisc, hexec⟩ := exec_strip_of_pot o hc hf h0 hobj hpot hprompt hq
    have hwork := ((storeWork_objectAt hc hobj).toPotWork.trans hu).trans (potWork_stripped u u.hart.coreId u.hart.asid f.pot pa)
    obtain ⟨hx, hret⟩ := retiredWith_answeredNoted hwork.toHomeWork o.d (stripWord (u.stripped u.hart.coreId u.hart.asid f.pot pa).2)
    refine ⟨_, hexec, hret, fun hready hidx _ => ?_⟩
    obtain ⟨hpot', hresid⟩ := indexPot_of_stated hready hidx
    have hplaces (i : Nat) : Stated.places u pa i = Stated.places s' pa i := by unfold Stated.places; rw [hranges, hstacks]
    have hpotu : IndexPot u pa := by
      refine ⟨⟨⟨hpot'.align, kept_congr hdisc hpot'.kept, by rw [hmem]; exact hpot'.wf⟩, ?_, by rw [hranges]; exact hpot'.single, ?_⟩,
        fun i => by rw [hplaces]; exact hpot'.once i, by rw [hstacks]; exact hpot'.keys⟩
      · rw [← hpot'.kind]
        exact State.homeNat_congr hmem hdisc _ _
      · unfold State.homeRanges
        rw [hranges]
        exact hpot'.nonempty
    have hresidu : u.potResid pa ≠ 0 → u.homeRanges pa ≠ [] := by
      unfold State.homeRanges
      rw [hranges, show u.potResid pa = s'.potResid pa from State.homeNat_congr hmem hdisc _ _]
      exact hresid
    have hafter (t : State) (w : Word) (i : Nat) : Stated.places (t.answeredNoted o.d w) pa i = Stated.places t pa i := by
      have hr : (t.answeredNoted o.d w).ranges = t.ranges := State.note_ranges _
      have hs : (t.answeredNoted o.d w).potStacks = t.potStacks := State.note_potStacks _
      unfold Stated.places
      rw [hr, hs]
    rcases takesOne_stripped hpotu hresidu u.hart.coreId u.hart.asid f.pot with ⟨hnone, hzero⟩ | ⟨i, hsome, hone, hgone, hrest⟩
    · rw [hnone] at hx ⊢
      exact .inl ⟨hx, fun i => (hplaces i).symm.trans (hzero i)⟩
    · rw [hsome] at hx ⊢
      exact .inr ⟨i, hx, (hplaces i).symm.trans hone, (hafter _ _ i).trans hgone, fun j hj => ((hafter _ _ j).trans (hrest j hj)).trans (hplaces j)⟩
  · rw [exec_fquery o hc, retireX_eq, xn_eq_reg, State.fquery, hf]
  · rw [exec_fquery o hc, retireX_eq, xn_eq_reg, State.fquery_of_none hnone]

end Sys2Proof.Machine

/-! SUPPORT. FARM: what its descriptor launches, and the pot that it initialises; O41 (R137, R138, R141). -/

namespace Sys2Proof.Machine

/-! ### The words of FARM -/

theorem descAddrTrap_eq (va : Word) : descAddrTrap va.toNat = Stated.descriptorTrap va := rfl

/-- FARM of a descriptor whose address traps. -/
theorem exec_farm_trap {o : OpDS} {s : State} {t : Trap} (hc : s.hart.ctl = false) (h : Stated.descriptorTrap (Stated.reg s o.s1) = some t) :
    exec (.farm o) s = .next (s.trap t) := by
  rw [← descAddrTrap_eq] at h
  have h' : descAddrTrap (s.xn o.s1) = some t := h
  show execFarm o s = _
  unfold execFarm
  simp only [hc, Bool.false_eq_true, if_false, h', raise]

/-- FARM of a descriptor that is read answers what the launch of it gives. -/
theorem exec_farm_read {o : OpDS} {s u t : State} {d : List Byte} {w : Word} (hc : s.hart.ctl = false)
    (h : Stated.descriptorRead s (Stated.reg s o.s1) u d) (hl : u.launch u.ctx u.hart.coreId d = .result t w) :
    exec (.farm o) s = .next (Stated.answered t o.d w) := by
  obtain ⟨htrap, hload⟩ := h
  rw [← descAddrTrap_eq] at htrap
  have h1 : descAddrTrap (s.xn o.s1) = none := htrap
  have h2 : (s.release 3).loadDesc (s.xn o.s1) = .ok u d := hload
  show execFarm o s = _
  unfold execFarm
  simp only [hc, Bool.false_eq_true, if_false, h1, h2, hl, retireX_eq]

/-! ### Launches (R137, R138) -/

section
variable {s : State} {c : Context} {core : Nat} {d : List Byte}

theorem State.launch_of_bad (h : farmFieldsBad s (farmOf c.asid d) d = true) : s.launch c core d = .result s (-1) := by
  unfold State.launch
  dsimp only
  rw [if_pos h]

/-- A descriptor without a pot queues its farm. -/
theorem State.launch_of_no_pot (h : farmFieldsBad s (farmOf c.asid d) d = false) (h0 : (farmOf c.asid d).pot = 0) :
    s.launch c core d = s.queueFarm c (farmOf c.asid d) := by
  unfold State.launch
  dsimp only
  rw [if_neg (by simp [h]), if_pos h0]

variable {v : State} {pa : Nat} (h : farmFieldsBad s (farmOf c.asid d) d = false) (h0 : (farmOf c.asid d).pot ≠ 0)
  (ho : s.object c core (farmOf c.asid d).pot 0x17 = .ok v pa)
include h h0 ho

/-- A descriptor that names the pot of a farm that has not completed is refused. -/
theorem State.launch_of_used_pot (hused : ∃ g ∈ v.farms, g.asid = c.asid ∧ g.pot ≠ 0 ∧ g.potPa = pa) : s.launch c core d = .result v (-1) := by
  have hany : v.farms.any (fun g => g.asid == c.asid && g.pot != 0 && g.potPa == pa) = true := by
    simpa [and_assoc] using hused
  unfold State.launch
  dsimp only
  rw [if_neg (by simp [h]), if_neg h0, ho]
  dsimp only
  rw [if_pos hany]

/-- A descriptor that names a pot of no other farm queues its farm with the pot. -/
theorem State.launch_of_pot (hfree : ∀ g ∈ v.farms, g.asid = c.asid → g.pot ≠ 0 → g.potPa ≠ pa) :
    s.launch c core d = v.queueFarm c { farmOf c.asid d with potPa := pa } := by
  have hany : ¬ v.farms.any (fun g => g.asid == c.asid && g.pot != 0 && g.potPa == pa) = true := by
    simpa using hfree
  unfold State.launch
  dsimp only
  rw [if_neg (by simp [h]), if_neg h0, ho]
  dsimp only
  rw [if_neg hany]

end

/-- With no slot free nothing is launched. -/
theorem State.queueFarm_of_full {s : State} {c : Context} {f : Farm} (h : slotDies s f.dieMask = []) : s.queueFarm c f = .result s (-2) := by
  unfold State.queueFarm
  simp [h]

/-- The state in which a farm's pot, where it has one, is initialised. -/
def State.withFarmPot (s : State) (c : Context) (f : Farm) : State := if f.pot = 0 then s else s.farmPotInit ⟨c.asid, f.pot, f.potPa⟩ f.strips

/-- The state in which a farm is queued. -/
def State.queued (s : State) (c : Context) (f : Farm) : State :=
  ({ s.withFarmPot c f with
      farms := (s.withFarmPot c f).farms ++ [{ f with handle := c.farmNext, dies := slotDies s f.dieMask }] }).updCtx c.asid
    (fun c => { c with farmNext := if c.farmNext + 1 = 2 ^ 32 then 1 else c.farmNext + 1 })

theorem State.queueFarm_of_room {s : State} {c : Context} {f : Farm} (h : slotDies s f.dieMask ≠ []) :
    s.queueFarm c f = .result (s.queued c f) (BitVec.ofNat 64 c.farmNext) := by
  have hempty : (slotDies s f.dieMask).isEmpty = false := by simpa using h
  unfold State.queueFarm State.queued State.withFarmPot
  simp only [hempty, Bool.false_eq_true, if_false]

/-! ### The farm's pot (R138, R141) -/

/-- The bytes of a pot line (R246). -/
def potBytes (resid policy scope kind : Nat) : List Byte :=
  leBytes 8 resid ++ leBytes 8 0 ++ leBytes 1 policy ++ leBytes 1 scope ++ leBytes 1 kind ++ leBytes 45 0

/-- A line that becomes a pot line with bytes written. -/
def State.newPot (s : State) (pa : Nat) (bs : List Byte) : State :=
  { s with potLines := if s.isPot pa then s.potLines else pa :: s.potLines, mem := Memory.writeN s.mem pa bs }

@[simp] theorem State.newPot_mem (s : State) (pa : Nat) (bs : List Byte) : (s.newPot pa bs).mem = Memory.writeN s.mem pa bs := rfl
@[simp] theorem State.newPot_discarded (s : State) (pa : Nat) (bs : List Byte) : (s.newPot pa bs).discarded = s.discarded := rfl
@[simp] theorem State.newPot_potStacks (s : State) (pa : Nat) (bs : List Byte) : (s.newPot pa bs).potStacks = s.potStacks := rfl
@[simp] theorem State.newPot_ranges (s : State) (pa : Nat) (bs : List Byte) : (s.newPot pa bs).ranges = s.ranges := rfl

theorem State.writePot_eq (s : State) (pa resid policy scope kind : Nat) :
    s.writePot pa resid policy scope kind = (s.revive pa).newPot pa (potBytes resid policy scope kind) := by
  unfold State.writePot State.newPot potBytes
  rfl

theorem potWork_newPot (s : State) (pa : Nat) (bs : List Byte) : PotWork s (s.newPot pa bs) := potWork_of_eq rfl

theorem potWork_writePot (s : State) (pa resid policy scope kind : Nat) : PotWork s (s.writePot pa resid policy scope kind) := by
  rw [State.writePot_eq]
  exact (storeWork_revive s pa).toPotWork.trans (potWork_newPot _ _ _)

/-- A pot with nothing of it in the cores' tables or at home. -/
def State.clearPot (s : State) (pa : Nat) : State :=
  { s with potStacks := s.potStacks.filter (fun k => k.pa != pa), ranges := s.ranges.filter (fun r => r.pa != pa) }

/-- The range of the indices below `n`. -/
def indexRange (n : Nat) : List (Nat × Nat) := if n = 0 then [] else [(0, n)]

theorem State.farmPotInit_eq (s : State) (m : PotMap) (n : Nat) :
    s.farmPotInit m n = (((s.clearPot m.pa).writePot m.pa n 0 3 1).setRanges m.pa (indexRange n)).markPot m := rfl

theorem potWork_farmPotInit (s : State) (m : PotMap) (n : Nat) : PotWork s (s.farmPotInit m n) := by
  have h1 : PotWork s (s.clearPot m.pa) := potWork_of_eq rfl
  have h3 (t : State) : PotWork t (t.markPot m) := potWork_of_eq rfl
  rw [State.farmPotInit_eq]
  exact ((h1.trans (potWork_writePot _ _ _ _ _ _)).trans (potWork_setRanges _ _ _)).trans (h3 _)

/-- A page that is revived stands. -/
theorem lineAt_revive {s : State} {pa : Nat} (ha : pa % 64 = 0) (hw : Memory.wf s.mem = true) : LineAt (s.revive pa) pa := by
  refine ⟨ha, ?_, (keeps_revive s pa).mem hw⟩
  unfold State.revive
  dsimp only
  cases hf : s.discarded.find? (fun e => e.1 == pa / 65536 * 65536) with
  | none =>
    intro e he
    have := List.find?_eq_none.1 hf e he
    simpa using this
  | some p =>
    intro e he
    dsimp only at he
    rw [State.homeStoreNat, State.homeStore_discarded] at he
    simpa using (List.mem_filter.1 he).2

/-- A pot line that the home has written whole. -/
theorem writePot_values {s : State} {pa : Nat} (ha : pa % 64 = 0) (hw : Memory.wf s.mem = true) (resid kind : Nat) :
    LineAt (s.writePot pa resid 0 3 kind) pa ∧ Stated.resid (s.writePot pa resid 0 3 kind) pa = resid % 2 ^ 64
    ∧ Stated.holders (s.writePot pa resid 0 3 kind) pa = 0 ∧ Stated.kindOf (s.writePot pa resid 0 3 kind) pa = kind % 256 := by
  have hr := lineAt_revive ha hw
  have hmem : (s.writePot pa resid 0 3 kind).mem = Memory.writeN (Memory.writeN (Memory.writeN (Memory.writeN (Memory.writeN (Memory.writeN
      (s.revive pa).mem pa (leBytes 8 resid)) (pa + 8) (leBytes 8 0)) (pa + 16) (leBytes 1 0)) (pa + 17) (leBytes 1 3)) (pa + 18) (leBytes 1 kind))
      (pa + 19) (leBytes 45 0) := by
    rw [State.writePot_eq, State.newPot_mem]
    unfold potBytes
    simp only [Memory.writeN_append, length_leBytes, List.length_append]
  have hw1 := Memory.wf_writeN pa (leBytes 8 resid) hr.wf
  have hw2 := Memory.wf_writeN (pa + 8) (leBytes 8 0) hw1
  have hw3 := Memory.wf_writeN (pa + 16) (leBytes 1 0) hw2
  have hw4 := Memory.wf_writeN (pa + 17) (leBytes 1 3) hw3
  have hw5 := Memory.wf_writeN (pa + 18) (leBytes 1 kind) hw4
  have hw6 := Memory.wf_writeN (pa + 19) (leBytes 45 0) hw5
  have hdisc : (s.writePot pa resid 0 3 kind).discarded = (s.revive pa).discarded := by rw [State.writePot_eq, State.newPot_discarded]
  have hline : LineAt (s.writePot pa resid 0 3 kind) pa := ⟨ha, kept_congr hdisc hr.kept, by rw [hmem]; exact hw6⟩
  have hval (k n : Nat) (hk : k + n ≤ 64) : Stated.valueAt (s.writePot pa resid 0 3 kind) (pa + k) n
      = Memory.readNat (s.writePot pa resid 0 3 kind).mem (pa + k) n := hline.value k hk
  have hlen (n v : Nat) : (leBytes n v).length = n := length_leBytes n v
  refine ⟨hline, ?_, ?_, ?_⟩
  · have h := hval 0 8 (by omega)
    rw [Nat.add_zero, hmem, Memory.readNat_writeN_apart hw5 (by rw [hlen]; omega), Memory.readNat_writeN_apart hw4 (by rw [hlen]; omega),
      Memory.readNat_writeN_apart hw3 (by rw [hlen]; omega), Memory.readNat_writeN_apart hw2 (by rw [hlen]; omega),
      Memory.readNat_writeN_apart hw1 (by rw [hlen]; omega), Memory.readNat_writeN_same hr.wf] at h
    exact h
  · have h := hval 8 8 (by omega)
    rw [hmem, Memory.readNat_writeN_apart hw5 (by rw [hlen]; omega), Memory.readNat_writeN_apart hw4 (by rw [hlen]; omega),
      Memory.readNat_writeN_apart hw3 (by rw [hlen]; omega), Memory.readNat_writeN_apart hw2 (by rw [hlen]; omega),
      Memory.readNat_writeN_same hw1] at h
    exact h
  · have h := hval 18 1 (by omega)
    rw [hmem, Memory.readNat_writeN_apart hw5 (by rw [hlen]; omega), Memory.readNat_writeN_same hw4] at h
    exact h

theorem holdsIndex_indexRange (n i : Nat) : holdsIndex (indexRange n) i = if i < n then 1 else 0 := by
  unfold indexRange
  split
  · next h => simp [h, holdsIndex]
  · rw [holdsIndex_cons]
    simp [holdsIndex, inRange]

theorem rangeCount_indexRange (n : Nat) : rangeCount (indexRange n) = n := by
  unfold indexRange
  split
  · next h => simp [h, rangeCount]
  · simp [rangeCount]

/-- The pot of a farm holds every index below its strips at home, once each, and is index-valued. -/
theorem farmPotInit_spec {s : State} {m : PotMap} {n : Nat} (ha : m.pa % 64 = 0) (hw : Memory.wf s.mem = true) (hn : n < 2 ^ 64) :
    (s.farmPotInit m n).isPot m.pa = true ∧ Stated.resid (s.farmPotInit m n) m.pa = n ∧ Stated.holders (s.farmPotInit m n) m.pa = 0
      ∧ Stated.kindOf (s.farmPotInit m n) m.pa = 1 ∧ ∀ i, Stated.places (s.farmPotInit m n) m.pa i = if i < n then 1 else 0 := by
  obtain ⟨hline, -, hholders, hkind⟩ := writePot_values (s := s.clearPot m.pa) ha hw n 1
  have hwrote : ((s.clearPot m.pa).writePot m.pa n 0 3 1).potStacks = (s.clearPot m.pa).potStacks ∧
      ((s.clearPot m.pa).writePot m.pa n 0 3 1).ranges = (s.clearPot m.pa).ranges := by
    have hrev := storeWork_revive (s.clearPot m.pa) m.pa
    rw [State.writePot_eq, State.newPot_potStacks, State.newPot_ranges]
    exact ⟨hrev.potStacks, hrev.ranges⟩
  rw [State.farmPotInit_eq]
  generalize (s.clearPot m.pa).writePot m.pa n 0 3 1 = t at hline hholders hkind hwrote ⊢
  have hwork := storeWork_poke { t with ranges := replaceRanges t.ranges m.pa (indexRange n) } m.pa 8 n
  have hset : t.setRanges m.pa (indexRange n) = State.poke { t with ranges := replaceRanges t.ranges m.pa (indexRange n) } m.pa 8 n := by
    rw [State.setRanges_eq, rangeCount_indexRange]
  have hmem : (t.setRanges m.pa (indexRange n)).mem = Memory.writeN t.mem m.pa (leBytes 8 n) := by
    rw [hset, State.poke_of_kept (s := { t with ranges := replaceRanges t.ranges m.pa (indexRange n) }) hline.kept]
  have hdisc : (t.setRanges m.pa (indexRange n)).discarded = t.discarded := by
    rw [hset, State.poke_of_kept (s := { t with ranges := replaceRanges t.ranges m.pa (indexRange n) }) hline.kept]
  have hline' : LineAt (t.setRanges m.pa (indexRange n)) m.pa := hline.of_writeN hmem hdisc
  have hranges : (t.setRanges m.pa (indexRange n)).ranges = replaceRanges t.ranges m.pa (indexRange n) := by rw [hset, hwork.ranges]
  have hstacks : (t.setRanges m.pa (indexRange n)).potStacks = t.potStacks := by rw [hset, hwork.potStacks]
  generalize t.setRanges m.pa (indexRange n) = u at hmem hdisc hline' hranges hstacks ⊢
  have hvalue (k w : Nat) : Stated.valueAt (u.markPot m) k w = Stated.valueAt u k w := by
    rw [valueAt_eq_homeNat, valueAt_eq_homeNat]
    exact State.homeNat_congr rfl rfl _ _
  have hapart (k w : Nat) (h8 : 8 ≤ k) (hk : k + w ≤ 64) : Stated.valueAt u (m.pa + k) w = Stated.valueAt t (m.pa + k) w := by
    rw [hline'.value k hk, hline.value k hk, hmem, Memory.readNat_writeN_apart hline.wf (by rw [length_leBytes]; omega)]
  refine ⟨?_, ?_, ?_, ?_, fun i => ?_⟩
  · have hpa : m.pa / 64 * 64 = m.pa := by omega
    unfold State.markPot State.isPot
    dsimp only
    rw [hpa]
    split
    · next h => exact h
    · simp
  · have h := hline'.value 0 (n := 8) (by omega)
    rw [Nat.add_zero, hmem, Memory.readNat_writeN_same hline.wf] at h
    exact (hvalue _ _).trans (h.trans (Nat.mod_eq_of_lt (by omega)))
  · exact (hvalue _ _).trans ((hapart 8 8 (by omega) (by omega)).trans hholders)
  · exact (hvalue _ _).trans ((hapart 18 1 (by omega) (by omega)).trans hkind)
  · have hhome : u.homeRanges m.pa = indexRange n := by
      unfold State.homeRanges
      rw [hranges]
      exact (replaceRanges_home _ _ _ _).trans (if_pos rfl)
    have hnone : stackedIndex u.potStacks m.pa i = 0 := by
      rw [hstacks, hwrote.1]
      refine List.countP_eq_zero.2 fun k hk => ?_
      have : k.pa ≠ m.pa := by simpa using (List.mem_filter.1 hk).2
      simp [this]
    show holdsIndex (u.homeRanges m.pa) i + stackedIndex u.potStacks m.pa i = _
    rw [hhome, hnone, holdsIndex_indexRange]
    rfl

/-! ### O41 -/

/-- A queued farm stands behind the others. -/
theorem State.queued_farms (s : State) (c : Context) (f : Farm) :
    (s.queued c f).farms = s.farms ++ [{ f with handle := c.farmNext, dies := slotDies s f.dieMask }] := by
  have hfarms : (s.withFarmPot c f).farms = s.farms := by
    unfold State.withFarmPot
    split
    · rfl
    · exact (potWork_farmPotInit _ _ _).farms
  unfold State.queued
  rw [State.updCtx_farms]
  show (s.withFarmPot c f).farms ++ _ = _
  rw [hfarms]

theorem State.queued_x (s : State) (c : Context) (f : Farm) : (s.queued c f).hart.sc.x = s.hart.sc.x := by
  show (s.withFarmPot c f).hart.sc.x = _
  unfold State.withFarmPot
  split
  · rfl
  · exact (potWork_farmPotInit _ _ _).x

/-- The answer of a launch leaves the home as the launch has left it. -/
theorem State.queued_home (s : State) (c : Context) (f : Farm) (d : Reg) (w : Word) :
    (Stated.answered (s.queued c f) d w).potLines = (s.withFarmPot c f).potLines ∧ (Stated.answered (s.queued c f) d w).mem = (s.withFarmPot c f).mem
    ∧ (Stated.answered (s.queued c f) d w).discarded = (s.withFarmPot c f).discarded
    ∧ (Stated.answered (s.queued c f) d w).ranges = (s.withFarmPot c f).ranges
    ∧ (Stated.answered (s.queued c f) d w).potStacks = (s.withFarmPot c f).potStacks := by
  unfold State.queued
  generalize s.withFarmPot c f = t
  exact ⟨rfl, rfl, rfl, rfl, rfl⟩

theorem farmsAreLaunched : Stated.FarmsAreLaunched := by
  intro o s u d hc
  refine ⟨fun t ht => exec_farm_trap hc ht, fun hread => ?_⟩
  intro f
  refine ⟨fun t w hl => exec_farm_read hc hread hl, fun hbad => exec_farm_read hc hread (State.launch_of_bad hbad), fun hok h0 hroom => ?_,
    fun hok h0 hfull => ?_, fun v pa hok h0 ho => ⟨fun hused => ?_, fun hfree hfull => ?_, fun hfree hroom halign hwf => ?_⟩⟩
  · refine ⟨_, exec_farm_read hc hread ((State.launch_of_no_pot hok h0).trans (State.queueFarm_of_room hroom)), ?_, ?_⟩
    · exact regs_congr (State.queued_x _ _ _) _ _
    · exact State.queued_farms _ _ _
  · exact exec_farm_read hc hread ((State.launch_of_no_pot hok h0).trans (State.queueFarm_of_full hfull))
  · exact exec_farm_read hc hread (State.launch_of_used_pot hok h0 ho hused)
  · exact exec_farm_read hc hread ((State.launch_of_pot hok h0 ho hfree).trans (State.queueFarm_of_full hfull))
  · have hv := storeWork_object_ok ho
    have hstrips : f.strips < 2 ^ 64 := by
      have hle : ¬ 2 ^ 62 < f.strips := fun hlt => by
        have : farmFieldsBad u f d = true := by simp only [farmFieldsBad, hlt, decide_true, Bool.or_true, Bool.true_or]
        rw [hok] at this
        cases this
      omega
    refine ⟨_, exec_farm_read hc hread ((State.launch_of_pot hok h0 ho hfree).trans (State.queueFarm_of_room hroom)), ?_, ?_, ?_⟩
    · exact regs_congr ((State.queued_x _ _ _).trans hv.x) _ _
    · exact State.queued_farms _ _ _
    · have hinit := farmPotInit_spec (m := ⟨u.ctx.asid, f.pot, pa⟩) halign hwf hstrips
      have hpot : v.withFarmPot u.ctx { f with potPa := pa } = v.farmPotInit ⟨u.ctx.asid, f.pot, pa⟩ f.strips := if_neg h0
      obtain ⟨hlines, hmem, hdisc, hranges, hstacks⟩ := State.queued_home v u.ctx { f with potPa := pa } o.d (BitVec.ofNat 64 u.ctx.farmNext)
      rw [hpot] at hlines hmem hdisc hranges hstacks
      generalize v.farmPotInit ⟨u.ctx.asid, f.pot, pa⟩ f.strips = w at hinit hlines hmem hdisc hranges hstacks
      generalize Stated.answered (v.queued u.ctx { f with potPa := pa }) o.d (BitVec.ofNat 64 u.ctx.farmNext) = t at hlines hmem hdisc hranges hstacks ⊢
      have hvalue (k n : Nat) : Stated.valueAt t k n = Stated.valueAt w k n := by
        rw [valueAt_eq_homeNat, valueAt_eq_homeNat, State.homeNat_congr hmem hdisc]
      obtain ⟨his, hresid, hholders, hkind, hplaces⟩ := hinit
      refine ⟨?_, (hvalue _ _).trans hresid, (hvalue _ _).trans hholders, (hvalue _ _).trans hkind, fun i => ?_⟩
      · unfold State.isPot at his ⊢
        rw [hlines]; exact his
      · unfold Stated.places at hplaces ⊢
        rw [hranges, hstacks]; exact hplaces i

/-- Settles O41: a launch queues its farm and its pot's indices, and STRIP takes one index from its one place. -/
theorem farmWords : Obligations.FarmWords := ⟨farmsAreLaunched, stripsAndQueries⟩

end Sys2Proof.Machine


/-! SUPPORT. The words that the execute processor performs without touching memory, sorted by how they are performed (R159 to R190). -/

namespace Sys2Proof.Machine

/-! ### Entries that differ in how far they have come -/

/-- Two entries of one word: they differ in where the word stands and in the predicate that it keeps (R133, R282). -/
def QEntry.SameWord (q q' : QEntry) : Prop := q' = { q with start := q'.start, done := q'.done, pred := q'.pred, begun := q'.begun }

/-- Two entries of one word see the same elements active. -/
structure QEntry.Alike (pm : Nat) (e : Exec) (q q' : QEntry) : Prop where
  word : q.SameWord q'
  active : ∀ j, q'.active e pm j = q.active e pm j

/-- The execute half with another queue. -/
def Exec.requeue (g : List QEntry → List QEntry) (e : Exec) : Exec := { e with queue := g e.queue }

/-- The value of an element follows from the word and from what is active, not from how far the word has come nor from what waits behind it. -/
def FromWord (pm : Nat) (f : QEntry → Exec → Nat → Nat → Nat × Nat) : Prop :=
  ∀ q q' e g, QEntry.Alike pm e q q' → f q' (e.requeue g) = f q e

/-! ### The predicate field (R49, R50) -/

/-- The word takes a predicate, and its field names mask `pm`. -/
def Predicated (w pm : Nat) : Prop := takesPredicate w = true ∧ pmField w = pm

/-- The opcodes of V words that take a predicate and touch no memory. -/
def predicateOps : List Nat := [0x40, 0x41, 0x42, 0x43, 0x45, 0x46, 0x49, 0x4A]

theorem predicated_of_opcode {w pm : Nat} (hop : w % 128 ∈ predicateOps) (hpm : w / 0x400000 % 8 = pm) : Predicated w pm := by
  simp only [predicateOps, List.mem_cons, List.not_mem_nil, or_false] at hop
  have hne : ¬(decide (w % 128 = 0x62) || decide (w % 128 = 0x63)) = true := by simp only [Bool.or_eq_true, decide_eq_true_eq]; omega
  refine ⟨?_, ?_⟩
  · unfold takesPredicate
    rcases hop with h | h | h | h | h | h | h | h <;> simp [h]
  · rw [pmField, if_neg hne]
    exact hpm

section Fields

variable {c : Nat} (hop : c % 128 ∈ predicateOps) (hpm : c % 0x8000000 = c % 128)

include hop hpm

/-- The fields of a V word leave its opcode as it is, and its predicate field reads back. -/
theorem predicated_add {n pm : Nat} (hn : n % 128 = 0) (hf : n / 0x400000 % 8 = pm) : Predicated (c + n) pm :=
  predicated_of_opcode (by rwa [Nat.add_mod, hn, Nat.add_zero, Nat.mod_mod]) (by omega)

theorem predicated_opV (o : OpV) : Predicated (c + o.toNat) o.pm.val := by
  have := o.d.isLt; have := o.s1.isLt; have := o.s2.isLt; have := o.pm.isLt
  exact predicated_add hop hpm (by unfold OpV.toNat; omega) (by unfold OpV.toNat; omega)

theorem predicated_opV1 (o : OpV1) : Predicated (c + o.toNat) o.pm.val := by
  have := o.d.isLt; have := o.s1.isLt; have := o.pm.isLt
  exact predicated_add hop hpm (by unfold OpV1.toNat; omega) (by unfold OpV1.toNat; omega)

theorem predicated_opV0 (o : OpV0) : Predicated (c + o.toNat) o.pm.val := by
  have := o.d.isLt; have := o.pm.isLt
  exact predicated_add hop hpm (by unfold OpV0.toNat; omega) (by unfold OpV0.toNat; omega)

theorem predicated_opVCvt (o : OpVCvt) : Predicated (c + o.toNat) o.pm.val := by
  have := o.d.isLt; have := o.s1.isLt; have := o.pm.isLt; have := o.other.isLt; have := o.dir.isLt
  exact predicated_add hop hpm (by unfold OpVCvt.toNat; omega) (by unfold OpVCvt.toNat; omega)

theorem predicated_opVCvtI (o : OpVCvtI) : Predicated (c + o.toNat) o.pm.val := by
  have := o.d.isLt; have := o.s1.isLt; have := o.pm.isLt; have := o.iw.isLt; have := o.signed.isLt
  exact predicated_add hop hpm (by unfold OpVCvtI.toNat; omega) (by unfold OpVCvtI.toNat; omega)

end Fields

/-- The five G words that resolve elements, of the words 0x62 and 0x63. -/
theorem predicated_opG {c : Nat} (hc : c ∈ [0x62, 0x2000062, 0x4000062, 0x63, 0x2000063]) (o : OpG) :
    Predicated (c + o.toNat) o.pm.val ∧ ((c + o.toNat) % 128 = 0x62 ∨ (c + o.toNat) % 128 = 0x63) := by
  have h1 := o.d.isLt; have h2 := o.vp.isLt; have h3 := o.vs.isLt; have h4 := o.nf.isLt
  have h5 := o.tb.isLt; have h6 := o.pf.isLt; have h7 := o.pm.isLt
  have hall : ∀ c ∈ [0x62, 0x2000062, 0x4000062, 0x63, 0x2000063],
      (c % 128 = 0x62 ∨ c % 128 = 0x63) ∧ (c < 0x8000000 ∧ c % 0x2000000 < 128) ∧ c / 0x2000000 ≠ 3 := by decide
  obtain ⟨hop, hsmall, hstat⟩ := hall c hc
  have hlow : (c + o.toNat) % 128 = c % 128 := by unfold OpG.toNat; omega
  have hfield : bits (c + o.toNat) 25 2 = c / 0x2000000 ∧ bits (c + o.toNat) 27 3 = o.pm.val := by
    unfold bits OpG.toNat
    omega
  have hor : (c + o.toNat) % 128 = 0x62 ∨ (c + o.toNat) % 128 = 0x63 := by rwa [hlow]
  refine ⟨⟨?_, ?_⟩, hor⟩
  · unfold takesPredicate
    rw [hlow, hfield.1]
    rcases hop with h | h <;> simp [h, hstat]
  · rw [pmField, if_pos (by simpa only [Bool.or_eq_true, decide_eq_true_eq] using hor), hfield.2]

/-! ### The forms -/

/-- How a word that touches no memory is performed. -/
inductive Form (i : Instr) : VOp → Prop
  | element {w : Nat} {d : Reg} {wd : Nat} {srcs : List (Reg × Nat)} {pm : Nat} {draws : Bool} {overlap : Overlap} {bad : Exec → Bool}
      {f : QEntry → Exec → Nat → Nat → Nat × Nat} (hw : w ∣ 1024) (hwd : wd ∣ 1024) (hpm : pm = 0 ∨ Predicated (encode i) pm)
      (hdraws : draws = true → Stated.rounds i = true) (hf : FromWord pm f) : Form i (elementOp w d wd srcs pm draws overlap bad f)
  | mask (w : Nat) (md : Reg) (srcs : List Reg) (pm : Nat) (f : QEntry → Exec → Nat → Bool × Nat)
      (hf : ∀ q e g, f q (e.requeue g) = f q e) : Form i (maskOp w md srcs pm f)
  | bits (md : Reg) (f : Exec → Nat → Bool) (hf : ∀ e g, f (e.requeue g) = f e) : Form i (bitsOp md f)
  | compress (o : OpV1) : Form i (opVcompress o)
  | expand (o : OpV1) : Form i (opVexpand o)
  | slideup (o : OpV) (hpm : Predicated (encode i) o.pm.val) : Form i (opVslideup o)
  | reduce (w : Nat) (o : OpV) {draws : Bool} (op : Nat → Nat → Nat → Nat → Nat × Nat) (hdraws : draws = true → Stated.rounds i = true) :
      Form i (reduceOp w o draws op)
  | move (o : OpVMv) : Form i (opVmvsx o)
  | mma (o : OpMma) (hx : encode i % 128 = 0x60) : Form i (opMma o)
  | zeroTile (o : OpMZero) (hx : encode i % 128 = 0x61) : Form i (opMzero o)
  | copyTile (o : OpMmovt) (hx : encode i % 128 = 0x61) : Form i (opMmovt o)
  | toVector (o : OpMtov) (hdraws : Stated.rounds i = true) : Form i (opMtov o)
  | toTile (o : OpMvtot) (hx : encode i % 128 = 0x61) : Form i (opMvtot o)
  | geom (k : GKind) (o : OpG) (hpm : Predicated (encode i) o.pm.val) (hg : encode i % 128 = 0x62 ∨ encode i % 128 = 0x63) : Form i (geomOp k o)

theorem two_sewBits_dvd (c : Fin 4) : 2 * sewBits c ∣ 1024 := by revert c; decide

theorem fromWord_of_eq {pm : Nat} {f : QEntry → Exec → Nat → Nat → Nat × Nat}
    (h : ∀ (q q' : QEntry) (e : Exec) (g : List QEntry → List QEntry), q.SameWord q' → f q' (e.requeue g) = f q e) : FromWord pm f :=
  fun q q' e g ha => h q q' e g ha.word

section Rows

variable {i : Instr}

theorem form_intVV {f : Nat → Nat → Nat → Nat × Nat} {o : OpV} (h : Predicated (encode i) o.pm.val) : Form i (intVV f o) :=
  .element (sewBits_dvd _).1 (sewBits_dvd _).1 (.inr h) nofun (fromWord_of_eq fun _ _ _ _ _ => rfl)

theorem form_intVS {f : Nat → Nat → Nat → Nat × Nat} {o : OpV} (h : Predicated (encode i) o.pm.val) : Form i (intVS f o) :=
  .element (sewBits_dvd _).1 (sewBits_dvd _).1 (.inr h) nofun (fromWord_of_eq fun _ _ _ _ hq => by rw [hq]; rfl)

theorem form_carryVV {f : Nat → Nat → Nat → Nat → Nat} {o : OpV} : Form i (carryVV f o) :=
  .element (sewBits_dvd _).1 (sewBits_dvd _).1 (.inl rfl) nofun (fromWord_of_eq fun _ _ _ _ _ => rfl)

theorem form_carryVS {f : Nat → Nat → Nat → Nat → Nat} {o : OpV} : Form i (carryVS f o) :=
  .element (sewBits_dvd _).1 (sewBits_dvd _).1 (.inl rfl) nofun (fromWord_of_eq fun _ _ _ _ hq => by rw [hq]; rfl)

theorem form_vwaddVV {o : OpV} (h : Predicated (encode i) o.pm.val) : Form i (opVwaddVV o) :=
  .element (sewBits_dvd _).1 (two_sewBits_dvd _) (.inr h) nofun (fromWord_of_eq fun _ _ _ _ _ => rfl)

theorem form_vwaddVS {o : OpV} (h : Predicated (encode i) o.pm.val) : Form i (opVwaddVS o) :=
  .element (sewBits_dvd _).1 (two_sewBits_dvd _) (.inr h) nofun (fromWord_of_eq fun _ _ _ _ hq => by rw [hq]; rfl)

theorem form_vnclipVV {o : OpV} (h : Predicated (encode i) o.pm.val) : Form i (opVnclipVV o) :=
  .element (sewBits_dvd _).1 (sewBits_dvd _).1 (.inr h) nofun (fromWord_of_eq fun _ _ _ _ _ => rfl)

theorem form_vnclipVS {o : OpV} (h : Predicated (encode i) o.pm.val) : Form i (opVnclipVS o) :=
  .element (sewBits_dvd _).1 (sewBits_dvd _).1 (.inr h) nofun (fromWord_of_eq fun _ _ _ _ hq => by rw [hq]; rfl)

theorem form_fpVV {f : Nat → FVal → FVal → Real} {o : OpV} (h : Predicated (encode i) o.pm.val) (hr : Stated.rounds i = true) : Form i (fpVV f o) :=
  .element (width_dvd _).1 (width_dvd _).1 (.inr h) (fun _ => hr) (fromWord_of_eq fun _ _ _ _ hq => by rw [hq]; rfl)

theorem form_fpVS {f : Nat → FVal → FVal → Real} {o : OpV} (h : Predicated (encode i) o.pm.val) (hr : Stated.rounds i = true) : Form i (fpVS f o) :=
  .element (width_dvd _).1 (width_dvd _).1 (.inr h) (fun _ => hr) (fromWord_of_eq fun _ _ _ _ hq => by rw [hq]; rfl)

theorem form_vfsqrt {o : OpV1} (h : Predicated (encode i) o.pm.val) (hr : Stated.rounds i = true) : Form i (opVfsqrt o) :=
  .element (width_dvd _).1 (width_dvd _).1 (.inr h) (fun _ => hr) (fromWord_of_eq fun _ _ _ _ hq => by rw [hq]; rfl)

theorem form_vfmaVV {o : OpV} (h : Predicated (encode i) o.pm.val) (hr : Stated.rounds i = true) : Form i (opVfmaVV o) :=
  .element (width_dvd _).1 (width_dvd _).1 (.inr h) (fun _ => hr) (fromWord_of_eq fun _ _ _ _ hq => by rw [hq]; rfl)

theorem form_vfmaVS {o : OpV} (h : Predicated (encode i) o.pm.val) (hr : Stated.rounds i = true) : Form i (opVfmaVS o) :=
  .element (width_dvd _).1 (width_dvd _).1 (.inr h) (fun _ => hr) (fromWord_of_eq fun _ _ _ _ hq => by rw [hq]; rfl)

theorem form_fpMinMaxVV {isMax : Bool} {o : OpV} (h : Predicated (encode i) o.pm.val) : Form i (fpMinMaxVV isMax o) :=
  .element (width_dvd _).1 (width_dvd _).1 (.inr h) nofun (fromWord_of_eq fun _ _ _ _ _ => rfl)

theorem form_fpMinMaxVS {isMax : Bool} {o : OpV} (h : Predicated (encode i) o.pm.val) : Form i (fpMinMaxVS isMax o) :=
  .element (width_dvd _).1 (width_dvd _).1 (.inr h) nofun (fromWord_of_eq fun _ _ _ _ hq => by rw [hq]; rfl)

theorem form_vfcvt {o : OpVCvt} (h : Predicated (encode i) o.pm.val) (hr : Stated.rounds i = true) : Form i (opVfcvt o) := by
  refine .element (width_dvd _).1 ?_ (.inr h) (fun _ => hr) (fromWord_of_eq fun _ _ _ _ hq => by rw [hq]; rfl)
  split_ifs
  · exact (width_dvd _).1
  · exact (width_dvd _).1

theorem form_vfcvti {o : OpVCvtI} (h : Predicated (encode i) o.pm.val) (hr : Stated.rounds i = true) : Form i (opVfcvti o) :=
  .element (width_dvd _).1 (sewBits_dvd _).1 (.inr h) (fun _ => hr) (fromWord_of_eq fun _ _ _ _ hq => by rw [hq]; rfl)

theorem form_vfcvtf {o : OpVCvtI} (h : Predicated (encode i) o.pm.val) (hr : Stated.rounds i = true) : Form i (opVfcvtf o) :=
  .element (width_dvd _).1 (width_dvd _).1 (.inr h) (fun _ => hr) (fromWord_of_eq fun _ _ _ _ hq => by rw [hq]; rfl)

theorem form_vfexp2 {o : OpV1} (h : Predicated (encode i) o.pm.val) : Form i (opVfexp2 o) :=
  .element (width_dvd _).1 (width_dvd _).1 (.inr h) nofun (fromWord_of_eq fun _ _ _ _ _ => rfl)

theorem form_viota {o : OpV0} (h : Predicated (encode i) o.pm.val) : Form i (opViota o) :=
  .element (sewBits_dvd _).1 (sewBits_dvd _).1 (.inr h) nofun (fromWord_of_eq fun _ _ _ _ _ => rfl)

/-- A conflict is with active elements alone. -/
theorem form_vconflict {o : OpV1} (h : Predicated (encode i) o.pm.val) : Form i (opVconflict o) :=
  .element (sewBits_dvd _).1 (sewBits_dvd _).1 (.inr h) nofun fun q q' e g ha => by
    have hact : ∀ j, q'.active (e.requeue g) o.pm.val j = q.active e o.pm.val j := ha.active
    simp only [hact]
    rfl

theorem form_vgather {o : OpV} (h : Predicated (encode i) o.pm.val) : Form i (opVgather o) :=
  .element (sewBits_dvd _).1 (sewBits_dvd _).1 (.inr h) nofun (fromWord_of_eq fun _ _ _ _ _ => rfl)

theorem form_vslidedn {o : OpV} (h : Predicated (encode i) o.pm.val) : Form i (opVslidedn o) :=
  .element (sewBits_dvd _).1 (sewBits_dvd _).1 (.inr h) nofun (fromWord_of_eq fun _ _ _ _ hq => by rw [hq]; rfl)

theorem form_vbcast {o : OpV1} (h : Predicated (encode i) o.pm.val) : Form i (opVbcast o) :=
  .element (sewBits_dvd _).1 (sewBits_dvd _).1 (.inr h) nofun (fromWord_of_eq fun _ _ _ _ hq => by rw [hq]; rfl)

end Rows

/-- The word has no element in memory. -/
def OffMemory (i : Instr) : Prop := vmemOf i 0 = none ∧ tileAccess i = none

theorem form_of_vopOf {i : Instr} {op : VOp} (hmem : OffMemory i) (hop : vopOf i = some op) : Form i op := by
  obtain ⟨hvm, htile⟩ := hmem
  cases i
  case vaddVV o | vsubVV o | vmulVV o | vmulhVV o | vmulhuVV o | vdivVV o | vdivuVV o | vremVV o | vandVV o | vorVV o | vxorVV o | vshlVV o
      | vshrVV o | vsarVV o | vminVV o | vmaxVV o | vsaddVV o =>
    obtain rfl := Option.some.inj hop
    exact form_intVV (predicated_opV (by decide) (by decide) o)
  case vaddVS o | vsubVS o | vmulVS o | vmulhVS o | vmulhuVS o | vdivVS o | vdivuVS o | vremVS o | vandVS o | vorVS o | vxorVS o | vshlVS o
      | vshrVS o | vsarVS o | vminVS o | vmaxVS o | vsaddVS o =>
    obtain rfl := Option.some.inj hop
    exact form_intVS (predicated_opV (by decide) (by decide) o)
  case vadcVV o | vsbcVV o => obtain rfl := Option.some.inj hop; exact form_carryVV
  case vadcVS o | vsbcVS o => obtain rfl := Option.some.inj hop; exact form_carryVS
  case vwaddVV o => obtain rfl := Option.some.inj hop; exact form_vwaddVV (predicated_opV (by decide) (by decide) o)
  case vwaddVS o => obtain rfl := Option.some.inj hop; exact form_vwaddVS (predicated_opV (by decide) (by decide) o)
  case vnclipVV o => obtain rfl := Option.some.inj hop; exact form_vnclipVV (predicated_opV (by decide) (by decide) o)
  case vnclipVS o => obtain rfl := Option.some.inj hop; exact form_vnclipVS (predicated_opV (by decide) (by decide) o)
  case vmadcVV o | vmsbcVV o | vmadcVS o | vmsbcVS o => obtain rfl := Option.some.inj hop; exact .mask _ _ _ _ _ fun _ _ _ => rfl
  case vfaddVV o | vfsubVV o | vfmulVV o | vfdivVV o =>
    obtain rfl := Option.some.inj hop
    exact form_fpVV (predicated_opV (by decide) (by decide) o) rfl
  case vfaddVS o | vfsubVS o | vfmulVS o | vfdivVS o =>
    obtain rfl := Option.some.inj hop
    exact form_fpVS (predicated_opV (by decide) (by decide) o) rfl
  case vfsqrt o => obtain rfl := Option.some.inj hop; exact form_vfsqrt (predicated_opV1 (by decide) (by decide) o) rfl
  case vfmaVV o => obtain rfl := Option.some.inj hop; exact form_vfmaVV (predicated_opV (by decide) (by decide) o) rfl
  case vfmaVS o => obtain rfl := Option.some.inj hop; exact form_vfmaVS (predicated_opV (by decide) (by decide) o) rfl
  case vfminVV o | vfmaxVV o => obtain rfl := Option.some.inj hop; exact form_fpMinMaxVV (predicated_opV (by decide) (by decide) o)
  case vfminVS o | vfmaxVS o => obtain rfl := Option.some.inj hop; exact form_fpMinMaxVS (predicated_opV (by decide) (by decide) o)
  case vfcvt o => obtain rfl := Option.some.inj hop; exact form_vfcvt (predicated_opVCvt (by decide) (by decide) o) rfl
  case vfcvti o => obtain rfl := Option.some.inj hop; exact form_vfcvti (predicated_opVCvtI (by decide) (by decide) o) rfl
  case vfcvtf o => obtain rfl := Option.some.inj hop; exact form_vfcvtf (predicated_opVCvtI (by decide) (by decide) o) rfl
  case vfexp2 o => obtain rfl := Option.some.inj hop; exact form_vfexp2 (predicated_opV1 (by decide) (by decide) o)
  case vcmpeqVV o | vcmpneVV o | vcmpltVV o | vcmpleVV o | vcmpltuVV o | vcmpleuVV o | vcmpgtVV o | vcmpgtuVV o | vcmpfeqVV o | vcmpfltVV o
      | vcmpfleVV o | vcmpfunordVV o | vcmpeqVS o | vcmpneVS o | vcmpltVS o | vcmpleVS o | vcmpltuVS o | vcmpleuVS o | vcmpgtVS o | vcmpgtuVS o
      | vcmpfeqVS o | vcmpfltVS o | vcmpfleVS o | vcmpfunordVS o =>
    obtain rfl := Option.some.inj hop
    exact .mask _ _ _ _ _ fun _ _ _ => rfl
  case mand o | mor o | mxor o | mandn o | mnot o | mshl o | mset o => obtain rfl := Option.some.inj hop; exact .bits _ _ fun _ _ => rfl
  case vcompress o => obtain rfl := Option.some.inj hop; exact .compress o
  case vexpand o => obtain rfl := Option.some.inj hop; exact .expand o
  case viota o => obtain rfl := Option.some.inj hop; exact form_viota (predicated_opV0 (by decide) (by decide) o)
  case vconflict o => obtain rfl := Option.some.inj hop; exact form_vconflict (predicated_opV1 (by decide) (by decide) o)
  case vgather o => obtain rfl := Option.some.inj hop; exact form_vgather (predicated_opV (by decide) (by decide) o)
  case vslideup o => obtain rfl := Option.some.inj hop; exact .slideup o (predicated_opV (by decide) (by decide) o)
  case vslidedn o => obtain rfl := Option.some.inj hop; exact form_vslidedn (predicated_opV (by decide) (by decide) o)
  case vbcast o => obtain rfl := Option.some.inj hop; exact form_vbcast (predicated_opV1 (by decide) (by decide) o)
  case vredsum o | vredmax o | vredmin o => obtain rfl := Option.some.inj hop; exact .reduce (draws := false) _ o _ nofun
  case vredfmax o => obtain rfl := Option.some.inj hop; unfold opVredfmax; exact .reduce _ o _ nofun
  case vredfsum o => obtain rfl := Option.some.inj hop; unfold opVredfsum; exact .reduce _ o _ fun _ => rfl
  case vmvsx o => obtain rfl := Option.some.inj hop; exact .move o
  case mma o => obtain rfl := Option.some.inj hop; exact .mma o (by show (0x60 + OpMma.toNat o) % 128 = _; unfold OpMma.toNat; omega)
  case mzero o => obtain rfl := Option.some.inj hop; exact .zeroTile o (by show (0x08000061 + OpMZero.toNat o) % 128 = _; unfold OpMZero.toNat; omega)
  case mmovt o => obtain rfl := Option.some.inj hop; exact .copyTile o (by show (0x30000061 + OpMmovt.toNat o) % 128 = _; unfold OpMmovt.toNat; omega)
  case mtov o => obtain rfl := Option.some.inj hop; exact .toVector o rfl
  case mvtot o => obtain rfl := Option.some.inj hop; exact .toTile o (by show (0x18000061 + OpMvtot.toNat o) % 128 = _; unfold OpMvtot.toNat; omega)
  case gori2 o => obtain rfl := Option.some.inj hop; exact .geom _ o (predicated_opG (c := 0x62) (by decide) o).1 (predicated_opG (c := 0x62) (by decide) o).2
  case ginc o => obtain rfl := Option.some.inj hop; exact .geom _ o (predicated_opG (c := 0x2000062) (by decide) o).1 (predicated_opG (c := 0x2000062) (by decide) o).2
  case gseg o => obtain rfl := Option.some.inj hop; exact .geom _ o (predicated_opG (c := 0x4000062) (by decide) o).1 (predicated_opG (c := 0x4000062) (by decide) o).2
  case gori3 o => obtain rfl := Option.some.inj hop; exact .geom _ o (predicated_opG (c := 0x63) (by decide) o).1 (predicated_opG (c := 0x63) (by decide) o).2
  case gins o => obtain rfl := Option.some.inj hop; exact .geom _ o (predicated_opG (c := 0x2000063) (by decide) o).1 (predicated_opG (c := 0x2000063) (by decide) o).2
  case vld | vlds | vldx | vlseg | vst | vsts | vstx | vsseg | vamo => exact absurd hvm nofun
  case mstore | mload => exact absurd htile nofun
  all_goals exact absurd hop nofun

end Sys2Proof.Machine

/-! SUPPORT. What a performed word can change: registers of its destination groups and of their copies, masks, tiles, generators and counters
(R127, R153, R156). -/

namespace Sys2Proof.Machine

/-! ### What a word may reach -/

/-- What a word may change, flags aside: vector registers and masks by number, tiles, and the counters of exact predicates. -/
structure Reach where
  reg : Nat → Prop
  mask : Nat → Prop
  tiles : Prop
  counts : Prop

/-- The execute half has changed within that reach. -/
structure Exec.Within (r : Reach) (e e' : Exec) : Prop where
  rest : e' = { e with v := e'.v, m := e'.m, tiles := e'.tiles, vstat := e'.vstat, gstat := e'.gstat }
  regs : ∀ k, ¬ r.reg k → e'.vreg k = e.vreg k
  masks : ∀ k, ¬ r.mask k → e'.mask k = e.mask k
  tiles : ¬ r.tiles → e'.tiles = e.tiles
  gstat : ¬ r.counts → e'.gstat = e.gstat

section Within

variable {r : Reach} {e e' : Exec}

theorem Exec.Within.refl (e : Exec) : e.Within r e := ⟨rfl, fun _ _ => rfl, fun _ _ => rfl, fun _ => rfl, fun _ => rfl⟩

theorem Exec.Within.trans {a b c : Exec} (h1 : a.Within r b) (h2 : b.Within r c) : a.Within r c where
  rest := by have h := h2.rest; rw [h1.rest] at h; exact h
  regs k hk := (h2.regs k hk).trans (h1.regs k hk)
  masks k hk := (h2.masks k hk).trans (h1.masks k hk)
  tiles ht := (h2.tiles ht).trans (h1.tiles ht)
  gstat hc := (h2.gstat hc).trans (h1.gstat hc)

theorem Exec.Within.mvl (h : e.Within r e') (w : Nat) : e'.mvl w = e.mvl w := by rw [h.rest]; rfl
theorem Exec.Within.g (h : e.Within r e') : e'.g = e.g := by rw [h.rest]; rfl

theorem Exec.SameRest.within (h : e.SameRest e') (hv : ∀ k, ¬ r.reg k → e'.vreg k = e.vreg k) : e.Within r e' := by
  unfold Exec.SameRest at h
  have hm : e'.m = e.m := by rw [h]
  have ht : e'.tiles = e.tiles := by rw [h]
  have hg : e'.gstat = e.gstat := by rw [h]
  refine ⟨?_, hv, fun k _ => ?_, fun _ => ht, fun _ => hg⟩
  · rw [hm, ht, hg]; exact h
  · unfold Exec.mask; rw [hm]

theorem Exec.SameButTiles.within (h : e.SameButTiles e') (ht : r.tiles) : e.Within r e' := by
  unfold Exec.SameButTiles at h
  have hm : e'.m = e.m := by rw [h]
  have hv : e'.v = e.v := by rw [h]
  have hg : e'.gstat = e.gstat := by rw [h]
  refine ⟨?_, fun k _ => ?_, fun k _ => ?_, fun hn => absurd ht hn, fun _ => hg⟩
  · rw [hm, hv, hg]; exact h
  · unfold Exec.vreg; rw [hv]
  · unfold Exec.mask; rw [hm]

theorem within_accrue (e : Exec) (fl : Nat) : e.Within r (e.accrue fl) := ⟨rfl, fun _ _ => rfl, fun _ _ => rfl, fun _ => rfl, fun _ => rfl⟩

theorem within_setElem {k w i : Nat} (v : Nat) (h : r.reg (k + i / e.mvl w)) : e.Within r (e.setElem k w i v) :=
  (sameRest_setElem e k w i v).within fun _ hj => vreg_setElem_other e v fun h' => hj (h' ▸ h)

theorem mask_setMask (e : Exec) (m k : Nat) (v : VReg) (h : k ≠ m) : (e.setMask m v).mask k = e.mask k := by
  unfold Exec.setMask Exec.mask
  by_cases hm : m < 8
  · rw [dif_pos hm]
    by_cases hk : k < 8
    · rw [dif_pos hk, dif_pos hk]
      exact Vector.getElem_set_ne hm hk h.symm
    · rw [dif_neg hk, dif_neg hk]
  · rw [dif_neg hm]

theorem within_setMask {m : Nat} (v : VReg) (h : r.mask m) : e.Within r (e.setMask m v) where
  rest := by unfold Exec.setMask; split_ifs <;> rfl
  regs _ _ := by unfold Exec.setMask; split_ifs <;> rfl
  masks k hk := mask_setMask e m k v fun h' => hk (h' ▸ h)
  tiles _ := by unfold Exec.setMask; split_ifs <;> rfl
  gstat _ := by unfold Exec.setMask; split_ifs <;> rfl

theorem within_setTile (t row c v : Nat) (h : r.tiles) : e.Within r (e.setTile t row c v) := (sameButTiles_setTile e t row c v).within h

theorem within_countStage (stage : Nat) (h : r.counts) : e.Within r (e.countStage stage) :=
  ⟨rfl, fun _ _ => rfl, fun _ _ => rfl, fun _ => rfl, fun hn => absurd h hn⟩

/-- A loop stays within reach where each of its rounds does. -/
theorem Exec.Within.foldl {β : Type} {f : Exec → β → Exec} (l : List β) (hf : ∀ a, ∀ x ∈ l, e.Within r a → e.Within r (f a x)) :
    e.Within r (l.foldl f e) :=
  List.foldlRecOn l f (.refl e) fun a ha x hx => hf a x hx ha

theorem within_zeroFrom {d w n vl : Nat} (h : ∀ k < n, r.reg (d + k)) : e.Within r (e.zeroFrom d w n vl) := by
  refine Exec.Within.foldl _ fun a k hk ha => ha.trans ((sameRest_setVreg ..).within fun j hj => ?_)
  rw [vreg_setVreg, if_neg]
  rintro ⟨rfl, -⟩
  exact hj (h k (List.mem_range.1 hk))

end Within

/-! ### A destination group and its lent copy -/

/-- The reach holds a destination group of `n` registers and its copy. -/
def Reach.group (r : Reach) (d n : Nat) (copy : Option Nat) : Prop := ∀ k < n, r.reg (d + k) ∧ ∀ c, copy = some c → r.reg (c + k)

/-- Element `i` lies among the first `n`, of which the reach holds the registers, or the reach holds every register. -/
def Reach.Fits (r : Reach) (i n : Nat) : Prop := (∀ k, r.reg k) ∨ i < n

/-- So do the elements below a bound. -/
theorem Reach.Fits.below {r : Reach} {vl n i : Nat} (h : (∀ k, r.reg k) ∨ vl ≤ n) (hi : i < vl) : r.Fits i n := h.imp_right hi.trans_le

section Group

variable {r : Reach} {e : Exec} {q : QEntry} {d w n : Nat} (hg : r.group d n q.copy)

include hg

theorem within_put {i : Nat} (v : Nat) (hi : r.Fits i (n * e.mvl w)) : e.Within r (e.put q d w i v) := by
  obtain ⟨h1, h2⟩ : r.reg (d + i / e.mvl w) ∧ ∀ c, q.copy = some c → r.reg (c + i / e.mvl w) :=
    hi.elim (fun h => ⟨h _, fun _ _ => h _⟩) fun h => hg _ (div_mvl_lt h)
  rcases hc : q.copy with _ | c
  · rw [put_none e q v hc]
    exact within_setElem v h1
  · rw [put_some e q v hc]
    exact (within_setElem v h1).trans (within_setElem v (by rw [(sameRest_setElem ..).mvl]; exact h2 c hc))

theorem within_tail : e.Within r (e.tail q d w n) := by
  by_cases htz : q.tz = true
  · rcases hc : q.copy with _ | c
    · rw [tail_alone e q d w n htz hc]
      exact within_zeroFrom fun k hk => (hg k hk).1
    · rw [tail_copy e q d w n htz hc]
      exact (within_zeroFrom fun k hk => (hg k hk).1).trans (within_zeroFrom fun k hk => (hg k hk).2 c hc)
  · rw [tail_none e q d w n (eq_false_of_ne_true htz)]
    exact .refl e

end Group

/-! ### States -/

/-- The state has changed within that reach, in its hart's execute half alone, but for generators where the word draws and counters of dies where
it counts. -/
structure State.Within (r : Reach) (draws : Prop) (s s' : State) : Prop where
  rest : s' = { s with dies := s'.dies, hart := { s.hart with ep := s'.hart.ep, sc := { s.hart.sc with gens := s'.hart.sc.gens } } }
  ep : s.hart.ep.Within r s'.hart.ep
  gens : ¬ draws → s'.hart.sc.gens = s.hart.sc.gens
  dies : ¬ r.counts → s'.dies = s.dies

section States

variable {r : Reach} {draws : Prop} {s : State}

theorem State.Within.refl (s : State) : s.Within r draws s := ⟨rfl, .refl _, fun _ => rfl, fun _ => rfl⟩

theorem State.Within.trans {a b c : State} (h1 : a.Within r draws b) (h2 : b.Within r draws c) : a.Within r draws c where
  rest := by have h := h2.rest; rw [h1.rest] at h; exact h
  ep := h1.ep.trans h2.ep
  gens hd := (h2.gens hd).trans (h1.gens hd)
  dies hd := (h2.dies hd).trans (h1.dies hd)

theorem within_ep {f : Exec → Exec} (h : s.hart.ep.Within r (f s.hart.ep)) : s.Within r draws (s.ep f) := ⟨rfl, h, fun _ => rfl, fun _ => rfl⟩

theorem within_halves {e : Exec} {c : Scalar} (h : s.hart.ep.Within r e) (hc : c = { s.hart.sc with gens := c.gens })
    (hd : ¬ draws → c.gens = s.hart.sc.gens) : s.Within r draws (s.halves e c) := by
  refine ⟨?_, h, hd, fun _ => rfl⟩
  generalize hg : c.gens = g at hc
  subst hc
  rfl

theorem within_count {die i n : Nat} (h : r.counts) : s.Within r draws (s.count die i n) := by
  unfold State.count State.updDie
  split_ifs
  · exact ⟨rfl, .refl _, fun _ => rfl, fun hn => absurd h hn⟩
  · exact .refl s

theorem State.Within.foldl {β : Type} {f : State → β → State} (l : List β)
    (hf : ∀ a, ∀ x ∈ l, s.Within r draws a → s.Within r draws (f a x)) : s.Within r draws (l.foldl f s) :=
  List.foldlRecOn l f (.refl s) fun a ha x hx => hf a x hx ha

end States

end Sys2Proof.Machine

/-! SUPPORT. Each form of word stays within its destinations (R127, R153 to R156). -/

namespace Sys2Proof.Machine

/-! ### Draws -/

/-- The scalar half has moved generators alone, and those only where `draws`. -/
structure Scalar.Drawn (draws : Prop) (c c' : Scalar) : Prop where
  rest : c' = { c with gens := c'.gens }
  gens : ¬ draws → c'.gens = c.gens

theorem Scalar.Drawn.refl {draws : Prop} (c : Scalar) : c.Drawn draws c := ⟨rfl, fun _ => rfl⟩

theorem Scalar.Drawn.trans {draws : Prop} {a b c : Scalar} (h1 : a.Drawn draws b) (h2 : b.Drawn draws c) : a.Drawn draws c :=
  ⟨by have h := h2.rest; rw [h1.rest] at h; exact h, fun hd => (h2.gens hd).trans (h1.gens hd)⟩

theorem drawn_laneDraw {draws : Prop} (c : Scalar) (rm g : Nat) (h : rm = 4 → draws) : c.Drawn draws (c.laneDraw rm g).1 := by
  unfold Scalar.laneDraw Scalar.draw
  split_ifs with hrm hg
  · exact ⟨rfl, fun hn => absurd (h hrm) hn⟩
  · exact .refl c
  · exact .refl c

/-- A word that does not draw has no stochastic mode. -/
theorem mode_draws {drawing : Bool} {frm : Nat} {draws : Prop} (h : drawing = true → frm = 4 → draws) :
    (if drawing then frm else 0) = 4 → draws := by
  cases drawing
  · nofun
  · exact h rfl

/-! ### The loops -/

theorem elementwise_empty (pm d w size : Nat) (draws : Bool) (f : Exec → Nat → Nat → Nat × Nat) {q : QEntry} (hi : Nat) (s : State) (h : q.vl = 0) :
    elementwise pm d w size draws f q hi s = s := by
  rw [elementwise_eq, if_pos h]

/-- A word with elements leaves what its loop leaves, with the tail at its end. -/
theorem elementwise_loop (pm d w size : Nat) (draws : Bool) (f : Exec → Nat → Nat → Nat × Nat) {q : QEntry} {hi : Nat} {s : State} (h : q.vl ≠ 0)
    {r : Exec × Scalar}
    (hr : (range q.start (min hi q.vl - q.start)).foldl (elementStep pm d w (if draws then q.frm else 0) f q) (s.hart.ep, s.hart.sc) = r) :
    elementwise pm d w size draws f q hi s = s.halves (if q.vl ≤ hi then r.1.tail q d w size else r.1) r.2 := by
  subst hr
  rw [elementwise_eq, if_neg h]
  rfl

/-! ### The whole-result words as functions of the execute half -/

/-- One bit of a mask that a word writes, with its flags. -/
def maskRound (pm : Nat) (f : Exec → Nat → Bool × Nat) (q : QEntry) (e : Exec) (a : VReg × Nat) (i : Nat) : VReg × Nat :=
  if q.active e pm i then
    let v := f e i
    (putBit a.1 i v.1, a.2 ||| v.2)
  else if q.iz then (putBit a.1 i false, a.2)
  else a

/-- What a word that writes a mask leaves. -/
def maskWritten (pm md : Nat) (f : Exec → Nat → Bool × Nat) (q : QEntry) (e : Exec) : Exec :=
  let r := (List.range q.vl).foldl (maskRound pm f q e) (e.mask md, 0)
  (e.setMask md (if q.tz then BitVec.ofNat 131072 (r.1.toNat % 2 ^ q.vl) else r.1)).accrue r.2

theorem maskWrite_eq (pm md : Nat) (f : Exec → Nat → Bool × Nat) (q : QEntry) (s : State) :
    maskWrite pm md f q s = if q.vl = 0 then s else s.ep (maskWritten pm md f q) := rfl

/-- The active elements of a packing word. -/
def selected (o : OpV1) (q : QEntry) (e : Exec) : List Nat := (List.range q.vl).filter (q.active e o.pm.val)

/-- A selected element packed, by its place among them. -/
def packRound (o : OpV1) (q : QEntry) (e a : Exec) (p : Nat × Nat) : Exec :=
  a.put q o.d.val (sewBits o.sew) p.2 (e.elem o.s1.val (sewBits o.sew) p.1)

/-- The selected elements packed. -/
def packed (o : OpV1) (q : QEntry) (e : Exec) : Exec := (selected o q e).zipIdx.foldl (packRound o q e) e

/-- What VCOMPRESS leaves: from their count on there is tail. -/
def compressed (o : OpV1) (q : QEntry) (e : Exec) : Exec :=
  (packed o q e).tail { q with vl := (selected o q e).length } o.d.val (sewBits o.sew) e.g

theorem opVcompress_run (o : OpV1) (q : QEntry) (hi : Nat) (s : State) :
    (opVcompress o).run q hi s = if q.vl = 0 then s else s.ep (compressed o q) := rfl

/-- One element of VEXPAND, with the count of active ones so far. -/
def expandRound (o : OpV1) (q : QEntry) (e : Exec) (a : Exec × Nat) (i : Nat) : Exec × Nat :=
  if q.active e o.pm.val i then (a.1.put q o.d.val (sewBits o.sew) i (e.elem o.s1.val (sewBits o.sew) a.2), a.2 + 1)
  else if q.iz then (a.1.put q o.d.val (sewBits o.sew) i 0, a.2)
  else a

/-- What VEXPAND leaves. -/
def expanded (o : OpV1) (q : QEntry) (e : Exec) : Exec :=
  ((List.range q.vl).foldl (expandRound o q e) (e, 0)).1.tail q o.d.val (sewBits o.sew) e.g

theorem opVexpand_run (o : OpV1) (q : QEntry) (hi : Nat) (s : State) :
    (opVexpand o).run q hi s = if q.vl = 0 then s else s.ep (expanded o q) := rfl

/-- What a reduction gives: its value, the scalar half after its draws, and its flags (R97, R169). -/
def reduceWith (w : Nat) (o : OpV) (drawing : Bool) (op : Nat → Nat → Nat → Nat → Nat × Nat) (q : QEntry) (e : Exec) (c : Scalar) :
    Option Nat × Scalar × Nat :=
  let rm := if drawing then q.frm else 0
  let leaf := fun i => if i < q.vl && q.active e o.pm.val i then some (e.elem o.s1.val w i) else none
  let t := reduceTree (op q.frm) rm (laneGen e w) (log2Up q.vl) ((List.range (2 ^ log2Up q.vl)).map leaf) (c, 0)
  combine (op q.frm) rm 1 (some (e.elem o.s2.val w 0)) t.1 t.2

/-- A reduction's value written. -/
def putReduction (w : Nat) (o : OpV) (q : QEntry) (e : Exec) (r : Option Nat × Scalar × Nat) : Exec :=
  let e' := e.setElem o.d.val w 0 (r.1.getD 0)
  (if q.tz then e'.zeroFrom o.d.val w 1 1 else e').accrue r.2.2

theorem reduceOp_written (w : Nat) (o : OpV) (drawing : Bool) (op : Nat → Nat → Nat → Nat → Nat × Nat) (q : QEntry) (hi : Nat) (s : State) :
    (reduceOp w o drawing op).run q hi s = if q.vl = 0 then s
      else s.halves (putReduction w o q s.hart.ep (reduceWith w o drawing op q s.hart.ep s.hart.sc)) (reduceWith w o drawing op q s.hart.ep s.hart.sc).2.1 :=
  rfl

theorem lt_of_mem_range {a b vl i : Nat} (h : i ∈ range a (min b vl - a)) : i < vl := by
  obtain ⟨k, hk, rfl⟩ := List.mem_map.1 h
  have := List.mem_range.1 hk
  omega

section Loops

variable {r : Reach} {draws : Prop} {q : QEntry} {s : State}

theorem within_elementStep {e : Exec} {c : Scalar} {pm d w n mode i : Nat} {f : Exec → Nat → Nat → Nat × Nat} {a : Exec × Scalar}
    (hg : r.group d n q.copy) (hi : r.Fits i (n * e.mvl w)) (hmode : mode = 4 → draws) (ha : e.Within r a.1 ∧ c.Drawn draws a.2) :
    e.Within r (elementStep pm d w mode f q a i).1 ∧ c.Drawn draws (elementStep pm d w mode f q a i).2 := by
  obtain ⟨he, hc⟩ := ha
  have hput : ∀ v, e.Within r (a.1.put q d w i v) := fun v => he.trans (within_put hg v (by rwa [he.mvl]))
  unfold elementStep
  split_ifs
  · exact ⟨(hput _).trans (within_accrue ..), hc.trans (drawn_laneDraw _ _ _ hmode)⟩
  · exact ⟨hput 0, hc⟩
  · exact ⟨he, hc⟩

theorem within_elementwise {pm d w n hi : Nat} {drawing : Bool} {f : Exec → Nat → Nat → Nat × Nat} (hg : r.group d n q.copy)
    (hvl : (∀ k, r.reg k) ∨ q.vl ≤ n * s.hart.ep.mvl w) (hmode : drawing = true → q.frm = 4 → draws) :
    s.Within r draws (elementwise pm d w n drawing f q hi s) := by
  by_cases h0 : q.vl = 0
  · rw [elementwise_empty _ _ _ _ _ _ _ _ h0]
    exact .refl s
  · have hm := mode_draws hmode
    have hloop := List.foldlRecOn (motive := fun a : Exec × Scalar => s.hart.ep.Within r a.1 ∧ s.hart.sc.Drawn draws a.2)
      (range q.start (min hi q.vl - q.start)) (elementStep pm d w (if drawing then q.frm else 0) f q) (b := (s.hart.ep, s.hart.sc))
      ⟨.refl _, .refl _⟩ fun a ha i hi => within_elementStep hg (.below hvl (lt_of_mem_range hi)) hm ha
    rw [elementwise_loop pm d w n drawing f h0 rfl]
    generalize (range q.start (min hi q.vl - q.start)).foldl _ (s.hart.ep, s.hart.sc) = a at hloop
    obtain ⟨he, hc⟩ := hloop
    refine within_halves ?_ hc.rest hc.gens
    split_ifs
    · exact he.trans (within_tail hg)
    · exact he

theorem within_maskWrite {pm md : Nat} {f : Exec → Nat → Bool × Nat} (h : r.mask md) : s.Within r draws (maskWrite pm md f q s) := by
  rw [maskWrite_eq]
  split_ifs
  · exact .refl s
  · exact within_ep ((within_setMask _ h).trans (within_accrue ..))

theorem length_selected (o : OpV1) (q : QEntry) (e : Exec) : (selected o q e).length ≤ q.vl :=
  (List.length_filter_le _ _).trans (List.length_range).le

theorem within_packed {o : OpV1} {e : Exec} (hg : r.group o.d.val e.g q.copy) (hvl : (∀ k, r.reg k) ∨ q.vl ≤ e.g * e.mvl (sewBits o.sew)) :
    e.Within r (packed o q e) := by
  refine Exec.Within.foldl _ fun a p hp ha => ha.trans (within_put hg _ ?_)
  have hlt : p.2 < (selected o q e).length := by
    have := List.snd_lt_add_of_mem_zipIdx hp
    omega
  rw [ha.mvl]
  exact .below hvl (hlt.trans_le (length_selected o q e))

theorem within_compressed {o : OpV1} {e : Exec} (hg : r.group o.d.val e.g q.copy) (hvl : (∀ k, r.reg k) ∨ q.vl ≤ e.g * e.mvl (sewBits o.sew)) :
    e.Within r (compressed o q e) :=
  (within_packed hg hvl).trans (within_tail hg)

theorem within_compress {o : OpV1} {hi : Nat} (hg : r.group o.d.val s.hart.ep.g q.copy) 
    (hvl : (∀ k, r.reg k) ∨ q.vl ≤ s.hart.ep.g * s.hart.ep.mvl (sewBits o.sew)) :
    s.Within r draws ((opVcompress o).run q hi s) := by
  rw [opVcompress_run]
  split_ifs
  · exact .refl s
  · exact within_ep (within_compressed hg hvl)

theorem within_expand {o : OpV1} {hi : Nat} (hg : r.group o.d.val s.hart.ep.g q.copy) 
    (hvl : (∀ k, r.reg k) ∨ q.vl ≤ s.hart.ep.g * s.hart.ep.mvl (sewBits o.sew)) :
    s.Within r draws ((opVexpand o).run q hi s) := by
  rw [opVexpand_run]
  split_ifs
  · exact .refl s
  · refine within_ep (Exec.Within.trans ?_ (within_tail hg))
    refine List.foldlRecOn (motive := fun a : Exec × Nat => s.hart.ep.Within r a.1) _ _ (.refl _) fun a ha i hi => ?_
    have hput : ∀ v, s.hart.ep.Within r (a.1.put q o.d.val (sewBits o.sew) i v) := fun v =>
      ha.trans (within_put hg v (by rw [ha.mvl]; exact .below hvl (List.mem_range.1 hi)))
    unfold expandRound
    split_ifs
    · exact hput _
    · exact hput 0
    · exact ha

theorem drawn_combine {op : Nat → Nat → Nat → Nat × Nat} {rm g : Nat} {a b : Option Nat} {sc : Scalar} {c : Scalar × Nat} (h : rm = 4 → draws)
    (hc : sc.Drawn draws c.1) : sc.Drawn draws (combine op rm g a b c).2.1 := by
  rcases a with _ | x
  · exact hc
  · rcases b with _ | y
    · exact hc
    · exact hc.trans (drawn_laneDraw _ _ _ h)

theorem drawn_treeLevel {op : Nat → Nat → Nat → Nat × Nat} {rm : Nat} {lane : Nat → Nat} {sc : Scalar} (h : rm = 4 → draws) :
    ∀ (as bs : List (Option Nat)) (i : Nat) (c : Scalar × Nat), sc.Drawn draws c.1 → sc.Drawn draws (treeLevel op rm lane i as bs c).2.1
  | [], _, _, _, hc => hc
  | _ :: _, [], _, _, hc => hc
  | _ :: as, _ :: bs, i, _, hc => drawn_treeLevel h as bs (i + 1) _ (drawn_combine h hc)

theorem drawn_reduceTree {op : Nat → Nat → Nat → Nat × Nat} {rm : Nat} {lane : Nat → Nat} {sc : Scalar} (h : rm = 4 → draws) :
    ∀ (k : Nat) (w : List (Option Nat)) (c : Scalar × Nat), sc.Drawn draws c.1 → sc.Drawn draws (reduceTree op rm lane k w c).2.1
  | 0, _, _, hc => hc
  | k + 1, _, _, hc => drawn_reduceTree h k _ _ (drawn_treeLevel h _ _ 0 _ hc)

theorem drawn_reduceWith {w : Nat} {o : OpV} {drawing : Bool} {op : Nat → Nat → Nat → Nat → Nat × Nat} (hmode : drawing = true → q.frm = 4 → draws)
    (e : Exec) (c : Scalar) : c.Drawn draws (reduceWith w o drawing op q e c).2.1 :=
  drawn_combine (mode_draws hmode) (drawn_reduceTree (mode_draws hmode) _ _ _ (.refl c))

theorem within_putReduction {w : Nat} {o : OpV} (h : r.reg o.d.val) (e : Exec) (v : Option Nat × Scalar × Nat) :
    e.Within r (putReduction w o q e v) := by
  have hset : e.Within r (e.setElem o.d.val w 0 (v.1.getD 0)) := within_setElem _ (by rwa [Nat.zero_div])
  unfold putReduction
  split_ifs
  · refine (hset.trans (within_zeroFrom fun k hk => ?_)).trans (within_accrue ..)
    obtain rfl : k = 0 := by omega
    exact h
  · exact hset.trans (within_accrue ..)

theorem within_reduce {w hi : Nat} {o : OpV} {drawing : Bool} {op : Nat → Nat → Nat → Nat → Nat × Nat} (h : r.reg o.d.val)
    (hmode : drawing = true → q.frm = 4 → draws) : s.Within r draws ((reduceOp w o drawing op).run q hi s) := by
  rw [reduceOp_written]
  have hc := drawn_reduceWith (w := w) (o := o) (op := op) hmode s.hart.ep s.hart.sc
  split_ifs
  · exact .refl s
  · exact within_halves (within_putReduction h _ _) hc.rest hc.gens

end Loops

end Sys2Proof.Machine

/-! SUPPORT. G words and X words stay within their destinations, and so does every word that issues (R127, R153 to R156, R198). -/

namespace Sys2Proof.Machine

/-! ### G words -/

/-- The result and the bit of one element written. -/
def Exec.putGeom (o : OpG) (q : QEntry) (w i : Nat) (v : Nat) (z : Bool) (e : Exec) : Exec :=
  (e.put q o.d.val w i v).setMask 0 (putBit (e.mask 0) i z)

/-- The pattern and the bit of an active element: as in flag mode where a coordinate is not finite. -/
def geomValue (k : GKind) (o : OpG) (e : Exec) (i : Nat) : Nat × Bool :=
  if nonFinite k o e i then (pat e.sewW (-(2 ^ (e.sewW - 1) : Nat)), false)
  else (pat e.sewW (geomResolved k o e i).1, (geomResolved k o e i).2.1)

/-- What a G word writes for an element: as IZ says where it is not active. -/
theorem geomWrite_eq (k : GKind) (o : OpG) (q : QEntry) (s : State) (i : Nat) : geomWrite k o q s i =
    if q.active s.hart.ep o.pm.val i then s.ep (Exec.putGeom o q s.hart.ep.sewW i (geomValue k o s.hart.ep i).1 (geomValue k o s.hart.ep i).2)
    else if q.iz then s.ep (Exec.putGeom o q s.hart.ep.sewW i 0 false)
    else s := by
  unfold geomWrite geomValue
  simp only
  by_cases h : nonFinite k o s.hart.ep i = true
  · rw [if_pos h, if_pos h]
    rfl
  · rw [if_neg h, if_neg h]
    rfl

theorem geomCount_eq (k : GKind) (o : OpG) (q : QEntry) (s : State) (i : Nat) : geomCount k o q s i =
    if q.active s.hart.ep o.pm.val i && !nonFinite k o s.hart.ep i then
      (s.ep (fun e => e.countStage (geomResolved k o s.hart.ep i).2.2)).count s.hart.die (0x1100 + (geomResolved k o s.hart.ep i).2.2) 1
    else s := by
  unfold geomCount
  rfl

/-- The tail of a G word, of its mask too. -/
def Exec.geomTail (e : Exec) (o : OpG) (q : QEntry) : Exec :=
  (e.tail q o.d.val e.sewW 1).setMask 0 (BitVec.ofNat 131072 ((e.mask 0).toNat % 2 ^ q.vl))

theorem geomOp_run (k : GKind) (o : OpG) (q : QEntry) (hi : Nat) (s : State) : (geomOp k o).run q hi s =
    if q.vl = 0 then s
    else
      let t := (range q.start (min hi q.limit - q.start)).foldl (geomElement k o q) s
      if q.vl ≤ hi && q.vl ≤ q.limit && q.tz then t.ep (fun e => e.geomTail o q) else t := by
  unfold geomOp Exec.geomTail
  simp only

section Geom

variable {r : Reach} {draws : Prop} {q : QEntry} {s : State} {k : GKind} {o : OpG}

theorem within_putGeom {e : Exec} {i v : Nat} {z : Bool} (hg : r.group o.d.val 1 q.copy) (hm : r.mask 0) (hi : r.Fits i (e.mvl e.sewW)) :
    e.Within r (Exec.putGeom o q e.sewW i v z e) :=
  (within_put hg v (by rwa [one_mul])).trans (within_setMask _ hm)

theorem within_geomWrite {i : Nat} (hg : r.group o.d.val 1 q.copy) (hm : r.mask 0) (hi : r.Fits i (s.hart.ep.mvl s.hart.ep.sewW)) :
    s.Within r draws (geomWrite k o q s i) := by
  rw [geomWrite_eq]
  split_ifs
  · exact within_ep (within_putGeom hg hm hi)
  · exact within_ep (within_putGeom hg hm hi)
  · exact .refl s

theorem within_geomCount {i : Nat} (hc : r.counts) : s.Within r draws (geomCount k o q s i) := by
  rw [geomCount_eq]
  split_ifs
  · exact (within_ep (within_countStage _ hc)).trans (within_count hc)
  · exact .refl s

theorem State.Within.sewW {a : State} (h : s.Within r draws a) : a.hart.ep.mvl a.hart.ep.sewW = s.hart.ep.mvl s.hart.ep.sewW := by
  have hs : a.hart.ep.sewW = s.hart.ep.sewW := by rw [h.ep.rest]; rfl
  rw [hs, h.ep.mvl]

theorem within_geomElement {i : Nat} (hg : r.group o.d.val 1 q.copy) (hm : r.mask 0) (hc : r.counts) (hi : r.Fits i (s.hart.ep.mvl s.hart.ep.sewW)) :
    s.Within r draws (geomElement k o q s i) := by
  have hcount : s.Within r draws (geomCount k o q s i) := within_geomCount hc
  unfold geomElement
  simp only
  split_ifs
  · exact hcount
  · exact hcount.trans (within_geomWrite hg hm (by rwa [hcount.sewW]))

theorem within_geom {hi : Nat} (hg : r.group o.d.val 1 q.copy) (hm : r.mask 0) (hc : r.counts) 
    (hlim : (∀ k, r.reg k) ∨ q.limit ≤ s.hart.ep.mvl s.hart.ep.sewW) :
    s.Within r draws ((geomOp k o).run q hi s) := by
  rw [geomOp_run]
  have hloop : s.Within r draws ((range q.start (min hi q.limit - q.start)).foldl (geomElement k o q) s) :=
    State.Within.foldl _ fun a i hi ha => ha.trans (within_geomElement hg hm hc (by
      rw [ha.sewW]
      exact .below hlim (lt_of_mem_range hi)))
  split_ifs
  · exact .refl s
  · exact hloop.trans (within_ep ((within_tail hg).trans (within_setMask _ hm)))
  · exact hloop

end Geom

/-! ### Every word -/

/-- The group of a word's own width. -/
theorem operand_own (e : Exec) (d : Reg) {w : Nat} (hw : w ∣ 1024) : (e.operand d w w).size = e.g := by
  rw [operand_size, Nat.mul_div_cancel _ (Nat.pos_of_dvd_of_pos hw (by norm_num))]
  exact max_eq_right Nat.one_le_two_pow

theorem tiles_within {r : Reach} {draws : Prop} {s : State} (f : Exec → Vector TileRow 256) (h : r.tiles) :
    s.Within r draws (s.ep fun e => { e with tiles := f e }) :=
  within_ep ⟨rfl, fun _ _ => rfl, fun _ _ => rfl, fun hn => absurd h hn, fun _ => rfl⟩

/-- The reach holds what a word of this shape may write: its destinations and their copies, and its masks. -/
structure Reach.Holds (r : Reach) (sh : Shape) (copy : Option Nat) : Prop where
  dsts : ∀ d ∈ sh.dsts, r.group d.reg d.size copy
  masks : ∀ m ∈ sh.masks, r.mask m

section Forms

variable {r : Reach} {draws : Prop} {s : State} {q : QEntry}

theorem elementOp_within {w : Nat} {d : Reg} {wd : Nat} {srcs : List (Reg × Nat)} {pm : Nat} {drawing : Bool} {overlap : Overlap} {bad : Exec → Bool}
    {f : QEntry → Exec → Nat → Nat → Nat × Nat} {hi : Nat} (hw : w ∣ 1024) (hwd : wd ∣ 1024)
    (hr : r.Holds ((elementOp w d wd srcs pm drawing overlap bad f).shape s.hart.ep) q.copy) (hvl : (∀ k, r.reg k) ∨ q.vl ≤ s.hart.ep.g * s.hart.ep.mvl w)
    (hd : drawing = true → q.frm = 4 → draws) : s.Within r draws ((elementOp w d wd srcs pm drawing overlap bad f).run q hi s) :=
  within_elementwise (n := (s.hart.ep.operand d wd w).size) (hr.dsts (s.hart.ep.operand d wd w) (List.mem_singleton.2 rfl))
    (hvl.imp_right fun h => h.trans (vlCap_le s.hart.ep hw hwd)) hd

theorem maskOp_run (w : Nat) (md : Reg) (srcs : List Reg) (pm : Nat) (f : QEntry → Exec → Nat → Bool × Nat) (q : QEntry) (hi : Nat) (s : State) :
    (maskOp w md srcs pm f).run q hi s = maskWrite pm md.val (f q) q s := rfl

theorem bitsOp_run (md : Reg) (f : Exec → Nat → Bool) (q : QEntry) (hi : Nat) (s : State) :
    (bitsOp md f).run q hi s = maskWrite 0 md.val (fun e i => (f e i, 0)) q s := rfl

theorem opVmvsx_run (o : OpVMv) (q : QEntry) (hi : Nat) (s : State) : (opVmvsx o).run q hi s =
    if q.vl = 0 || q.start ≠ 0 then s else s.ep (fun e => e.setElem o.d.val (sewBits o.sew) 0 (q.scalar (sewBits o.sew))) := rfl

theorem within_move {o : OpVMv} {hi : Nat} (h : r.reg o.d.val) : s.Within r draws ((opVmvsx o).run q hi s) := by
  rw [opVmvsx_run]
  split_ifs
  · exact .refl s
  · exact within_ep (within_setElem _ (by rwa [Nat.zero_div]))

theorem within_cellStep {td rowBase : Nat} {val : Nat × Nat → Nat × Nat} {e : Exec} (p : Nat × Nat) (h : r.tiles) :
    e.Within r (cellStep td rowBase val e p) := (within_setTile _ _ _ _ h).trans (within_accrue ..)

theorem within_mma {o : OpMma} {hi : Nat} (h : r.tiles) : s.Within r draws ((opMma o).run q hi s) := by
  rw [opMma_run]
  exact within_ep (Exec.Within.foldl _ fun a p _ ha => ha.trans (within_cellStep p h))

/-- The tiles with tile `t` zero. -/
def Exec.zeroTile (e : Exec) (t : Nat) : Vector TileRow 256 := Vector.ofFn (fun (i : Fin 256) => if i.val / 32 = t then 0 else e.tiles[i.val])

/-- The tiles with tile `t` as tile `u`. -/
def Exec.copyTile (e : Exec) (t : Nat) (u : Fin 8) : Vector TileRow 256 :=
  Vector.ofFn (fun (i : Fin 256) => if i.val / 32 = t then e.tiles[32 * u.val + i.val % 32]'(by omega) else e.tiles[i.val])

theorem opMzero_run (o : OpMZero) (q : QEntry) (hi : Nat) (s : State) :
    (opMzero o).run q hi s = s.ep fun e => { e with tiles := e.zeroTile o.td.val } := rfl

theorem opMmovt_run (o : OpMmovt) (q : QEntry) (hi : Nat) (s : State) :
    (opMmovt o).run q hi s = s.ep fun e => { e with tiles := e.copyTile o.td.val o.ts } := rfl

theorem within_zeroTile {o : OpMZero} {hi : Nat} (h : r.tiles) : s.Within r draws ((opMzero o).run q hi s) := by
  rw [opMzero_run]
  exact tiles_within _ h

theorem within_copyTile {o : OpMmovt} {hi : Nat} (h : r.tiles) : s.Within r draws ((opMmovt o).run q hi s) := by
  rw [opMmovt_run]
  exact tiles_within _ h

/-- One column of MVTOT. -/
def toTileRound (o : OpMvtot) (q : QEntry) (e : Exec) (c : Nat) : Exec :=
  let v := fp32.deliver 2 0 0 ((cvFmt o.cv).decode q.nan (e.elem o.s1.val (cvFmt o.cv).width c)).real
  (e.setTile o.td.val (q.xs2.toNat % 32) c v.1).accrue v.2

theorem opMvtot_run (o : OpMvtot) (q : QEntry) (hi : Nat) (s : State) :
    (opMvtot o).run q hi s = s.ep fun e => (List.range q.vl).foldl (toTileRound o q) e := rfl

theorem within_toTile {o : OpMvtot} {hi : Nat} (h : r.tiles) : s.Within r draws ((opMvtot o).run q hi s) := by
  rw [opMvtot_run]
  exact within_ep (Exec.Within.foldl _ fun a c _ ha => ha.trans ((within_setTile _ _ _ _ h).trans (within_accrue ..)))

theorem cvFmt_dvd (cv : Fin 4) : (cvFmt cv).width ∣ 1024 := by revert cv; decide

theorem opMtov_run (o : OpMtov) (q : QEntry) (hi : Nat) (s : State) : (opMtov o).run q hi s =
    elementwise 0 o.d.val (cvFmt o.cv).width s.hart.ep.g true
      (fun e dr c => (cvFmt o.cv).deliver q.nan q.frm dr (f32 (e.tile o.ts.val (q.xs1.toNat % 32) c)).real) q hi s := rfl

theorem within_toVector {o : OpMtov} {hi : Nat} (hr : r.group o.d.val s.hart.ep.g q.copy) 
    (hvl : (∀ k, r.reg k) ∨ q.vl ≤ s.hart.ep.g * s.hart.ep.mvl (cvFmt o.cv).width)
    (hd : q.frm = 4 → draws) : s.Within r draws ((opMtov o).run q hi s) := by
  rw [opMtov_run]
  exact within_elementwise hr hvl fun _ => hd

/-- The value of an element that VSLIDEUP writes. -/
def slideValue (o : OpV) (x : Word) (e : Exec) (_ i : Nat) : Nat × Nat := (e.elem o.s1.val (sewBits o.sew) (i - x.toNat), 0)

/-- VSLIDEUP begins at the distance. -/
def QEntry.slid (q : QEntry) : QEntry := { q with start := max q.start (min q.xs2.toNat q.vl) }

theorem opVslideup_run (o : OpV) (q : QEntry) (hi : Nat) (s : State) : (opVslideup o).run q hi s =
    elementwise o.pm.val o.d.val (sewBits o.sew) (s.hart.ep.operand o.d (sewBits o.sew) (sewBits o.sew)).size false (slideValue o q.xs2) q.slid hi s := by
  unfold opVslideup elementOp slideValue QEntry.slid
  rfl

theorem within_slideup {o : OpV} {hi : Nat} (hr : r.group o.d.val s.hart.ep.g q.copy) 
    (hvl : (∀ k, r.reg k) ∨ q.vl ≤ s.hart.ep.g * s.hart.ep.mvl (sewBits o.sew)) :
    s.Within r draws ((opVslideup o).run q hi s) := by
  rw [opVslideup_run, operand_own s.hart.ep o.d (sewBits_dvd o.sew).1]
  exact within_elementwise (q := q.slid) hr hvl nofun

end Forms

/-- A word that its issue checks let through, or any where the reach holds every register, stays within its destinations; it draws only where it rounds in stochastic mode. -/
theorem Form.within {i : Instr} {op : VOp} (hf : Form i op) {r : Reach} {s : State} {q : QEntry} {hi : Nat}
    (hr : r.Holds (op.shape s.hart.ep) q.copy)
    (hvl : (∀ k, r.reg k) ∨ q.limit = q.vl ∧ ∀ n, (op.shape s.hart.ep).vlMax = some n → q.vl ≤ n)
    (hx : encode i % 128 = 0x60 ∨ encode i % 128 = 0x61 → r.tiles) (hg : encode i % 128 = 0x62 ∨ encode i % 128 = 0x63 → r.counts) :
    s.Within r (Stated.rounds i = true ∧ q.frm = 4) (op.run q hi s) := by
  have hcap : ∀ n, (op.shape s.hart.ep).vlMax = some n → (∀ k, r.reg k) ∨ q.vl ≤ n := fun n hn => hvl.imp_right fun h => h.2 n hn
  cases hf with
  | element hw hwd hpm hdraws hfrom => exact elementOp_within hw hwd hr (hcap _ rfl) fun hd h4 => ⟨hdraws hd, h4⟩
  | mask w md srcs pm f =>
    rw [maskOp_run]
    exact within_maskWrite (hr.masks _ (List.mem_singleton.2 rfl))
  | bits md f =>
    rw [bitsOp_run]
    exact within_maskWrite (hr.masks _ (List.mem_singleton.2 rfl))
  | compress o =>
    refine within_compress ?_ (hcap _ rfl)
    rw [← operand_own s.hart.ep o.d (sewBits_dvd o.sew).1]
    exact hr.dsts _ (List.mem_singleton.2 rfl)
  | expand o =>
    refine within_expand ?_ (hcap _ rfl)
    rw [← operand_own s.hart.ep o.d (sewBits_dvd o.sew).1]
    exact hr.dsts _ (List.mem_singleton.2 rfl)
  | slideup o hpm =>
    refine within_slideup ?_ (hcap _ rfl)
    rw [← operand_own s.hart.ep o.d (sewBits_dvd o.sew).1]
    exact hr.dsts _ (List.mem_singleton.2 rfl)
  | reduce w o op hdraws => exact within_reduce (hr.dsts _ (List.mem_singleton.2 rfl) 0 Nat.one_pos).1 fun hd h4 => ⟨hdraws hd, h4⟩
  | move o => exact within_move (hr.dsts _ (List.mem_singleton.2 rfl) 0 Nat.one_pos).1
  | mma o h => exact within_mma (hx (.inl h))
  | zeroTile o h => exact within_zeroTile (hx (.inr h))
  | copyTile o h => exact within_copyTile (hx (.inr h))
  | toVector o hdraws =>
    refine within_toVector ?_ ((hcap _ rfl).imp_right fun h => h.trans (min_le_right _ _)) fun h4 => ⟨hdraws, h4⟩
    rw [← operand_own s.hart.ep o.d (cvFmt_dvd o.cv)]
    exact hr.dsts _ (List.mem_singleton.2 rfl)
  | toTile o h => exact within_toTile (hx (.inr h))
  | geom k o hpm h =>
    refine within_geom (hr.dsts _ (List.mem_singleton.2 rfl)) (hr.masks _ (List.mem_singleton.2 rfl)) (hg h)
      (hvl.imp_right fun h => h.1.trans_le ((h.2 _ rfl).trans (min_le_right _ _)))

end Sys2Proof.Machine

/-! SUPPORT. The performed words as their dispatch (R126, R127). -/

namespace Sys2Proof.Machine

/-- The opcodes of the V words that touch memory (R35). -/
def memoryOps : List Nat := [0x50, 0x51, 0x52, 0x53, 0x54, 0x55, 0x56, 0x57, 0x58]

/-- A V word that touches memory has one of its opcodes. -/
theorem memory_opcode {i : Instr} (h : vmemOf i 0 ≠ none) : encode i % 128 ∈ memoryOps := by
  have hlow : ∀ {c n : Nat}, c ∈ memoryOps → n % 128 = 0 → (c + n) % 128 ∈ memoryOps := by
    intro c n hc hn
    have hlt : ∀ c ∈ memoryOps, c < 128 := by decide
    have := hlt c hc
    rwa [show (c + n) % 128 = c by omega]
  cases i
  case vld o | vst o => exact hlow (by decide) (by unfold OpV1.toNat; omega)
  case vlds o | vldx o | vsts o | vstx o => exact hlow (by decide) (by unfold OpV.toNat; omega)
  case vlseg o | vsseg o => exact hlow (by decide) (by unfold OpVSeg.toNat; omega)
  case vamo o => exact hlow (by decide) (by unfold OpVAmo.toNat; omega)
  all_goals exact absurd rfl h

/-- The performed words touch no memory, and the G words among them are in flag mode. -/
theorem performed_cases {i : Instr} (h : Stated.performed i = true) : OffMemory i ∧ ∀ k o, geomOf i = some (k, o) → o.nf.val = 1 := by
  have hops : ∀ w, w % 128 ∈ memoryOps → ¬((0x40 ≤ w % 128 ∧ w % 128 ≤ 0x4A) ∨ w % 128 = 0x60 ∨ w % 128 = 0x61) := by
    intro w hw
    simp only [memoryOps, List.mem_cons, List.not_mem_nil, or_false] at hw
    omega
  have hvm : vmemOf i 0 = none := by
    by_contra hne
    have hno := hops _ (memory_opcode hne)
    cases i
    case vld | vlds | vldx | vlseg | vst | vsts | vstx | vsseg | vamo => exact hno (of_decide_eq_true h).1
    all_goals exact hne rfl
  refine ⟨⟨hvm, ?_⟩, ?_⟩
  · cases i
    case mstore | mload => exact absurd h nofun
    all_goals rfl
  · intro k o hk
    cases i
    case gori2 | ginc | gseg | gori3 | gins =>
      obtain ⟨rfl, rfl⟩ := Prod.mk.inj (Option.some.inj hk)
      exact of_decide_eq_true h
    all_goals exact absurd hk nofun

theorem geomWord_flagMode {i : Instr} {k : GKind} {o : OpG} (h : o.nf.val = 1) (s : State) : geomWord i k o s = dispatch i (geomOp k o) 0 0 s := by
  unfold geomWord
  exact if_pos h

/-- A performed word is dispatched with the x values that it takes along. -/
theorem exec_performed {i : Instr} {op : VOp} (h : Stated.performed i = true) (hop : vopOf i = some op) (s : State) :
    exec i s = dispatch i op (Stated.xsOf i s).1 (Stated.xsOf i s).2 s := by
  obtain ⟨⟨hvm, htile⟩, hflag⟩ := performed_cases h
  cases i
  case vaddVV | vsubVV | vadcVV | vmadcVV | vsbcVV | vmsbcVV | vmulVV | vmulhVV | vmulhuVV | vdivVV | vdivuVV | vremVV | vandVV | vorVV | vxorVV
      | vshlVV | vshrVV | vsarVV | vminVV | vmaxVV | vsaddVV | vwaddVV | vnclipVV | vaddVS | vsubVS | vadcVS | vmadcVS | vsbcVS | vmsbcVS | vmulVS
      | vmulhVS | vmulhuVS | vdivVS | vdivuVS | vremVS | vandVS | vorVS | vxorVS | vshlVS | vshrVS | vsarVS | vminVS | vmaxVS | vsaddVS | vwaddVS
      | vnclipVS | vfaddVV | vfsubVV | vfmulVV | vfdivVV | vfsqrt | vfmaVV | vfminVV | vfmaxVV | vfcvt | vfcvti | vfcvtf | vfexp2 | vfaddVS
      | vfsubVS | vfmulVS | vfdivVS | vfmaVS | vfminVS | vfmaxVS | mand | mor | mxor | mandn | mnot | mshl | mset | vcompress | vexpand | viota
      | vconflict | vgather | vslideup | vslidedn | vbcast | vredsum | vredmax | vredmin | vredfsum | vredfmax | vmvsx | vcmpeqVV | vcmpneVV
      | vcmpltVV | vcmpleVV | vcmpltuVV | vcmpleuVV | vcmpgtVV | vcmpgtuVV | vcmpfeqVV | vcmpfltVV | vcmpfleVV | vcmpfunordVV | vcmpeqVS | vcmpneVS
      | vcmpltVS | vcmpleVS | vcmpltuVS | vcmpleuVS | vcmpgtVS | vcmpgtuVS | vcmpfeqVS | vcmpfltVS | vcmpfleVS | vcmpfunordVS | mma | mzero | mtov
      | mvtot | mmovt =>
    obtain rfl := Option.some.inj hop
    rfl
  case gori2 | ginc | gseg | gori3 | gins =>
    obtain rfl := Option.some.inj hop
    exact geomWord_flagMode (hflag _ _ rfl) s
  case vld | vlds | vldx | vlseg | vst | vsts | vstx | vsseg | vamo => exact absurd hvm nofun
  case mstore | mload => exact absurd htile nofun
  all_goals exact absurd hop nofun

end Sys2Proof.Machine

/-! SUPPORT. What a performed word leaves of an idle hart (R25, R127, R153, R156). -/

namespace Sys2Proof.Machine

/-- What a word of this shape may change: its destinations and their copies, and the masks that it writes. -/
def Shape.reach (sh : Shape) (copy : Option Nat) (tiles counts : Prop) : Reach where
  reg k := ∃ d ∈ sh.dsts, (d.reg ≤ k ∧ k < d.reg + d.size) ∨ ∃ c, copy = some c ∧ c ≤ k ∧ k < c + d.size
  mask m := m ∈ sh.masks
  tiles := tiles
  counts := counts

theorem Shape.reach_holds (sh : Shape) (copy : Option Nat) (tiles counts : Prop) : (sh.reach copy tiles counts).Holds sh copy where
  dsts d hd k hk := ⟨⟨d, hd, .inl ⟨by omega, by omega⟩⟩, fun c hc => ⟨d, hd, .inr ⟨c, hc, by omega, by omega⟩⟩⟩
  masks _ hm := hm

/-- A form's operands follow from its configuration, not from the indices of stopped words. -/
theorem Form.shape_taken {i : Instr} {op : VOp} (hf : Form i op) (s : State) (q : QEntry) :
    (op.shape (s.taken q).hart.ep).dsts = (op.shape s.hart.ep).dsts ∧ (op.shape (s.taken q).hart.ep).masks = (op.shape s.hart.ep).masks
      ∧ (op.shape (s.taken q).hart.ep).vlMax = (op.shape s.hart.ep).vlMax := by
  cases hf <;> exact ⟨rfl, rfl, rfl⟩

/-- A word that changes nothing but its destinations only executes. -/
theorem executes_of_within {r : Reach} {draws : Prop} {s t : State} {q : QEntry} {drawing counting : Bool} (h : (s.taken q).Within r draws t)
    (hd : draws → drawing = true) (hc : r.counts → counting = true) : Stated.executes drawing counting s { t.retire with dies := s.dies } := by
  have hgens : (if drawing then t.hart.sc.gens else s.hart.sc.gens) = t.hart.sc.gens := by
    cases drawing
    · exact (h.gens fun hn => Bool.false_ne_true (hd hn)).symm
    · rfl
  have hgstat : (if counting then t.hart.ep.gstat else s.hart.ep.gstat) = t.hart.ep.gstat := by
    cases counting
    · exact (h.ep.gstat fun hn => Bool.false_ne_true (hc hn)).symm
    · rfl
  have hgpi : t.hart.ep.gpi = (s.hart.ep.takePi q).gpi := by rw [h.ep.rest]; rfl
  have hep := h.ep.rest
  have hst := h.rest
  refine ⟨?_, ?_⟩
  · show _ = ({ Stated.passedBy s with hart := { (Stated.passedBy s).hart with
        sc := { (Stated.passedBy s).hart.sc with gens := if drawing then t.hart.sc.gens else s.hart.sc.gens }
        ep := { s.hart.ep with v := t.hart.ep.v, m := t.hart.ep.m, tiles := t.hart.ep.tiles, vstat := t.hart.ep.vstat, gpi := t.hart.ep.gpi
                               gstat := if counting then t.hart.ep.gstat else s.hart.ep.gstat } } } : State)
    have he' : t.hart.ep = { s.hart.ep with v := t.hart.ep.v, m := t.hart.ep.m, tiles := t.hart.ep.tiles, vstat := t.hart.ep.vstat
                                            gpi := t.hart.ep.gpi, gstat := t.hart.ep.gstat } := by
      rw [hgpi]; exact hep
    rw [hgens, hgstat, ← he']
    generalize t.hart.sc.gens = g at hst
    generalize t.hart.ep = e at hst
    generalize t.dies = d at hst
    subst hst
    rfl
  · show t.hart.ep.gpi.Sublist s.hart.ep.gpi
    rw [hgpi]
    exact List.filter_sublist

/-- Settles O22: every form of word stays within its destinations, round by round of its loop. -/
theorem performedWordsTouchOnlyTheirDestinations : Obligations.PerformedWordsTouchOnlyTheirDestinations := by
  intro i op s hp hop hi hb
  obtain ⟨hmem, -⟩ := performed_cases hp
  have hf := form_of_vopOf hmem hop
  obtain ⟨-, hlegal⟩ := legal_of_issueBad hb
  obtain ⟨-, hvl⟩ := limits_of_legal hlegal
  rw [exec_performed hp hop, dispatch_idle _ _ hi hop hb]
  generalize hx1 : (Stated.xsOf i s).1 = x1
  generalize hx2 : (Stated.xsOf i s).2 = x2
  have hcopy := entry_copy s i op.whole x1 x2
  have hfrm := entry_frm s i op.whole x1 x2
  obtain ⟨hdsts, hmasks, hmax⟩ := hf.shape_taken s (s.entry i op.whole x1 x2)
  generalize hq : s.entry i op.whole x1 x2 = q at *
  have hqvl : q.vl = s.hart.ep.vl ∧ q.limit = s.hart.ep.vl := by rw [← hq]; exact ⟨rfl, rfl⟩
  obtain ⟨hqvl, hqlim⟩ := hqvl
  let r : Reach := (op.shape s.hart.ep).reach q.copy (encode i % 128 = 0x60 ∨ encode i % 128 = 0x61) (encode i % 128 = 0x62 ∨ encode i % 128 = 0x63)
  have hholds : r.Holds (op.shape s.hart.ep) q.copy := Shape.reach_holds ..
  have hw : (s.taken q).Within r (Stated.rounds i = true ∧ q.frm = 4) (op.run q s.hart.ep.vl (s.taken q)) :=
    hf.within ⟨by rw [hdsts]; exact hholds.dsts, by rw [hmasks]; exact hholds.masks⟩
      (.inr ⟨hqlim.trans hqvl.symm, by rw [hmax, hqvl]; exact hvl⟩) id id
  generalize op.run q s.hart.ep.vl (s.taken q) = t at hw
  refine ⟨t.retire, rfl, executes_of_within hw (fun h => ?_) (fun h => decide_eq_true h), fun h1 h2 => ?_, fun k hk => ?_, fun m hm => ?_, fun h1 h2 => ?_⟩
  · obtain ⟨h1, h2⟩ := h
    rw [h1, ← hfrm, h2]
    rfl
  · exact hw.dies fun h => h.elim h1 h2
  · have h := hw.ep.regs k.val ?_
    · unfold Exec.vreg at h
      rw [dif_pos k.isLt, dif_pos k.isLt] at h
      exact h
    · rintro ⟨d, hd, hin | ⟨c, hc, hin⟩⟩
      · exact (hk d hd).1 hin
      · exact (hk d hd).2 c (hcopy ▸ hc) hin
  · have h := hw.ep.masks m.val hm
    unfold Exec.mask at h
    rw [dif_pos m.isLt, dif_pos m.isLt] at h
    exact h
  · exact hw.ep.tiles fun h => h.elim h1 h2

end Sys2Proof.Machine

/-! SUPPORT. A word is performed alike whatever surrounds it: what waits behind it in the queue, what has retired since, what the machine's input
is (R126, R127). -/

namespace Sys2Proof.Machine

/-! ### What surrounds a word -/

/-- A change of what a word's performing neither reads nor writes. -/
structure Dress where
  sc : Scalar → Scalar
  queue : List QEntry → List QEntry
  waiting : Bool → Bool
  mwait : Option MwaitState → Option MwaitState
  prompt : Bool
  input : Input

/-- The change leaves the generators as they are. -/
structure Dress.Foreign (c : Dress) : Prop where
  gens : ∀ s : Scalar, (c.sc s).gens = s.gens
  set : ∀ (s : Scalar) g, c.sc { s with gens := g } = { c.sc s with gens := g }

/-- The state so changed. -/
def State.dress (c : Dress) (s : State) : State :=
  { s with
    prompt := c.prompt, input := c.input
    hart := { s.hart with waiting := c.waiting s.hart.waiting, mwait := c.mwait s.hart.mwait, sc := c.sc s.hart.sc, ep := s.hart.ep.requeue c.queue } }

/-! ### The execute half with another queue -/

section Requeue

variable (g : List QEntry → List QEntry) (e : Exec)

theorem requeue_setVreg (k : Nat) (v : VReg) : (e.requeue g).setVreg k v = (e.setVreg k v).requeue g := by
  unfold Exec.setVreg
  split_ifs <;> rfl

theorem requeue_setElem (r w i v : Nat) : (e.requeue g).setElem r w i v = (e.setElem r w i v).requeue g := requeue_setVreg ..

theorem requeue_put (q : QEntry) (d w i v : Nat) : (e.requeue g).put q d w i v = (e.put q d w i v).requeue g := by
  unfold Exec.put
  simp only [requeue_setElem]
  split
  · rfl
  · rfl

theorem requeue_zeroFrom (r w n vl : Nat) : (e.requeue g).zeroFrom r w n vl = (e.zeroFrom r w n vl).requeue g :=
  List.foldl_hom (Exec.requeue g) fun e _ => requeue_setVreg g e _ _

theorem requeue_tail (q : QEntry) (d w n : Nat) : (e.requeue g).tail q d w n = (e.tail q d w n).requeue g := by
  unfold Exec.tail
  simp only [requeue_zeroFrom]
  split_ifs
  · rfl
  · split <;> rfl

theorem requeue_setMask (m : Nat) (v : VReg) : (e.requeue g).setMask m v = (e.setMask m v).requeue g := by
  unfold Exec.setMask
  split_ifs <;> rfl

theorem requeue_setTile (t r c v : Nat) : (e.requeue g).setTile t r c v = (e.setTile t r c v).requeue g := by
  unfold Exec.setTile Exec.requeue
  split_ifs <;> rfl

theorem requeue_accrue (fl : Nat) : (e.requeue g).accrue fl = (e.accrue fl).requeue g := rfl
theorem requeue_active (q : QEntry) (pm i : Nat) : q.active (e.requeue g) pm i = q.active e pm i := rfl

end Requeue

/-! ### Each form, changed and performed -/

section Forms

variable {c : Dress} (hc : c.Foreign)

include hc

theorem dress_laneDraw (sc : Scalar) (rm g : Nat) : (c.sc sc).laneDraw rm g = (c.sc (sc.laneDraw rm g).1, (sc.laneDraw rm g).2) := by
  by_cases hrm : rm = 4
  · subst hrm
    by_cases hg : g < 257
    · rw [laneDraw_four _ hg, laneDraw_four _ hg]
      simp only [hc.gens]
      exact Prod.ext (hc.set sc _).symm rfl
    · unfold Scalar.laneDraw Scalar.draw
      rw [if_pos rfl, if_pos rfl, dif_neg hg, dif_neg hg]
  · rw [laneDraw_other _ _ hrm, laneDraw_other _ _ hrm]

theorem dress_elementStep {pm d w mode : Nat} {f : Exec → Nat → Nat → Nat × Nat} (hf : ∀ e, f (e.requeue c.queue) = f e) (q : QEntry)
    (a : Exec × Scalar) (i : Nat) :
    elementStep pm d w mode f q (a.1.requeue c.queue, c.sc a.2) i
      = ((elementStep pm d w mode f q a i).1.requeue c.queue, c.sc (elementStep pm d w mode f q a i).2) := by
  have hlane : laneGen (a.1.requeue c.queue) w i = laneGen a.1 w i := rfl
  unfold elementStep
  simp only [requeue_active, hlane, dress_laneDraw hc, hf, requeue_put, requeue_accrue]
  split_ifs <;> rfl

theorem dress_elementwise {pm d w n : Nat} {drawing : Bool} {f : Exec → Nat → Nat → Nat × Nat} (hf : ∀ e, f (e.requeue c.queue) = f e) (q : QEntry)
    (hi : Nat) (s : State) : elementwise pm d w n drawing f q hi (s.dress c) = (elementwise pm d w n drawing f q hi s).dress c := by
  by_cases h0 : q.vl = 0
  · rw [elementwise_empty _ _ _ _ _ _ _ _ h0, elementwise_empty _ _ _ _ _ _ _ _ h0]
  · have hfold := List.foldl_hom (fun a : Exec × Scalar => (a.1.requeue c.queue, c.sc a.2)) (init := (s.hart.ep, s.hart.sc))
      (l := range q.start (min hi q.vl - q.start)) fun a i => dress_elementStep (pm := pm) (d := d) (w := w) (mode := if drawing then q.frm else 0) hc hf q a i
    rw [elementwise_loop pm d w n drawing f h0 hfold, elementwise_loop pm d w n drawing f h0 rfl]
    generalize (range q.start (min hi q.vl - q.start)).foldl _ (s.hart.ep, s.hart.sc) = a
    simp only [requeue_tail]
    split_ifs <;> rfl

end Forms

/-- A change of the execute half that does not see the queue. -/
theorem dress_ep {c : Dress} {f : Exec → Exec} {s : State} (hf : f (s.hart.ep.requeue c.queue) = (f s.hart.ep).requeue c.queue) :
    (s.dress c).ep f = (s.ep f).dress c := by
  show (s.dress c).ep (fun _ => f (s.hart.ep.requeue c.queue)) = _
  rw [hf]
  rfl

theorem requeue_maskWritten {pm md : Nat} {f : Exec → Nat → Bool × Nat} {g : List QEntry → List QEntry} (hf : ∀ e, f (e.requeue g) = f e) (q : QEntry) (e : Exec) :
    maskWritten pm md f q (e.requeue g) = (maskWritten pm md f q e).requeue g := by
  have hround : maskRound pm f q (e.requeue g) = maskRound pm f q e := by
    funext a i
    unfold maskRound
    rw [hf, requeue_active]
  have hmask : (e.requeue g).mask md = e.mask md := rfl
  unfold maskWritten
  simp only [hround, hmask, requeue_setMask, requeue_accrue]

theorem dress_maskWrite {c : Dress} {pm md : Nat} {f : Exec → Nat → Bool × Nat} (hf : ∀ e, f (e.requeue c.queue) = f e) (q : QEntry) (s : State) :
    maskWrite pm md f q (s.dress c) = (maskWrite pm md f q s).dress c := by
  rw [maskWrite_eq, maskWrite_eq]
  split_ifs
  · rfl
  · exact dress_ep (requeue_maskWritten hf q s.hart.ep)

theorem requeue_compressed (o : OpV1) (q : QEntry) (g : List QEntry → List QEntry) (e : Exec) :
    compressed o q (e.requeue g) = (compressed o q e).requeue g := by
  have hsel : selected o q (e.requeue g) = selected o q e := rfl
  have hround : ∀ (a : Exec) (p : Nat × Nat), packRound o q (e.requeue g) (a.requeue g) p = (packRound o q e a p).requeue g :=
    fun a p => requeue_put ..
  have hpacked : packed o q (e.requeue g) = (packed o q e).requeue g := by
    unfold packed
    rw [hsel]
    exact List.foldl_hom (Exec.requeue g) hround
  unfold compressed
  rw [hsel, hpacked, requeue_tail]
  rfl

theorem requeue_expanded (o : OpV1) (q : QEntry) (g : List QEntry → List QEntry) (e : Exec) :
    expanded o q (e.requeue g) = (expanded o q e).requeue g := by
  have hround : ∀ (a : Exec × Nat) (i : Nat), expandRound o q (e.requeue g) (a.1.requeue g, a.2) i
      = ((expandRound o q e a i).1.requeue g, (expandRound o q e a i).2) := by
    intro a i
    have helem : (e.requeue g).elem o.s1.val (sewBits o.sew) a.2 = e.elem o.s1.val (sewBits o.sew) a.2 := rfl
    unfold expandRound
    simp only [requeue_active, requeue_put, helem]
    split_ifs <;> rfl
  have hfold := List.foldl_hom (fun a : Exec × Nat => (a.1.requeue g, a.2)) (init := (e, 0)) (l := List.range q.vl) hround
  have hg : (e.requeue g).g = e.g := rfl
  unfold expanded
  rw [hfold, hg, requeue_tail]

theorem requeue_cellStep {td rowBase : Nat} {val : Nat × Nat → Nat × Nat} (g : List QEntry → List QEntry) (e : Exec) (p : Nat × Nat) :
    cellStep td rowBase val (e.requeue g) p = (cellStep td rowBase val e p).requeue g := by
  unfold cellStep
  rw [requeue_setTile, requeue_accrue]

theorem requeue_toTileRound (o : OpMvtot) (q : QEntry) (g : List QEntry → List QEntry) (e : Exec) (k : Nat) :
    toTileRound o q (e.requeue g) k = (toTileRound o q e k).requeue g := by
  have helem : (e.requeue g).elem o.s1.val (cvFmt o.cv).width k = e.elem o.s1.val (cvFmt o.cv).width k := rfl
  unfold toTileRound
  simp only [helem, requeue_setTile, requeue_accrue]

section Reduce

variable {c : Dress} (hc : c.Foreign)

/-- A node's or a level's outcome with the scalar half so changed. -/
def Dress.carry {α : Type} (c : Dress) (r : α × Scalar × Nat) : α × Scalar × Nat := (r.1, c.sc r.2.1, r.2.2)

include hc

theorem dress_combine (op : Nat → Nat → Nat → Nat × Nat) (rm g : Nat) (a b : Option Nat) (k : Scalar × Nat) :
    combine op rm g a b (c.sc k.1, k.2) = c.carry (combine op rm g a b k) := by
  rcases a with _ | x
  · rfl
  · rcases b with _ | y
    · rfl
    · show (_, _, _) = c.carry (_, _, _)
      rw [dress_laneDraw hc]
      rfl

theorem dress_treeLevel (op : Nat → Nat → Nat → Nat × Nat) (rm : Nat) (lane : Nat → Nat) :
    ∀ (as bs : List (Option Nat)) (i : Nat) (k : Scalar × Nat),
      treeLevel op rm lane i as bs (c.sc k.1, k.2) = c.carry (treeLevel op rm lane i as bs k)
  | [], _, _, _ => rfl
  | _ :: _, [], _, _ => rfl
  | a :: as, b :: bs, i, k => by
    unfold treeLevel
    simp only [dress_combine hc, Dress.carry, dress_treeLevel op rm lane as bs (i + 1)]

theorem dress_reduceTree (op : Nat → Nat → Nat → Nat × Nat) (rm : Nat) (lane : Nat → Nat) :
    ∀ (n : Nat) (w : List (Option Nat)) (k : Scalar × Nat), reduceTree op rm lane n w (c.sc k.1, k.2) = c.carry (reduceTree op rm lane n w k)
  | 0, _, _ => rfl
  | n + 1, w, k => by
    unfold reduceTree
    rw [dress_treeLevel hc]
    exact dress_reduceTree op rm lane n _ (treeLevel op rm lane 0 (w.take (2 ^ n)) (w.drop (2 ^ n)) k).2

theorem dress_reduceWith (w : Nat) (o : OpV) (drawing : Bool) (op : Nat → Nat → Nat → Nat → Nat × Nat) (q : QEntry) (e : Exec) (sc : Scalar) :
    reduceWith w o drawing op q (e.requeue c.queue) (c.sc sc) = c.carry (reduceWith w o drawing op q e sc) := by
  unfold reduceWith
  have htree := dress_reduceTree hc (op q.frm) (if drawing then q.frm else 0) (laneGen e w) (log2Up q.vl) ((List.range (2 ^ log2Up q.vl)).map
    fun i => if i < q.vl && q.active e o.pm.val i then some (e.elem o.s1.val w i) else none) (sc, 0)
  have hnode := dress_combine hc (op q.frm) (if drawing then q.frm else 0) 1 (some (e.elem o.s2.val w 0))
    (reduceTree (op q.frm) (if drawing then q.frm else 0) (laneGen e w) (log2Up q.vl) ((List.range (2 ^ log2Up q.vl)).map
    fun i => if i < q.vl && q.active e o.pm.val i then some (e.elem o.s1.val w i) else none) (sc, 0)).1
    (reduceTree (op q.frm) (if drawing then q.frm else 0) (laneGen e w) (log2Up q.vl) ((List.range (2 ^ log2Up q.vl)).map
    fun i => if i < q.vl && q.active e o.pm.val i then some (e.elem o.s1.val w i) else none) (sc, 0)).2
  rw [← hnode]
  have hlane : laneGen (e.requeue c.queue) w = laneGen e w := rfl
  rw [hlane]
  show combine _ _ _ _ (reduceTree _ _ _ _ _ (c.sc sc, 0)).1 (reduceTree _ _ _ _ _ (c.sc sc, 0)).2 = _
  exact congrArg (fun t : Option Nat × Scalar × Nat => combine (op q.frm) (if drawing then q.frm else 0) 1 (some (e.elem o.s2.val w 0)) t.1 t.2) htree

theorem dress_reduce (w : Nat) (o : OpV) (drawing : Bool) (op : Nat → Nat → Nat → Nat → Nat × Nat) (q : QEntry) (hi : Nat) (s : State) :
    (reduceOp w o drawing op).run q hi (s.dress c) = ((reduceOp w o drawing op).run q hi s).dress c := by
  rw [reduceOp_written, reduceOp_written]
  split_ifs
  · rfl
  · have hput : ∀ (e : Exec) (r : Option Nat × Scalar × Nat), putReduction w o q (e.requeue c.queue) (c.carry r) = (putReduction w o q e r).requeue c.queue := by
      intro e r
      unfold putReduction Dress.carry
      simp only [requeue_setElem, requeue_zeroFrom]
      split_ifs <;> rfl
    have hred : reduceWith w o drawing op q (s.dress c).hart.ep (s.dress c).hart.sc = c.carry (reduceWith w o drawing op q s.hart.ep s.hart.sc) :=
      dress_reduceWith hc w o drawing op q s.hart.ep s.hart.sc
    rw [hred]
    have hep : (s.dress c).hart.ep = s.hart.ep.requeue c.queue := rfl
    rw [hep, hput]
    rfl

end Reduce

end Sys2Proof.Machine

/-! SUPPORT. G words and X words are performed alike whatever surrounds them, and so is every word that touches no memory (R126, R127). -/

namespace Sys2Proof.Machine

section Geom

variable (c : Dress) (k : GKind) (o : OpG) (q : QEntry)

theorem dress_count (s : State) (die i n : Nat) : (s.dress c).count die i n = (s.count die i n).dress c := by
  unfold State.count State.updDie
  split_ifs <;> rfl

theorem requeue_putGeom (g : List QEntry → List QEntry) (w i v : Nat) (z : Bool) (e : Exec) :
    Exec.putGeom o q w i v z (e.requeue g) = (Exec.putGeom o q w i v z e).requeue g := by
  have hmask : (e.requeue g).mask 0 = e.mask 0 := rfl
  unfold Exec.putGeom
  rw [requeue_put, hmask, requeue_setMask]

theorem dress_geomWrite (s : State) (i : Nat) : geomWrite k o q (s.dress c) i = (geomWrite k o q s i).dress c := by
  have hact : q.active (s.dress c).hart.ep o.pm.val i = q.active s.hart.ep o.pm.val i := rfl
  have hvalue : geomValue k o (s.dress c).hart.ep i = geomValue k o s.hart.ep i := rfl
  have hw : (s.dress c).hart.ep.sewW = s.hart.ep.sewW := rfl
  rw [geomWrite_eq, geomWrite_eq, hact, hvalue, hw]
  split_ifs
  · exact dress_ep (requeue_putGeom ..)
  · exact dress_ep (requeue_putGeom ..)
  · rfl

theorem dress_geomCount (s : State) (i : Nat) : geomCount k o q (s.dress c) i = (geomCount k o q s i).dress c := by
  have hact : q.active (s.dress c).hart.ep o.pm.val i = q.active s.hart.ep o.pm.val i := rfl
  have hfin : nonFinite k o (s.dress c).hart.ep i = nonFinite k o s.hart.ep i := rfl
  have hres : geomResolved k o (s.dress c).hart.ep i = geomResolved k o s.hart.ep i := rfl
  have hdie : (s.dress c).hart.die = s.hart.die := rfl
  rw [geomCount_eq, geomCount_eq, hact, hfin, hres, hdie]
  split_ifs
  · have hep : (s.dress c).ep (fun e => e.countStage (geomResolved k o s.hart.ep i).2.2)
        = (s.ep fun e => e.countStage (geomResolved k o s.hart.ep i).2.2).dress c := rfl
    rw [hep, dress_count]
  · rfl

theorem dress_geomElement (s : State) (i : Nat) : geomElement k o q (s.dress c) i = (geomElement k o q s i).dress c := by
  unfold geomElement
  simp only [dress_geomCount, dress_geomWrite]
  split_ifs <;> rfl

theorem requeue_geomTail (g : List QEntry → List QEntry) (e : Exec) : (e.requeue g).geomTail o q = (e.geomTail o q).requeue g := by
  have hmask : (e.requeue g).mask 0 = e.mask 0 := rfl
  have hw : (e.requeue g).sewW = e.sewW := rfl
  unfold Exec.geomTail
  rw [hmask, hw, requeue_tail, requeue_setMask]

theorem dress_geom (hi : Nat) (s : State) : (geomOp k o).run q hi (s.dress c) = ((geomOp k o).run q hi s).dress c := by
  have hfold : (range q.start (min hi q.limit - q.start)).foldl (geomElement k o q) (s.dress c)
      = ((range q.start (min hi q.limit - q.start)).foldl (geomElement k o q) s).dress c :=
    List.foldl_hom (State.dress c) fun s i => dress_geomElement c k o q s i
  rw [geomOp_run, geomOp_run]
  simp only [hfold]
  split_ifs
  · rfl
  · exact dress_ep (requeue_geomTail ..)
  · rfl

end Geom

/-- The value of an element of MTOV. -/
def rowValue (o : OpMtov) (q : QEntry) (e : Exec) (dr k : Nat) : Nat × Nat :=
  (cvFmt o.cv).deliver q.nan q.frm dr (f32 (e.tile o.ts.val (q.xs1.toNat % 32) k)).real

theorem opMtov_row (o : OpMtov) (q : QEntry) (hi : Nat) (s : State) :
    (opMtov o).run q hi s = elementwise 0 o.d.val (cvFmt o.cv).width s.hart.ep.g true (rowValue o q) q hi s := rfl

theorem requeue_mmaFold (o : OpMma) (q : QEntry) (g : List QEntry → List QEntry) (u e : Exec) :
    (mmaCells (Stated.mmaRows o) q.vl).foldl (cellStep o.td.val q.rowBase (mmaValue o q u)) (e.requeue g)
      = ((mmaCells (Stated.mmaRows o) q.vl).foldl (cellStep o.td.val q.rowBase (mmaValue o q u)) e).requeue g :=
  List.foldl_hom (Exec.requeue g) fun e p => requeue_cellStep g e p

theorem dress_mma (c : Dress) (o : OpMma) (q : QEntry) (hi : Nat) (s : State) : (opMma o).run q hi (s.dress c) = ((opMma o).run q hi s).dress c := by
  have hval : mmaValue o q (s.dress c).hart.ep = mmaValue o q s.hart.ep := rfl
  rw [opMma_run, opMma_run, hval]
  exact dress_ep (requeue_mmaFold ..)

/-- A word is performed alike whatever surrounds it. -/
theorem Form.dress {i : Instr} {op : VOp} (hf : Form i op) {c : Dress} (hc : c.Foreign) (q : QEntry) (hi : Nat) (s : State) :
    op.run q hi (s.dress c) = (op.run q hi s).dress c := by
  cases hf with
  | element hw hwd hpm hdraws hfrom => exact dress_elementwise hc (fun e => hfrom q q e c.queue ⟨rfl, fun _ => rfl⟩) q hi s
  | mask w md srcs pm f hf =>
    rw [maskOp_run, maskOp_run]
    exact dress_maskWrite (fun e => hf q e c.queue) q s
  | bits md f hf =>
    rw [bitsOp_run, bitsOp_run]
    exact dress_maskWrite (fun e => by rw [hf]) q s
  | compress o =>
    rw [opVcompress_run, opVcompress_run]
    split_ifs
    · rfl
    · exact dress_ep (requeue_compressed ..)
  | expand o =>
    rw [opVexpand_run, opVexpand_run]
    split_ifs
    · rfl
    · exact dress_ep (requeue_expanded ..)
  | slideup o hpm =>
    rw [opVslideup_run, opVslideup_run]
    exact dress_elementwise hc (fun e => rfl) q.slid hi s
  | reduce w o op hdraws => exact dress_reduce hc w o _ op q hi s
  | move o =>
    rw [opVmvsx_run, opVmvsx_run]
    split_ifs
    · rfl
    · exact dress_ep (requeue_setElem ..)
  | mma o h => exact dress_mma c o q hi s
  | zeroTile o h =>
    rw [opMzero_run, opMzero_run]
    exact dress_ep rfl
  | copyTile o h =>
    rw [opMmovt_run, opMmovt_run]
    exact dress_ep rfl
  | toVector o hdraws =>
    rw [opMtov_row, opMtov_row]
    exact dress_elementwise hc (fun e => rfl) q hi s
  | toTile o h =>
    rw [opMvtot_run, opMvtot_run]
    exact dress_ep (List.foldl_hom (Exec.requeue c.queue) fun e k => requeue_toTileRound o q c.queue e k)
  | geom k o hpm h => exact dress_geom c k o q hi s

end Sys2Proof.Machine

/-! SUPPORT. An element-wise word performed in two pieces (R133, R158, R282). -/

namespace Sys2Proof.Machine

/-! ### Runs of elements -/

theorem range_append {a b c : Nat} (hab : a ≤ b) (hbc : b ≤ c) : range a (b - a) ++ range b (c - b) = range a (c - a) := by
  obtain ⟨m, rfl⟩ := Nat.exists_eq_add_of_le hab
  obtain ⟨n, rfl⟩ := Nat.exists_eq_add_of_le hbc
  rw [Nat.add_sub_cancel_left, Nat.add_sub_cancel_left, show a + m + n - a = m + n by omega]
  unfold range
  rw [List.range_add, List.map_append, List.map_map]
  congr 1
  apply List.map_congr_left
  intro x _
  show a + m + x = a + (m + x)
  omega

theorem range_of_le {a b : Nat} (h : b ≤ a) : range a (b - a) = [] := by
  rw [Nat.sub_eq_zero_of_le h]
  rfl

/-- The elements below `hi` and those from `hi` on, of a word that begins at `a` at the earliest. -/
theorem range_pieces (a hi vl : Nat) (h : hi ≤ vl) : range a (hi - a) ++ range (max hi a) (vl - max hi a) = range a (vl - a) := by
  rcases le_total a hi with ha | ha
  · rw [max_eq_left ha, range_append ha h]
  · rw [max_eq_right ha, range_of_le ha, List.nil_append]

/-! ### The loop in two pieces -/

section Pieces

variable {pm d w n mode : Nat} {f : QEntry → Exec → Nat → Nat → Nat × Nat} {q q' : QEntry}

/-- Masks that stand give the same active elements. -/
theorem active_of_masks {e e' : Exec} (h : e'.m = e.m) (q : QEntry) (pm i : Nat) : q.active e' pm i = q.active e pm i := by
  have hb : ∀ m, e'.mbit m i = e.mbit m i := fun m => by unfold Exec.mbit Exec.mask; rw [h]
  unfold QEntry.active QEntry.predBit
  split <;> simp [hb]

theorem masks_put (e : Exec) (q : QEntry) (d w i v : Nat) : (e.put q d w i v).m = e.m := by rw [sameRest_put e q v]

theorem put_of_sameWord (h : q.SameWord q') (e : Exec) (d w i v : Nat) : e.put q' d w i v = e.put q d w i v := by
  have hc : q'.copy = q.copy := by rw [h]; rfl
  unfold Exec.put
  rw [hc]

theorem tail_of_sameWord (h : q.SameWord q') (e : Exec) (d w n : Nat) : e.tail q' d w n = e.tail q d w n := by
  have hc : q'.copy = q.copy ∧ q'.tz = q.tz ∧ q'.vl = q.vl := by rw [h]; exact ⟨rfl, rfl, rfl⟩
  obtain ⟨h1, h2, h3⟩ := hc
  unfold Exec.tail
  rw [h1, h2, h3]

/-- The round of an element is the same for entries that are alike, and leaves the masks. -/
theorem elementStep_alike {e : Exec} (hf : FromWord pm f) (h : QEntry.Alike pm e q q') {a : Exec × Scalar} (ha : a.1.m = e.m) (i : Nat) :
    elementStep pm d w mode (f q') q' a i = elementStep pm d w mode (f q) q a i ∧ (elementStep pm d w mode (f q) q a i).1.m = e.m := by
  have hhere : QEntry.Alike pm a.1 q q' := ⟨h.word, fun j => by rw [active_of_masks ha, active_of_masks ha, h.active]⟩
  have hval : f q' a.1 = f q a.1 := hf q q' a.1 id hhere
  have hiz : q'.iz = q.iz := by rw [h.word]; rfl
  unfold elementStep
  simp only [hhere.active i, hval, hiz, put_of_sameWord h.word]
  refine ⟨trivial, ?_⟩
  split_ifs
  · exact (masks_put ..).trans ha
  · exact (masks_put ..).trans ha
  · exact ha

theorem foldl_alike {e : Exec} (hf : FromWord pm f) (h : QEntry.Alike pm e q q') (l : List Nat) : ∀ a : Exec × Scalar, a.1.m = e.m →
    l.foldl (elementStep pm d w mode (f q') q') a = l.foldl (elementStep pm d w mode (f q) q) a
    ∧ (l.foldl (elementStep pm d w mode (f q) q) a).1.m = e.m := by
  induction l with
  | nil => exact fun a ha => ⟨rfl, ha⟩
  | cons i l ih =>
    intro a ha
    obtain ⟨h1, h2⟩ := elementStep_alike (d := d) (w := w) (mode := mode) hf h ha i
    rw [List.foldl_cons, List.foldl_cons, h1]
    exact ih _ h2

/-- A loop up to `hi` and then from there to the end is the loop. -/
theorem elementwise_pieces {drawing : Bool} {s : State} {q1 : QEntry} {hi : Nat} (hf : FromWord pm f) (h : QEntry.Alike pm s.hart.ep q q')
    (h1 : QEntry.Alike pm s.hart.ep q q1) (hstart : q'.start = q.start) (hstart1 : q1.start = max hi q.start) (hhi : hi < q.vl) :
    elementwise pm d w n drawing (f q1) q1 q.vl (elementwise pm d w n drawing (f q') q' hi s) = elementwise pm d w n drawing (f q) q q.vl s := by
  have h0 : q.vl ≠ 0 := by omega
  have hv : q'.vl = q.vl ∧ q'.frm = q.frm := by rw [h.word]; exact ⟨rfl, rfl⟩
  have hv1 : q1.vl = q.vl ∧ q1.frm = q.frm := by rw [h1.word]; exact ⟨rfl, rfl⟩
  obtain ⟨hvl, hfrm⟩ := hv
  obtain ⟨hvl1, hfrm1⟩ := hv1
  obtain ⟨step, hstep⟩ : ∃ g, g = elementStep pm d w (if drawing then q.frm else 0) (f q) q := ⟨_, rfl⟩
  obtain ⟨r1, hr1⟩ : ∃ r, r = (range q.start (hi - q.start)).foldl step (s.hart.ep, s.hart.sc) := ⟨_, rfl⟩
  obtain ⟨r2, hr2⟩ : ∃ r, r = (range q.start (q.vl - q.start)).foldl step (s.hart.ep, s.hart.sc) := ⟨_, rfl⟩
  have hfirst := foldl_alike (d := d) (w := w) (mode := if drawing then q.frm else 0) hf h (range q.start (hi - q.start)) (s.hart.ep, s.hart.sc) rfl
  rw [← hstep, ← hr1] at hfirst
  have hsecond := foldl_alike (d := d) (w := w) (mode := if drawing then q.frm else 0) hf h1 (range (max hi q.start) (q.vl - max hi q.start)) r1 hfirst.2
  rw [← hstep] at hsecond
  have hall : (range (max hi q.start) (q.vl - max hi q.start)).foldl step r1 = r2 := by
    rw [hr1, hr2, ← List.foldl_append, range_pieces _ _ _ hhi.le]
  have hone : elementwise pm d w n drawing (f q') q' hi s = s.halves r1.1 r1.2 := by
    rw [elementwise_loop pm d w n drawing (f q') (hvl.trans_ne h0) (r := r1) (by rw [hvl, hfrm, hstart, min_eq_left hhi.le]; exact hfirst.1),
      if_neg (by omega)]
  have htwo : elementwise pm d w n drawing (f q1) q1 q.vl (s.halves r1.1 r1.2) = (s.halves r1.1 r1.2).halves (r2.1.tail q d w n) r2.2 := by
    rw [elementwise_loop pm d w n drawing (f q1) (hvl1.trans_ne h0) (r := r2)
      (by rw [hvl1, hfrm1, hstart1, min_self]; exact hsecond.1.trans hall), hvl1, if_pos le_rfl, tail_of_sameWord h1.word]
  rw [hone, htwo, elementwise_loop pm d w n drawing (f q) h0 (r := r2) (by rw [min_self, ← hstep, hr2]), if_pos le_rfl]
  rfl

end Pieces

end Sys2Proof.Machine

/-! SUPPORT. The word that is under way keeps its predicate (R282), and so a G word too is performed in pieces (R133, R157). -/

namespace Sys2Proof.Machine

/-! ### The word under way -/

/-- The predicate field by which a word under way reads its mask. -/
def predicateOf (i : Instr) : Nat := if takesPredicate (encode i) then pmField (encode i) else 0

theorem underWay_word {q : QEntry} {i : Instr} (h : q.word = .word i) (e : Exec) :
    q.underWay e = { q with pred := q.pred.or ((q.predMask (predicateOf i)).map e.mask), begun := true } := by
  unfold QEntry.underWay
  rw [h]
  simp only [QEntry.readMask, predicateOf, h]

/-- A predicate mask that has been read is read no more. -/
theorem active_of_read {q : QEntry} {e : Exec} {pm p : Nat} (hp : pm = 0 ∨ pm = p) (a : Exec) (b : Bool) (j : Nat) :
    ({ q with pred := q.pred.or ((q.predMask p).map e.mask), begun := b } : QEntry).active a pm j = q.active e pm j := by
  unfold QEntry.active QEntry.predBit QEntry.predMask QEntry.pol Exec.mbit
  show (if q.pmask ≠ 0 then _ else _) = _
  by_cases hl : q.pmask = 0
  · rw [if_neg (not_not.2 hl), if_neg (not_not.2 hl), if_neg (not_not.2 hl)]
    rcases hp with rfl | rfl
    · rfl
    · by_cases h0 : pm = 0
      · rw [if_pos h0, if_pos h0]
      · rw [if_neg h0, if_neg h0, if_neg h0]
        cases q.pred <;> rfl
  · rw [if_pos hl, if_pos hl, if_pos hl]
    cases q.pred <;> rfl

theorem predicateOf_eq {i : Instr} {pm : Nat} (h : pm = 0 ∨ Predicated (encode i) pm) : pm = 0 ∨ pm = predicateOf i := by
  refine h.imp_right fun hp => ?_
  obtain ⟨htakes, hfield⟩ := hp
  rw [predicateOf, if_pos htakes, hfield]

section UnderWay

variable {q : QEntry} {i : Instr} {pm : Nat} (hword : q.word = .word i) (hpm : pm = 0 ∨ Predicated (encode i) pm) (e : Exec)

include hword hpm

/-- The word under way sees active what it saw when it came under way. -/
theorem underWay_active (a : Exec) (j : Nat) : (q.underWay e).active a pm j = q.active e pm j := by
  rw [underWay_word hword]
  exact active_of_read (predicateOf_eq hpm) a true j

theorem underWay_alike : QEntry.Alike pm e q (q.underWay e) :=
  ⟨by rw [underWay_word hword]; rfl, underWay_active hword hpm e e⟩

theorem moveTo_alike (hi : Nat) : QEntry.Alike pm e q ((q.underWay e).moveTo hi) :=
  ⟨by rw [underWay_word hword]; rfl, underWay_active hword hpm e e⟩

end UnderWay

/-! ### Masks while a G word runs -/

theorem getLsbD_putBit_other (v : VReg) {i j : Nat} (b : Bool) (h : j ≠ i) : (putBit v i b).getLsbD j = v.getLsbD j := by
  unfold putBit
  by_cases hj : j < 131072
  · rw [getLsbD_setBitsAt v i 1 _ j hj, if_neg (by omega)]
  · rw [BitVec.getLsbD_of_ge _ _ (not_lt.1 hj), BitVec.getLsbD_of_ge _ _ (not_lt.1 hj)]

theorem mask_setMask_same (e : Exec) {m : Nat} (v : VReg) (h : m < 8) : (e.setMask m v).mask m = v := by
  unfold Exec.setMask Exec.mask
  rw [dif_pos h, dif_pos h]
  exact Vector.getElem_set_self h

/-- The bits of masks at or above `i` are as they were. -/
def BitsFrom (i : Nat) (e e' : Exec) : Prop := ∀ m j, i ≤ j → e'.mbit m j = e.mbit m j

theorem BitsFrom.of_masks {i : Nat} {e e' : Exec} (h : e'.m = e.m) : BitsFrom i e e' := fun m j _ => by
  unfold Exec.mbit Exec.mask
  rw [h]

theorem BitsFrom.trans {i i' : Nat} {a b c : Exec} (h1 : BitsFrom i a b) (h2 : BitsFrom i' b c) (h : i ≤ i') : BitsFrom i' a c :=
  fun m j hj => (h2 m j hj).trans (h1 m j (h.trans hj))

theorem bitsFrom_putGeom (o : OpG) (q : QEntry) (w i v : Nat) (z : Bool) (e : Exec) : BitsFrom (i + 1) e (Exec.putGeom o q w i v z e) := by
  intro m j hj
  unfold Exec.putGeom Exec.mbit
  by_cases hm : m = 0
  · rw [hm, mask_setMask_same _ _ (by norm_num), getLsbD_putBit_other _ _ (by omega)]
  · rw [mask_setMask _ _ _ _ hm]
    unfold Exec.mask
    rw [masks_put]

section Geom

variable {k : GKind} {o : OpG} {q q' : QEntry}

theorem masks_geomCount (s : State) (i : Nat) : (geomCount k o q s i).hart.ep.m = s.hart.ep.m := by
  rw [geomCount_eq]
  unfold State.count State.updDie
  split_ifs <;> rfl

theorem bitsFrom_geomElement (s : State) (i : Nat) : BitsFrom (i + 1) s.hart.ep (geomElement k o q s i).hart.ep := by
  have hcount : BitsFrom (i + 1) s.hart.ep (geomCount k o q s i).hart.ep := .of_masks (masks_geomCount s i)
  unfold geomElement
  simp only
  split_ifs
  · exact hcount
  · refine hcount.trans ?_ le_rfl
    rw [geomWrite_eq]
    split_ifs
    · exact bitsFrom_putGeom _ _ _ _ _ _ _
    · exact bitsFrom_putGeom _ _ _ _ _ _ _
    · exact .of_masks rfl

theorem putGeom_of_sameWord (h : q.SameWord q') (w i v : Nat) (z : Bool) : Exec.putGeom o q' w i v z = Exec.putGeom o q w i v z := by
  funext e
  unfold Exec.putGeom
  rw [put_of_sameWord h]

/-- An element is performed alike for entries that see it active alike. -/
theorem geomElement_alike (h : q.SameWord q') (hd : q'.done = q.done) {s : State} {i : Nat}
    (hact : ∀ e : Exec, e.m = s.hart.ep.m → q'.active e o.pm.val i = q.active e o.pm.val i) : geomElement k o q' s i = geomElement k o q s i := by
  have hiz : q'.iz = q.iz := by rw [h]; rfl
  have hcount : geomCount k o q' s i = geomCount k o q s i := by rw [geomCount_eq, geomCount_eq, hact _ rfl]
  have hwrite : geomWrite k o q' (geomCount k o q s i) i = geomWrite k o q (geomCount k o q s i) i := by
    rw [geomWrite_eq, geomWrite_eq, hact _ (masks_geomCount s i), hiz]
    simp only [putGeom_of_sameWord h]
  unfold geomElement
  simp only [hcount, hwrite, hd]

/-- A run of elements, by an entry that keeps the predicate `e` had, is the run by the entry that reads it as it goes. -/
theorem foldl_geomElement_alike (h : q.SameWord q') (hd : q'.done = q.done) {s : State} {e : Exec} {start : Nat} (hs : BitsFrom start e s.hart.ep)
    (hact : ∀ a i, q'.active a o.pm.val i = q.active e o.pm.val i)
    (hlive : ∀ a i, BitsFrom i e a → q.active a o.pm.val i = q.active e o.pm.val i) : ∀ n,
    (range start n).foldl (geomElement k o q') s = (range start n).foldl (geomElement k o q) s
    ∧ BitsFrom (start + n) e ((range start n).foldl (geomElement k o q) s).hart.ep
  | 0 => ⟨rfl, hs⟩
  | n + 1 => by
    obtain ⟨h1, h2⟩ := foldl_geomElement_alike h hd hs hact hlive n
    have hrange : range start (n + 1) = range start n ++ [start + n] := by
      unfold range
      rw [List.range_succ, List.map_append]
      rfl
    rw [hrange, List.foldl_append, List.foldl_append, h1]
    refine ⟨geomElement_alike h hd fun a ha => ?_, h2.trans (bitsFrom_geomElement _ _) (by omega)⟩
    rw [hact, hlive a _ (h2.trans (.of_masks ha) le_rfl)]

/-- An entry reads at each element the predicate bit of that element. -/
theorem active_of_bitsFrom {e a : Exec} {i : Nat} (h : BitsFrom i e a) (q : QEntry) (pm : Nat) : q.active a pm i = q.active e pm i := by
  unfold QEntry.active QEntry.predBit
  split <;> simp only [h _ i le_rfl]

theorem geomTail_of_sameWord (h : q.SameWord q') (e : Exec) : e.geomTail o q' = e.geomTail o q := by
  have hvl : q'.vl = q.vl := by rw [h]
  unfold Exec.geomTail
  rw [tail_of_sameWord h, hvl]

/-- A G word up to `hi` and then from there to its end is the G word. -/
theorem geom_pieces {i : Instr} {s : State} {hi : Nat} (hword : q.word = .word i) (hpm : Predicated (encode i) o.pm.val) (hdone : q.done = [])
    (hstart : q.start ≤ hi) (hhi : hi < q.vl) :
    (geomOp k o).run ((q.underWay s.hart.ep).moveTo hi) q.vl ((geomOp k o).run (q.underWay s.hart.ep) hi s) = (geomOp k o).run q q.vl s := by
  have hl := underWay_alike hword (.inr hpm) s.hart.ep (pm := o.pm.val)
  have hm := moveTo_alike hword (.inr hpm) s.hart.ep (pm := o.pm.val) hi
  have hsame : (q.underWay s.hart.ep).start = q.start ∧ (q.underWay s.hart.ep).done = q.done ∧ (q.underWay s.hart.ep).vl = q.vl
      ∧ (q.underWay s.hart.ep).limit = q.limit ∧ (q.underWay s.hart.ep).tz = q.tz := by
    rw [underWay_word hword]
    exact ⟨rfl, rfl, rfl, rfl, rfl⟩
  have hact := underWay_active hword (.inr hpm) s.hart.ep (pm := o.pm.val)
  generalize q.underWay s.hart.ep = q1 at *
  obtain ⟨h1, h2, h3, h4, h5⟩ := hsame
  have hmd : (q1.moveTo hi).done = q.done := by
    show q1.done.filter _ = _
    rw [h2, hdone]
    rfl
  have hmf : (q1.moveTo hi).start = hi ∧ (q1.moveTo hi).vl = q.vl ∧ (q1.moveTo hi).limit = q.limit ∧ (q1.moveTo hi).tz = q.tz := ⟨rfl, h3, h4, h5⟩
  obtain ⟨m1, m3, m4, m5⟩ := hmf
  have hmact : ∀ a j, (q1.moveTo hi).active a o.pm.val j = q.active s.hart.ep o.pm.val j := hact
  generalize q1.moveTo hi = q2 at *
  have hlive : ∀ a j, BitsFrom j s.hart.ep a → q.active a o.pm.val j = q.active s.hart.ep o.pm.val j := fun a j h => active_of_bitsFrom h q _
  obtain ⟨f1, b1⟩ := foldl_geomElement_alike (k := k) hl.word h2 (.of_masks rfl) hact hlive (start := q.start) (min hi q.limit - q.start)
  have hfirst : (geomOp k o).run q1 hi s = (range q.start (min hi q.limit - q.start)).foldl (geomElement k o q) s := by
    have hno : ¬((q1.vl ≤ hi && q1.vl ≤ q1.limit && q1.tz) = true) := by
      simp only [Bool.and_eq_true, decide_eq_true_eq]
      omega
    rw [geomOp_run, if_neg (show ¬ q1.vl = 0 by omega)]
    simp only
    rw [if_neg hno, h1, h4, f1]
  rw [hfirst, geomOp_run, geomOp_run, if_neg (show ¬ q2.vl = 0 by omega), if_neg (show ¬ q.vl = 0 by omega), m1, m3, m4, m5]
  have hpieces : range q.start (min hi q.limit - q.start) ++ range hi (min q.vl q.limit - hi) = range q.start (min q.vl q.limit - q.start) := by
    rcases le_total hi q.limit with hle | hle
    · rw [min_eq_left hle, range_append hstart (by omega)]
    · rw [min_eq_right hle, min_eq_right (by omega), range_of_le hle, List.append_nil]
  have hsecond : (range hi (min q.vl q.limit - hi)).foldl (geomElement k o q2) ((range q.start (min hi q.limit - q.start)).foldl (geomElement k o q) s)
      = (range q.start (min q.vl q.limit - q.start)).foldl (geomElement k o q) s := by
    rw [← hpieces, List.foldl_append]
    exact (foldl_geomElement_alike hm.word hmd (fun m j hj => b1 m j (by omega)) hmact hlive _).1
  simp only [hsecond, geomTail_of_sameWord hm.word]

end Geom

end Sys2Proof.Machine

/-! SUPPORT. Every element-wise word that touches no memory can be performed in pieces (R133, R158). -/

namespace Sys2Proof.Machine

/-! ### VMVSX -/

theorem setBitsAt_idem {w : Nat} (v : BitVec w) (pos n x : Nat) : setBitsAt (setBitsAt v pos n x) pos n x = setBitsAt v pos n x := by
  apply BitVec.eq_of_getLsbD_eq
  intro k hk
  rw [getLsbD_setBitsAt _ _ _ _ _ hk, getLsbD_setBitsAt _ _ _ _ _ hk]
  split_ifs <;> rfl

theorem setVreg_setVreg (e : Exec) (k : Nat) (v v' : VReg) : (e.setVreg k v).setVreg k v' = e.setVreg k v' := by
  unfold Exec.setVreg
  by_cases hk : k < 32
  · simp only [hk, dif_pos, Vector.set_set]
  · simp only [hk, dif_neg, not_false_eq_true]

theorem setElem_eq (e : Exec) (r w i v : Nat) :
    e.setElem r w i v = e.setVreg (r + i / e.mvl w) (setBitsAt (e.vreg (r + i / e.mvl w)) (i % e.mvl w * w) w v) := rfl

theorem setElem_idem (e : Exec) {r : Nat} (w i v : Nat) (hr : r + i / e.mvl w < 32) : (e.setElem r w i v).setElem r w i v = e.setElem r w i v := by
  have hm : (e.setElem r w i v).mvl w = e.mvl w := (sameRest_setElem e r w i v).mvl w
  have hv : (e.setElem r w i v).vreg (r + i / e.mvl w) = setBitsAt (e.vreg (r + i / e.mvl w)) (i % e.mvl w * w) w v := by
    unfold Exec.setElem
    rw [vreg_setVreg, if_pos ⟨rfl, hr⟩]
  rw [setElem_eq (e.setElem r w i v), hm, hv, setBitsAt_idem, setElem_eq e]
  exact setVreg_setVreg ..

theorem move_pieces {o : OpVMv} {q q' q1 : QEntry} {s : State} {hi : Nat} (h : q.SameWord q') (h1 : q.SameWord q1) (hstart : q'.start = q.start)
    (hstart1 : q1.start = hi) (hle : q.start ≤ hi) (hhi : hi < q.vl) :
    (opVmvsx o).run q1 q.vl ((opVmvsx o).run q' hi s) = (opVmvsx o).run q q.vl s := by
  have hw : q'.vl = q.vl ∧ q'.scalar (sewBits o.sew) = q.scalar (sewBits o.sew) := by rw [h]; exact ⟨rfl, rfl⟩
  have hw1 : q1.vl = q.vl ∧ q1.scalar (sewBits o.sew) = q.scalar (sewBits o.sew) := by rw [h1]; exact ⟨rfl, rfl⟩
  have h0 : ¬ q.vl = 0 := by omega
  rw [opVmvsx_run, opVmvsx_run, opVmvsx_run, hw.1, hw.2, hw1.1, hw1.2, hstart, hstart1]
  by_cases hs : q.start = 0
  · by_cases hz : hi = 0
    · simp only [h0, hs, hz, decide_false, ne_eq, not_true_eq_false, Bool.or_self, Bool.false_eq_true, if_false]
      have hidem := setElem_idem s.hart.ep (r := o.d.val) (sewBits o.sew) 0 (q.scalar (sewBits o.sew)) (by rw [Nat.zero_div]; exact o.d.isLt)
      show s.ep (fun _ => (s.hart.ep.setElem _ _ _ _).setElem _ _ _ _) = s.ep fun _ => s.hart.ep.setElem _ _ _ _
      rw [hidem]
    · simp only [h0, hs, hz, decide_false, ne_eq, not_true_eq_false, not_false_eq_true, decide_true, Bool.or_true, Bool.or_self, Bool.false_eq_true,
        if_true, if_false]
  · have hz : ¬ hi = 0 := by omega
    simp only [hs, hz, ne_eq, not_false_eq_true, decide_true, Bool.or_true, if_true]

/-! ### Every form -/

/-- The value of an element that VSLIDEUP writes, by the entry. -/
def slideOf (o : OpV) (q : QEntry) : Exec → Nat → Nat → Nat × Nat := slideValue o q.xs2

theorem opVslideup_slid (o : OpV) (q : QEntry) (hi : Nat) (s : State) : (opVslideup o).run q hi s =
    elementwise o.pm.val o.d.val (sewBits o.sew) (max 1 (s.hart.ep.g * sewBits o.sew / sewBits o.sew)) false (slideOf o q.slid) q.slid hi s := by
  rw [opVslideup_run, operand_size]
  rfl

theorem slideOf_fromWord (o : OpV) : FromWord o.pm.val (slideOf o) :=
  fromWord_of_eq fun _ _ _ _ hq => by rw [hq]; rfl

theorem rowValue_fromWord (o : OpMtov) : FromWord 0 (rowValue o) := fromWord_of_eq fun _ _ _ _ hq => by rw [hq]; rfl

theorem slid_alike {pm : Nat} {e : Exec} {q q' : QEntry} (h : QEntry.Alike pm e q q') : QEntry.Alike pm e q.slid q'.slid :=
  ⟨by have hw := h.word; unfold QEntry.slid; rw [hw]; rfl, h.active⟩

theorem elementOp_run (w : Nat) (d : Reg) (wd : Nat) (srcs : List (Reg × Nat)) (pm : Nat) (draws : Bool) (overlap : Overlap) (bad : Exec → Bool)
    (f : QEntry → Exec → Nat → Nat → Nat × Nat) (q : QEntry) (hi : Nat) (s : State) :
    (elementOp w d wd srcs pm draws overlap bad f).run q hi s = elementwise pm d.val wd (max 1 (s.hart.ep.g * wd / w)) draws (f q) q hi s := rfl

/-- The reach of everything. -/
def Reach.all : Reach := ⟨fun _ => True, fun _ => True, True, True⟩

/-- Whatever its operands, a word that touches no memory changes nothing beside registers, masks, tiles, flags, generators and counters. -/
theorem Form.within_all {i : Instr} {op : VOp} (hf : Form i op) (s : State) (q : QEntry) (hi : Nat) :
    s.Within .all (Stated.rounds i = true ∧ q.frm = 4) (op.run q hi s) :=
  hf.within ⟨fun _ _ _ _ => ⟨trivial, fun _ _ => trivial⟩, fun _ _ => trivial⟩ (.inl fun _ => trivial) (fun _ => trivial) fun _ => trivial

/-- An element-wise word performed up to `hi`, and then from there to its end, leaves what it leaves performed at once. -/
theorem Form.pieces {i : Instr} {op : VOp} (hf : Form i op) (hwhole : op.whole = false) {q : QEntry} {s : State} {hi : Nat} (hword : q.word = .word i)
    (hdone : q.done = []) (hstart : q.start ≤ hi) (hhi : hi < q.vl) :
    op.run ((q.underWay s.hart.ep).moveTo hi) q.vl (op.run (q.underWay s.hart.ep) hi s) = op.run q q.vl s := by
  have hpos : (q.underWay s.hart.ep).start = q.start := by rw [underWay_word hword]
  have hg : (op.run (q.underWay s.hart.ep) hi s).hart.ep.g = s.hart.ep.g := (hf.within_all s _ hi).ep.g
  cases hf with
  | element hw hwd hpm hdraws hfrom =>
    rw [elementOp_run, hg, elementOp_run, elementOp_run]
    exact elementwise_pieces hfrom (underWay_alike hword hpm s.hart.ep) (moveTo_alike hword hpm s.hart.ep hi) hpos (max_eq_left hstart).symm hhi
  | slideup o hpm =>
    have hl := underWay_alike hword (.inr hpm) s.hart.ep (pm := o.pm.val)
    have hm := moveTo_alike hword (.inr hpm) s.hart.ep (pm := o.pm.val) hi
    have hx : (q.underWay s.hart.ep).xs2 = q.xs2 ∧ (q.underWay s.hart.ep).vl = q.vl := by rw [underWay_word hword]; exact ⟨rfl, rfl⟩
    have hs : (q.underWay s.hart.ep).slid.start = q.slid.start := by
      show max (q.underWay s.hart.ep).start (min (q.underWay s.hart.ep).xs2.toNat (q.underWay s.hart.ep).vl) = _
      rw [hpos, hx.1, hx.2]
      rfl
    have hs1 : ((q.underWay s.hart.ep).moveTo hi).slid.start = max hi q.slid.start := by
      show max hi (min (q.underWay s.hart.ep).xs2.toNat (q.underWay s.hart.ep).vl) = max hi (max q.start (min q.xs2.toNat q.vl))
      rw [hx.1, hx.2]
      omega
    rw [opVslideup_slid o ((q.underWay s.hart.ep).moveTo hi), hg, opVslideup_slid, opVslideup_slid]
    exact elementwise_pieces (q := q.slid) (slideOf_fromWord o) (slid_alike hl) (slid_alike hm) hs hs1 hhi
  | move o =>
    exact move_pieces (underWay_alike hword (.inl rfl) s.hart.ep).word (moveTo_alike hword (.inl rfl) s.hart.ep hi).word hpos rfl hstart hhi
  | toVector o hdraws =>
    have hl := underWay_alike hword (.inl rfl) s.hart.ep (pm := 0)
    have hm := moveTo_alike hword (.inl rfl) s.hart.ep (pm := 0) hi
    rw [opMtov_row, hg, opMtov_row, opMtov_row]
    exact elementwise_pieces (rowValue_fromWord o) hl hm hpos (max_eq_left hstart).symm hhi
  | geom k o hpm h => exact geom_pieces hword hpm hdone hstart hhi
  | mask | bits | compress | expand | reduce | mma | zeroTile | copyTile | toTile => exact absurd hwhole nofun

end Sys2Proof.Machine

/-! SUPPORT. Performing a word, of memory too, moves neither the access processor nor the queue (R126, R127). -/

namespace Sys2Proof.Machine

/-- The access processor of the hart and the queue to its execute processor stand as they did. -/
structure Paced (s t : State) : Prop where
  x : t.hart.sc.x = s.hart.sc.x
  pc : t.hart.sc.pc = s.hart.sc.pc
  instret : t.hart.sc.instret = s.hart.sc.instret
  queue : t.hart.ep.queue = s.hart.ep.queue

theorem Paced.refl (s : State) : Paced s s := ⟨rfl, rfl, rfl, rfl⟩

theorem Paced.trans {s t u : State} (h : Paced s t) (k : Paced t u) : Paced s u :=
  ⟨k.x.trans h.x, k.pc.trans h.pc, k.instret.trans h.instret, k.queue.trans h.queue⟩

theorem Paced.foldl {β : Type} {f : State → β → State} (h : ∀ s x, Paced s (f s x)) (l : List β) (s : State) : Paced s (l.foldl f s) :=
  List.foldlRecOn l f (.refl s) fun a ha x _ => ha.trans (h a x)

theorem HomeWork.paced {s t : State} (h : HomeWork s t) : Paced s t := ⟨h.x, h.pc, h.instret, by rw [h.ep]⟩

theorem State.Within.paced {r : Reach} {draws : Prop} {s t : State} (h : s.Within r draws t) : Paced s t := by
  have hq : t.hart.ep.queue = s.hart.ep.queue := by rw [h.ep.rest]
  refine ⟨?_, ?_, ?_, hq⟩ <;> rw [h.rest]

theorem paced_ep {f : Exec → Exec} {s : State} (h : (f s.hart.ep).queue = s.hart.ep.queue) : Paced s (s.ep f) := ⟨rfl, rfl, rfl, h⟩

/-! ### Vector accesses -/

theorem paced_fillVdc (s : State) (core line va asid : Nat) (swm : Bool) : Paced s (s.fillVdc core line va asid swm) := by
  unfold State.fillVdc
  simp only
  split_ifs
  · exact ⟨rfl, rfl, rfl, rfl⟩
  · have hfit : HomeWork s (s.fitSlice core (sliceOf line) (s.sliceLines core (sliceOf line) - 1)) := by
      unfold State.fitSlice
      simp only
      split_ifs
      · exact .refl s
      · exact homeWork_flushVdc ..
    exact hfit.paced.trans ⟨rfl, rfl, rfl, rfl⟩

theorem paced_noteNewer (s : State) (line : Nat) : Paced s (s.noteNewer line) := by
  unfold State.noteNewer
  split_ifs
  · exact .refl s
  · exact ⟨rfl, rfl, rfl, rfl⟩

theorem paced_mergeBytes (bs : List Byte) : ∀ (s : State) (pa who : Nat), Paced s (s.mergeBytes pa bs who) := by
  induction bs with
  | nil => exact fun s _ _ => .refl s
  | cons b bs ih =>
    intro s pa who
    unfold State.mergeBytes
    refine Paced.trans ?_ (ih _ _ _)
    split_ifs
    · exact .refl s
    · have h1 : Paced s ((s.revive pa).noteMsc pa [who]) := ((storeWork_revive s pa).toHomeWork.trans (homeWork_noteMsc _ pa [who])).paced
      have h2 : Paced ((s.revive pa).noteMsc pa [who])
          { ((s.revive pa).noteMsc pa [who]) with mem := Memory.write ((s.revive pa).noteMsc pa [who]).mem pa b } := ⟨rfl, rfl, rfl, rfl⟩
      exact (h1.trans h2).trans (storeWork_fire _ _).toHomeWork.paced

theorem paced_appendRange (s : State) (e : CollEntry) : Paced s (s.appendRange e) :=
  (⟨rfl, rfl, rfl, rfl⟩ : Paced s { s with collector := s.collector.filter (· != e) }).trans (storeWork_appendRange s e).toHomeWork.paced

theorem paced_collect (s : State) (core asid va : Nat) : Paced s (s.collect core asid va) := by
  have hmatch : ∀ mine : List CollEntry, Paced s (match mine with | e :: _ => if 16 ≤ mine.length then s.appendRange e else s | [] => s) := by
    intro mine
    split
    · split_ifs
      · exact paced_appendRange ..
      · exact .refl s
    · exact .refl s
  unfold State.collect
  split
  · exact .refl s
  · simp only
    split
    · exact .refl s
    · split
      · exact ⟨rfl, rfl, rfl, rfl⟩
      · exact (hmatch (s.collector.filter fun e => e.core == core)).trans ⟨rfl, rfl, rfl, rfl⟩

theorem paced_vread (s : State) (va pa pte n : Nat) : Paced s (s.vread va pa pte n).1 := by
  unfold State.vread
  split_ifs
  · exact .refl s
  · exact (paced_fillVdc ..).trans ⟨rfl, rfl, rfl, rfl⟩

theorem paced_vwrite (s : State) (va pa pte n v : Nat) : Paced s (s.vwrite va pa pte n v) := by
  have hline : Paced s ((s.fillVdc s.hart.coreId (pa / 64) va s.hart.asid (Pte.kind pte == 1)).noteNewer (pa / 64)) :=
    (paced_fillVdc ..).trans (paced_noteNewer ..)
  have hwrite : ∀ (u : State) (core line slot : Nat) (data : BitVec 512) (mask : BitVec 64), Paced u (u.writeVdc core line slot false data mask) :=
    fun _ _ _ _ _ _ => ⟨rfl, rfl, rfl, rfl⟩
  unfold State.vwrite
  simp only
  split_ifs
  · exact (storeWork_homeStoreNat ..).toHomeWork.paced
  · exact paced_mergeBytes ..
  · exact (hline.trans (hwrite ..)).trans (paced_collect ..)
  · exact hline.trans (hwrite ..)

theorem paced_coreHome (s : State) (line : Nat) : Paced s (s.coreHome line) := by
  unfold State.coreHome
  simp only
  exact (HomeWork.foldl (fun s h => homeWork_flushScalar s h _ _) _ s |>.trans (homeWork_flushVdc ..)).paced

theorem paced_vamoOne (s : State) (va pa pte n : Nat) (f : Nat → Nat) : Paced s (s.vamoOne va pa pte n f).1 := by
  have hhome : Paced s (if isPad pa then s else (s.coreHome (pa / 64)).noteNewer (pa / 64)) := by
    split_ifs
    · exact .refl s
    · exact (paced_coreHome ..).trans (paced_noteNewer ..)
  unfold State.vamoOne
  simp only
  generalize (if isPad pa then s else (s.coreHome (pa / 64)).noteNewer (pa / 64)) = u at hhome
  refine hhome.trans ?_
  split_ifs
  · exact (storeWork_homeStoreNat ..).toHomeWork.paced
  · exact ((paced_mergeBytes ..).trans (homeWork_patchVdc ..).paced).trans (paced_collect ..)
  · exact (paced_mergeBytes ..).trans (homeWork_patchVdc ..).paced

/-! ### Words of memory -/

section Words

variable (q : QEntry) (s : State)

theorem queue_put (e : Exec) (d w i v : Nat) : (e.put q d w i v).queue = e.queue := by rw [sameRest_put e q v]

theorem queue_tail (e : Exec) (d w n : Nat) : (e.tail q d w n).queue = e.queue := by
  have h : e.Within .all (e.tail q d w n) := within_tail fun _ _ => ⟨trivial, fun _ _ => trivial⟩
  rw [h.rest]

theorem paced_put (d w i v : Nat) : Paced s (s.ep fun e => e.put q d w i v) := paced_ep (queue_put ..)

/-- One element of a load. -/
def loadRound (pm d w : Nat) (addr : QEntry → Exec → Nat → Nat) (q : QEntry) (s : State) (i : Nat) : State :=
  if q.active s.hart.ep pm i then
    let va := addr q s.hart.ep i
    let x := resolve q.pages s.hart.coreId va
    let r := s.vread va x.1 x.2 (w / 8)
    r.1.ep (fun e => e.put q d w i r.2)
  else if q.iz then s.ep (fun e => e.put q d w i 0)
  else s

theorem runLoad_eq (pm d w : Nat) (addr : QEntry → Exec → Nat → Nat) (hi : Nat) : runLoad pm d w addr q hi s =
    if q.vl = 0 then s
    else
      let t := (q.todo hi).foldl (loadRound pm d w addr q) s
      if q.vl ≤ hi then t.ep (fun e => e.tail q d w e.g) else t := rfl

theorem paced_runLoad (pm d w : Nat) (addr : QEntry → Exec → Nat → Nat) (hi : Nat) : Paced s (runLoad pm d w addr q hi s) := by
  have hround : ∀ (s : State) (i : Nat), Paced s (loadRound pm d w addr q s i) := by
    intro s i
    unfold loadRound
    simp only
    split_ifs
    · exact (paced_vread ..).trans (paced_put ..)
    · exact paced_put ..
    · exact .refl s
  rw [runLoad_eq]
  simp only
  split_ifs
  · exact .refl s
  · exact (Paced.foldl hround _ s).trans (paced_ep (queue_tail ..))
  · exact Paced.foldl hround _ s

theorem paced_runStore (pm d w : Nat) (addr : QEntry → Exec → Nat → Nat) (hi : Nat) : Paced s (runStore pm d w addr q hi s) := by
  unfold runStore
  refine Paced.foldl (fun s i => ?_) _ s
  split_ifs
  · exact paced_vwrite ..
  · exact .refl s

/-- A field of a segment put into its register, of the bytes that are left. -/
def putField (a : Exec × Nat) (f : Nat × Nat × Nat) : Exec × Nat := (a.1.setElem f.1 f.2.2 f.2.1 (a.2 % 2 ^ f.2.2), a.2 / 2 ^ f.2.2)

theorem queue_fields (l : List (Nat × Nat × Nat)) (a : Exec × Nat) : (l.foldl putField a).1.queue = a.1.queue :=
  List.foldlRecOn (motive := fun b : Exec × Nat => b.1.queue = a.1.queue) l _ rfl fun b hb f _ => by
    have h := sameRest_setElem b.1 f.1 f.2.2 f.2.1 (b.2 % 2 ^ f.2.2)
    have hq : (b.1.setElem f.1 f.2.2 f.2.1 (b.2 % 2 ^ f.2.2)).queue = b.1.queue := by rw [h]
    exact hq.trans hb

theorem queue_zeroGroups (l : List Grp) (w vl : Nat) (e : Exec) : (l.foldl (fun e g => e.zeroFrom g.reg w g.size vl) e).queue = e.queue :=
  List.foldlRecOn (motive := fun b : Exec => b.queue = e.queue) l _ rfl fun b hb g _ => by
    have h : b.Within .all (b.zeroFrom g.reg w g.size vl) := within_zeroFrom fun _ _ => trivial
    have hq : (b.zeroFrom g.reg w g.size vl).queue = b.queue := by rw [h.rest]
    exact hq.trans hb

/-- One segment of a load. -/
def segRound (o : OpVSeg) (q : QEntry) (s : State) (i : Nat) : State :=
  if q.active s.hart.ep o.pm.val i then
    let va := addrSeg o q s.hart.ep i
    let x := resolve q.pages s.hart.coreId va
    let r := s.vread va x.1 x.2 (OpVSeg.bytes o)
    r.1.ep (fun e => ((OpVSeg.fields o e i).foldl putField (e, r.2)).1)
  else if q.iz && o.kind.val = 0 then s.ep (fun e => ((OpVSeg.fields o e i).foldl putField (e, 0)).1)
  else s

theorem opVlseg_run (o : OpVSeg) (hi : Nat) : (opVlseg o).run q hi s =
    if q.vl = 0 then s
    else
      let t := (List.range q.limit).foldl (segRound o q) s
      if q.tz && o.kind.val = 0 then
        t.ep (fun e => (OpVSeg.groups o e).foldl (fun e g => e.zeroFrom g.reg (sewBits o.ew) g.size q.vl) e)
      else t := rfl

theorem paced_vlseg (o : OpVSeg) (hi : Nat) : Paced s ((opVlseg o).run q hi s) := by
  have hround : ∀ (s : State) (i : Nat), Paced s (segRound o q s i) := by
    intro s i
    unfold segRound
    simp only
    split_ifs
    · exact (paced_vread ..).trans (paced_ep (queue_fields ..))
    · exact paced_ep (queue_fields ..)
    · exact .refl s
  rw [opVlseg_run]
  simp only
  split_ifs
  · exact .refl s
  · exact (Paced.foldl hround _ s).trans (paced_ep (queue_zeroGroups ..))
  · exact Paced.foldl hround _ s

theorem paced_vsseg (o : OpVSeg) (hi : Nat) : Paced s ((opVsseg o).run q hi s) := by
  unfold opVsseg
  simp only
  refine Paced.foldl (fun s i => ?_) _ s
  split_ifs
  · exact paced_vwrite ..
  · exact .refl s

/-- One active element of a VAMO, in a state that was `e` when the word began. -/
def vamoRound (o : OpVAmo) (q : QEntry) (e : Exec) (s : State) (x : Nat × Nat) : State :=
  let y := resolve q.pages s.hart.coreId x.2
  let r := s.vamoOne x.2 y.1 y.2 (sewBits o.ew / 8) (fun old => amoOp o.aop.val (sewBits o.ew / 8) old (e.elem o.d.val (sewBits o.ew) x.1))
  r.1.ep (fun e => e.put q o.d.val (sewBits o.ew) x.1 r.2)

/-- The order in which a VAMO takes its active elements. -/
def vamoOrder (o : OpVAmo) (q : QEntry) (hi : Nat) (s : State) : List (Nat × Nat) :=
  let act := ((q.todo hi).filter (q.active s.hart.ep o.pm.val)).map (fun i => (i, addrIndex o.s2.val q s.hart.ep i))
  let dev := fun (x : Nat × Nat) => Pte.cls (resolve q.pages s.hart.coreId x.2).2
  (act.filter (fun x => !dev x)).foldl (fun l x => insertByAddr x l) [] ++ act.filter dev

theorem opVamo_run (o : OpVAmo) (hi : Nat) : (opVamo o).run q hi s =
    if q.vl = 0 then s
    else
      let t := (vamoOrder o q hi s).foldl (vamoRound o q s.hart.ep) s
      let u := if q.iz then ((q.todo hi).filter (fun i => !q.active s.hart.ep o.pm.val i)).foldl
        (fun s i => s.ep (fun e => e.put q o.d.val (sewBits o.ew) i 0)) t else t
      if q.vl ≤ hi && q.vl ≤ q.limit then u.ep (fun e => e.tail q o.d.val (sewBits o.ew) e.g) else u := rfl

theorem paced_vamo (o : OpVAmo) (hi : Nat) : Paced s ((opVamo o).run q hi s) := by
  have hround := Paced.foldl (f := vamoRound o q s.hart.ep) (fun s x => (paced_vamoOne ..).trans (paced_put ..)) (vamoOrder o q hi s) s
  have hzero := fun t : State => Paced.foldl (f := fun s i => s.ep fun e => e.put q o.d.val (sewBits o.ew) i 0) (fun s i => paced_put q s _ _ _ _)
    ((q.todo hi).filter fun i => !q.active s.hart.ep o.pm.val i) t
  rw [opVamo_run]
  simp only
  split_ifs
  · exact .refl s
  · exact (hround.trans (hzero _)).trans (paced_ep (queue_tail ..))
  · exact hround.trans (paced_ep (queue_tail ..))
  · exact hround.trans (hzero _)
  · exact hround

/-- A draw moves neither half. -/
theorem paced_halves {e : Exec} {c : Scalar} (he : e.queue = s.hart.ep.queue) (hc : s.hart.sc.Drawn True c) : Paced s (s.halves e c) := by
  have h := hc.rest
  refine ⟨?_, ?_, ?_, he⟩
  · show c.x = _
    rw [h]
  · show c.pc = _
    rw [h]
  · show c.instret = _
    rw [h]

/-- The value of an element of MSTORE, with the scalar half after its draw. -/
def storeCell (o : OpMstore) (q : QEntry) (s : State) (p : Nat × Nat) : Scalar × Nat × Nat :=
  let r := s.hart.sc.laneDraw q.frm (1 + (16 * (p.2 / (128 * s.hart.ep.d)) + p.2 % 16))
  (r.1, (cvFmt o.cv).deliver q.nan q.frm r.2 (f32 (s.hart.ep.tile o.ts.val (q.rowBase + p.1) p.2)).real)

/-- One element of MSTORE. -/
def storeRound (o : OpMstore) (q : QEntry) (s : State) (p : Nat × Nat) : State :=
  let c := storeCell o q s p
  let t := s.halves (s.hart.ep.accrue c.2.2) c.1
  let va := tileAddr q.xs1 q.xs2 ((cvFmt o.cv).width / 8) p
  let x := resolve q.pages t.hart.coreId va
  t.vwrite va x.1 x.2 ((cvFmt o.cv).width / 8) c.2.1

theorem opMstore_run (o : OpMstore) (hi : Nat) : (opMstore o).run q hi s = (tileCells q.rows q.vl).foldl (storeRound o q) s := rfl

theorem paced_mstore (o : OpMstore) (hi : Nat) : Paced s ((opMstore o).run q hi s) := by
  have hround : ∀ (s : State) (p : Nat × Nat), Paced s (storeRound o q s p) := by
    intro s p
    have hd : s.hart.sc.Drawn True (storeCell o q s p).1 := drawn_laneDraw _ _ _ fun _ => trivial
    unfold storeRound
    generalize storeCell o q s p = c at hd
    have hh : Paced s (s.halves (s.hart.ep.accrue c.2.2) c.1) := paced_halves s rfl hd
    exact hh.trans (paced_vwrite ..)
  rw [opMstore_run]
  exact Paced.foldl hround _ s

/-- One element of MLOAD. -/
def loadCell (o : OpMvtot) (q : QEntry) (s : State) (p : Nat × Nat) : State :=
  let va := tileAddr q.xs1 q.xs2 ((cvFmt o.cv).width / 8) p
  let x := resolve q.pages s.hart.coreId va
  let r := s.vread va x.1 x.2 ((cvFmt o.cv).width / 8)
  let v := fp32.deliver 2 0 0 ((cvFmt o.cv).decode q.nan r.2).real
  r.1.ep (fun e => (e.setTile o.td.val (q.rowBase + p.1) p.2 v.1).accrue v.2)

theorem opMload_run (o : OpMvtot) (hi : Nat) : (opMload o).run q hi s = (tileCells q.rows q.vl).foldl (loadCell o q) s := rfl

theorem paced_mload (o : OpMvtot) (hi : Nat) : Paced s ((opMload o).run q hi s) := by
  have hcell : ∀ (e : Exec) (row k v fl : Nat), ((e.setTile o.td.val row k v).accrue fl).queue = e.queue := by
    intro e row k v fl
    have h := sameButTiles_setTile e o.td.val row k v
    show (e.setTile o.td.val row k v).queue = _
    rw [h]
  have hround : ∀ (s : State) (p : Nat × Nat), Paced s (loadCell o q s p) := by
    intro s p
    unfold loadCell
    simp only
    exact (paced_vread ..).trans (paced_ep (hcell _ _ _ _ _))
  rw [opMload_run]
  exact Paced.foldl hround _ s

end Words

/-- Performing an entry that holds a word moves neither the access processor nor the queue. -/
theorem paced_perform {q : QEntry} {i : Instr} (hword : q.word = .word i) (hi : Nat) (s : State) : Paced s (s.perform q hi) := by
  unfold State.perform
  rw [hword]
  simp only
  rcases hop : vopOf i with _ | op
  · exact .refl s
  · by_cases hmem : OffMemory i
    · exact ((form_of_vopOf hmem hop).within_all s q hi).paced
    · cases i
      case vld | vlds | vldx => obtain rfl := Option.some.inj hop; exact paced_runLoad ..
      case vst | vsts | vstx => obtain rfl := Option.some.inj hop; exact paced_runStore ..
      case vlseg => obtain rfl := Option.some.inj hop; exact paced_vlseg ..
      case vsseg => obtain rfl := Option.some.inj hop; exact paced_vsseg ..
      case vamo => obtain rfl := Option.some.inj hop; exact paced_vamo ..
      case mstore => obtain rfl := Option.some.inj hop; exact paced_mstore ..
      case mload => obtain rfl := Option.some.inj hop; exact paced_mload ..
      all_goals exact absurd ⟨rfl, rfl⟩ hmem

end Sys2Proof.Machine

/-! SUPPORT. Dispatch to a queue, and the turn of the execute processor (R126, R127, R133). -/

namespace Sys2Proof.Machine

/-! ### Dispatch (R126) -/

theorem owed_unbound {s : State} (h : s.hart.ep.bindings = []) (sh : Shape) : s.owed sh = .ok s [] [] := by
  rw [State.owed, h]
  rfl

theorem setAdvanced_unbound {s : State} (h : s.hart.ep.bindings = []) (sh : Shape) : s.setAdvanced sh [] = s := by
  show s.ep (fun e => { e with bindings := [] }) = s
  rw [← h]
  rfl

theorem epRoom_of_room {s : State} (h : Stated.room s) (q : QEntry) : s.epRoom [q] = true := by
  obtain ⟨h1, h2, h3⟩ := h
  have hone : ∀ p : QEntry → Bool, ([q].filter p).length ≤ 1 := fun p => List.length_filter_le p [q]
  have g1 := hone fun q => !q.isX
  have g2 := hone QEntry.isVm
  have g3 := hone QEntry.isX
  unfold State.epRoom
  simp only [List.filter_append, List.length_append, Bool.and_eq_true, decide_eq_true_eq]
  omega

theorem send_behind {s : State} (h : s.prompt = false) (q : QEntry) :
    s.send q = s.ep fun e => { e.takePi q with queue := e.queue ++ [q] } := by
  unfold State.send
  simp only [State.ep_prompt, h, Bool.false_eq_true, if_false]

theorem carries_entry (s : State) (i : Instr) (whole : Bool) : Stated.carries i s (s.entry i whole (Stated.xsOf i s).1 (Stated.xsOf i s).2) := by
  refine ⟨rfl, rfl, rfl, rfl, rfl, rfl, rfl, rfl, rfl, rfl, rfl, rfl, ?_, rfl⟩
  cases whole
  · exact .inr (entry_start s i _ _)
  · exact .inl rfl

/-- A word that issues on a hart whose execute processor runs behind joins the queue. -/
theorem exec_behind {i : Instr} {op : VOp} {s : State} (hp : Stated.performed i = true) (hop : vopOf i = some op)
    (hb : s.issueBad (op.shape s.hart.ep) = false) (hprompt : s.prompt = false) (hbind : s.hart.ep.bindings = []) (hroom : Stated.room s) :
    let q := s.entry i op.whole (Stated.xsOf i s).1 (Stated.xsOf i s).2
    exec i s = .next (s.ep fun e => { e.takePi q with queue := e.queue ++ [q] }).retire := by
  intro q
  rw [exec_performed hp hop, dispatch_of_none hb (epRoom_of_room hroom _) (owed_unbound hbind _), setAdvanced_unbound hbind, send_behind hprompt]

theorem dispatchedWordsJoinTheQueue : Stated.DispatchedWordsJoinTheQueue := by
  intro i s hp _ hprompt hbind hissues hroom
  obtain ⟨op, hop, hb⟩ := hissues
  refine ⟨s.entry i op.whole (Stated.xsOf i s).1 (Stated.xsOf i s).2, (s.hart.ep.takePi (s.entry i op.whole (Stated.xsOf i s).1 (Stated.xsOf i s).2)).gpi,
    carries_entry s i op.whole, List.filter_sublist, ?_⟩
  rw [exec_behind hp hop hb hprompt hbind hroom]
  rfl

/-! ### A turn (R133) -/

/-- The turn of the hart that executes, whose queue begins with a word. -/
theorem turn_eq {s : State} {q : QEntry} {rest : List QEntry} {i : Instr} (hq : s.hart.ep.queue = q :: rest) (hword : q.word = .word i)
    (hrun : s.hart.status = .running) (hunit : s.input.unit = s.hart.loc) (haddr : s.input.addr = 0) :
    exec .epInstructionComplete s = .next (s.advanceHead s.input.value) := by
  have hlive : (s.hart.status != .retired) = true := by rw [hrun]; rfl
  have hat : s.hartAt s.input.unit = some s.hart := by
    show (s.hart :: s.others).find? _ = _
    rw [List.find?_cons_of_pos]
    rw [hunit, hlive, beq_self_eq_true]
    rfl
  have hwork : s.hart.epWork = true := by
    unfold Hart.epWork Hart.headIs Hart.epLive
    simp only [hq, hword, hrun]
    rfl
  have hsame : ∀ f : State → State, s.asHart s.hart.loc f = f s := by
    intro f
    unfold State.asHart
    rw [hlive]
    simp
  show ofHart Hart.epWork (fun t => t.epTurn s.input.value s.input.addr) s = _
  unfold ofHart
  simp only [hat, hwork, if_true, hsame]
  unfold State.epTurn
  simp only [haddr, hq]
  rfl

theorem reach_ge (q : QEntry) (hi : Nat) : hi ≤ q.reach hi := Nat.le_add_right ..

theorem reach_of_done {q : QEntry} (h : q.done = []) (hi : Nat) : q.reach hi = hi := by
  have hnone : q.done.contains = fun _ => false := by
    funext j
    rw [h]
    rfl
  unfold QEntry.reach
  rw [hnone]
  cases range hi (q.vl - hi) <;> rfl

theorem vmem_underWay {q : QEntry} {i : Instr} (hword : q.word = .word i) (e : Exec) : (q.underWay e).vmem = q.vmem := by
  rw [underWay_word hword]
  rfl

section Turn

variable {s : State} {q : QEntry} {rest : List QEntry} {n : Nat} (hq : s.hart.ep.queue = q :: rest)

include hq

/-- A whole-result word, or one that reaches its end, is completed. -/
theorem advanceHead_complete (h : ¬(q.elementwise = true ∧ q.reach (q.start + n) < q.vl)) : s.advanceHead n = s.completeHead := by
  unfold State.advanceHead
  rw [hq]
  simp only [Bool.and_eq_true, decide_eq_true_eq]
  exact if_neg h

theorem completeHead_eq : s.completeHead = (s.ep fun e => { e with queue := rest }).perform q q.vl := by
  unfold State.completeHead
  rw [hq]

/-- An element-wise word that touches no memory stands at its new index. -/
theorem advanceHead_partway {i : Instr} (hword : q.word = .word i) (he : q.elementwise = true) (hm : q.vmem = none) (h : q.reach (q.start + n) < q.vl) :
    s.advanceHead n = (s.ep fun e => { e with queue := (q.underWay s.hart.ep).moveTo (q.reach (q.start + n)) :: rest }).perform
      (q.underWay s.hart.ep) (q.reach (q.start + n)) := by
  have hvm : (q.underWay s.hart.ep).vmem = none := (vmem_underWay hword _).trans hm
  unfold State.advanceHead
  rw [hq]
  simp only [he, h, decide_true, Bool.and_self, if_true, hvm]

theorem queue_completeHead {i : Instr} (hword : q.word = .word i) : s.completeHead.hart.ep.queue = rest := by
  rw [completeHead_eq hq]
  exact (paced_perform hword ..).queue

theorem paced_completeHead {i : Instr} (hword : q.word = .word i) :
    s.completeHead.hart.sc.x = s.hart.sc.x ∧ s.completeHead.hart.sc.pc = s.hart.sc.pc ∧ s.completeHead.hart.sc.instret = s.hart.sc.instret := by
  rw [completeHead_eq hq]
  have h := paced_perform hword q.vl (s.ep fun e => { e with queue := rest })
  exact ⟨h.x, h.pc, h.instret⟩

end Turn

/-- What a turn leaves of the access processor, and of the queue. -/
structure Turned (s t : State) (q : QEntry) (rest : List QEntry) (n : Nat) : Prop where
  x : t.hart.sc.x = s.hart.sc.x
  pc : t.hart.sc.pc = s.hart.sc.pc
  instret : t.hart.sc.instret = s.hart.sc.instret
  queue : t.hart.ep.queue = rest ∨ ∃ q', t.hart.ep.queue = q' :: rest ∧ q'.word = q.word ∧ q'.vl = q.vl ∧ q'.limit = q.limit ∧ q'.begun = true
    ∧ q.start + n ≤ q'.start

theorem turned_completeHead {s : State} {q : QEntry} {rest : List QEntry} {n : Nat} {i : Instr} (hq : s.hart.ep.queue = q :: rest)
    (hword : q.word = .word i) : Turned s s.completeHead q rest n := by
  obtain ⟨h1, h2, h3⟩ := paced_completeHead hq hword
  exact ⟨h1, h2, h3, .inl (queue_completeHead hq hword)⟩

/-- An entry put back at the head stands there, or is completed. -/
theorem turned_putHead {s u : State} {q q' : QEntry} {rest : List QEntry} {n : Nat} {i : Instr} (hp : Paced s u) (hword : q.word = .word i)
    (h : q'.word = q.word ∧ q'.vl = q.vl ∧ q'.limit = q.limit ∧ q'.begun = true ∧ q.start + n ≤ q'.start) : Turned s (u.putHead q' rest) q rest n := by
  obtain ⟨h1, h2, h3, h4, h5⟩ := h
  have hsettle : q'.settleStart.word = q.word ∧ q'.settleStart.vl = q.vl ∧ q'.settleStart.limit = q.limit ∧ q'.settleStart.begun = true
      ∧ q.start + n ≤ q'.settleStart.start := ⟨h1, h2, h3, h4, h5.trans (Nat.le_add_right ..)⟩
  unfold State.putHead
  simp only
  split_ifs
  · have ht := turned_completeHead (s := u.ep fun e => { e with queue := q'.settleStart :: rest }) (n := n) rfl (h1.trans hword)
    refine ⟨ht.x.trans hp.x, ht.pc.trans hp.pc, ht.instret.trans hp.instret, .inl ?_⟩
    exact queue_completeHead (s := u.ep fun e => { e with queue := q'.settleStart :: rest }) rfl (h1.trans hword)
  · exact ⟨hp.x, hp.pc, hp.instret, .inr ⟨_, rfl, hsettle⟩⟩

/-- A turn raises the start of the oldest word or takes the word from the queue. -/
theorem turned_advanceHead {s : State} {q : QEntry} {rest : List QEntry} {i : Instr} (hq : s.hart.ep.queue = q :: rest) (hword : q.word = .word i) (n : Nat) :
    Turned s (s.advanceHead n) q rest n := by
  by_cases h : q.elementwise = true ∧ q.reach (q.start + n) < q.vl
  · obtain ⟨he, hlt⟩ := h
    have hu : (q.underWay s.hart.ep).word = .word i ∧ (q.underWay s.hart.ep).vl = q.vl ∧ (q.underWay s.hart.ep).limit = q.limit
        ∧ (q.underWay s.hart.ep).begun = true := by
      rw [underWay_word hword]
      exact ⟨hword, rfl, rfl, rfl⟩
    obtain ⟨u1, u2, u3, u4⟩ := hu
    rcases hm : q.vmem with _ | m
    · rw [advanceHead_partway hq hword he hm hlt]
      have hp := paced_perform u1 (q.reach (q.start + n))
        (s.ep fun e => { e with queue := (q.underWay s.hart.ep).moveTo (q.reach (q.start + n)) :: rest })
      exact ⟨hp.x, hp.pc, hp.instret, .inr ⟨_, hp.queue, u1.trans hword.symm, u2, u3, u4, reach_ge ..⟩⟩
    · have hvm : (q.underWay s.hart.ep).vmem = some m := (vmem_underWay hword _).trans hm
      unfold State.advanceHead
      rw [hq]
      simp only [he, hlt, decide_true, Bool.and_self, if_true, hvm]
      exact turned_putHead (paced_perform (by exact u1) _ s) hword ⟨u1.trans hword.symm, u2, u3, u4, reach_ge ..⟩
  · rw [advanceHead_complete hq h]
    exact turned_completeHead hq hword

theorem theOldestWordIsPerformed : Stated.TheOldestWordIsPerformed := by
  intro s q rest i hq hword hrun _ hunit haddr
  have ht := turned_advanceHead hq hword s.input.value
  refine ⟨_, turn_eq hq hword hrun hunit haddr, ht.x, ht.pc, ht.instret, fun he hlt hm hdone => ?_, fun _ _ => ht.queue, fun hno => ?_⟩
  · have hr := reach_of_done hdone (q.start + s.input.value)
    have hu := underWay_word hword s.hart.ep
    rw [advanceHead_partway hq hword he (Option.isNone_iff_eq_none.1 hm) (by rwa [hr]), hr]
    refine ⟨(q.underWay s.hart.ep).pred, (paced_perform (by rw [hu]; exact hword) ..).queue.trans ?_⟩
    show (q.underWay s.hart.ep).moveTo _ :: rest = _
    rw [hu]
    unfold QEntry.moveTo
    simp only [hdone]
    rfl
  · rw [advanceHead_complete hq fun h => hno ⟨h.1, (reach_ge ..).trans_lt h.2⟩]
    exact queue_completeHead hq hword

end Sys2Proof.Machine

/-! SUPPORT. What the performed elements leave, whenever they are performed (R126, R127, R133). -/

namespace Sys2Proof.Machine

theorem perform_word {q : QEntry} {i : Instr} {op : VOp} (hword : q.word = .word i) (hop : vopOf i = some op) (hi : Nat) (s : State) :
    s.perform q hi = op.run q hi s := by
  unfold State.perform
  rw [hword]
  simp only [hop]

/-! ### A word that joins an empty queue -/

/-- What surrounds a word performed by the turn after its dispatch: it has retired, and the queue holds nothing else. -/
def afterRetire (input : Input) : Dress where
  sc c := { c with pc := c.pc + 4, instret := c.instret + 1, lend := c.lend &&& 0x7FFFFFFF#32, vstartArmed := false }
  queue _ := []
  waiting _ := false
  mwait _ := none
  prompt := false
  input := input

/-- What surrounds a word performed where it issues. -/
def atIssue (input : Input) : Dress where
  sc := id
  queue := id
  waiting := id
  mwait := id
  prompt := true
  input := input

theorem foreign_afterRetire (input : Input) : (afterRetire input).Foreign := ⟨fun _ => rfl, fun _ _ => rfl⟩
theorem foreign_atIssue (input : Input) : (atIssue input).Foreign := ⟨fun _ => rfl, fun _ _ => rfl⟩

/-- Retiring after a word or before it is the same. -/
theorem retire_dress {s : State} (h : s.hart.ep.queue = []) (input input' : Input) :
    (s.dress (atIssue input)).retire = { (s.dress (afterRetire input')) with prompt := true, input := input } := by
  have hq : s.hart.ep.requeue (fun _ => []) = s.hart.ep.requeue id := by
    unfold Exec.requeue
    rw [h]
    rfl
  have hep : (s.dress (afterRetire input')).hart.ep = (s.dress (atIssue input)).hart.ep := hq
  show _ = ({ (s.dress (afterRetire input')) with
    prompt := true, input := input, hart := { (s.dress (afterRetire input')).hart with ep := (s.dress (afterRetire input')).hart.ep } } : State)
  rw [hep]
  rfl

/-- The word in an empty queue completes at the next turn. -/
theorem turn_after_dispatch {i : Instr} {op : VOp} {s : State} {q : QEntry} (hop : vopOf i = some op) (hf : Form i op) (hword : q.word = .word i)
    (hvl : q.vl = s.hart.ep.vl) (hrun : s.hart.status = .running) (hprompt : s.prompt = false) (hempty : s.hart.ep.queue = []) (input : Input)
    (hunit : input.unit = s.hart.loc) (haddr : input.addr = 0) (hvalue : input.value = s.hart.ep.vl) :
    exec .epInstructionComplete { (s.ep fun e => { e.takePi q with queue := e.queue ++ [q] }).retire with input := input }
      = .next ((op.run q q.vl (s.taken q)).dress (afterRetire input)) := by
  have hqueue : s.hart.ep.queue ++ [q] = [q] := by rw [hempty]; rfl
  obtain ⟨a, ha⟩ : ∃ a, a = ({ (s.ep fun e => { e.takePi q with queue := e.queue ++ [q] }).retire with input := input } : State) := ⟨_, rfl⟩
  have hq : a.hart.ep.queue = [q] := by rw [ha]; exact hqueue
  have hstatus : a.hart.status = .running := by rw [ha]; exact hrun
  have hloc : a.input.unit = a.hart.loc := by rw [ha]; exact hunit
  have hzero : a.input.addr = 0 := by rw [ha]; exact haddr
  have hval : a.input.value = s.hart.ep.vl := by rw [ha]; exact hvalue
  have hback : (a.ep fun e => { e with queue := [] }) = (s.taken q).dress (afterRetire input) := by
    rw [ha]
    show _ = ({ (s.taken q).dress (afterRetire input) with prompt := false } : State)
    rw [← hprompt]
    rfl
  rw [← ha, turn_eq hq hword hstatus hloc hzero, advanceHead_complete hq fun h => ?_, completeHead_eq hq, perform_word hword hop, hback,
    hf.dress (foreign_afterRetire input)]
  have hge := reach_ge q (q.start + a.input.value)
  omega

theorem dispatchThenPerform {i : Instr} {s : State} (hp : Stated.performed i = true) (hctl : s.hart.ctl = false) (hrun : s.hart.status = .running)
    (hprompt : s.prompt = false) (hbind : s.hart.ep.bindings = []) (hempty : s.hart.ep.queue = []) (hissues : Stated.issues i s) :
    ∃ a t, exec i s = .next a ∧ exec .epInstructionComplete { a with input := ⟨s.hart.loc, 0, s.hart.ep.vl, []⟩ } = .next t
      ∧ exec i { s with prompt := true } = .next { t with prompt := true, input := s.input } := by
  obtain ⟨op, hop, hb⟩ := hissues
  obtain ⟨hmem, -⟩ := performed_cases hp
  have hf := form_of_vopOf hmem hop
  have hroom : Stated.room s := by
    refine ⟨?_, ?_, ?_⟩ <;> rw [hempty] <;> exact Nat.zero_lt_succ _
  obtain ⟨q, hqe⟩ : ∃ q, q = s.entry i op.whole (Stated.xsOf i s).1 (Stated.xsOf i s).2 := ⟨_, rfl⟩
  have hqw : q.word = .word i := by rw [hqe]; rfl
  have hqv : q.vl = s.hart.ep.vl := by rw [hqe]; rfl
  have hturn := turn_after_dispatch hop hf hqw hqv hrun hprompt hempty ⟨s.hart.loc, 0, s.hart.ep.vl, []⟩ rfl rfl rfl
  refine ⟨_, _, by rw [exec_behind hp hop hb hprompt hbind hroom, ← hqe], hturn, ?_⟩
  have hidle : Stated.idle { s with prompt := true } := ⟨hctl, hempty, hbind, rfl⟩
  have hsame : (op.run q q.vl (s.taken q)).hart.ep.queue = [] := (hf.within_all (s.taken q) q q.vl).paced.queue.trans hempty
  have hx : Stated.xsOf i { s with prompt := true } = Stated.xsOf i s := rfl
  have hentry : State.entry { s with prompt := true } i op.whole (Stated.xsOf i s).1 (Stated.xsOf i s).2 = q := hqe.symm
  have htaken : State.taken { s with prompt := true } q = (s.taken q).dress (atIssue s.input) := rfl
  rw [exec_performed hp hop, dispatch_idle _ _ hidle hop hb, hx, hentry, htaken, hf.dress (foreign_atIssue s.input)]
  show Host.Outcome.next ((op.run q s.hart.ep.vl (s.taken q)).dress (atIssue s.input)).retire = _
  rw [← hqv, retire_dress hsame]

/-! ### A word performed in two pieces -/

/-- Another queue and another input around a word. -/
def queued (prompt : Bool) (queue : List QEntry) (input : Input) : Dress where
  sc := id
  queue _ := queue
  waiting := id
  mwait := id
  prompt := prompt
  input := input

theorem foreign_queued (prompt : Bool) (queue : List QEntry) (input : Input) : (queued prompt queue input).Foreign := ⟨fun _ => rfl, fun _ _ => rfl⟩

theorem offMemory_of_elementwise {q : QEntry} (he : q.elementwise = true) (hm : q.vmem.isNone = true) :
    ∃ i op, q.word = .word i ∧ vopOf i = some op ∧ op.whole = false ∧ Form i op := by
  unfold QEntry.elementwise at he
  unfold QEntry.vmem at hm
  rcases hword : q.word with i | b | ⟨m, lo, n, tag⟩ <;> rw [hword] at he hm
  · simp only at he hm
    rcases hop : vopOf i with _ | op <;> rw [hop] at he
    · exact absurd he nofun
    · have hwhole : op.whole = false := by simpa using he
      refine ⟨i, op, rfl, hop, hwhole, form_of_vopOf ⟨?_, ?_⟩ hop⟩
      · cases i
        case vld | vlds | vldx | vlseg | vst | vsts | vstx | vsseg | vamo => exact absurd hm nofun
        all_goals rfl
      · cases i
        case mstore | mload =>
          obtain rfl := Option.some.inj hop
          exact absurd hwhole nofun
        all_goals rfl
  · exact absurd he nofun
  · exact absurd he nofun

/-- A turn that completes the oldest word, in a state that surrounds `s` otherwise. -/
theorem turn_completes {s : State} {q : QEntry} {rest : List QEntry} {i : Instr} {op : VOp} (hword : q.word = .word i) (hop : vopOf i = some op)
    (hf : Form i op) (hq : s.hart.ep.queue = q :: rest) (hrun : s.hart.status = .running) {n : Nat} (hn : q.vl ≤ n) :
    exec .epInstructionComplete { s with input := ⟨s.hart.loc, 0, n, []⟩ }
      = .next ((op.run q q.vl s).dress (queued s.prompt rest ⟨s.hart.loc, 0, n, []⟩)) := by
  obtain ⟨a, ha⟩ : ∃ a, a = ({ s with input := ⟨s.hart.loc, 0, n, []⟩ } : State) := ⟨_, rfl⟩
  have haq : a.hart.ep.queue = q :: rest := by rw [ha]; exact hq
  have hback : (a.ep fun e => { e with queue := rest }) = s.dress (queued s.prompt rest ⟨s.hart.loc, 0, n, []⟩) := by rw [ha]; rfl
  rw [← ha, turn_eq haq hword (by rw [ha]; exact hrun) (by rw [ha]) (by rw [ha]), advanceHead_complete haq fun h => ?_, completeHead_eq haq,
    perform_word hword hop, hback, hf.dress (foreign_queued ..)]
  have hge := reach_ge q (q.start + a.input.value)
  have hval : a.input.value = n := by rw [ha]
  omega

/-- A turn that leaves the oldest word partway. -/
theorem turn_partway {s : State} {q : QEntry} {rest : List QEntry} {i : Instr} {op : VOp} (hword : q.word = .word i) (hop : vopOf i = some op)
    (hf : Form i op) (hq : s.hart.ep.queue = q :: rest) (hrun : s.hart.status = .running) (he : q.elementwise = true) (hm : q.vmem = none)
    (hdone : q.done = []) {n : Nat} (hn : q.start + n < q.vl) :
    exec .epInstructionComplete { s with input := ⟨s.hart.loc, 0, n, []⟩ }
      = .next ((op.run (q.underWay s.hart.ep) (q.start + n) s).dress
          (queued s.prompt ((q.underWay s.hart.ep).moveTo (q.start + n) :: rest) ⟨s.hart.loc, 0, n, []⟩)) := by
  obtain ⟨a, ha⟩ : ∃ a, a = ({ s with input := ⟨s.hart.loc, 0, n, []⟩ } : State) := ⟨_, rfl⟩
  have haq : a.hart.ep.queue = q :: rest := by rw [ha]; exact hq
  have hval : a.input.value = n := by rw [ha]
  have hep : a.hart.ep = s.hart.ep := by rw [ha]
  have hr := reach_of_done hdone (q.start + n)
  have hback : (a.ep fun e => { e with queue := (q.underWay s.hart.ep).moveTo (q.start + n) :: rest })
      = s.dress (queued s.prompt ((q.underWay s.hart.ep).moveTo (q.start + n) :: rest) ⟨s.hart.loc, 0, n, []⟩) := by rw [ha]; rfl
  have huw : (q.underWay s.hart.ep).word = .word i := by rw [underWay_word hword]; exact hword
  rw [← ha, turn_eq haq hword (by rw [ha]; exact hrun) (by rw [ha]) (by rw [ha]), hval, advanceHead_partway haq hword he hm (by rwa [hr]), hr, hep,
    perform_word huw hop, hback, hf.dress (foreign_queued ..)]

theorem performInPieces {s : State} {q : QEntry} {rest : List QEntry} {n : Nat} (hq : s.hart.ep.queue = q :: rest) (he : q.elementwise = true)
    (hm : q.vmem.isNone = true) (hdone : q.done = []) (hrun : s.hart.status = .running) (hn : q.start + n < q.vl) :
    ∃ a t, exec .epInstructionComplete { s with input := ⟨s.hart.loc, 0, n, []⟩ } = .next a
      ∧ exec .epInstructionComplete { a with input := ⟨s.hart.loc, 0, q.vl, []⟩ } = .next t
      ∧ exec .epInstructionComplete { s with input := ⟨s.hart.loc, 0, q.vl, []⟩ } = .next t := by
  obtain ⟨i, op, hword, hop, hwhole, hf⟩ := offMemory_of_elementwise he hm
  have hfirst := turn_partway hword hop hf hq hrun he (Option.isNone_iff_eq_none.1 hm) hdone hn
  have hlast := turn_completes hword hop hf hq hrun le_rfl
  obtain ⟨q1, hq1⟩ : ∃ q1, q1 = (q.underWay s.hart.ep).moveTo (q.start + n) := ⟨_, rfl⟩
  have hw1 : q1.word = .word i ∧ q1.vl = q.vl := by
    rw [hq1, underWay_word hword]
    exact ⟨hword, rfl⟩
  have hpieces := hf.pieces (s := s) hwhole hword hdone (Nat.le_add_right q.start n) hn
  rw [← hq1] at hpieces hfirst
  have hw := hf.within_all s (q.underWay s.hart.ep) (q.start + n)
  generalize op.run (q.underWay s.hart.ep) (q.start + n) s = r at *
  have hstatus : r.hart.status = .running := by rw [hw.rest]; exact hrun
  have hloc : r.hart.loc = s.hart.loc := by rw [hw.rest]; rfl
  have hsecond := turn_completes (s := r.dress (queued s.prompt (q1 :: rest) ⟨s.hart.loc, 0, n, []⟩)) hw1.1 hop hf rfl hstatus hw1.2.le
  have hunit : (r.dress (queued s.prompt (q1 :: rest) ⟨s.hart.loc, 0, n, []⟩)).hart.loc = s.hart.loc := hloc
  rw [hunit] at hsecond
  refine ⟨_, _, hfirst, hsecond, ?_⟩
  rw [hlast, ← hpieces, hf.dress (foreign_queued ..), hw1.2]
  rfl

theorem performingInPiecesIsPerforming : Stated.PerformingInPiecesIsPerforming := by
  refine ⟨fun i s hp hctl hrun hprompt hbind hempty hissues => dispatchThenPerform hp hctl hrun hprompt hbind hempty hissues, ?_⟩
  intro s q rest n hq he hm hdone _ hrun hn
  exact performInPieces hq he hm hdone hrun hn

/-- Settles O25: performing a word does not see what surrounds it, and its loop can be cut at any element. -/
theorem dispatchAndPerformance : Obligations.DispatchAndPerformance :=
  ⟨dispatchedWordsJoinTheQueue, theOldestWordIsPerformed, performingInPiecesIsPerforming⟩

end Sys2Proof.Machine

/-! SUPPORT. A state whose lifetime histogram holds more than a counter can reach, on which a G word counts nothing (R200, R397). -/

namespace Sys2Proof.Machine

/-- An idle hart at VL = 0, on a die whose histogram says 2^64 of stage 0: a record is a number of no bound, and no statement of the G words' counters
excludes it. -/
def overfull : State := State.reset.withHart.updDie 0 fun d => { d with tel := [(0x1100, 2 ^ 64)] }

/-- A GORI2 in flag mode. -/
def flagGori2 : OpG := ⟨20, 2, 0, 1, 0, 1, 0⟩

/-- The word issues on the idle hart and delivers every element, of which there are none. -/
theorem overfull_issues : Stated.idle overfull ∧ overfull.issueBad ((opGori2 flagGori2).shape overfull.hart.ep) = false ∧ flagGori2.nf.val = 1 := by
  decide +kernel

/-- The hart has no element to perform, and its die's record is past 2^64 − 1. -/
theorem overfull_counts : overfull.hart.ep.vl = 0 ∧ overfull.hart.die = 0 ∧ telGet (overfull.die 0).tel 0x1100 = 2 ^ 64 := by decide +kernel

/-- A G word at VL = 0 performs nothing. -/
theorem geomOp_empty (k : GKind) (o : OpG) {q : QEntry} (hi : Nat) (s : State) (h : q.vl = 0) : (geomOp k o).run q hi s = s := by
  rw [geomOp_run, if_pos h]

/-- A flag-mode G word at VL = 0 that issues on an idle hart leaves the dies as they were. -/
theorem dies_of_empty {o : OpG} {s t : State} (hi : Stated.idle s) (hb : s.issueBad ((opGori2 o).shape s.hart.ep) = false) (hnf : o.nf.val = 1)
    (hvl : s.hart.ep.vl = 0) (ht : exec (.gori2 o) s = .next t) : t.dies = s.dies := by
  have hexec : exec (.gori2 o) s = dispatch (.gori2 o) (opGori2 o) 0 0 s := geomWord_flagMode hnf s
  have hrun : (opGori2 o).run (s.entry (.gori2 o) (opGori2 o).whole 0 0) s.hart.ep.vl (s.taken (s.entry (.gori2 o) (opGori2 o).whole 0 0))
      = s.taken (s.entry (.gori2 o) (opGori2 o).whole 0 0) := geomOp_empty _ _ _ _ hvl
  rw [hexec, dispatch_idle 0 0 hi rfl hb, hrun] at ht
  cases ht
  rfl

/-- Refutes O32: `resolutionsCounted` says of the histogram that it holds `min (old + n) (2^64 − 1)` afterwards, also where no element resolves. A
record that stands above 2^64 − 1 before the word, as no hypothesis forbids, stays as it is. -/
theorem not_geometricWords : ¬ Obligations.GeometricWords := by
  unfold Obligations.GeometricWords Stated.ResolutionsAreCounted
  rintro ⟨-, -, -, ⟨hcount, -⟩, -⟩
  obtain ⟨hidle, hb, hnf⟩ := overfull_issues
  obtain ⟨hvl, hdie, hold⟩ := overfull_counts
  obtain ⟨t, ht, htold⟩ := (hcount (.gori2, gori2K) (List.mem_cons_self ..) flagGori2 overfull hidle ⟨_, rfl, hb⟩).1 (.inl hnf)
  obtain ⟨-, htel⟩ := htold 0 (by norm_num)
  have hdies : t.die 0 = overfull.die 0 := by
    unfold State.die
    rw [dies_of_empty hidle hb hnf hvl ht]
  have hnone : Stated.resolved gori2K flagGori2 overfull overfull.hart.ep.vl = ∅ := by
    unfold Stated.resolved
    rw [hvl, Finset.range_zero, Finset.filter_empty]
  have hsame := htel (by rw [hdie]; norm_num)
  rw [hdie, hdies, hnone, Finset.filter_empty, Finset.card_empty] at hsame
  change telGet (overfull.die 0).tel 0x1100 = min (telGet (overfull.die 0).tel 0x1100 + 0) (2 ^ 64 - 1) at hsame
  rw [hold] at hsame
  exact absurd hsame (by norm_num)

end Sys2Proof.Machine
